-- ==== Sys2Proof/Word.lean ====
section
/-! DEFINITION. The word types of the KDT-9120 (00_scope R7, 01_thread_state R15) and their plainest arithmetic. -/

namespace Sys2Proof

/-- A 32-bit register value (R15). -/
abbrev Word := BitVec 32

/-- One byte of memory (R7). -/
abbrev Byte := BitVec 8

/-- A 64-bit address or instruction word (R13, R58). -/
abbrev DWord := BitVec 64

end Sys2Proof
end

