-- ==== Sys2Proof/Syntax.lean ====
section
/-! DEFINITION. The instructions and steps of the KDT-9120 as data: the operand types of
03_encoding R60-R74 and ONE inductive `Instr`, one constructor for each row of the opcode table.
Rows 0-246 are instruction words; rows 247-381 are the steps of units, of the firmware, of the host
and of the fabric (95_what_each_step_holds). -/

namespace Sys2Proof

/-- A source operand selector (R63). -/
inductive Src where
  | v (n : Fin 128)
  | o (n : Fin 16)
  | b (n : Fin 4)
  | zero
  | lane
  | width
  | slot
  | grp
  | team
  | litLo
  | litHi
  | vx (k : Fin 4) (d : Fin 8)
  | s (i : Fin 64)
  deriving DecidableEq, Repr

/-- A source of an F word with its dead bit (R19, R60). -/
structure SrcD where
  sel : Src
  dead : Bool
  deriving DecidableEq, Repr

/-- Source C of an F word (R64). -/
inductive SrcC where
  | o (n : Fin 16)
  | b (n : Fin 4)
  | zero
  | v (n : Fin 32)
  deriving DecidableEq, Repr

/-- A register destination (R65). -/
inductive Dst where
  | v (n : Fin 128)
  | o (n : Fin 16)
  | vx (k : Fin 4) (d : Fin 8)
  | latch
  deriving DecidableEq, Repr

/-- A capability selector (R66). -/
inductive CapSel where
  | w (n : Fin 32)
  | k (n : Fin 16)
  deriving DecidableEq, Repr

/-- A 64-bit source (R99): the even register 2n, zero, the whole literal, or the even scalar 2i of the window. -/
inductive PSrc where
  | v (n : Fin 64)
  | zero
  | lit
  | s (i : Fin 32)
  deriving DecidableEq, Repr

/-- A 64-bit source of an F word with its dead bit, which acts on both registers (R99). -/
structure PSrcD where
  sel : PSrc
  dead : Bool
  deriving DecidableEq, Repr

/-- A 64-bit destination of an F word (R99): the even register 2n, or the latches only. -/
inductive PDst where
  | v (n : Fin 64)
  | latch
  deriving DecidableEq, Repr

/-- A predicate code (R97). -/
inductive PCode where
  | pos (n : Fin 7)
  | always
  | neg (n : Fin 7)
  | never
  deriving DecidableEq, Repr

/-- A source of a P half (R70). -/
inductive PSel where
  | o (n : Fin 16)
  | b (n : Fin 4)
  | zero
  | lane
  | s (n : Fin 8)
  | v (n : Fin 32)
  deriving DecidableEq, Repr

/-- A destination of a P half (R70). -/
inductive PHDst where
  | o (n : Fin 16)
  | latch
  | v (n : Fin 32)
  deriving DecidableEq, Repr

/-- The operations of a P half: the integer table, then the FP table (R78). -/
inductive POp where
  | add | sub | mul | and | or | xor | andn | shl | shr | sar
  | minI32 | maxI32 | minN32 | maxN32 | mov | popc | clz | not | neg | absI32
  | fadd | fsub | fmul | fmin | fmax | fabs | fneg | fmov
  | hadd2Bf16 | hmul2Bf16 | hadd2F16 | hmul2F16
  deriving DecidableEq, Repr

/-- One half of a P word (R69). -/
structure PHalf where
  op : POp
  d : PHDst
  a : PSel
  b : PSel
  deriving DecidableEq, Repr

/-- Rounding modes (R41). -/
inductive RMode where
  | rne | rz | rd | ru | sr
  deriving DecidableEq, Repr

/-- The narrow formats of `pk` and `upk` (R40). -/
inductive NFmt where
  | bf16 | f16 | e4m3 | e5m2 | e3m2 | e2m3 | e2m1 | i8 | n8 | i4 | n4 | t2 | q16n
  deriving DecidableEq, Repr

/-- Integer comparison conditions (R112). -/
inductive Cond where
  | eq | ne | lt | le | gt | ge
  deriving DecidableEq, Repr

/-- FP32 comparison conditions (R113). -/
inductive FCond where
  | eq | ne | lt | le | gt | ge | equ | neo | ltu | leu | gtu | geu | num | nan
  deriving DecidableEq, Repr

/-- Scope codes 0-5 (R74, R311). -/
inductive Scope where
  | group | team | cluster | context | device | system
  deriving DecidableEq, Repr

/-- Ordering codes 0-4 (R74, R154). -/
inductive Order where
  | relaxed | acquire | release | acqRel | sequential
  deriving DecidableEq, Repr

/-- Hint codes (R74). -/
inductive Hint where
  | normal | streaming | keep | noL1
  deriving DecidableEq, Repr

/-- The misc field of a load (R74): a relaxed load has sign extension and a hint, an ordered one a scope. -/
inductive LdMod where
  | relaxed (sx : Bool) (h : Hint)
  | acquire (sc : Scope)
  | sequential (sc : Scope)
  deriving DecidableEq, Repr

/-- The orderings of a store (R74). -/
inductive StOrd where
  | relaxed | release | sequential
  deriving DecidableEq, Repr

/-- The control field of F, B and S words (R61), with the guard (R27): `pr` and `sf` are `none` for 7 and 15. -/
structure Ctl where
  pr : Option (Fin 7)
  st : Fin 8
  wm : BitVec 12
  sf : Option (Fin 12)
  deriving DecidableEq, Repr

/-- A control field that asks for nothing: no guard, stall 0, no wait, no flag. -/
def Ctl.none : Ctl := { pr := .none, st := 0, wm := 0, sf := .none }

/-- The destination of `sread` (R198): a thread register or a scalar of the window. -/
inductive SDst where
  | reg (d : Dst)
  | s (i : Fin 64)
  deriving DecidableEq, Repr

/-- Item and operand of `ctxcfg` (R354); `other` is an item number the table does not list. -/
inductive CtxItem where
  | ceil (x : Src)
  | fault (c : CapSel)
  | cset (c : CapSel)
  | cnt (n : Fin 8)
  | other (item : BitVec 6) (raw : BitVec 8)
  deriving DecidableEq, Repr

/-- The notification operand of `revoke` (R372). -/
inductive Notify where
  | none
  | event (c : CapSel)
  | endpoint (c : CapSel)
  deriving DecidableEq, Repr

/-- The destination of `tread` (R369). -/
inductive TDst where
  | reg (d : Dst)
  | cap (c : CapSel)
  deriving DecidableEq, Repr

/-- The operand of `twrite` (R369). -/
inductive TSrc where
  | reg (x : Src)
  | cap (c : CapSel)
  deriving DecidableEq, Repr

/-- A core by its die and logical position (R442, R443). -/
structure CoreId where
  die : Nat
  pos : Nat
  deriving DecidableEq, Repr

/-- The arguments of a step that is no instruction word: the machine holds them beside the step (95). Which
fields a step reads stands with its constructor. -/
structure EvArg where
  core : CoreId
  core2 : CoreId
  die : Nat
  g : Nat
  lane : Nat
  id : Nat
  n : Nat
  m : Nat
  addr : Nat
  len : Nat
  flag : Bool
  flag2 : Bool
  word : Word
  bytes : List Byte
  deriving DecidableEq, Repr

/-- The empty argument record. -/
def EvArg.none : EvArg :=
  { core := ⟨0, 0⟩, core2 := ⟨0, 0⟩, die := 0, g := 0, lane := 0, id := 0, n := 0, m := 0, addr := 0, len := 0,
    flag := false, flag2 := false, word := 0, bytes := [] }

/-- The instructions and steps of the part: one constructor for each row of the opcode table. -/
inductive Instr where
  /-- add (R93): Integer add modulo 2^32 in each visited lane. -/
  | add (d : Dst) (a : SrcD) (b : SrcD)
  /-- sub (R93): Integer subtract modulo 2^32 in each visited lane. -/
  | sub (d : Dst) (a : SrcD) (b : SrcD)
  /-- add.sat.i32 (R93): Signed saturating add. -/
  | addSatI32 (d : Dst) (a : SrcD) (b : SrcD)
  /-- sub.sat.i32 (R93): Signed saturating subtract. -/
  | subSatI32 (d : Dst) (a : SrcD) (b : SrcD)
  /-- mul (R93): Low 32 bits of the product. -/
  | mul (d : Dst) (a : SrcD) (b : SrcD)
  /-- mulhi.i32 (R93): High 32 bits of the signed product. -/
  | mulhiI32 (d : Dst) (a : SrcD) (b : SrcD)
  /-- mulhi.n32 (R93): High 32 bits of the unsigned product. -/
  | mulhiN32 (d : Dst) (a : SrcD) (b : SrcD)
  /-- mad (R93): Multiply-add modulo 2^32. -/
  | mad (d : Dst) (a : SrcD) (b : SrcD) (x : SrcC)
  /-- min.i32 (R93): Signed minimum. -/
  | minI32 (d : Dst) (a : SrcD) (b : SrcD)
  /-- min.n32 (R93): Unsigned minimum. -/
  | minN32 (d : Dst) (a : SrcD) (b : SrcD)
  /-- max.i32 (R93): Signed maximum. -/
  | maxI32 (d : Dst) (a : SrcD) (b : SrcD)
  /-- max.n32 (R93): Unsigned maximum. -/
  | maxN32 (d : Dst) (a : SrcD) (b : SrcD)
  /-- abs.i32 (R93): Signed absolute value modulo 2^32. -/
  | absI32 (d : Dst) (a : SrcD)
  /-- neg (R93): Two's complement negation. -/
  | neg (d : Dst) (a : SrcD)
  /-- and (R93): Bitwise AND. -/
  | and (d : Dst) (a : SrcD) (b : SrcD)
  /-- or (R93): Bitwise OR. -/
  | or (d : Dst) (a : SrcD) (b : SrcD)
  /-- xor (R93): Bitwise XOR. -/
  | xor (d : Dst) (a : SrcD) (b : SrcD)
  /-- andn (R93): a AND NOT b. -/
  | andn (d : Dst) (a : SrcD) (b : SrcD)
  /-- not (R93): Bitwise NOT. -/
  | not (d : Dst) (a : SrcD)
  /-- shl (R93): Logical left shift, zero for amounts of 32 or more. -/
  | shl (d : Dst) (a : SrcD) (b : SrcD)
  /-- shr (R93): Logical right shift. -/
  | shr (d : Dst) (a : SrcD) (b : SrcD)
  /-- sar (R93): Arithmetic right shift. -/
  | sar (d : Dst) (a : SrcD) (b : SrcD)
  /-- rotl (R93): Rotate left by b mod 32. -/
  | rotl (d : Dst) (a : SrcD) (b : SrcD)
  /-- popc (R93): Population count. -/
  | popc (d : Dst) (a : SrcD)
  /-- clz (R93): Count leading zeros. -/
  | clz (d : Dst) (a : SrcD)
  /-- brev (R93): Bit reversal. -/
  | brev (d : Dst) (a : SrcD)
  /-- bfe.n32 (R94): Unsigned bit-field extract. -/
  | bfeN32 (d : Dst) (a : SrcD) (b : SrcD)
  /-- bfe.i32 (R94): Signed bit-field extract. -/
  | bfeI32 (d : Dst) (a : SrcD) (b : SrcD)
  /-- bfi (R95): Bit-field insert of a into c. -/
  | bfi (d : Dst) (a : SrcD) (b : SrcD) (x : SrcC)
  /-- bsel (R96): Byte selection from an 8-byte pool with zero and fill controls. -/
  | bsel (d : Dst) (a : SrcD) (b : SrcD) (x : SrcC)
  /-- sel (R97): Select a or b by a predicate code. -/
  | sel (d : Dst) (a : SrcD) (b : SrcD) (q : PCode)
  /-- mov (R93): Copy a source to the destination. -/
  | mov (d : Dst) (a : SrcD)
  /-- add64 (R100): 64-bit pair add. -/
  | add64 (d : PDst) (a : PSrcD) (b : PSrcD)
  /-- sub64 (R100): 64-bit pair subtract. -/
  | sub64 (d : PDst) (a : PSrcD) (b : PSrcD)
  /-- mul64 (R100): 64-bit pair multiply, low 64 bits. -/
  | mul64 (d : PDst) (a : PSrcD) (b : PSrcD)
  /-- shl64 (R100): 64-bit left shift. -/
  | shl64 (d : PDst) (a : PSrcD) (n : SrcD)
  /-- srl64 (R100): 64-bit logical right shift. -/
  | srl64 (d : PDst) (a : PSrcD) (n : SrcD)
  /-- sra64 (R100): 64-bit arithmetic right shift. -/
  | sra64 (d : PDst) (a : PSrcD) (n : SrcD)
  /-- div.i32 (R98): Signed truncating division, a Long-class word. -/
  | divI32 (d : Dst) (a : SrcD) (b : SrcD)
  /-- div.n32 (R98): Unsigned division, a Long-class word. -/
  | divN32 (d : Dst) (a : SrcD) (b : SrcD)
  /-- rem.i32 (R98): Signed remainder, a Long-class word. -/
  | remI32 (d : Dst) (a : SrcD) (b : SrcD)
  /-- rem.n32 (R98): Unsigned remainder, a Long-class word. -/
  | remN32 (d : Dst) (a : SrcD) (b : SrcD)
  /-- fadd (R102): FP32 add under the selected rounding mode. -/
  | fadd (d : Dst) (a : SrcD) (b : SrcD) (m : RMode)
  /-- fsub (R102): FP32 subtract. -/
  | fsub (d : Dst) (a : SrcD) (b : SrcD) (m : RMode)
  /-- fmul (R102): FP32 multiply. -/
  | fmul (d : Dst) (a : SrcD) (b : SrcD) (m : RMode)
  /-- ffma (R102): FP32 fused multiply-add with one RNE rounding. -/
  | ffma (d : Dst) (a : SrcD) (b : SrcD) (x : SrcC)
  /-- fmin (R102): minimumNumber of two FP32 values. -/
  | fmin (d : Dst) (a : SrcD) (b : SrcD)
  /-- fmax (R102): maximumNumber of two FP32 values. -/
  | fmax (d : Dst) (a : SrcD) (b : SrcD)
  /-- fminp (R102): NaN-propagating minimum. -/
  | fminp (d : Dst) (a : SrcD) (b : SrcD)
  /-- fmaxp (R102): NaN-propagating maximum. -/
  | fmaxp (d : Dst) (a : SrcD) (b : SrcD)
  /-- fabs (R102): Clear the sign bit. -/
  | fabs (d : Dst) (a : SrcD)
  /-- fneg (R102): Invert the sign bit. -/
  | fneg (d : Dst) (a : SrcD)
  /-- fcopysign (R102): Magnitude of a with the sign of b. -/
  | fcopysign (d : Dst) (a : SrcD) (b : SrcD)
  /-- frnd (R102): Round to an integral FP32 value. -/
  | frnd (d : Dst) (a : SrcD) (m : RMode)
  /-- fscale (R102): Multiply by 2 to an integer power with one rounding. -/
  | fscale (d : Dst) (a : SrcD) (b : SrcD) (m : RMode)
  /-- fgetexp (R102): Exact floor of log2 of the magnitude. -/
  | fgetexp (d : Dst) (a : SrcD)
  /-- fgetman (R102): Exact mantissa scaled into [1,2). -/
  | fgetman (d : Dst) (a : SrcD)
  /-- fdiv (R103): Correctly rounded FP32 division, Long class. -/
  | fdiv (d : Dst) (a : SrcD) (b : SrcD)
  /-- frcp (R103): Correctly rounded reciprocal. -/
  | frcp (d : Dst) (a : SrcD)
  /-- frsq (R103): Correctly rounded reciprocal square root. -/
  | frsq (d : Dst) (a : SrcD)
  /-- fsqrt (R103): Correctly rounded square root. -/
  | fsqrt (d : Dst) (a : SrcD)
  /-- fexp2 (R103): Correctly rounded 2^a. -/
  | fexp2 (d : Dst) (a : SrcD)
  /-- flog2 (R103): Correctly rounded log2 a. -/
  | flog2 (d : Dst) (a : SrcD)
  /-- fsin (R103): Correctly rounded sine. -/
  | fsin (d : Dst) (a : SrcD)
  /-- fcos (R103): Correctly rounded cosine. -/
  | fcos (d : Dst) (a : SrcD)
  /-- hadd2.bf16 (R105): Packed BF16 add. -/
  | hadd2Bf16 (d : Dst) (a : SrcD) (b : SrcD)
  /-- hmul2.bf16 (R105): Packed BF16 multiply. -/
  | hmul2Bf16 (d : Dst) (a : SrcD) (b : SrcD)
  /-- hfma2.bf16 (R105): Packed BF16 fused multiply-add. -/
  | hfma2Bf16 (d : Dst) (a : SrcD) (b : SrcD) (x : SrcC)
  /-- hadd2.f16 (R105): Packed FP16 add. -/
  | hadd2F16 (d : Dst) (a : SrcD) (b : SrcD)
  /-- hmul2.f16 (R105): Packed FP16 multiply. -/
  | hmul2F16 (d : Dst) (a : SrcD) (b : SrcD)
  /-- hfma2.f16 (R105): Packed FP16 fused multiply-add. -/
  | hfma2F16 (d : Dst) (a : SrcD) (b : SrcD) (x : SrcC)
  /-- hdot2.bf16 (R106): Two-element BF16 dot product plus FP32, one rounding. -/
  | hdot2Bf16 (d : Dst) (a : SrcD) (b : SrcD) (x : SrcC)
  /-- hdot2.f16 (R106): Two-element FP16 dot product plus FP32, one rounding. -/
  | hdot2F16 (d : Dst) (a : SrcD) (b : SrcD) (x : SrcC)
  /-- pk (R107): Convert FP32 to a narrow code and insert it into one field. -/
  | pk (d : Dst) (a : SrcD) (f : NFmt) (slot : Fin 8) (sat : Bool) (m : RMode)
  /-- upk (R108): Convert one narrow field to FP32 exactly. -/
  | upk (d : Dst) (a : SrcD) (f : NFmt) (slot : Fin 8)
  /-- cvt.f32.i32 (R109): Signed integer to FP32. -/
  | cvtF32I32 (d : Dst) (a : SrcD) (m : RMode)
  /-- cvt.f32.n32 (R109): Unsigned integer to FP32. -/
  | cvtF32N32 (d : Dst) (a : SrcD) (m : RMode)
  /-- cvt.i32.f32 (R110): FP32 to signed integer. -/
  | cvtI32F32 (d : Dst) (a : SrcD) (sat : Bool) (m : RMode)
  /-- cvt.n32.f32 (R110): FP32 to unsigned integer. -/
  | cvtN32F32 (d : Dst) (a : SrcD) (sat : Bool) (m : RMode)
  /-- setp.i32 (R112): Signed 32-bit compare into a predicate. -/
  | setpI32 (p : Fin 7) (a : SrcD) (b : SrcD) (q : Cond)
  /-- setp.n32 (R112): Unsigned 32-bit compare into a predicate. -/
  | setpN32 (p : Fin 7) (a : SrcD) (b : SrcD) (q : Cond)
  /-- setp.f32 (R113): FP32 compare into a predicate. -/
  | setpF32 (p : Fin 7) (a : SrcD) (b : SrcD) (q : FCond)
  /-- setp.i64 (R112): Signed 64-bit compare into a predicate. -/
  | setpI64 (p : Fin 7) (a : PSrcD) (b : PSrcD) (q : Cond)
  /-- setp.n64 (R112): Unsigned 64-bit compare into a predicate. -/
  | setpN64 (p : Fin 7) (a : PSrcD) (b : PSrcD) (q : Cond)
  /-- pand (R114): AND of two predicate codes. -/
  | pand (p : Fin 7) (q1 : PCode) (q2 : PCode)
  /-- por (R114): OR of two predicate codes. -/
  | por (p : Fin 7) (q1 : PCode) (q2 : PCode)
  /-- pxor (R114): XOR of two predicate codes. -/
  | pxor (p : Fin 7) (q1 : PCode) (q2 : PCode)
  /-- pnot (R114): NOT of a predicate code. -/
  | pnot (p : Fin 7) (q1 : PCode)
  /-- v2p (R115): Write masked predicates from register bits. -/
  | v2p (m : BitVec 7) (a : SrcD)
  /-- p2v (R115): Write the predicates into a register. -/
  | p2v (d : Dst)
  /-- lx.at (R188): Read a value from an absolute position in the segment. -/
  | lxAt (d : Dst) (a : SrcD) (j : SrcD) (g : Fin 7)
  /-- lx.shift (R188): Read a value shifted by a signed distance in the segment. -/
  | lxShift (d : Dst) (a : SrcD) (j : SrcD) (g : Fin 7)
  /-- lx.rot (R188): Rotate values within the segment. -/
  | lxRot (d : Dst) (a : SrcD) (j : SrcD) (g : Fin 7)
  /-- lx.flip (R188): Exchange values by XOR of positions. -/
  | lxFlip (d : Dst) (a : SrcD) (j : SrcD) (g : Fin 7)
  /-- poll.any (R189): Predicate true if any participant's code is true. -/
  | pollAny (p : Fin 7) (q : PCode) (g : Fin 7)
  /-- poll.all (R189): Predicate true if all participants' codes are true. -/
  | pollAll (p : Fin 7) (q : PCode) (g : Fin 7)
  /-- poll.mask (R190): Mask of participants whose code is true. -/
  | pollMask (d : Dst) (q : PCode) (g : Fin 7)
  /-- peers (R190): Mask of participants holding an equal value. -/
  | peers (d : Dst) (a : SrcD) (g : Fin 7)
  /-- red.add.i32 (R191): Segment integer sum reduction. -/
  | redAddI32 (d : Dst) (a : SrcD) (g : Fin 7)
  /-- red.add.f32 (R191): Segment FP32 sum reduction in a fixed tree. -/
  | redAddF32 (d : Dst) (a : SrcD) (g : Fin 7)
  /-- red.min.i32 (R191): Segment signed minimum. -/
  | redMinI32 (d : Dst) (a : SrcD) (g : Fin 7)
  /-- red.max.i32 (R191): Segment signed maximum. -/
  | redMaxI32 (d : Dst) (a : SrcD) (g : Fin 7)
  /-- red.min.f32 (R191): Segment FP32 minimum. -/
  | redMinF32 (d : Dst) (a : SrcD) (g : Fin 7)
  /-- red.max.f32 (R191): Segment FP32 maximum. -/
  | redMaxF32 (d : Dst) (a : SrcD) (g : Fin 7)
  /-- red.and (R191): Segment bitwise AND. -/
  | redAnd (d : Dst) (a : SrcD) (g : Fin 7)
  /-- red.or (R191): Segment bitwise OR. -/
  | redOr (d : Dst) (a : SrcD) (g : Fin 7)
  /-- red.xor (R191): Segment bitwise XOR. -/
  | redXor (d : Dst) (a : SrcD) (g : Fin 7)
  /-- scan.add.i32 (R192): Inclusive integer prefix sum. -/
  | scanAddI32 (d : Dst) (a : SrcD) (g : Fin 7)
  /-- scan.add.i32.x (R192): Exclusive integer prefix sum. -/
  | scanAddI32X (d : Dst) (a : SrcD) (g : Fin 7)
  /-- scan.add.f32 (R192): Inclusive FP32 prefix sum. -/
  | scanAddF32 (d : Dst) (a : SrcD) (g : Fin 7)
  /-- bcast (R189): Broadcast the lowest participant's value. -/
  | bcast (d : Dst) (a : SrcD) (g : Fin 7)
  /-- elect (R189): Predicate true in the lowest participant only. -/
  | elect (p : Fin 7) (g : Fin 7)
  /-- sample (R193): Categorical draw of a participant by weights. -/
  | sample (d : Dst) (a : SrcD) (j : SrcD) (g : Fin 7)
  /-- || (R69): Issue two restricted halves together as one P word. -/
  | pairedWord (fp : Bool) (h1 : PHalf) (h2 : PHalf)
  /-- bra (R116): Relative branch per visited lane. -/
  | bra (off : BitVec 32) (h : Fin 3)
  /-- call (R117): Relative call writing the link capability to w1. -/
  | call (off : BitVec 32) (h : Fin 3)
  /-- ld.b8 (R144): Load one byte, zero- or sign-extended. -/
  | ldB8 (d : Dst) (b : CapSel) (off : Src) (m : LdMod)
  /-- ld.b16 (R144): Load two bytes. -/
  | ldB16 (d : Dst) (b : CapSel) (off : Src) (m : LdMod)
  /-- ld.b32 (R144): Load four bytes. -/
  | ldB32 (d : Dst) (b : CapSel) (off : Src) (m : LdMod)
  /-- ld.b64 (R144): Load eight bytes into a pair. -/
  | ldB64 (d : Fin 64) (b : CapSel) (off : Src) (m : LdMod)
  /-- ld.b128 (R144): Load sixteen bytes into a quad, tag cleared. -/
  | ldB128 (d : Fin 32) (b : CapSel) (off : Src) (m : LdMod)
  /-- ldc (R146): Load a capability with its tag under LDC and the filter. -/
  | ldc (d : CapSel) (b : CapSel) (off : Src) (m : LdMod)
  /-- st.b8 (R147): Store one byte. -/
  | stB8 (a : Src) (b : CapSel) (off : Src) (sc : Scope) (o : StOrd)
  /-- st.b16 (R147): Store two bytes. -/
  | stB16 (a : Src) (b : CapSel) (off : Src) (sc : Scope) (o : StOrd)
  /-- st.b32 (R147): Store four bytes. -/
  | stB32 (a : Src) (b : CapSel) (off : Src) (sc : Scope) (o : StOrd)
  /-- st.b64 (R147): Store eight bytes from a pair. -/
  | stB64 (a : PSrc) (b : CapSel) (off : Src) (sc : Scope) (o : StOrd)
  /-- st.b128 (R147): Store sixteen bytes from a quad. -/
  | stB128 (a : Fin 32) (b : CapSel) (off : Src) (sc : Scope) (o : StOrd)
  /-- stc (R148): Store a capability with its tag. -/
  | stc (a : CapSel) (b : CapSel) (off : Src) (sc : Scope) (o : StOrd)
  /-- atom.add (R151): Atomic 32-bit add. -/
  | atomAdd (d : Option Dst) (b : CapSel) (x : Src) (sc : Scope) (o : Order)
  /-- atom.min.i32 (R151): Atomic signed minimum. -/
  | atomMinI32 (d : Option Dst) (b : CapSel) (x : Src) (sc : Scope) (o : Order)
  /-- atom.min.n32 (R151): Atomic unsigned minimum. -/
  | atomMinN32 (d : Option Dst) (b : CapSel) (x : Src) (sc : Scope) (o : Order)
  /-- atom.max.i32 (R151): Atomic signed maximum. -/
  | atomMaxI32 (d : Option Dst) (b : CapSel) (x : Src) (sc : Scope) (o : Order)
  /-- atom.max.n32 (R151): Atomic unsigned maximum. -/
  | atomMaxN32 (d : Option Dst) (b : CapSel) (x : Src) (sc : Scope) (o : Order)
  /-- atom.and (R151): Atomic AND. -/
  | atomAnd (d : Option Dst) (b : CapSel) (x : Src) (sc : Scope) (o : Order)
  /-- atom.or (R151): Atomic OR. -/
  | atomOr (d : Option Dst) (b : CapSel) (x : Src) (sc : Scope) (o : Order)
  /-- atom.xor (R151): Atomic XOR. -/
  | atomXor (d : Option Dst) (b : CapSel) (x : Src) (sc : Scope) (o : Order)
  /-- atom.xchg (R151): Atomic exchange. -/
  | atomXchg (d : Option Dst) (b : CapSel) (x : Src) (sc : Scope) (o : Order)
  /-- atom.cas (R151): Atomic 32-bit compare-and-swap. -/
  | atomCas (d : Option Dst) (b : CapSel) (x : Fin 64) (sc : Scope) (o : Order)
  /-- atom.add64 (R151): Atomic 64-bit add. -/
  | atomAdd64 (d : Option (Fin 64)) (b : CapSel) (x : PSrc) (sc : Scope) (o : Order)
  /-- atom.cas64 (R151): Atomic 64-bit compare-and-swap. -/
  | atomCas64 (d : Option (Fin 64)) (b : CapSel) (x : Fin 32) (sc : Scope) (o : Order)
  /-- atom.cas128 (R151): Atomic 128-bit compare-and-swap of data bits. -/
  | atomCas128 (d : Option (Fin 32)) (b : CapSel) (x : Fin 16) (sc : Scope) (o : Order)
  /-- atom.fadd.f32 (R151): Atomic FP32 add with RNE. -/
  | atomFaddF32 (d : Option Dst) (b : CapSel) (x : Src) (sc : Scope) (o : Order)
  /-- fence (R155): Order the thread's earlier accesses against later ones at a scope. -/
  | fence (sc : Scope) (o : Order)
  /-- waitne (R157): Load a word and park while it equals the comparand. -/
  | waitne (a : Src) (b : CapSel) (off : Src) (sc : Scope) (acq : Bool)
  /-- prefetch (R158): Hint a line toward L1 or L2; failing checks drop it. -/
  | prefetch (b : CapSel) (off : Src) (h : Hint)
  /-- cap.addr (R132): Read a capability's address. -/
  | capAddr (d : Fin 64) (b : CapSel)
  /-- cap.base (R132): Read a capability's decoded base. -/
  | capBase (d : Fin 64) (b : CapSel)
  /-- cap.len (R132): Read a capability's length. -/
  | capLen (d : Fin 64) (b : CapSel)
  /-- cap.perm (R132): Read perms and space. -/
  | capPerm (d : Dst) (b : CapSel)
  /-- cap.type (R132): Read otype. -/
  | capType (d : Dst) (b : CapSel)
  /-- cap.tag (R132): Read the tag. -/
  | capTag (d : Dst) (b : CapSel)
  /-- cap.seta (R133): Set the address, clearing the tag if unrepresentable. -/
  | capSeta (d : CapSel) (b : CapSel) (x : PSrc)
  /-- cap.add (R133): Add to the address, clearing the tag if unrepresentable. -/
  | capAdd (d : CapSel) (b : CapSel) (x : PSrc)
  /-- cap.bound (R134): Narrow bounds with rounding. -/
  | capBound (d : CapSel) (b : CapSel) (x : PSrc)
  /-- cap.boundx (R134): Narrow bounds exactly or raise CAPREP. -/
  | capBoundx (d : CapSel) (b : CapSel) (x : PSrc)
  /-- cap.mask (R136): AND the permissions with a mask. -/
  | capMask (d : CapSel) (b : CapSel) (m : Src)
  /-- cap.seal (R137): Seal with a user type. -/
  | capSeal (d : CapSel) (b : CapSel) (x : CapSel)
  /-- cap.unseal (R138): Unseal with US authority. -/
  | capUnseal (d : CapSel) (b : CapSel) (x : CapSel)
  /-- cap.untag (R139): Copy with the tag cleared. -/
  | capUntag (d : CapSel) (b : CapSel)
  /-- cap.mov (R139): Copy a capability with its tag. -/
  | capMov (d : CapSel) (b : CapSel)
  /-- cap.diff (R139): Difference of two addresses. -/
  | capDiff (d : Fin 64) (b : CapSel) (x : CapSel)
  /-- cap.within (R139): Predicate true if C2 lies within C1. -/
  | capWithin (p : Fin 7) (b : CapSel) (x : CapSel)
  /-- cap.rlen (R135): Representable rounded length. -/
  | capRlen (d : Fin 64) (x : PSrc)
  /-- cap.amask (R135): Alignment mask for a length. -/
  | capAmask (d : Fin 64) (x : PSrc)
  /-- cap.mint (R140): Tag a bit pattern covered by an authorising capability. -/
  | capMint (d : CapSel) (b : CapSel) (x : CapSel)
  /-- cap.same (R139): Predicate true if bits and tags are identical. -/
  | capSame (p : Fin 7) (b : CapSel) (x : CapSel)
  /-- cpin (R211): Copy command from global memory into scratchpad. -/
  | cpin (a : CapSel) (b : CapSel) (x : PSrc) (sc : Scope) (tm : Bool)
  /-- cpout (R211): Copy command from scratchpad to global memory. -/
  | cpout (a : CapSel) (b : CapSel) (x : PSrc) (sc : Scope) (tm : Bool)
  /-- cpx (R211): Copy command between scratchpads. -/
  | cpx (a : CapSel) (b : CapSel) (x : PSrc) (sc : Scope) (tm : Bool)
  /-- cpfill (R211): Fill command writing a 32-bit pattern. -/
  | cpfill (a : CapSel) (v : Src) (x : PSrc) (sc : Scope)
  /-- waitown (R215): Park until granules return to thread ownership. -/
  | waitown (a : Src) (b : CapSel) (off : Src)
  /-- waitgen (R216): Park until an arrival word reaches a generation. -/
  | waitgen (a : Src) (b : CapSel) (off : Src)
  /-- arrset (R214): Prepare an arrival word with a target. -/
  | arrset (a : Src) (b : CapSel) (off : Src)
  /-- ocfill (R201): Copy main registers into operand-cache entries. -/
  | ocfill (o : Fin 16) (v : Fin 128) (n : Fin 17)
  /-- ocspill (R202): Copy operand-cache entries into main registers. -/
  | ocspill (v : Fin 128) (o : Fin 16) (n : Fin 17)
  /-- carve (R204): Arrive at a barrier requesting a new array division. -/
  | carve (p : Fin 7) (x : Src) (n : Fin 8)
  /-- tbar (R203): Arrive and park at a team barrier. -/
  | tbar (n : Fin 8)
  /-- rbar.init (R206): Arm a convergence register. -/
  | rbarInit (n : Fin 8)
  /-- rbar.wait (R207): Arrive and park on a convergence register. -/
  | rbarWait (n : Fin 8)
  /-- swin (R197): Set the group's scalar window. -/
  | swin (x : Src)
  /-- sread (R198): Read a special register. -/
  | sread (d : SDst) (n : Fin 16)
  /-- swrite (R198): Write %fps. -/
  | swrite (x : Src)
  /-- rndc (R200): Land 32 random bits per lane. -/
  | rndc (d : Dst)
  /-- yield (R217): Mark a yield point and read its liveness block. -/
  | yield (step : BitVec 16)
  /-- xset (R199): Write an index register. -/
  | xset (k : Fin 4) (x : Src)
  /-- sadd (R195): Scalar add. -/
  | sadd (d : Fin 64) (x : Src) (y : Src)
  /-- ssub (R195): Scalar subtract. -/
  | ssub (d : Fin 64) (x : Src) (y : Src)
  /-- smul (R195): Scalar multiply. -/
  | smul (d : Fin 64) (x : Src) (y : Src)
  /-- sand (R195): Scalar AND. -/
  | sand (d : Fin 64) (x : Src) (y : Src)
  /-- sor (R195): Scalar OR. -/
  | sor (d : Fin 64) (x : Src) (y : Src)
  /-- sxor (R195): Scalar XOR. -/
  | sxor (d : Fin 64) (x : Src) (y : Src)
  /-- sshl (R195): Scalar left shift. -/
  | sshl (d : Fin 64) (x : Src) (y : Src)
  /-- sshr (R195): Scalar logical right shift. -/
  | sshr (d : Fin 64) (x : Src) (y : Src)
  /-- ssar (R195): Scalar arithmetic right shift. -/
  | ssar (d : Fin 64) (x : Src) (y : Src)
  /-- smin.i32 (R195): Scalar signed minimum. -/
  | sminI32 (d : Fin 64) (x : Src) (y : Src)
  /-- smax.i32 (R195): Scalar signed maximum. -/
  | smaxI32 (d : Fin 64) (x : Src) (y : Src)
  /-- setps (R195): Scalar compare into a predicate of every visited lane. -/
  | setps (p : Fin 7) (x : Src) (y : Src) (q : Cond) (un : Bool)
  /-- v2s (R195): Copy a value into a scalar register. -/
  | v2s (d : Fin 64) (x : Src)
  /-- mldb (R234): Queue a B-tile load into a macro. -/
  | mldb (bf : Fin 32) (b : CapSel) (x : Src)
  /-- mbeg (R236): Queue the opening of a chain on a bank. -/
  | mbeg (af : Fin 32) (bf : Fin 32) (ofm : Fin 3) (m : Fin 4) (x : Src)
  /-- mma (R229): Sign a matrix product on a convergence register, queued at the final signature. -/
  | mma (g : Fin 8) (b : CapSel) (x : Src)
  /-- mend (R240): Queue the close of a chain writing the rounded tile. -/
  | mend (x : Src) (b : CapSel) (cc : Option CapSel)
  /-- mzero (R242): Queue the discard and clearing of a bank. -/
  | mzero (x : Src)
  /-- mrd (R243): Read one accumulator entry. -/
  | mrd (d : Fin 16) (x : Src)
  /-- mstat (R244): Read a bank's status word. -/
  | mstat (d : Dst) (x : Src)
  /-- spawn (R289): Push a task frame onto the deque, spilling as needed. -/
  | spawn (v : Fin 32)
  /-- tend (R291): End a task and decrement its join counter. -/
  | tend (b : Option CapSel) (sc : Scope)
  /-- join (R292): Park until a counter reads zero. -/
  | join (b : CapSel) (off : Src) (sc : Scope)
  /-- launch (R280): Check and submit a launch record. -/
  | launch (b : CapSel) (off : Src)
  /-- evwait (R286): Park until an event word reaches a generation. -/
  | evwait (g : Src) (b : CapSel) (off : Src) (sc : Scope)
  /-- evpub (R285): Publish units to an event word. -/
  | evpub (g : Src) (b : CapSel) (off : Src) (sc : Scope)
  /-- dqinfo (R301): Read deque state. -/
  | dqinfo (d : Dst) (item : Fin 4)
  /-- post (R350): Post a message to an endpoint, parking for a slot if needed. -/
  | post (m : Fin 16) (e : CapSel) (q : Option (Fin 31))
  /-- take (R350): Take the first message or park. -/
  | take (m : Fin 16) (e : CapSel) (q : Fin 30)
  /-- ask (R350): Post with an answer object and park for the answer. -/
  | ask (p : Option (Fin 7)) (m : Fin 16) (e : CapSel) (q : Fin 30) (qs : Bool)
  /-- answer (R350): Deliver an answer through a one-shot answer capability. -/
  | answer (m : Fin 16) (e : CapSel) (q : Option (Fin 31))
  /-- settle (R350): Answer then take from an endpoint. -/
  | settle (m : Fin 16) (r : CapSel) (e : CapSel) (q : Fin 30) (qs : Bool)
  /-- post.try (R350): Post only if a taker or slot is available. -/
  | postTry (p : Option (Fin 7)) (m : Fin 16) (e : CapSel) (q : Option (Fin 31))
  /-- ctxnew (R353): Create a child context. -/
  | ctxnew (d : CapSel) (r : CapSel) (q : Fin 29)
  /-- ctxcfg (R354): Configure a descendant context item. -/
  | ctxcfg (d : Dst) (x : CapSel) (it : CtxItem)
  /-- ctxrun (R355): Make a context Runnable, optionally submitting a launch. -/
  | ctxrun (d : Dst) (x : CapSel) (r : Option CapSel)
  /-- ctxstop (R356): Request a deschedule or cut of a subtree. -/
  | ctxstop (d : Dst) (x : CapSel) (cut : Bool)
  /-- ctxkill (R357): Destroy a context subtree. -/
  | ctxkill (d : Dst) (x : CapSel)
  /-- asnew (R363): Create an address space. -/
  | asnew (d : CapSel) (r : CapSel)
  /-- asmap (R364): Map pages into a child address space. -/
  | asmap (d : Dst) (x : CapSel) (m : Fin 16)
  /-- asunmap (R365): Remove pages from an address space. -/
  | asunmap (d : Dst) (x : CapSel) (m : Fin 16)
  /-- objmake (R344): Make an endpoint, reserve or core set. -/
  | objmake (d : CapSel) (r : CapSel) (x : Src)
  /-- revoke (R372): Start revocation of a reserve or region. -/
  | revoke (d : Dst) (r : CapSel) (n : Notify)
  /-- schnew (R360): Create a child scheduling context. -/
  | schnew (d : CapSel) (r : CapSel) (x : Src)
  /-- schset (R360): Change share, priority or yield limit. -/
  | schset (item : Fin 3) (d : Dst) (r : CapSel) (x : Src)
  /-- lnbind (R370): Bind or unbind an interrupt line. -/
  | lnbind (d : Dst) (i : CapSel) (e : Option CapSel)
  /-- lnack (R370): Acknowledge an interrupt line. -/
  | lnack (d : Dst) (x : CapSel)
  /-- tread (R369): Read a trap-frame item. -/
  | tread (d : TDst) (t : CapSel) (x : Src)
  /-- twrite (R369): Write a trap-frame item. -/
  | twrite (y : TSrc) (t : CapSel) (x : Src)
  /-- tclr (R369): Clear cause bits of a group. -/
  | tclr (m : Src) (t : CapSel) (g : Src)
  /-- tresume (R258): Resume a Stopped team whose causes are clear. -/
  | tresume (d : Dst) (x : CapSel)
  /-- attest (R389): Write signed evidence for a context. -/
  | attest (m : Fin 16) (x : Option CapSel) (b : CapSel)
  /-- troy.open (R393): Open a sealing session on a key slot. -/
  | troyOpen (d : CapSel) (k : CapSel) (b : CapSel)
  /-- troy.abs (R394): Absorb a byte range into a session. -/
  | troyAbs (s : CapSel) (b : CapSel) (x : Src) (sc : Scope)
  /-- troy.close (R395): Close a session and request its seal record. -/
  | troyClose (d : Dst) (x : CapSel)
  /-- trap (R259): Raise SWTRAP with a code. -/
  | trap (code : BitVec 16)
  /-- callc (R118): Call through a capability, writing the link. -/
  | callc (b : CapSel)
  /-- jmpc (R118): Jump through a capability. -/
  | jmpc (b : CapSel)
  /-- ret (R118): Return through a capability. -/
  | ret (b : CapSel)
  /-- exit (R119): End the thread once its flags clear. -/
  | exit
  /-- bkpt (R259): Raise BKPT. -/
  | bkpt
  /-- nop (R120): No operation. -/
  | nop
  /-- ALU_WRITEBACK (R18): An ALU result performs into its register 4 cc after issue. Reads of the record: core = c. -/
  | aluWriteback
  /-- PREDICATE_WRITEBACK (R92): A Predicate-class write performs 2 cc after issue. Reads of the record: core = c. -/
  | predicateWriteback
  /-- SCALAR_WRITEBACK (R196): A scalar write performs 4 cc after issue. Reads of the record: core = c. -/
  | scalarWriteback
  /-- LANDING_WRITE (R18): A long-latency result lands through the landing buffer and clears its flag. Reads of the record: core = c, id = op. -/
  | landingWrite
  /-- STORE_PERFORM (R150): A store word performs at its scope and its flag clears. Reads of the record: core = c, id = op. -/
  | storePerform
  /-- LATCH_HOLD_EXPIRY (R24): The 8 cc latch-only hold expires and latches are lost. Reads of the record: core = c. -/
  | latchHoldExpiry
  /-- AFFINITY_RUN_LIMIT (R168): A run reaches 32 words and the group loses affinity. Reads of the record: core = c. -/
  | affinityRunLimit
  /-- SPAN_DISPLACEMENT (R166): After 1,024 words the section's oldest entry is displaced. Reads of the record: core = c, g. -/
  | spanDisplacement
  /-- UNHOUSED_HOUSING (R165): Queued eligible threads join or take PC-table entries. Reads of the record: core = c, g. -/
  | unhousedHousing
  /-- PCC_ENTRY_ACQUIRE (R13): A waiting thread obtains a PCC-table entry when one frees or idles. Reads of the record: core = c, g, lane. -/
  | pccEntryAcquire
  /-- WAITNE_WAKE (R157): A reload on line change returns a different value and wakes the thread. Reads of the record: core = c, g, lane. -/
  | waitneWake
  /-- WAITOWN_COMPLETE (R215): All named granules read 0 and the parked lane completes. Reads of the record: core = c, g, lane. -/
  | waitownComplete
  /-- WAITGEN_COMPLETE (R216): An arrival word reaches the awaited generation. Reads of the record: core = c, g, lane. -/
  | waitgenComplete
  /-- TEAM_BARRIER_RELEASE (R203): Every non-Free thread is parked at the barrier and all are released. Reads of the record: core = c, n. -/
  | teamBarrierRelease
  /-- CONVERGENCE_RELEASE (R207): Arrived covers expect and parked threads are released. Reads of the record: core = c, g, n = k. -/
  | convergenceRelease
  /-- JOIN_COMPLETE (R292): A join counter reads 0 and the lane completes. Reads of the record: core = c, g, lane. -/
  | joinComplete
  /-- EVWAIT_COMPLETE (R286): An event word reaches the awaited generation. Reads of the record: core = c, g, lane. -/
  | evwaitComplete
  /-- YIELD_COMPLETE (R217): The yielding thread's flags clear; it stops or continues. Reads of the record: core = c, g, lane. -/
  | yieldComplete
  /-- EXIT_COMPLETION (R119): An exiting thread's flags clear and its slot becomes Free. Reads of the record: core = c, g, lane. -/
  | exitCompletion
  /-- TEND_COMPLETION (R291): After flags clear, the counter is decremented and the slot freed. Reads of the record: core = c, g, lane. -/
  | tendCompletion
  /-- TASK_START (R290): A Free slot takes a frame and starts a task. Reads of the record: core = c. -/
  | taskStart
  /-- REFILL (R295): Ring frames return to the deque when their reads complete. Reads of the record: core = c. -/
  | refill
  /-- STEAL_SEARCH (R297): An idle core begins a steal search within 4,096 cycles. Reads of the record: core = c. -/
  | stealSearch
  /-- STEAL_REQUEST (R298): A victim answers with its oldest eligible frame or empty. Reads of the record: core = thief, core2 = victim. -/
  | stealRequest
  /-- STEAL_FRAME_ARRIVAL (R298): A stolen frame arrives and starts in the thief's Free slot. Reads of the record: core = c. -/
  | stealFrameArrival
  /-- ARRIVAL_WORD_UPDATE (R180): Landed copy bytes update the arrival word, possibly completing a generation. Reads of the record: core = c, id = op, addr = off, len. -/
  | arrivalWordUpdate
  /-- COPY_COMPLETE (R212): A command has landed every byte and its flag clears. Reads of the record: core = c, id = op. -/
  | copyComplete
  /-- COPY_ABORT (R179): A running command aborts with a cause and returns its granules. Reads of the record: core = c, id = op, word = cause. -/
  | copyAbort
  /-- MLDB_PERFORM (R234): A queued B load reads its range and loads or poisons the macro. Reads of the record: core = c, id = op. -/
  | mldbPerform
  /-- MBEG_PERFORM (R236): With the grant given, the bank's chain opens. Reads of the record: core = c, id = op. -/
  | mbegPerform
  /-- MMA_PERFORM (R223): A queued product adds its floored terms to the bank. Reads of the record: core = c, id = op. -/
  | mmaPerform
  /-- MEND_PERFORM (R227): A queued close rounds and writes the output tile. Reads of the record: core = c, id = op. -/
  | mendPerform
  /-- MZERO_PERFORM (R242): A queued zero discards the chain and clears the bank. Reads of the record: core = c, id = op. -/
  | mzeroPerform
  /-- MRD_PERFORM (R243): A queued entry read lands. Reads of the record: core = c, id = op. -/
  | mrdPerform
  /-- MSTAT_PERFORM (R244): A queued status read lands. Reads of the record: core = c, id = op. -/
  | mstatPerform
  /-- CURRENT_GRANT (R445): The die power controller grants a current request, lowering the clock if needed. Reads of the record: die, flag = lower. -/
  | currentGrant
  /-- ASYNC_CAUSE (R251): An engine or kernel unit detects an asynchronous cause and stops the group. Reads of the record: core = c, g, word = bits; for ENGINE and MATRIX id = the operation in flight, lane. -/
  | asyncCause
  /-- HALT_REQUEST (R250): The kernel unit halts a team with no initiator. Reads of the record: core = c. -/
  | haltRequest
  /-- SKID_LIMIT (R250): A group's skid reaches 16 or it has no ready span and it stops. Reads of the record: core = c, g. -/
  | skidLimit
  /-- STOP_COMPLETE (R252): The drain ends; the team is Stopped or goes to Saving. Reads of the record: core = c. -/
  | stopComplete
  /-- DESCHEDULE_REQUEST (R260): A deschedule becomes pending for every team of a cluster. Reads of the record: core = c. -/
  | descheduleRequest
  /-- YIELD_DEBT (R261): A thread's word count or the cycle count reaches the limit and the team halts for a whole save. Reads of the record: core = c. -/
  | yieldDebt
  /-- CUT_ROUND (R265): A cut round finds the largest step and restarts lagging threads. Reads of the record: id = ctx. -/
  | cutRound
  /-- TEAM_SAVE (R263): The save engine writes the team and it becomes Saved. Reads of the record: core = c. -/
  | teamSave
  /-- TEAM_RESTORE (R267): The distributor restores a cluster's saved teams onto a rectangle. Reads of the record: id = ctx, m = launch, n = cluster, core2 = nw. -/
  | teamRestore
  /-- LAUNCH_ACCEPTANCE (R280): A checked and measured launch record is accepted and the done word set. Reads of the record: id. -/
  | launchAcceptance
  /-- LAUNCH_READY (R281): The distributor finds every awaited generation reached. Reads of the record: id. -/
  | launchReady
  /-- CLUSTER_PLACEMENT (R282): The distributor places a cluster on a rectangle of cores. Reads of the record: id, core2 = nw. -/
  | clusterPlacement
  /-- TEAM_COMPLETION (R284): A team completes, performs its accesses and publishes the done word. Reads of the record: core = c. -/
  | teamCompletion
  /-- BUDGET_WINDOW (R361): A core starts a new window of 2^20 cycles. Reads of the record: core = c. -/
  | budgetWindow
  /-- ALLOWANCE_REACHED (R361): A scheduling context reaches its allowance and teams are descheduled. Reads of the record: core = c, id = sched. -/
  | allowanceReached
  /-- PRIORITY_CLAIM (R362): A more urgent team claims a core and the holder is descheduled. Reads of the record: core = c, id. -/
  | priorityClaim
  /-- EQUAL_PRIORITY_HOLD_LIMIT (R362): A team holding a core 2^17 cycles while another launch waits is descheduled. Reads of the record: core = c, id. -/
  | equalPriorityHoldLimit
  /-- INTERRUPT_SIGNAL (R370): A source signals an interrupt line. Reads of the record: id = line, word = status. -/
  | interruptSignal
  /-- FILTER_ACTIVATION (R372): A revocation filter entry becomes active on every die. Reads of the record: n = seq. -/
  | filterActivation
  /-- FURLONG_PASS (R374): The Furlong sweeps memory, cores, engines and remote registrations. Reads of the record: n = seq. -/
  | furlongPass
  /-- REVOCATION_COMPLETE (R375): The pass completes, the entry frees and the notification is made. Reads of the record: n = seq. -/
  | revocationComplete
  /-- CTXSTOP_COMPLETE (R356): The subtree is Stopped and the outcome lands. Reads of the record: id = ctx. -/
  | ctxstopComplete
  /-- CTXKILL_COMPLETE (R357): Nothing of the subtree remains in flight and the status lands. Reads of the record: id = ctx. -/
  | ctxkillComplete
  /-- ASUNMAP_COMPLETE (R365): Every die has dropped the translations and the status lands. Reads of the record: id. -/
  | asunmapComplete
  /-- ABSORB_COMPLETE (R394): Troy has read every byte of an absorb. Reads of the record: core = c, id = op. -/
  | absorbComplete
  /-- SEAL_RECORD_WRITE (R395): Pending absorbs done, Troy writes the seal record. Reads of the record: id = sess. -/
  | sealRecordWrite
  /-- AGEING_MONITOR_READ (R444): Every 2^30 control-die cycles the firmware reads ageing monitors and may retire a core. Reads of the record: core = c, flag = below, flag2 = raised. -/
  | ageingMonitorRead
  /-- SPARE_REMAP (R444): After the team is saved a spare takes the retired position or shedding follows. Reads of the record: core = c. -/
  | spareRemap
  /-- CHANNEL_RETIREMENT (R444): A channel past its error limit is copied to spare rows. Reads of the record: addr = base, len = size, flag = spare. -/
  | channelRetirement
  /-- RDS (R315): A home receives a read for sharing. Reads of the record: die and addr = m. -/
  | rds
  /-- RDX (R315): A home receives a read for ownership. Reads of the record: die and addr = m. -/
  | rdx
  /-- UPG (R315): A home receives an upgrade request. Reads of the record: die and addr = m. -/
  | upg
  /-- WB (R317): A home receives a write-back and answers ACK or STALE. Reads of the record: die and addr = m. -/
  | wb
  /-- INV (R315): A die receives an invalidate and drops the line. Reads of the record: die and addr = m. -/
  | inv
  /-- FWD_S (R315): An owner receives a forwarded shared request. Reads of the record: die and addr = m. -/
  | fwdS
  /-- FWD_X (R315): An owner receives a forwarded exclusive request. Reads of the record: die and addr = m. -/
  | fwdX
  /-- DATA (R318): A requester receives the line and completes its transaction. Reads of the record: die and addr = m. -/
  | data
  /-- GRANT (R318): A requester receives ownership permission. Reads of the record: die and addr = m. -/
  | grant
  /-- ACK (R315): An acknowledgement closes a step at the home. Reads of the record: die and addr = m. -/
  | ack
  /-- STALE (R317): A die receives a stale acknowledgement and frees its buffer entry. Reads of the record: die and addr = m. -/
  | stale
  /-- EXTERNAL_WRITE (R322): An external write is applied at the home and invalidates copies. Reads of the record: id = conn, addr, bytes. -/
  | externalWrite
  /-- EXTERNAL_READ (R310): An external agent reads device memory. Reads of the record: addr, len. -/
  | externalRead
  /-- HOST_PACKET (R422): A 64-byte packet write is checked and delivered or refused. Reads of the record: id = q, addr = off, bytes. -/
  | hostPacket
  /-- ATS_INVALIDATION (R424): The host invalidates cached translations. Reads of the record: id = fn, n = pasid, addr = iova. -/
  | atsInvalidation
  /-- PRI_RESPONSE (R424): A page request response retries or faults the access. Reads of the record: id, flag = ok. -/
  | priResponse
  /-- FABRIC_PACKET_ARRIVAL (R432): A fabric packet is reassembled and a complete message applied in order. Reads of the record: id = conn, n = seq, addr = off, bytes, flag = read, flag2 = tag mode, m = handle, g = off of the message, len. -/
  | fabricPacketArrival
  /-- CREDIT_GRANT (R431): The receiver grants reassembly credits. Reads of the record: id = conn, n = units. -/
  | creditGrant
  /-- REMOTE_ACK (R433): The peer acknowledges an applied remote write. Reads of the record: id = conn, n = seq, bytes = reply, flag = refused, word = cause. -/
  | remoteAck
  /-- CONNECTION_DOWN (R427): A connection loses its paths or exceeds retries and discards unapplied messages. Reads of the record: id = conn. -/
  | connectionDown
  /-- WITHDRAWAL_COMPLETE (R435): Every accepted message of a withdrawn registration is applied. Reads of the record: id = reg. -/
  | withdrawalComplete
  /-- KEY_ARM (R385): Arm an Empty key slot. -/
  | keyArm
  /-- KEY_DESTROY (R386): Make an Armed slot Destroying. -/
  | keyDestroy
  /-- KEY_DESTRUCTION (R386): Flushes finish, keys are destroyed and the slot becomes Empty. Reads of the record: id = slot. -/
  | keyDestruction
  /-- KEY_QUERY (R385): Report a key slot's state and session count. -/
  | keyQuery
  /-- QI_BIND (R419): Bind a queue interface to an endpoint. -/
  | qiBind
  /-- QI_UNBIND (R419): Unbind a queue interface. -/
  | qiUnbind
  /-- QI_QUERY (R419): Report a queue interface's state. -/
  | qiQuery
  /-- QI_INTERRUPT (R419): Set a queue interface's interrupt event word. -/
  | qiInterrupt
  /-- REG_EXPORT (R434): Export a memory range as a registration. -/
  | regExport
  /-- REG_IMPORT (R434): Import a peer registration as remote pages. -/
  | regImport
  /-- REG_WITHDRAW (R434): Start withdrawing a registration. -/
  | regWithdraw
  /-- REG_UNIMPORT (R434): Remove imported remote pages, or report that they have left. -/
  | regUnimport
  /-- QUERY (R439): Report service state, present positions and error count. -/
  | query
  /-- LOAD_ROOT (R439): Copy an image and launch it in the root. Reads of the record: bytes = image. -/
  | loadRoot
  /-- PASID_LIVE (R439): Make a PASID Live on a function. -/
  | pasidLive
  /-- PASID_REVOKE (R423): Revoke a PASID, withdrawing its packets and translations. -/
  | pasidRevoke
  /-- HOST_MAP (R424): Install host pages in the root address space. -/
  | hostMap
  /-- HOST_UNMAP (R439): Remove host pages. -/
  | hostUnmap
  /-- MODE_SET (R379): Set the side-band mode of 64 KiB units. -/
  | modeSet
  /-- CONN_UP (R427): Bring a fabric connection up. -/
  | connUp
  /-- CONN_DOWN (R427): End a fabric connection. -/
  | connDown
  /-- CERT_READ (R387): Read a DICE certificate window. -/
  | certRead
  /-- VOID_READ (R396): Read a void-log entry window. -/
  | voidRead
  /-- CXL_ADD (R378): Hot-add a CXL port's memory. Reads of the record: n = capacity. -/
  | cxlAdd
  /-- CXL_REMOVE (R378): Hot-remove a CXL port's memory. -/
  | cxlRemove
  /-- SIGNAL (R439): Signal a root interrupt line. -/
  | signal
  /-- ERRLOG_READ (R439): Read one logged event. -/
  | errlogRead
  /-- ROOT_CLEAR (R439): End every team of the root. -/
  | rootClear
  /-- RESET (R447): Firmware command starting a warm reset. -/
  | reset
  /-- RESERVED_REGISTER_WRITE (R437): A write to a register without behaviour of its own is discarded; the row stands for every 4-byte write to BAR0 of the PF. Reads of the record: addr = off, word = val. -/
  | reservedRegisterWrite
  /-- GET_VERSION (R387): SPDM version request. -/
  | getVersion
  /-- GET_CAPABILITIES (R387): SPDM capabilities request. Reads of the record: n = version. -/
  | getCapabilities
  /-- NEGOTIATE_ALGORITHMS (R387): SPDM algorithm negotiation. -/
  | negotiateAlgorithms
  /-- GET_DIGESTS (R387): SPDM certificate digests request. -/
  | getDigests
  /-- GET_CERTIFICATE (R387): SPDM certificate request. Reads of the record: addr = off, len. -/
  | getCertificate
  /-- CHALLENGE (R387): SPDM challenge. Reads of the record: bytes = nonce. -/
  | challenge
  /-- GET_MEASUREMENTS (R387): SPDM measurements request. Reads of the record: n = block. -/
  | getMeasurements
  /-- DIE_TEST_COMPLETE (R441): A die finishes its tests and joins, advancing the service state. Reads of the record: die, flag = home, flag2 = pass. -/
  | dieTestComplete
  /-- POWER_GATE (R446): An idle core is power-gated and cleared. Reads of the record: core = c. -/
  | powerGate
  /-- CORE_WAKE (R446): A gated core wakes and its cycle count restarts. Reads of the record: core = c. -/
  | coreWake
  /-- COLD_RESET (R447): Power-on reset. -/
  | coldReset
  /-- HOT_RESET (R447): PCI Express hot reset of the PF causes a warm reset. -/
  | hotReset
  /-- FUNCTION_LEVEL_RESET (R423): A VF reset revokes its PASIDs and unbinds its interfaces. Reads of the record: id = fn. -/
  | functionLevelReset
  /-- RESERVED_OPCODE (R76): A fetched word whose opcode value is reserved raises ILLEGAL precisely at its span. -/
  | reservedOpcode
  /-- PASID_REVOCATION_COMPLETE (R423): A PASID revocation completes once its packets are withdrawn, its ATS entries are invalidated and every device request under it has ended. Reads of the record: id = fn, n = pasid. -/
  | pasidRevocationComplete
  /-- PACKET_RETRANSMISSION (R428): The sender sends a lost or unacknowledged fabric packet again over any path and counts toward the retry limit. Reads of the record: id = conn, n = seq. -/
  | packetRetransmission
  /-- VF_ENABLE (R418): The host enables or disables SR-IOV virtual functions, changing which functions' interfaces accept writes. Reads of the record: n. -/
  | vfEnable
  /-- MSIX_VECTOR_UNMASK (R425): The host unmasks an MSI-X vector whose Pending Bit is set, and the held message is sent. Reads of the record: id = fn, n = vec. -/
  | msixVectorUnmask
  /-- COMPLETION_TIMEOUT (R424): A PCI Express request to host memory receives no completion in time, and the access raises MEMERR. Reads of the record: core = c, id = op. -/
  | completionTimeout
  deriving DecidableEq, Repr

/-- A decoded word: the operation and the control field it stands under (R61). A P word has no guard and no
flag field (R69). -/
structure Ins where
  c : Ctl
  i : Instr
  deriving DecidableEq, Repr

end Sys2Proof
end

