-- ==== Sys2Proof/Config.lean ====
section
/-! DEFINITION. What the part fixes once and for all (implementation constants) and the free values: constants with
no body, for what the manual leaves open. -/

namespace Sys2Proof.Config

/-- R2, R4: W of a core, 64 on a compute core and 16 on a control core (die 9). -/
def width (die : Nat) : Nat := if die = 9 then 16 else 64

/-- R6: which of the values an undefined register may take it takes; the argument is the state's counter. -/
opaque undefChoice : Nat → Nat

/-- R200: the 32 random bits of the counter's draw. -/
opaque entropy : Nat → Word

/-- R3: what acts next, where the manual leaves the order open: 0 an outside event, 1 a unit, else a core. -/
opaque actorChoice : Nat → Nat

/-- R3, R10: which unit takes which step next, and with which arguments, where the manual leaves it open. -/
opaque unitChoice : Nat → Option (Instr × EvArg)

/-- R385: key material the generator draws for a slot; the arguments are the slot and its generation. -/
opaque slotKey : Nat → Nat → List Byte

/-- R390, R397: an ML-DSA-65 signature (3,309 bytes) over a byte string under a key. -/
opaque mlDsa65 : List Byte → List Byte → List Byte

/-- R387: the certificate chain and the public keys of the root of trust, by certificate number: 0 DeviceID, 1 Alias,
2 SPDM, 3 evidence, 4 + w + 64 e the sealing key of slot w's generation e. -/
opaque certificate : Nat → List Byte

/-- R387: the SPDM responses whose bytes are the standard's: the message code, the negotiated state and the
request bytes. -/
opaque spdmBytes : Nat → Nat → List Byte → List Byte

/-- R440: the identity under which the firmware's own reports stand, such as die test results. -/
opaque firmwareMeasurement : Nat → List Byte

/-- R424: the bytes a host completion returns for a read, by the counter's draw. -/
opaque hostByte : Nat → Byte

/-- R433: the bytes a peer's reply returns for a remote read, by the counter's draw. -/
opaque peerByte : Nat → Byte

/-- R424: how the host meets a request, by the counter's draw: 0 it completes, 1 ATS reports the page absent, else an
Unsupported Request, a Completer Abort or a poisoned completion. -/
opaque hostAnswer : Nat → Nat

/-- R434: the rights (LD, ST, LDC, STC in bits 3:0) of the registration a peer's handle names on a connection, if it
names a live one; the last argument is the counter's draw. -/
opaque peerRights : Nat → Nat → Nat → Option Nat

/-- R434: the length of that registration. -/
opaque peerLength : Nat → Nat → Nat → Nat

/-- R434: where the firmware places imported pages, in pages past those that stand, by the counter's draw. -/
opaque importGap : Nat → Nat

/-- R442, R445: the clock a lowered step gives, by the counter's draw; the steps are not listed. -/
opaque clockStep : Nat → Nat

/-- R255: what a frame shows where nothing is held, by the counter's draw: the items of a Free slot, a register beyond the
team's, a capability that no signature or table entry holds. -/
opaque frameRest : Nat → BitVec 128

/-- A status, a word or a group that the manual leaves open, by the counter's draw: R295, R370, R371, R419, R434, R439. -/
opaque openWord : Nat → Word

/-- R378, R380: what a read of a line from memory meets, by the counter's draw modulo 4: 0 no error, 1 one that the ECC corrects,
2 one that it does not, 3 a CXL device that does not answer. -/
opaque eccOf : Nat → Nat

/-- R358: what a unit counts on account of a context as one of its accesses performs, by the context counter (2-5) and the
counter's draw. -/
opaque traffic : Nat → Nat → Nat

/-- R374, R343: the pages of a save slot that hold a tag under a filter, by the slot's address and the counter's draw. -/
opaque savePages : Nat → Nat → Nat

/-- R390, R397: the public key of a certificate, by its number. -/
opaque publicKey : Nat → List Byte

/-- R439: how an entry of the error log stands in a response; the arguments are its kind and its words. -/
opaque errorEntry : Nat → List Word → List Byte

/-- R427: the firmware's retry limit, a count of retransmissions. -/
opaque retryLimit : Nat

/-- R431: credits that a peer grants when a connection comes up, beyond the 256 units that every receiver grants. -/
opaque creditsBeyond : Nat

/-- R431: credits granted by the peer when a connection comes up: at least 256 units. -/
def initialCredits : Nat := 256 + creditsBeyond

/-- R431: credits that this package grants when a connection comes up, beyond the 256 units. -/
opaque grantsBeyond : Nat

/-- R431: credits granted to the peer when a connection comes up: at least 256 units. -/
def initialGrants : Nat := 256 + grantsBeyond

/-- R425: whether the firmware sends its vector as a command completes, by the counter's draw modulo 2. -/
opaque firmwareSignals : Nat → Nat

/-- R387, R447: the fuse configuration. -/
opaque fuses : List Byte

end Sys2Proof.Config
end

