-- ==== Sys2Proof/WellFormed.lean ====
section
/-! DEFINITION. The checks an instruction word must pass whatever the team's N and the core's W
(03_encoding R59): each is one named `Reject`, and `Instr.wf` holds when none applies. -/

namespace Sys2Proof

/-- Why a word is refused by the decoder. Each raises ILLEGAL at the span (R59). -/
inductive Reject where
  /-- an opcode the map does not list (R76) -/
  | opcode
  /-- a reserved source selector (R63, R64, R70) -/
  | source
  /-- a reserved destination (R65) -/
  | destination
  /-- a reserved capability selector (R66) -/
  | capability
  /-- a selector that names no 64-bit operand (R99) -/
  | pair
  /-- a predicate, predicate code or predicate destination outside its range (R97, R112) -/
  | predicate
  /-- a mode, condition, format, count or item outside the values the entry lists (R40, R41, R68) -/
  | code
  /-- a field marked unused that does not hold its stated value (R68) -/
  | unused
  /-- a dead bit on a selector that names no main register (R19) -/
  | dead
  /-- an sf of 12-14, or an sf the entry forbids or requires (R28, R90) -/
  | flag
  /-- a misc value outside R74 or the entry (R74) -/
  | misc
  /-- a pairing rule of R71 broken -/
  | pairing
  deriving DecidableEq, Repr

/-- R19: main-register selectors are 0x00-0x7F and the indexed ones. -/
def Src.isMain : Src → Bool
  | .v _ => true
  | .vx _ _ => true
  | _ => false

/-- R19: a dead bit stands only on a main-register selector. -/
def SrcD.ok (a : SrcD) : Bool := !a.dead || a.sel.isMain

/-- R19, R99: a dead bit on a pair stands only on a register pair. -/
def PSrcD.ok (a : PSrcD) : Bool := !a.dead || (match a.sel with | .v _ => true | _ => false)

/-- R28: the word must name a flag. -/
def Ctl.flagged (c : Ctl) : Bool := c.sf.isSome

/-- R90, R217, R259, R291: the word's sf must be 15. -/
def Ctl.unflagged (c : Ctl) : Bool := c.sf.isNone

/-- R80: all fields of `nop` except op10, pr and sf are zero. -/
def Ctl.plain (c : Ctl) : Bool := c.st == 0 && c.wm == 0

/-- R65, R91, R186: the latch-only destination is reserved. -/
def Dst.notLatch (d : Dst) : Bool := d != .latch

/-- R151: an atomic with a destination must name sf (R28). -/
def atomFlagOk (c : Ctl) (dest : Bool) : Bool := !dest || c.sf.isSome

/-- R65: an S destination is never the latch chain. -/
def dstOptOk : Option Dst → Bool
  | none => true
  | some d => d.notLatch

/-- R28, R350: `post.try` that writes a predicate must name sf. -/
def postTryFlagOk (c : Ctl) (dest : Bool) : Bool := !dest || c.sf.isSome

/-- R74: only `ld.b8` and `ld.b16` sign-extend. -/
def LdMod.noSx : LdMod → Bool
  | .relaxed sx _ => !sx
  | _ => true

/-- R74, R155: a fence's ordering is 1-4. -/
def Order.fenceOk (o : Order) : Bool := o != .relaxed

/-- R38: the number of fields a register holds of each format. -/
def NFmt.slots : NFmt → Nat
  | .bf16 => 2 | .f16 => 2
  | .e4m3 => 4 | .e5m2 => 4 | .i8 => 4 | .n8 => 4 | .e3m2 => 4 | .e2m3 => 4
  | .e2m1 => 8 | .i4 => 8 | .n4 => 8 | .t2 => 8 | .q16n => 8

/-- R38, R40: the slot lies in the format's range. -/
def NFmt.slotOk (f : NFmt) (slot : Fin 8) : Bool := slot.val < f.slots

/-- R201, R202: n from 1 to 16 and A + n at most 16. -/
def ocOk (o : Fin 16) (n : Fin 17) : Bool := 1 ≤ n.val && o.val + n.val ≤ 16

/-- R198: a thread-register destination of `sread` is not 0xFE. -/
def SDst.ok : SDst → Bool
  | .reg d => d.notLatch
  | .s _ => true

/-- R345: a status destination of `tread` is not 0xFE. -/
def TDst.ok : TDst → Bool
  | .reg d => d.notLatch
  | .cap _ => true

/-- R56: the formats that may stand as A are all but 21-23 and 28-31. -/
def afmtOk (f : Fin 32) : Bool := f.val < 21 || (24 ≤ f.val && f.val < 28)

/-- R354: counter items name an even register pair; the item field holds a number outside the listed ones
only in `other`. -/
def CtxItem.dstOk (d : Dst) : CtxItem → Bool
  | .cnt _ => match d with | .v n => n.val % 2 == 0 | _ => false
  | .other item _ => !(item.toNat < 3 || (16 ≤ item.toNat && item.toNat < 24))
  | _ => true

/-- R78: the operations with one operand. -/
def POp.unary : POp → Bool
  | .mov => true | .popc => true | .clz => true | .not => true | .neg => true | .absI32 => true
  | .fabs => true | .fneg => true | .fmov => true
  | _ => false

/-- R78: the operations of the FP table. -/
def POp.isFp : POp → Bool
  | .fadd => true | .fsub => true | .fmul => true | .fmin => true | .fmax => true | .fabs => true
  | .fneg => true | .fmov => true | .hadd2Bf16 => true | .hmul2Bf16 => true | .hadd2F16 => true
  | .hmul2F16 => true
  | _ => false

/-- The main register a P source names, if any. -/
def PSel.reg? : PSel → Option Nat
  | .v n => some n.val
  | _ => none

/-- R71 rule 2: the distinct main registers a P word reads. -/
def pairRegs (h1 h2 : PHalf) : List Nat :=
  ([h1.a, h1.b, h2.a, h2.b].filterMap PSel.reg?).dedup

/-- R71: the pairing rules; rule 5 and the one-table rule through `isFp`. -/
def pairOk (fp : Bool) (h1 h2 : PHalf) : Bool :=
  h1.op.isFp == fp && h2.op.isFp == fp
    && (h1.d != h2.d || h1.d == .latch)
    && (!h1.op.unary || h1.b == .zero) && (!h2.op.unary || h2.b == .zero)
    && (match pairRegs h1 h2 with
        | [] => true
        | [_] => true
        | [x, y] => x % 4 != y % 4
        | _ => false)

/-- The first check that fails, from a list of checks with their names. -/
def firstReject : List (Bool × Reject) → Option Reject
  | [] => none
  | (b, r) :: rest => if b then firstReject rest else some r

/-- The first check of R59 that instruction `i` breaks, if any. -/
def Instr.problem (i : Instr) (c : Ctl) : Option Reject :=
  match i with
  | .add _ a b => firstReject [(a.ok, .dead), (b.ok, .dead)]
  | .sub _ a b => firstReject [(a.ok, .dead), (b.ok, .dead)]
  | .addSatI32 _ a b => firstReject [(a.ok, .dead), (b.ok, .dead)]
  | .subSatI32 _ a b => firstReject [(a.ok, .dead), (b.ok, .dead)]
  | .mul _ a b => firstReject [(a.ok, .dead), (b.ok, .dead)]
  | .mulhiI32 _ a b => firstReject [(a.ok, .dead), (b.ok, .dead)]
  | .mulhiN32 _ a b => firstReject [(a.ok, .dead), (b.ok, .dead)]
  | .mad _ a b _ => firstReject [(a.ok, .dead), (b.ok, .dead)]
  | .minI32 _ a b => firstReject [(a.ok, .dead), (b.ok, .dead)]
  | .minN32 _ a b => firstReject [(a.ok, .dead), (b.ok, .dead)]
  | .maxI32 _ a b => firstReject [(a.ok, .dead), (b.ok, .dead)]
  | .maxN32 _ a b => firstReject [(a.ok, .dead), (b.ok, .dead)]
  | .absI32 _ a => firstReject [(a.ok, .dead)]
  | .neg _ a => firstReject [(a.ok, .dead)]
  | .and _ a b => firstReject [(a.ok, .dead), (b.ok, .dead)]
  | .or _ a b => firstReject [(a.ok, .dead), (b.ok, .dead)]
  | .xor _ a b => firstReject [(a.ok, .dead), (b.ok, .dead)]
  | .andn _ a b => firstReject [(a.ok, .dead), (b.ok, .dead)]
  | .not _ a => firstReject [(a.ok, .dead)]
  | .shl _ a b => firstReject [(a.ok, .dead), (b.ok, .dead)]
  | .shr _ a b => firstReject [(a.ok, .dead), (b.ok, .dead)]
  | .sar _ a b => firstReject [(a.ok, .dead), (b.ok, .dead)]
  | .rotl _ a b => firstReject [(a.ok, .dead), (b.ok, .dead)]
  | .popc _ a => firstReject [(a.ok, .dead)]
  | .clz _ a => firstReject [(a.ok, .dead)]
  | .brev _ a => firstReject [(a.ok, .dead)]
  | .bfeN32 _ a b => firstReject [(a.ok, .dead), (b.ok, .dead)]
  | .bfeI32 _ a b => firstReject [(a.ok, .dead), (b.ok, .dead)]
  | .bfi _ a b _ => firstReject [(a.ok, .dead), (b.ok, .dead)]
  | .bsel _ a b _ => firstReject [(a.ok, .dead), (b.ok, .dead)]
  | .sel _ a b _ => firstReject [(a.ok, .dead), (b.ok, .dead)]
  | .mov _ a => firstReject [(a.ok, .dead)]
  | .add64 _ a b => firstReject [(a.ok, .dead), (b.ok, .dead)]
  | .sub64 _ a b => firstReject [(a.ok, .dead), (b.ok, .dead)]
  | .mul64 _ a b => firstReject [(a.ok, .dead), (b.ok, .dead)]
  | .shl64 _ a n => firstReject [(a.ok, .dead), (n.ok, .dead)]
  | .srl64 _ a n => firstReject [(a.ok, .dead), (n.ok, .dead)]
  | .sra64 _ a n => firstReject [(a.ok, .dead), (n.ok, .dead)]
  | .divI32 d a b => firstReject [(a.ok, .dead), (b.ok, .dead), (c.flagged, .flag), (d.notLatch, .destination)]
  | .divN32 d a b => firstReject [(a.ok, .dead), (b.ok, .dead), (c.flagged, .flag), (d.notLatch, .destination)]
  | .remI32 d a b => firstReject [(a.ok, .dead), (b.ok, .dead), (c.flagged, .flag), (d.notLatch, .destination)]
  | .remN32 d a b => firstReject [(a.ok, .dead), (b.ok, .dead), (c.flagged, .flag), (d.notLatch, .destination)]
  | .fadd _ a b _ => firstReject [(a.ok, .dead), (b.ok, .dead)]
  | .fsub _ a b _ => firstReject [(a.ok, .dead), (b.ok, .dead)]
  | .fmul _ a b _ => firstReject [(a.ok, .dead), (b.ok, .dead)]
  | .ffma _ a b _ => firstReject [(a.ok, .dead), (b.ok, .dead)]
  | .fmin _ a b => firstReject [(a.ok, .dead), (b.ok, .dead)]
  | .fmax _ a b => firstReject [(a.ok, .dead), (b.ok, .dead)]
  | .fminp _ a b => firstReject [(a.ok, .dead), (b.ok, .dead)]
  | .fmaxp _ a b => firstReject [(a.ok, .dead), (b.ok, .dead)]
  | .fabs _ a => firstReject [(a.ok, .dead)]
  | .fneg _ a => firstReject [(a.ok, .dead)]
  | .fcopysign _ a b => firstReject [(a.ok, .dead), (b.ok, .dead)]
  | .frnd _ a _ => firstReject [(a.ok, .dead)]
  | .fscale _ a b _ => firstReject [(a.ok, .dead), (b.ok, .dead)]
  | .fgetexp _ a => firstReject [(a.ok, .dead)]
  | .fgetman _ a => firstReject [(a.ok, .dead)]
  | .fdiv d a b => firstReject [(a.ok, .dead), (b.ok, .dead), (c.flagged, .flag), (d.notLatch, .destination)]
  | .frcp d a => firstReject [(a.ok, .dead), (c.flagged, .flag), (d.notLatch, .destination)]
  | .frsq d a => firstReject [(a.ok, .dead), (c.flagged, .flag), (d.notLatch, .destination)]
  | .fsqrt d a => firstReject [(a.ok, .dead), (c.flagged, .flag), (d.notLatch, .destination)]
  | .fexp2 d a => firstReject [(a.ok, .dead), (c.flagged, .flag), (d.notLatch, .destination)]
  | .flog2 d a => firstReject [(a.ok, .dead), (c.flagged, .flag), (d.notLatch, .destination)]
  | .fsin d a => firstReject [(a.ok, .dead), (c.flagged, .flag), (d.notLatch, .destination)]
  | .fcos d a => firstReject [(a.ok, .dead), (c.flagged, .flag), (d.notLatch, .destination)]
  | .hadd2Bf16 _ a b => firstReject [(a.ok, .dead), (b.ok, .dead)]
  | .hmul2Bf16 _ a b => firstReject [(a.ok, .dead), (b.ok, .dead)]
  | .hfma2Bf16 _ a b _ => firstReject [(a.ok, .dead), (b.ok, .dead)]
  | .hadd2F16 _ a b => firstReject [(a.ok, .dead), (b.ok, .dead)]
  | .hmul2F16 _ a b => firstReject [(a.ok, .dead), (b.ok, .dead)]
  | .hfma2F16 _ a b _ => firstReject [(a.ok, .dead), (b.ok, .dead)]
  | .hdot2Bf16 _ a b _ => firstReject [(a.ok, .dead), (b.ok, .dead)]
  | .hdot2F16 _ a b _ => firstReject [(a.ok, .dead), (b.ok, .dead)]
  | .pk _ a f slot _ _ => firstReject [(a.ok, .dead), (f.slotOk slot, .code)]
  | .upk _ a f slot => firstReject [(a.ok, .dead), (f.slotOk slot, .code)]
  | .cvtF32I32 _ a _ => firstReject [(a.ok, .dead)]
  | .cvtF32N32 _ a _ => firstReject [(a.ok, .dead)]
  | .cvtI32F32 _ a _ _ => firstReject [(a.ok, .dead)]
  | .cvtN32F32 _ a _ _ => firstReject [(a.ok, .dead)]
  | .setpI32 _ a b _ => firstReject [(a.ok, .dead), (b.ok, .dead)]
  | .setpN32 _ a b _ => firstReject [(a.ok, .dead), (b.ok, .dead)]
  | .setpF32 _ a b _ => firstReject [(a.ok, .dead), (b.ok, .dead)]
  | .setpI64 _ a b _ => firstReject [(a.ok, .dead), (b.ok, .dead)]
  | .setpN64 _ a b _ => firstReject [(a.ok, .dead), (b.ok, .dead)]
  | .pand _ _ _ => none
  | .por _ _ _ => none
  | .pxor _ _ _ => none
  | .pnot _ _ => none
  | .v2p _ a => firstReject [(a.ok, .dead)]
  | .p2v d => firstReject [(d.notLatch, .destination)]
  | .lxAt d a j _ => firstReject [(a.ok, .dead), (j.ok, .dead), (c.flagged, .flag), (d.notLatch, .destination)]
  | .lxShift d a j _ => firstReject [(a.ok, .dead), (j.ok, .dead), (c.flagged, .flag), (d.notLatch, .destination)]
  | .lxRot d a j _ => firstReject [(a.ok, .dead), (j.ok, .dead), (c.flagged, .flag), (d.notLatch, .destination)]
  | .lxFlip d a j _ => firstReject [(a.ok, .dead), (j.ok, .dead), (c.flagged, .flag), (d.notLatch, .destination)]
  | .pollAny _ _ _ => firstReject [(c.flagged, .flag)]
  | .pollAll _ _ _ => firstReject [(c.flagged, .flag)]
  | .pollMask d _ _ => firstReject [(c.flagged, .flag), (d.notLatch, .destination)]
  | .peers d a _ => firstReject [(a.ok, .dead), (c.flagged, .flag), (d.notLatch, .destination)]
  | .redAddI32 d a _ => firstReject [(a.ok, .dead), (c.flagged, .flag), (d.notLatch, .destination)]
  | .redAddF32 d a _ => firstReject [(a.ok, .dead), (c.flagged, .flag), (d.notLatch, .destination)]
  | .redMinI32 d a _ => firstReject [(a.ok, .dead), (c.flagged, .flag), (d.notLatch, .destination)]
  | .redMaxI32 d a _ => firstReject [(a.ok, .dead), (c.flagged, .flag), (d.notLatch, .destination)]
  | .redMinF32 d a _ => firstReject [(a.ok, .dead), (c.flagged, .flag), (d.notLatch, .destination)]
  | .redMaxF32 d a _ => firstReject [(a.ok, .dead), (c.flagged, .flag), (d.notLatch, .destination)]
  | .redAnd d a _ => firstReject [(a.ok, .dead), (c.flagged, .flag), (d.notLatch, .destination)]
  | .redOr d a _ => firstReject [(a.ok, .dead), (c.flagged, .flag), (d.notLatch, .destination)]
  | .redXor d a _ => firstReject [(a.ok, .dead), (c.flagged, .flag), (d.notLatch, .destination)]
  | .scanAddI32 d a _ => firstReject [(a.ok, .dead), (c.flagged, .flag), (d.notLatch, .destination)]
  | .scanAddI32X d a _ => firstReject [(a.ok, .dead), (c.flagged, .flag), (d.notLatch, .destination)]
  | .scanAddF32 d a _ => firstReject [(a.ok, .dead), (c.flagged, .flag), (d.notLatch, .destination)]
  | .bcast d a _ => firstReject [(a.ok, .dead), (c.flagged, .flag), (d.notLatch, .destination)]
  | .elect _ _ => firstReject [(c.flagged, .flag)]
  | .sample d a j _ => firstReject [(a.ok, .dead), (j.ok, .dead), (c.flagged, .flag), (d.notLatch, .destination)]
  | .pairedWord fp h1 h2 => firstReject [(pairOk fp h1 h2, .pairing)]
  | .bra _ _ => firstReject [(c.unflagged, .flag)]
  | .call _ _ => firstReject [(c.unflagged, .flag)]
  | .ldB8 d _ _ _ => firstReject [(c.flagged, .flag), (d.notLatch, .destination)]
  | .ldB16 d _ _ _ => firstReject [(c.flagged, .flag), (d.notLatch, .destination)]
  | .ldB32 d _ _ m => firstReject [(c.flagged, .flag), (d.notLatch, .destination), (m.noSx, .misc)]
  | .ldB64 _ _ _ m => firstReject [(c.flagged, .flag), (m.noSx, .misc)]
  | .ldB128 _ _ _ m => firstReject [(c.flagged, .flag), (m.noSx, .misc)]
  | .ldc _ _ _ m => firstReject [(c.flagged, .flag), (m.noSx, .misc)]
  | .stB8 _ _ _ _ _ => none
  | .stB16 _ _ _ _ _ => none
  | .stB32 _ _ _ _ _ => none
  | .stB64 _ _ _ _ _ => none
  | .stB128 _ _ _ _ _ => none
  | .stc _ _ _ _ _ => none
  | .atomAdd d _ _ _ _ => firstReject [(atomFlagOk c d.isSome, .flag), (dstOptOk d, .destination)]
  | .atomMinI32 d _ _ _ _ => firstReject [(atomFlagOk c d.isSome, .flag), (dstOptOk d, .destination)]
  | .atomMinN32 d _ _ _ _ => firstReject [(atomFlagOk c d.isSome, .flag), (dstOptOk d, .destination)]
  | .atomMaxI32 d _ _ _ _ => firstReject [(atomFlagOk c d.isSome, .flag), (dstOptOk d, .destination)]
  | .atomMaxN32 d _ _ _ _ => firstReject [(atomFlagOk c d.isSome, .flag), (dstOptOk d, .destination)]
  | .atomAnd d _ _ _ _ => firstReject [(atomFlagOk c d.isSome, .flag), (dstOptOk d, .destination)]
  | .atomOr d _ _ _ _ => firstReject [(atomFlagOk c d.isSome, .flag), (dstOptOk d, .destination)]
  | .atomXor d _ _ _ _ => firstReject [(atomFlagOk c d.isSome, .flag), (dstOptOk d, .destination)]
  | .atomXchg d _ _ _ _ => firstReject [(atomFlagOk c d.isSome, .flag), (dstOptOk d, .destination)]
  | .atomCas d _ _ _ _ => firstReject [(atomFlagOk c d.isSome, .flag), (dstOptOk d, .destination)]
  | .atomAdd64 d _ _ _ _ => firstReject [(atomFlagOk c d.isSome, .flag)]
  | .atomCas64 d _ _ _ _ => firstReject [(atomFlagOk c d.isSome, .flag)]
  | .atomCas128 d _ _ _ _ => firstReject [(atomFlagOk c d.isSome, .flag)]
  | .atomFaddF32 d _ _ _ _ => firstReject [(atomFlagOk c d.isSome, .flag), (dstOptOk d, .destination)]
  | .fence _ o => firstReject [(o.fenceOk, .misc)]
  | .waitne _ _ _ _ _ => none
  | .prefetch _ _ _ => none
  | .capAddr _ _ => none
  | .capBase _ _ => none
  | .capLen _ _ => none
  | .capPerm d _ => firstReject [(d.notLatch, .destination)]
  | .capType d _ => firstReject [(d.notLatch, .destination)]
  | .capTag d _ => firstReject [(d.notLatch, .destination)]
  | .capSeta _ _ _ => none
  | .capAdd _ _ _ => none
  | .capBound _ _ _ => none
  | .capBoundx _ _ _ => none
  | .capMask _ _ _ => none
  | .capSeal _ _ _ => none
  | .capUnseal _ _ _ => none
  | .capUntag _ _ => none
  | .capMov _ _ => none
  | .capDiff _ _ _ => none
  | .capWithin _ _ _ => none
  | .capRlen _ _ => none
  | .capAmask _ _ => none
  | .capMint _ _ _ => none
  | .capSame _ _ _ => none
  | .cpin _ _ _ _ _ => none
  | .cpout _ _ _ _ _ => none
  | .cpx _ _ _ _ _ => none
  | .cpfill _ _ _ _ => none
  | .waitown _ _ _ => none
  | .waitgen _ _ _ => none
  | .arrset _ _ _ => none
  | .ocfill o _ n => firstReject [(ocOk o n, .code)]
  | .ocspill _ o n => firstReject [(ocOk o n, .code), (c.flagged, .flag)]
  | .carve _ _ _ => none
  | .tbar _ => none
  | .rbarInit _ => none
  | .rbarWait _ => none
  | .swin _ => firstReject [(c.flagged, .flag)]
  | .sread d _ => firstReject [(c.flagged, .flag), (d.ok, .destination)]
  | .swrite _ => firstReject [(c.flagged, .flag)]
  | .rndc d => firstReject [(c.flagged, .flag), (d.notLatch, .destination)]
  | .yield _ => firstReject [(c.unflagged, .flag)]
  | .xset _ _ => none
  | .sadd _ _ _ => none
  | .ssub _ _ _ => none
  | .smul _ _ _ => none
  | .sand _ _ _ => none
  | .sor _ _ _ => none
  | .sxor _ _ _ => none
  | .sshl _ _ _ => none
  | .sshr _ _ _ => none
  | .ssar _ _ _ => none
  | .sminI32 _ _ _ => none
  | .smaxI32 _ _ _ => none
  | .setps _ _ _ _ _ => none
  | .v2s _ _ => none
  | .mldb _ _ _ => none
  | .mbeg af _ _ _ _ => firstReject [(afmtOk af, .code)]
  | .mma _ _ _ => none
  | .mend _ _ _ => none
  | .mzero _ => none
  | .mrd _ _ => firstReject [(c.flagged, .flag)]
  | .mstat d _ => firstReject [(c.flagged, .flag), (d.notLatch, .destination)]
  | .spawn _ => none
  | .tend _ _ => firstReject [(c.unflagged, .flag)]
  | .join _ _ _ => none
  | .launch _ _ => none
  | .evwait _ _ _ _ => none
  | .evpub _ _ _ _ => none
  | .dqinfo d _ => firstReject [(c.flagged, .flag), (d.notLatch, .destination)]
  | .post _ _ _ => none
  | .take _ _ _ => firstReject [(c.flagged, .flag)]
  | .ask _ _ _ _ _ => firstReject [(c.flagged, .flag)]
  | .answer _ _ _ => none
  | .settle _ _ _ _ _ => firstReject [(c.flagged, .flag)]
  | .postTry p _ _ _ => firstReject [(postTryFlagOk c p.isSome, .flag)]
  | .ctxnew _ _ _ => firstReject [(c.flagged, .flag)]
  | .ctxcfg d _ it => firstReject [(c.flagged, .flag), (d.notLatch, .destination), (it.dstOk d, .code)]
  | .ctxrun d _ _ => firstReject [(c.flagged, .flag), (d.notLatch, .destination)]
  | .ctxstop d _ _ => firstReject [(c.flagged, .flag), (d.notLatch, .destination)]
  | .ctxkill d _ => firstReject [(c.flagged, .flag), (d.notLatch, .destination)]
  | .asnew _ _ => firstReject [(c.flagged, .flag)]
  | .asmap d _ _ => firstReject [(c.flagged, .flag), (d.notLatch, .destination)]
  | .asunmap d _ _ => firstReject [(c.flagged, .flag), (d.notLatch, .destination)]
  | .objmake _ _ _ => firstReject [(c.flagged, .flag)]
  | .revoke d _ _ => firstReject [(c.flagged, .flag), (d.notLatch, .destination)]
  | .schnew _ _ _ => firstReject [(c.flagged, .flag)]
  | .schset _ d _ _ => firstReject [(c.flagged, .flag), (d.notLatch, .destination)]
  | .lnbind d _ _ => firstReject [(c.flagged, .flag), (d.notLatch, .destination)]
  | .lnack d _ => firstReject [(c.flagged, .flag), (d.notLatch, .destination)]
  | .tread d _ _ => firstReject [(c.flagged, .flag), (d.ok, .destination)]
  | .twrite _ _ _ => none
  | .tclr _ _ _ => none
  | .tresume d _ => firstReject [(c.flagged, .flag), (d.notLatch, .destination)]
  | .attest _ _ _ => firstReject [(c.flagged, .flag)]
  | .troyOpen _ _ _ => firstReject [(c.flagged, .flag)]
  | .troyAbs _ _ _ _ => none
  | .troyClose d _ => firstReject [(c.flagged, .flag), (d.notLatch, .destination)]
  | .trap _ => firstReject [(c.unflagged, .flag)]
  | .callc _ => firstReject [(c.unflagged, .flag)]
  | .jmpc _ => firstReject [(c.unflagged, .flag)]
  | .ret _ => firstReject [(c.unflagged, .flag)]
  | .exit  => firstReject [(c.unflagged, .flag)]
  | .bkpt  => firstReject [(c.unflagged, .flag)]
  | .nop  => firstReject [(c.plain, .unused)]
  | .aluWriteback => none
  | .predicateWriteback => none
  | .scalarWriteback => none
  | .landingWrite => none
  | .storePerform => none
  | .latchHoldExpiry => none
  | .affinityRunLimit => none
  | .spanDisplacement => none
  | .unhousedHousing => none
  | .pccEntryAcquire => none
  | .waitneWake => none
  | .waitownComplete => none
  | .waitgenComplete => none
  | .teamBarrierRelease => none
  | .convergenceRelease => none
  | .joinComplete => none
  | .evwaitComplete => none
  | .yieldComplete => none
  | .exitCompletion => none
  | .tendCompletion => none
  | .taskStart => none
  | .refill => none
  | .stealSearch => none
  | .stealRequest => none
  | .stealFrameArrival => none
  | .arrivalWordUpdate => none
  | .copyComplete => none
  | .copyAbort => none
  | .mldbPerform => none
  | .mbegPerform => none
  | .mmaPerform => none
  | .mendPerform => none
  | .mzeroPerform => none
  | .mrdPerform => none
  | .mstatPerform => none
  | .currentGrant => none
  | .asyncCause => none
  | .haltRequest => none
  | .skidLimit => none
  | .stopComplete => none
  | .descheduleRequest => none
  | .yieldDebt => none
  | .cutRound => none
  | .teamSave => none
  | .teamRestore => none
  | .launchAcceptance => none
  | .launchReady => none
  | .clusterPlacement => none
  | .teamCompletion => none
  | .budgetWindow => none
  | .allowanceReached => none
  | .priorityClaim => none
  | .equalPriorityHoldLimit => none
  | .interruptSignal => none
  | .filterActivation => none
  | .furlongPass => none
  | .revocationComplete => none
  | .ctxstopComplete => none
  | .ctxkillComplete => none
  | .asunmapComplete => none
  | .absorbComplete => none
  | .sealRecordWrite => none
  | .ageingMonitorRead => none
  | .spareRemap => none
  | .channelRetirement => none
  | .rds => none
  | .rdx => none
  | .upg => none
  | .wb => none
  | .inv => none
  | .fwdS => none
  | .fwdX => none
  | .data => none
  | .grant => none
  | .ack => none
  | .stale => none
  | .externalWrite => none
  | .externalRead => none
  | .hostPacket => none
  | .atsInvalidation => none
  | .priResponse => none
  | .fabricPacketArrival => none
  | .creditGrant => none
  | .remoteAck => none
  | .connectionDown => none
  | .withdrawalComplete => none
  | .keyArm => none
  | .keyDestroy => none
  | .keyDestruction => none
  | .keyQuery => none
  | .qiBind => none
  | .qiUnbind => none
  | .qiQuery => none
  | .qiInterrupt => none
  | .regExport => none
  | .regImport => none
  | .regWithdraw => none
  | .regUnimport => none
  | .query => none
  | .loadRoot => none
  | .pasidLive => none
  | .pasidRevoke => none
  | .hostMap => none
  | .hostUnmap => none
  | .modeSet => none
  | .connUp => none
  | .connDown => none
  | .certRead => none
  | .voidRead => none
  | .cxlAdd => none
  | .cxlRemove => none
  | .signal => none
  | .errlogRead => none
  | .rootClear => none
  | .reset => none
  | .reservedRegisterWrite => none
  | .getVersion => none
  | .getCapabilities => none
  | .negotiateAlgorithms => none
  | .getDigests => none
  | .getCertificate => none
  | .challenge => none
  | .getMeasurements => none
  | .dieTestComplete => none
  | .powerGate => none
  | .coreWake => none
  | .coldReset => none
  | .hotReset => none
  | .functionLevelReset => none
  | .reservedOpcode => none
  | .pasidRevocationComplete => none
  | .packetRetransmission => none
  | .vfEnable => none
  | .msixVectorUnmask => none
  | .completionTimeout => none

/-- R59: no reserved value stands in the word. -/
def Instr.wf (i : Instr) (c : Ctl) : Bool := (i.problem c).isNone

/-- R59, R69: a decoded word is well formed; a P word carries neither guard nor flag. -/
def Ins.wf (x : Ins) : Bool :=
  x.i.wf x.c && (match x.i with | .pairedWord _ _ _ => x.c.pr.isNone && x.c.sf.isNone | _ => true)

end Sys2Proof
end

