-- ==== Sys2Proof/Decode.lean ====
section
/-! DEFINITION. Decoding and encoding of instruction words (03_encoding R58-R80, and the field tables
of each block's entry). A word is 64 bits; `decode` is total and rejects by name; `encode` is written
from the same tables. -/

namespace Sys2Proof

/-! ### Fields -/

/-- Field of `len` bits whose least significant bit is bit `lo` (R7). -/
def fld (w : DWord) (lo len : Nat) : BitVec len := w.extractLsb' lo len

/-- R63. -/
def decSrc (x : BitVec 8) : Except Reject Src :=
  let n := x.toNat
  if n < 0x80 then .ok (.v (Fin.ofNat 128 n))
  else if n < 0x90 then .ok (.o (Fin.ofNat 16 n))
  else if n < 0x94 then .ok (.b (Fin.ofNat 4 n))
  else if n = 0x94 then .ok .zero
  else if n = 0x95 then .ok .lane
  else if n = 0x96 then .ok .width
  else if n = 0x97 then .ok .slot
  else if n = 0x98 then .ok .grp
  else if n = 0x99 then .ok .team
  else if n = 0x9E then .ok .litLo
  else if n = 0x9F then .ok .litHi
  else if 0xC0 ≤ n then .ok (.s (Fin.ofNat 64 n))
  else if 0xA0 ≤ n then .ok (.vx (Fin.ofNat 4 (n / 8)) (Fin.ofNat 8 n))
  else .error .source

/-- R63. -/
def encSrc : Src → BitVec 8
  | .v n => BitVec.ofNat 8 n.val
  | .o n => BitVec.ofNat 8 (0x80 + n.val)
  | .b n => BitVec.ofNat 8 (0x90 + n.val)
  | .zero => 0x94#8
  | .lane => 0x95#8
  | .width => 0x96#8
  | .slot => 0x97#8
  | .grp => 0x98#8
  | .team => 0x99#8
  | .litLo => 0x9E#8
  | .litHi => 0x9F#8
  | .vx k d => BitVec.ofNat 8 (0xA0 + 8 * k.val + d.val)
  | .s i => BitVec.ofNat 8 (0xC0 + i.val)

/-- R64. -/
def decSrcC (x : BitVec 6) : Except Reject SrcC :=
  let n := x.toNat
  if n < 0x10 then .ok (.o (Fin.ofNat 16 n))
  else if n < 0x14 then .ok (.b (Fin.ofNat 4 n))
  else if n = 0x14 then .ok .zero
  else if 0x20 ≤ n then .ok (.v (Fin.ofNat 32 n))
  else .error .source

/-- R64. -/
def encSrcC : SrcC → BitVec 6
  | .o n => BitVec.ofNat 6 n.val
  | .b n => BitVec.ofNat 6 (0x10 + n.val)
  | .zero => 0x14#6
  | .v n => BitVec.ofNat 6 (0x20 + n.val)

/-- R65. -/
def decDst (x : BitVec 8) : Except Reject Dst :=
  let n := x.toNat
  if n < 0x80 then .ok (.v (Fin.ofNat 128 n))
  else if n < 0x90 then .ok (.o (Fin.ofNat 16 n))
  else if 0xA0 ≤ n ∧ n < 0xC0 then .ok (.vx (Fin.ofNat 4 (n / 8)) (Fin.ofNat 8 n))
  else if n = 0xFE then .ok .latch
  else .error .destination

/-- R65. -/
def encDst : Dst → BitVec 8
  | .v n => BitVec.ofNat 8 n.val
  | .o n => BitVec.ofNat 8 (0x80 + n.val)
  | .vx k d => BitVec.ofNat 8 (0xA0 + 8 * k.val + d.val)
  | .latch => 0xFE#8

/-- R66. -/
def decCap (x : BitVec 8) : Except Reject CapSel :=
  let n := x.toNat
  if n < 0x20 then .ok (.w (Fin.ofNat 32 n))
  else if 0x40 ≤ n ∧ n < 0x50 then .ok (.k (Fin.ofNat 16 n))
  else .error .capability

/-- R66. -/
def encCap : CapSel → BitVec 8
  | .w n => BitVec.ofNat 8 n.val
  | .k n => BitVec.ofNat 8 (0x40 + n.val)

/-- R99: a 64-bit source. -/
def decPSrc (x : BitVec 8) : Except Reject PSrc :=
  let n := x.toNat
  if n < 0x80 ∧ n % 2 = 0 then .ok (.v (Fin.ofNat 64 (n / 2)))
  else if n = 0x94 then .ok .zero
  else if n = 0x9E then .ok .lit
  else if 0xC0 ≤ n ∧ n % 2 = 0 then .ok (.s (Fin.ofNat 32 (n / 2)))
  else .error .pair

/-- R99. -/
def encPSrc : PSrc → BitVec 8
  | .v n => BitVec.ofNat 8 (2 * n.val)
  | .zero => 0x94#8
  | .lit => 0x9E#8
  | .s i => BitVec.ofNat 8 (0xC0 + 2 * i.val)

/-- R99: a 64-bit F destination. -/
def decPDst (x : BitVec 8) : Except Reject PDst :=
  let n := x.toNat
  if n < 0x80 ∧ n % 2 = 0 then .ok (.v (Fin.ofNat 64 (n / 2)))
  else if n = 0xFE then .ok .latch
  else .error .pair

/-- R99. -/
def encPDst : PDst → BitVec 8
  | .v n => BitVec.ofNat 8 (2 * n.val)
  | .latch => 0xFE#8

/-- A field naming a multiple of `step` below `step * count`, read as its index: register blocks of
R131, R144, R147, R151, R233, R289, R345. -/
def decMul (step count : Nat) [NeZero count] (x : BitVec 8) : Except Reject (Fin count) :=
  let n := x.toNat
  if n % step = 0 ∧ n / step < count then .ok (Fin.ofNat count (n / step)) else .error .pair

/-- The field of block `i` of `step` registers. -/
def encMul {count : Nat} (step : Nat) (i : Fin count) : BitVec 8 := BitVec.ofNat 8 (step * i.val)

/-- A plain number below `count`. -/
def decNum {l : Nat} (count : Nat) [NeZero count] (x : BitVec l) : Except Reject (Fin count) :=
  if x.toNat < count then .ok (Fin.ofNat count x.toNat) else .error .code

/-- A predicate number 0-6 (R112, R114, R131). -/
def decPred {l : Nat} (x : BitVec l) : Except Reject (Fin 7) :=
  if x.toNat < 7 then .ok (Fin.ofNat 7 x.toNat) else .error .predicate

/-- A predicate number, or 7 for none (R345). -/
def decPredOpt (x : BitVec 3) : Option (Fin 7) :=
  if x.toNat < 7 then some (Fin.ofNat 7 x.toNat) else none

/-- R345. -/
def encPredOpt : Option (Fin 7) → BitVec 3
  | none => 7#3
  | some n => BitVec.ofNat 3 n.val

/-- R97. -/
def decPCode {l : Nat} (x : BitVec l) : Except Reject PCode :=
  let n := x.toNat
  if n < 7 then .ok (.pos (Fin.ofNat 7 n))
  else if n = 7 then .ok .always
  else if n < 15 then .ok (.neg (Fin.ofNat 7 (n - 8)))
  else if n = 15 then .ok .never
  else .error .predicate

/-- R97. -/
def encPCode : PCode → Nat
  | .pos n => n.val
  | .always => 7
  | .neg n => 8 + n.val
  | .never => 15

/-- R41. -/
def decRMode (x : BitVec 6) : Except Reject RMode :=
  match x.toNat with
  | 0 => .ok .rne | 1 => .ok .rz | 2 => .ok .rd | 3 => .ok .ru | 4 => .ok .sr
  | _ => .error .code

/-- R41. -/
def encRMode : RMode → BitVec 6
  | .rne => 0 | .rz => 1 | .rd => 2 | .ru => 3 | .sr => 4

/-- R40. -/
def decNFmt (x : BitVec 4) : Except Reject NFmt :=
  match x.toNat with
  | 0 => .ok .bf16 | 1 => .ok .f16 | 2 => .ok .e4m3 | 3 => .ok .e5m2 | 4 => .ok .e3m2 | 5 => .ok .e2m3
  | 6 => .ok .e2m1 | 7 => .ok .i8 | 8 => .ok .n8 | 9 => .ok .i4 | 10 => .ok .n4 | 11 => .ok .t2
  | 12 => .ok .q16n
  | _ => .error .code

/-- R40: the format code. -/
def encNFmt : NFmt → BitVec 4
  | .bf16 => 0 | .f16 => 1 | .e4m3 => 2 | .e5m2 => 3 | .e3m2 => 4 | .e2m3 => 5 | .e2m1 => 6
  | .i8 => 7 | .n8 => 8 | .i4 => 9 | .n4 => 10 | .t2 => 11 | .q16n => 12

/-- R112. -/
def decCond {l : Nat} (x : BitVec l) : Except Reject Cond :=
  match x.toNat with
  | 0 => .ok .eq | 1 => .ok .ne | 2 => .ok .lt | 3 => .ok .le | 4 => .ok .gt | 5 => .ok .ge
  | _ => .error .code

/-- R112. -/
def encCond : Cond → Nat
  | .eq => 0 | .ne => 1 | .lt => 2 | .le => 3 | .gt => 4 | .ge => 5

/-- R113. -/
def decFCond (x : BitVec 6) : Except Reject FCond :=
  match x.toNat with
  | 0 => .ok .eq | 1 => .ok .ne | 2 => .ok .lt | 3 => .ok .le | 4 => .ok .gt | 5 => .ok .ge
  | 6 => .ok .equ | 7 => .ok .neo | 8 => .ok .ltu | 9 => .ok .leu | 10 => .ok .gtu | 11 => .ok .geu
  | 12 => .ok .num | 13 => .ok .nan
  | _ => .error .code

/-- R113. -/
def encFCond : FCond → BitVec 6
  | .eq => 0 | .ne => 1 | .lt => 2 | .le => 3 | .gt => 4 | .ge => 5 | .equ => 6 | .neo => 7
  | .ltu => 8 | .leu => 9 | .gtu => 10 | .geu => 11 | .num => 12 | .nan => 13

/-- R74: scope codes 0-5; 6 and 7 are reserved. -/
def decScope (x : BitVec 3) : Except Reject Scope :=
  match x.toNat with
  | 0 => .ok .group | 1 => .ok .team | 2 => .ok .cluster | 3 => .ok .context | 4 => .ok .device
  | 5 => .ok .system
  | _ => .error .misc

/-- R74. -/
def encScope : Scope → BitVec 3
  | .group => 0 | .team => 1 | .cluster => 2 | .context => 3 | .device => 4 | .system => 5

/-- R74: ordering codes 0-4. -/
def decOrder (x : BitVec 3) : Except Reject Order :=
  match x.toNat with
  | 0 => .ok .relaxed | 1 => .ok .acquire | 2 => .ok .release | 3 => .ok .acqRel | 4 => .ok .sequential
  | _ => .error .misc

/-- R74. -/
def encOrder : Order → BitVec 3
  | .relaxed => 0 | .acquire => 1 | .release => 2 | .acqRel => 3 | .sequential => 4

/-- R74: orderings of a store. -/
def decStOrd (x : BitVec 3) : Except Reject StOrd :=
  match x.toNat with
  | 0 => .ok .relaxed | 2 => .ok .release | 4 => .ok .sequential
  | _ => .error .misc

/-- R74. -/
def encStOrd : StOrd → BitVec 3
  | .relaxed => 0 | .release => 2 | .sequential => 4

/-- R74. -/
def decHint (x : BitVec 2) : Hint :=
  match x.toNat with
  | 0 => .normal | 1 => .streaming | 2 => .keep | _ => .noL1

/-- R74. -/
def encHint : Hint → BitVec 2
  | .normal => 0 | .streaming => 1 | .keep => 2 | .noL1 => 3

/-- R74: the misc field of a load. -/
def decLdMod (m : BitVec 6) : Except Reject LdMod :=
  match (m.extractLsb' 0 3).toNat with
  | 0 => .ok (.relaxed (m.getLsbD 5) (decHint (m.extractLsb' 3 2)))
  | 1 => do .ok (.acquire (← decScope (m.extractLsb' 3 3)))
  | 4 => do .ok (.sequential (← decScope (m.extractLsb' 3 3)))
  | _ => .error .misc

/-- R74. -/
def encLdMod : LdMod → BitVec 6
  | .relaxed sx h => BitVec.ofBool sx ++ encHint h ++ 0#3
  | .acquire sc => encScope sc ++ 1#3
  | .sequential sc => encScope sc ++ 4#3

/-- R61: the control field in bits [18:0], with the guard of bits `lo` up. -/
def decCtl (w : DWord) (lo : Nat) : Except Reject Ctl :=
  let sf := (fld w 0 4).toNat
  let pr := (fld w lo 3).toNat
  let mk (f : Option (Fin 12)) : Ctl :=
    { pr := if pr < 7 then some (Fin.ofNat 7 pr) else none, st := Fin.ofNat 8 (fld w 16 3).toNat,
      wm := fld w 4 12, sf := f }
  if sf < 12 then .ok (mk (some (Fin.ofNat 12 sf)))
  else if sf = 15 then .ok (mk none)
  else .error .flag

/-- R60: the guard field. -/
def encPr : Option (Fin 7) → BitVec 3
  | none => 7#3
  | some n => BitVec.ofNat 3 n.val

/-- R61: the control field. -/
def encCtl (c : Ctl) : BitVec 19 :=
  BitVec.ofNat 3 c.st.val ++ c.wm ++ (match c.sf with | none => 15#4 | some f => BitVec.ofNat 4 f.val)

/-- R60: an F word from its fields. -/
def packF (op : Nat) (c : Ctl) (dst sa sb : BitVec 8) (sc : BitVec 6) (da db : Bool) : DWord :=
  0#2 ++ BitVec.ofNat 8 op ++ encPr c.pr ++ dst ++ sa ++ sb ++ sc ++ BitVec.ofBool da ++ BitVec.ofBool db
    ++ encCtl c

/-- R73: an S word from its fields. -/
def packS (op : Nat) (c : Ctl) (a b x : BitVec 8) (misc : BitVec 6) : DWord :=
  3#2 ++ BitVec.ofNat 10 op ++ encPr c.pr ++ a ++ b ++ x ++ misc ++ encCtl c

/-- R60: the fields of an F word. -/
structure RawF where
  c : Ctl
  dst : BitVec 8
  sa : BitVec 8
  sb : BitVec 8
  sc : BitVec 6
  da : Bool
  db : Bool

/-- R60. -/
def rawF (w : DWord) : Except Reject RawF := do
  let c ← decCtl w 51
  .ok { c := c, dst := fld w 43 8, sa := fld w 35 8, sb := fld w 27 8, sc := fld w 21 6,
        da := w.getLsbD 20, db := w.getLsbD 19 }

/-- R73: the fields of an S word. -/
structure RawS where
  c : Ctl
  a : BitVec 8
  b : BitVec 8
  x : BitVec 8
  misc : BitVec 6

/-- R73. -/
def rawS (w : DWord) : Except Reject RawS := do
  let c ← decCtl w 49
  .ok { c := c, a := fld w 41 8, b := fld w 33 8, x := fld w 25 8, misc := fld w 19 6 }

/-- R68: a field that must hold its unused value. -/
def must {l : Nat} (x v : BitVec l) : Except Reject Unit := if x = v then .ok () else .error .unused

/-- R68: a dead bit that must be 0. -/
def mustNot (b : Bool) : Except Reject Unit := if b then .error .unused else .ok ()

/-- R74 or an entry's misc bits that must hold `v`. -/
def mustMisc {l : Nat} (x v : BitVec l) : Except Reject Unit := if x = v then .ok () else .error .misc

def RawF.a (r : RawF) : Except Reject SrcD := do .ok ⟨← decSrc r.sa, r.da⟩
def RawF.b (r : RawF) : Except Reject SrcD := do .ok ⟨← decSrc r.sb, r.db⟩
def RawF.noB (r : RawF) : Except Reject Unit := do must r.sb 0x94#8; mustNot r.db
def RawF.noA (r : RawF) : Except Reject Unit := do must r.sa 0x94#8; mustNot r.da
def RawF.noC (r : RawF) : Except Reject Unit := must r.sc 0x14#6

/-! ### Forms of the F format (R60, R89-R115, R185-R186) -/

def decF_dab (k : Dst → SrcD → SrcD → Instr) (r : RawF) : Except Reject Instr := do
  r.noC; .ok (k (← decDst r.dst) (← r.a) (← r.b))
def encF_dab (op : Nat) (c : Ctl) (d : Dst) (a b : SrcD) : DWord :=
  packF op c (encDst d) (encSrc a.sel) (encSrc b.sel) 0x14#6 a.dead b.dead

def decF_da (k : Dst → SrcD → Instr) (r : RawF) : Except Reject Instr := do
  r.noC; r.noB; .ok (k (← decDst r.dst) (← r.a))
def encF_da (op : Nat) (c : Ctl) (d : Dst) (a : SrcD) : DWord :=
  packF op c (encDst d) (encSrc a.sel) 0x94#8 0x14#6 a.dead false

def decF_dabL := decF_dab
def encF_dabL := encF_dab
def decF_daL := decF_da
def encF_daL := encF_da

def decF_dabc (k : Dst → SrcD → SrcD → SrcC → Instr) (r : RawF) : Except Reject Instr := do
  .ok (k (← decDst r.dst) (← r.a) (← r.b) (← decSrcC r.sc))
def encF_dabc (op : Nat) (c : Ctl) (d : Dst) (a b : SrcD) (x : SrcC) : DWord :=
  packF op c (encDst d) (encSrc a.sel) (encSrc b.sel) (encSrcC x) a.dead b.dead

def decF_sel (k : Dst → SrcD → SrcD → PCode → Instr) (r : RawF) : Except Reject Instr := do
  .ok (k (← decDst r.dst) (← r.a) (← r.b) (← decPCode r.sc))
def encF_sel (op : Nat) (c : Ctl) (d : Dst) (a b : SrcD) (q : PCode) : DWord :=
  packF op c (encDst d) (encSrc a.sel) (encSrc b.sel) (BitVec.ofNat 6 (encPCode q)) a.dead b.dead

def decF_dabm (k : Dst → SrcD → SrcD → RMode → Instr) (r : RawF) : Except Reject Instr := do
  .ok (k (← decDst r.dst) (← r.a) (← r.b) (← decRMode r.sc))
def encF_dabm (op : Nat) (c : Ctl) (d : Dst) (a b : SrcD) (m : RMode) : DWord :=
  packF op c (encDst d) (encSrc a.sel) (encSrc b.sel) (encRMode m) a.dead b.dead

def decF_dam (k : Dst → SrcD → RMode → Instr) (r : RawF) : Except Reject Instr := do
  r.noB; .ok (k (← decDst r.dst) (← r.a) (← decRMode r.sc))
def encF_dam (op : Nat) (c : Ctl) (d : Dst) (a : SrcD) (m : RMode) : DWord :=
  packF op c (encDst d) (encSrc a.sel) 0x94#8 (encRMode m) a.dead false

/-- R107: the control byte holds fmt, slot and sat. -/
def decF_pk (k : Dst → SrcD → NFmt → Fin 8 → Bool → RMode → Instr) (r : RawF) : Except Reject Instr := do
  mustNot r.db
  .ok (k (← decDst r.dst) (← r.a) (← decNFmt (r.sb.extractLsb' 0 4))
    (Fin.ofNat 8 (r.sb.extractLsb' 4 3).toNat) (r.sb.getLsbD 7) (← decRMode r.sc))
def encF_pk (op : Nat) (c : Ctl) (d : Dst) (a : SrcD) (f : NFmt) (slot : Fin 8) (sat : Bool) (m : RMode) : DWord :=
  packF op c (encDst d) (encSrc a.sel) (BitVec.ofBool sat ++ BitVec.ofNat 3 slot.val ++ encNFmt f)
    (encRMode m) a.dead false

/-- R108. -/
def decF_upk (k : Dst → SrcD → NFmt → Fin 8 → Instr) (r : RawF) : Except Reject Instr := do
  mustNot r.db; r.noC
  if r.sb.getLsbD 7 then .error .code
  else .ok (k (← decDst r.dst) (← r.a) (← decNFmt (r.sb.extractLsb' 0 4))
    (Fin.ofNat 8 (r.sb.extractLsb' 4 3).toNat))
def encF_upk (op : Nat) (c : Ctl) (d : Dst) (a : SrcD) (f : NFmt) (slot : Fin 8) : DWord :=
  packF op c (encDst d) (encSrc a.sel) (0#1 ++ BitVec.ofNat 3 slot.val ++ encNFmt f) 0x14#6 a.dead false

/-- R110: sb holds 0x00, or 0x80 for .sat. -/
def decF_cvti (k : Dst → SrcD → Bool → RMode → Instr) (r : RawF) : Except Reject Instr := do
  mustNot r.db
  if r.sb.extractLsb' 0 7 = 0#7 then
    .ok (k (← decDst r.dst) (← r.a) (r.sb.getLsbD 7) (← decRMode r.sc))
  else .error .code
def encF_cvti (op : Nat) (c : Ctl) (d : Dst) (a : SrcD) (sat : Bool) (m : RMode) : DWord :=
  packF op c (encDst d) (encSrc a.sel) (BitVec.ofBool sat ++ 0#7) (encRMode m) a.dead false

/-- R99. -/
def decF_p64 (k : PDst → PSrcD → PSrcD → Instr) (r : RawF) : Except Reject Instr := do
  r.noC; .ok (k (← decPDst r.dst) ⟨← decPSrc r.sa, r.da⟩ ⟨← decPSrc r.sb, r.db⟩)
def encF_p64 (op : Nat) (c : Ctl) (d : PDst) (a b : PSrcD) : DWord :=
  packF op c (encPDst d) (encPSrc a.sel) (encPSrc b.sel) 0x14#6 a.dead b.dead

def decF_p64s (k : PDst → PSrcD → SrcD → Instr) (r : RawF) : Except Reject Instr := do
  r.noC; .ok (k (← decPDst r.dst) ⟨← decPSrc r.sa, r.da⟩ (← r.b))
def encF_p64s (op : Nat) (c : Ctl) (d : PDst) (a : PSrcD) (n : SrcD) : DWord :=
  packF op c (encPDst d) (encPSrc a.sel) (encSrc n.sel) 0x14#6 a.dead n.dead

/-- R112. -/
def decF_setp (k : Fin 7 → SrcD → SrcD → Cond → Instr) (r : RawF) : Except Reject Instr := do
  .ok (k (← decPred r.dst) (← r.a) (← r.b) (← decCond r.sc))
def encF_setp (op : Nat) (c : Ctl) (p : Fin 7) (a b : SrcD) (q : Cond) : DWord :=
  packF op c (BitVec.ofNat 8 p.val) (encSrc a.sel) (encSrc b.sel) (BitVec.ofNat 6 (encCond q)) a.dead b.dead

/-- R113. -/
def decF_setpf (k : Fin 7 → SrcD → SrcD → FCond → Instr) (r : RawF) : Except Reject Instr := do
  .ok (k (← decPred r.dst) (← r.a) (← r.b) (← decFCond r.sc))
def encF_setpf (op : Nat) (c : Ctl) (p : Fin 7) (a b : SrcD) (q : FCond) : DWord :=
  packF op c (BitVec.ofNat 8 p.val) (encSrc a.sel) (encSrc b.sel) (encFCond q) a.dead b.dead

/-- R99, R112. -/
def decF_setp64 (k : Fin 7 → PSrcD → PSrcD → Cond → Instr) (r : RawF) : Except Reject Instr := do
  .ok (k (← decPred r.dst) ⟨← decPSrc r.sa, r.da⟩ ⟨← decPSrc r.sb, r.db⟩ (← decCond r.sc))
def encF_setp64 (op : Nat) (c : Ctl) (p : Fin 7) (a b : PSrcD) (q : Cond) : DWord :=
  packF op c (BitVec.ofNat 8 p.val) (encPSrc a.sel) (encPSrc b.sel) (BitVec.ofNat 6 (encCond q)) a.dead b.dead

/-- R114: sa and sb hold predicate codes; dead bits are 0. -/
def decF_pl2 (k : Fin 7 → PCode → PCode → Instr) (r : RawF) : Except Reject Instr := do
  r.noC; mustNot r.da; mustNot r.db
  .ok (k (← decPred r.dst) (← decPCode r.sa) (← decPCode r.sb))
def encF_pl2 (op : Nat) (c : Ctl) (p : Fin 7) (q1 q2 : PCode) : DWord :=
  packF op c (BitVec.ofNat 8 p.val) (BitVec.ofNat 8 (encPCode q1)) (BitVec.ofNat 8 (encPCode q2)) 0x14#6 false false

def decF_pl1 (k : Fin 7 → PCode → Instr) (r : RawF) : Except Reject Instr := do
  r.noC; r.noB; mustNot r.da
  .ok (k (← decPred r.dst) (← decPCode r.sa))
def encF_pl1 (op : Nat) (c : Ctl) (p : Fin 7) (q1 : PCode) : DWord :=
  packF op c (BitVec.ofNat 8 p.val) (BitVec.ofNat 8 (encPCode q1)) 0x94#8 0x14#6 false false

/-- R115: dst bits [6:0] hold the mask, bit 7 is 0. -/
def decF_v2p (k : BitVec 7 → SrcD → Instr) (r : RawF) : Except Reject Instr := do
  r.noC; r.noB
  if r.dst.getLsbD 7 then .error .code else .ok (k (r.dst.extractLsb' 0 7) (← r.a))
def encF_v2p (op : Nat) (c : Ctl) (m : BitVec 7) (a : SrcD) : DWord :=
  packF op c (0#1 ++ m) (encSrc a.sel) 0x94#8 0x14#6 a.dead false

def decF_p2v (k : Dst → Instr) (r : RawF) : Except Reject Instr := do
  r.noC; r.noA; r.noB; .ok (k (← decDst r.dst))
def encF_p2v (op : Nat) (c : Ctl) (d : Dst) : DWord :=
  packF op c (encDst d) 0x94#8 0x94#8 0x14#6 false false

/-- R185, R186: sc holds the segment code. -/
def decF_lx (k : Dst → SrcD → SrcD → Fin 7 → Instr) (r : RawF) : Except Reject Instr := do
  .ok (k (← decDst r.dst) (← r.a) (← r.b) (← decNum 7 r.sc))
def encF_lx (op : Nat) (c : Ctl) (d : Dst) (a j : SrcD) (g : Fin 7) : DWord :=
  packF op c (encDst d) (encSrc a.sel) (encSrc j.sel) (BitVec.ofNat 6 g.val) a.dead j.dead

def decF_poll (k : Fin 7 → PCode → Fin 7 → Instr) (r : RawF) : Except Reject Instr := do
  r.noB; mustNot r.da; .ok (k (← decPred r.dst) (← decPCode r.sa) (← decNum 7 r.sc))
def encF_poll (op : Nat) (c : Ctl) (p : Fin 7) (q : PCode) (g : Fin 7) : DWord :=
  packF op c (BitVec.ofNat 8 p.val) (BitVec.ofNat 8 (encPCode q)) 0x94#8 (BitVec.ofNat 6 g.val) false false

def decF_pollm (k : Dst → PCode → Fin 7 → Instr) (r : RawF) : Except Reject Instr := do
  r.noB; mustNot r.da; .ok (k (← decDst r.dst) (← decPCode r.sa) (← decNum 7 r.sc))
def encF_pollm (op : Nat) (c : Ctl) (d : Dst) (q : PCode) (g : Fin 7) : DWord :=
  packF op c (encDst d) (BitVec.ofNat 8 (encPCode q)) 0x94#8 (BitVec.ofNat 6 g.val) false false

def decF_xda (k : Dst → SrcD → Fin 7 → Instr) (r : RawF) : Except Reject Instr := do
  r.noB; .ok (k (← decDst r.dst) (← r.a) (← decNum 7 r.sc))
def encF_xda (op : Nat) (c : Ctl) (d : Dst) (a : SrcD) (g : Fin 7) : DWord :=
  packF op c (encDst d) (encSrc a.sel) 0x94#8 (BitVec.ofNat 6 g.val) a.dead false

def decF_peers := decF_xda
def encF_peers := encF_xda

def decF_elect (k : Fin 7 → Fin 7 → Instr) (r : RawF) : Except Reject Instr := do
  r.noB; r.noA; .ok (k (← decPred r.dst) (← decNum 7 r.sc))
def encF_elect (op : Nat) (c : Ctl) (p : Fin 7) (g : Fin 7) : DWord :=
  packF op c (BitVec.ofNat 8 p.val) 0x94#8 0x94#8 (BitVec.ofNat 6 g.val) false false

/-! ### Forms of the S format -/

/-- A capability field that may be absent, holding 0x00 then. -/
def decCapOpt (present : Bool) (x : BitVec 8) : Except Reject (Option CapSel) := do
  if present then .ok (some (← decCap x)) else do must x 0#8; .ok none
def encCapOpt : Option CapSel → BitVec 8
  | none => 0#8
  | some c => encCap c

def decS_ld (k : Dst → CapSel → Src → LdMod → Instr) (r : RawS) : Except Reject Instr := do
  .ok (k (← decDst r.a) (← decCap r.b) (← decSrc r.x) (← decLdMod r.misc))
def encS_ld (op : Nat) (c : Ctl) (d : Dst) (b : CapSel) (off : Src) (m : LdMod) : DWord :=
  packS op c (encDst d) (encCap b) (encSrc off) (encLdMod m)
def decS_ldw := decS_ld
def encS_ldw := encS_ld

def decS_ld64 (k : Fin 64 → CapSel → Src → LdMod → Instr) (r : RawS) : Except Reject Instr := do
  .ok (k (← decMul 2 64 r.a) (← decCap r.b) (← decSrc r.x) (← decLdMod r.misc))
def encS_ld64 (op : Nat) (c : Ctl) (d : Fin 64) (b : CapSel) (off : Src) (m : LdMod) : DWord :=
  packS op c (encMul 2 d) (encCap b) (encSrc off) (encLdMod m)

def decS_ld128 (k : Fin 32 → CapSel → Src → LdMod → Instr) (r : RawS) : Except Reject Instr := do
  .ok (k (← decMul 4 32 r.a) (← decCap r.b) (← decSrc r.x) (← decLdMod r.misc))
def encS_ld128 (op : Nat) (c : Ctl) (d : Fin 32) (b : CapSel) (off : Src) (m : LdMod) : DWord :=
  packS op c (encMul 4 d) (encCap b) (encSrc off) (encLdMod m)

def decS_ldc (k : CapSel → CapSel → Src → LdMod → Instr) (r : RawS) : Except Reject Instr := do
  .ok (k (← decCap r.a) (← decCap r.b) (← decSrc r.x) (← decLdMod r.misc))
def encS_ldc (op : Nat) (c : Ctl) (d : CapSel) (b : CapSel) (off : Src) (m : LdMod) : DWord :=
  packS op c (encCap d) (encCap b) (encSrc off) (encLdMod m)

def decS_st (k : Src → CapSel → Src → Scope → StOrd → Instr) (r : RawS) : Except Reject Instr := do
  .ok (k (← decSrc r.a) (← decCap r.b) (← decSrc r.x) (← decScope (r.misc.extractLsb' 3 3))
    (← decStOrd (r.misc.extractLsb' 0 3)))
def encS_st (op : Nat) (c : Ctl) (a : Src) (b : CapSel) (off : Src) (sc : Scope) (o : StOrd) : DWord :=
  packS op c (encSrc a) (encCap b) (encSrc off) (encScope sc ++ encStOrd o)

def decS_st64 (k : PSrc → CapSel → Src → Scope → StOrd → Instr) (r : RawS) : Except Reject Instr := do
  .ok (k (← decPSrc r.a) (← decCap r.b) (← decSrc r.x) (← decScope (r.misc.extractLsb' 3 3))
    (← decStOrd (r.misc.extractLsb' 0 3)))
def encS_st64 (op : Nat) (c : Ctl) (a : PSrc) (b : CapSel) (off : Src) (sc : Scope) (o : StOrd) : DWord :=
  packS op c (encPSrc a) (encCap b) (encSrc off) (encScope sc ++ encStOrd o)

def decS_st128 (k : Fin 32 → CapSel → Src → Scope → StOrd → Instr) (r : RawS) : Except Reject Instr := do
  .ok (k (← decMul 4 32 r.a) (← decCap r.b) (← decSrc r.x) (← decScope (r.misc.extractLsb' 3 3))
    (← decStOrd (r.misc.extractLsb' 0 3)))
def encS_st128 (op : Nat) (c : Ctl) (a : Fin 32) (b : CapSel) (off : Src) (sc : Scope) (o : StOrd) : DWord :=
  packS op c (encMul 4 a) (encCap b) (encSrc off) (encScope sc ++ encStOrd o)

def decS_stc (k : CapSel → CapSel → Src → Scope → StOrd → Instr) (r : RawS) : Except Reject Instr := do
  .ok (k (← decCap r.a) (← decCap r.b) (← decSrc r.x) (← decScope (r.misc.extractLsb' 3 3))
    (← decStOrd (r.misc.extractLsb' 0 3)))
def encS_stc (op : Nat) (c : Ctl) (a : CapSel) (b : CapSel) (off : Src) (sc : Scope) (o : StOrd) : DWord :=
  packS op c (encCap a) (encCap b) (encSrc off) (encScope sc ++ encStOrd o)

/-- R151: a destination field, or 0x94 to discard the old value. -/
def decDstOpt (x : BitVec 8) : Except Reject (Option Dst) :=
  if x = 0x94#8 then .ok none else do .ok (some (← decDst x))
def encDstOpt : Option Dst → BitVec 8
  | none => 0x94#8
  | some d => encDst d
def decMulOpt (step count : Nat) [NeZero count] (x : BitVec 8) : Except Reject (Option (Fin count)) :=
  if x = 0x94#8 then .ok none else do .ok (some (← decMul step count x))
def encMulOpt {count : Nat} (step : Nat) : Option (Fin count) → BitVec 8
  | none => 0x94#8
  | some d => encMul step d

def decS_atom (k : Option Dst → CapSel → Src → Scope → Order → Instr) (r : RawS) : Except Reject Instr := do
  .ok (k (← decDstOpt r.a) (← decCap r.b) (← decSrc r.x) (← decScope (r.misc.extractLsb' 3 3))
    (← decOrder (r.misc.extractLsb' 0 3)))
def encS_atom (op : Nat) (c : Ctl) (d : Option Dst) (b : CapSel) (x : Src) (sc : Scope) (o : Order) : DWord :=
  packS op c (encDstOpt d) (encCap b) (encSrc x) (encScope sc ++ encOrder o)

def decS_cas (k : Option Dst → CapSel → Fin 64 → Scope → Order → Instr) (r : RawS) : Except Reject Instr := do
  .ok (k (← decDstOpt r.a) (← decCap r.b) (← decMul 2 64 r.x) (← decScope (r.misc.extractLsb' 3 3))
    (← decOrder (r.misc.extractLsb' 0 3)))
def encS_cas (op : Nat) (c : Ctl) (d : Option Dst) (b : CapSel) (x : Fin 64) (sc : Scope) (o : Order) : DWord :=
  packS op c (encDstOpt d) (encCap b) (encMul 2 x) (encScope sc ++ encOrder o)

def decS_add64 (k : Option (Fin 64) → CapSel → PSrc → Scope → Order → Instr) (r : RawS) : Except Reject Instr := do
  .ok (k (← decMulOpt 2 64 r.a) (← decCap r.b) (← decPSrc r.x) (← decScope (r.misc.extractLsb' 3 3))
    (← decOrder (r.misc.extractLsb' 0 3)))
def encS_add64 (op : Nat) (c : Ctl) (d : Option (Fin 64)) (b : CapSel) (x : PSrc) (sc : Scope) (o : Order) : DWord :=
  packS op c (encMulOpt 2 d) (encCap b) (encPSrc x) (encScope sc ++ encOrder o)

def decS_cas64 (k : Option (Fin 64) → CapSel → Fin 32 → Scope → Order → Instr) (r : RawS) : Except Reject Instr := do
  .ok (k (← decMulOpt 2 64 r.a) (← decCap r.b) (← decMul 4 32 r.x) (← decScope (r.misc.extractLsb' 3 3))
    (← decOrder (r.misc.extractLsb' 0 3)))
def encS_cas64 (op : Nat) (c : Ctl) (d : Option (Fin 64)) (b : CapSel) (x : Fin 32) (sc : Scope) (o : Order) : DWord :=
  packS op c (encMulOpt 2 d) (encCap b) (encMul 4 x) (encScope sc ++ encOrder o)

def decS_cas128 (k : Option (Fin 32) → CapSel → Fin 16 → Scope → Order → Instr) (r : RawS) : Except Reject Instr := do
  .ok (k (← decMulOpt 4 32 r.a) (← decCap r.b) (← decMul 8 16 r.x) (← decScope (r.misc.extractLsb' 3 3))
    (← decOrder (r.misc.extractLsb' 0 3)))
def encS_cas128 (op : Nat) (c : Ctl) (d : Option (Fin 32)) (b : CapSel) (x : Fin 16) (sc : Scope) (o : Order) : DWord :=
  packS op c (encMulOpt 4 d) (encCap b) (encMul 8 x) (encScope sc ++ encOrder o)

/-- R155. -/
def decS_fence (k : Scope → Order → Instr) (r : RawS) : Except Reject Instr := do
  must r.a 0#8; must r.b 0#8; must r.x 0#8
  .ok (k (← decScope (r.misc.extractLsb' 3 3)) (← decOrder (r.misc.extractLsb' 0 3)))
def encS_fence (op : Nat) (c : Ctl) (sc : Scope) (o : Order) : DWord :=
  packS op c 0#8 0#8 0#8 (encScope sc ++ encOrder o)

/-- R157: ordering 0 or 1. -/
def decS_waitne (k : Src → CapSel → Src → Scope → Bool → Instr) (r : RawS) : Except Reject Instr := do
  mustMisc (r.misc.extractLsb' 1 2) 0#2
  .ok (k (← decSrc r.a) (← decCap r.b) (← decSrc r.x) (← decScope (r.misc.extractLsb' 3 3)) (r.misc.getLsbD 0))
def encS_waitne (op : Nat) (c : Ctl) (a : Src) (b : CapSel) (off : Src) (sc : Scope) (acq : Bool) : DWord :=
  packS op c (encSrc a) (encCap b) (encSrc off) (encScope sc ++ 0#2 ++ BitVec.ofBool acq)

/-- R158. -/
def decS_prefetch (k : CapSel → Src → Hint → Instr) (r : RawS) : Except Reject Instr := do
  must r.a 0#8; mustMisc (r.misc.extractLsb' 0 3) 0#3; mustMisc (r.misc.extractLsb' 5 1) 0#1
  .ok (k (← decCap r.b) (← decSrc r.x) (decHint (r.misc.extractLsb' 3 2)))
def encS_prefetch (op : Nat) (c : Ctl) (b : CapSel) (off : Src) (h : Hint) : DWord :=
  packS op c 0#8 (encCap b) (encSrc off) (0#1 ++ encHint h ++ 0#3)

/-! Capability block (R131): misc is 0. -/

def decS_cq (k : Fin 64 → CapSel → Instr) (r : RawS) : Except Reject Instr := do
  must r.x 0#8; mustMisc r.misc 0#6; .ok (k (← decMul 2 64 r.a) (← decCap r.b))
def encS_cq (op : Nat) (c : Ctl) (d : Fin 64) (b : CapSel) : DWord := packS op c (encMul 2 d) (encCap b) 0#8 0#6

def decS_cd (k : Dst → CapSel → Instr) (r : RawS) : Except Reject Instr := do
  must r.x 0#8; mustMisc r.misc 0#6; .ok (k (← decDst r.a) (← decCap r.b))
def encS_cd (op : Nat) (c : Ctl) (d : Dst) (b : CapSel) : DWord := packS op c (encDst d) (encCap b) 0#8 0#6

def decS_cx (k : CapSel → CapSel → PSrc → Instr) (r : RawS) : Except Reject Instr := do
  mustMisc r.misc 0#6; .ok (k (← decCap r.a) (← decCap r.b) (← decPSrc r.x))
def encS_cx (op : Nat) (c : Ctl) (d b : CapSel) (x : PSrc) : DWord := packS op c (encCap d) (encCap b) (encPSrc x) 0#6

def decS_cm (k : CapSel → CapSel → Src → Instr) (r : RawS) : Except Reject Instr := do
  mustMisc r.misc 0#6; .ok (k (← decCap r.a) (← decCap r.b) (← decSrc r.x))
def encS_cm (op : Nat) (c : Ctl) (d b : CapSel) (x : Src) : DWord := packS op c (encCap d) (encCap b) (encSrc x) 0#6

def decS_cc (k : CapSel → CapSel → CapSel → Instr) (r : RawS) : Except Reject Instr := do
  mustMisc r.misc 0#6; .ok (k (← decCap r.a) (← decCap r.b) (← decCap r.x))
def encS_cc (op : Nat) (c : Ctl) (d b x : CapSel) : DWord := packS op c (encCap d) (encCap b) (encCap x) 0#6

def decS_c2 (k : CapSel → CapSel → Instr) (r : RawS) : Except Reject Instr := do
  must r.x 0#8; mustMisc r.misc 0#6; .ok (k (← decCap r.a) (← decCap r.b))
def encS_c2 (op : Nat) (c : Ctl) (d b : CapSel) : DWord := packS op c (encCap d) (encCap b) 0#8 0#6

def decS_cdiff (k : Fin 64 → CapSel → CapSel → Instr) (r : RawS) : Except Reject Instr := do
  mustMisc r.misc 0#6; .ok (k (← decMul 2 64 r.a) (← decCap r.b) (← decCap r.x))
def encS_cdiff (op : Nat) (c : Ctl) (d : Fin 64) (b x : CapSel) : DWord :=
  packS op c (encMul 2 d) (encCap b) (encCap x) 0#6

def decS_cp (k : Fin 7 → CapSel → CapSel → Instr) (r : RawS) : Except Reject Instr := do
  mustMisc r.misc 0#6; .ok (k (← decPred r.a) (← decCap r.b) (← decCap r.x))
def encS_cp (op : Nat) (c : Ctl) (p : Fin 7) (b x : CapSel) : DWord :=
  packS op c (BitVec.ofNat 8 p.val) (encCap b) (encCap x) 0#6

def decS_cl (k : Fin 64 → PSrc → Instr) (r : RawS) : Except Reject Instr := do
  must r.b 0#8; mustMisc r.misc 0#6; .ok (k (← decMul 2 64 r.a) (← decPSrc r.x))
def encS_cl (op : Nat) (c : Ctl) (d : Fin 64) (x : PSrc) : DWord := packS op c (encMul 2 d) 0#8 (encPSrc x) 0#6

/-! Copy engine, barriers and the rest of block 0x180 (07_group_team_instructions). -/

/-- R208: misc [24:22] scope, [21:20] zero, [19] tag mode. -/
def decS_copy (k : CapSel → CapSel → PSrc → Scope → Bool → Instr) (r : RawS) : Except Reject Instr := do
  mustMisc (r.misc.extractLsb' 1 2) 0#2
  .ok (k (← decCap r.a) (← decCap r.b) (← decPSrc r.x) (← decScope (r.misc.extractLsb' 3 3)) (r.misc.getLsbD 0))
def encS_copy (op : Nat) (c : Ctl) (a b : CapSel) (x : PSrc) (sc : Scope) (tm : Bool) : DWord :=
  packS op c (encCap a) (encCap b) (encPSrc x) (encScope sc ++ 0#2 ++ BitVec.ofBool tm)

/-- R208, R213: `cpfill` has no tag mode. -/
def decS_cpfill (k : CapSel → Src → PSrc → Scope → Instr) (r : RawS) : Except Reject Instr := do
  mustMisc (r.misc.extractLsb' 0 3) 0#3
  .ok (k (← decCap r.a) (← decSrc r.b) (← decPSrc r.x) (← decScope (r.misc.extractLsb' 3 3)))
def encS_cpfill (op : Nat) (c : Ctl) (a : CapSel) (v : Src) (x : PSrc) (sc : Scope) : DWord :=
  packS op c (encCap a) (encSrc v) (encPSrc x) (encScope sc ++ 0#3)

def decS_wait (k : Src → CapSel → Src → Instr) (r : RawS) : Except Reject Instr := do
  mustMisc r.misc 0#6; .ok (k (← decSrc r.a) (← decCap r.b) (← decSrc r.x))
def encS_wait (op : Nat) (c : Ctl) (a : Src) (b : CapSel) (off : Src) : DWord :=
  packS op c (encSrc a) (encCap b) (encSrc off) 0#6

/-- An operand-cache entry field 0x80-0x8F (R201). -/
def decOc (x : BitVec 8) : Except Reject (Fin 16) :=
  if 0x80 ≤ x.toNat ∧ x.toNat < 0x90 then .ok (Fin.ofNat 16 x.toNat) else .error .code
def encOc (o : Fin 16) : BitVec 8 := BitVec.ofNat 8 (0x80 + o.val)

def decS_ocfill (k : Fin 16 → Fin 128 → Fin 17 → Instr) (r : RawS) : Except Reject Instr := do
  mustMisc r.misc 0#6; .ok (k (← decOc r.a) (← decNum 128 r.b) (← decNum 17 r.x))
def encS_ocfill (op : Nat) (c : Ctl) (o : Fin 16) (v : Fin 128) (n : Fin 17) : DWord :=
  packS op c (encOc o) (BitVec.ofNat 8 v.val) (BitVec.ofNat 8 n.val) 0#6

def decS_ocspill (k : Fin 128 → Fin 16 → Fin 17 → Instr) (r : RawS) : Except Reject Instr := do
  mustMisc r.misc 0#6; .ok (k (← decNum 128 r.b) (← decOc r.a) (← decNum 17 r.x))
def encS_ocspill (op : Nat) (c : Ctl) (v : Fin 128) (o : Fin 16) (n : Fin 17) : DWord :=
  packS op c (encOc o) (BitVec.ofNat 8 v.val) (BitVec.ofNat 8 n.val) 0#6

def decS_carve (k : Fin 7 → Src → Fin 8 → Instr) (r : RawS) : Except Reject Instr := do
  mustMisc r.misc 0#6; .ok (k (← decPred r.a) (← decSrc r.b) (← decNum 8 r.x))
def encS_carve (op : Nat) (c : Ctl) (p : Fin 7) (x : Src) (n : Fin 8) : DWord :=
  packS op c (BitVec.ofNat 8 p.val) (encSrc x) (BitVec.ofNat 8 n.val) 0#6

def decS_bar (k : Fin 8 → Instr) (r : RawS) : Except Reject Instr := do
  must r.b 0#8; must r.x 0#8; mustMisc r.misc 0#6; .ok (k (← decNum 8 r.a))
def encS_bar (op : Nat) (c : Ctl) (n : Fin 8) : DWord := packS op c (BitVec.ofNat 8 n.val) 0#8 0#8 0#6

def decS_swin (k : Src → Instr) (r : RawS) : Except Reject Instr := do
  must r.b 0#8; must r.x 0#8; mustMisc r.misc 0#6; .ok (k (← decSrc r.a))
def encS_swin (op : Nat) (c : Ctl) (x : Src) : DWord := packS op c (encSrc x) 0#8 0#8 0#6

/-- R198: a scalar selector 0xC0-0xFF, or a thread register; 0xFE as a destination is a scalar selector here. -/
def decSDst (x : BitVec 8) : Except Reject SDst :=
  if 0xC0 ≤ x.toNat then .ok (.s (Fin.ofNat 64 x.toNat)) else do .ok (.reg (← decDst x))
def encSDst : SDst → BitVec 8
  | .reg d => encDst d
  | .s i => BitVec.ofNat 8 (0xC0 + i.val)

def decS_sread (k : SDst → Fin 16 → Instr) (r : RawS) : Except Reject Instr := do
  must r.x 0#8; mustMisc r.misc 0#6; .ok (k (← decSDst r.a) (← decNum 16 r.b))
def encS_sread (op : Nat) (c : Ctl) (d : SDst) (n : Fin 16) : DWord :=
  packS op c (encSDst d) (BitVec.ofNat 8 n.val) 0#8 0#6

/-- R33, R198: only %fps, number 0x08, is writable. -/
def decS_swrite (k : Src → Instr) (r : RawS) : Except Reject Instr := do
  must r.x 0#8; mustMisc r.misc 0#6
  if r.b = 0x08#8 then .ok (k (← decSrc r.a)) else .error .code
def encS_swrite (op : Nat) (c : Ctl) (x : Src) : DWord := packS op c (encSrc x) 0x08#8 0#8 0#6

def decS_rndc (k : Dst → Instr) (r : RawS) : Except Reject Instr := do
  must r.b 0#8; must r.x 0#8; mustMisc r.misc 0#6; .ok (k (← decDst r.a))
def encS_rndc (op : Nat) (c : Ctl) (d : Dst) : DWord := packS op c (encDst d) 0#8 0#8 0#6

/-- R217, R259: a 16-bit number, low byte in a and high byte in b. -/
def decS_yield (k : BitVec 16 → Instr) (r : RawS) : Except Reject Instr := do
  must r.x 0#8; mustMisc r.misc 0#6; .ok (k (r.b ++ r.a))
def encS_yield (op : Nat) (c : Ctl) (n : BitVec 16) : DWord :=
  packS op c (n.extractLsb' 0 8) (n.extractLsb' 8 8) 0#8 0#6
def decS_trap := decS_yield
def encS_trap := encS_yield

def decS_xset (k : Fin 4 → Src → Instr) (r : RawS) : Except Reject Instr := do
  must r.x 0#8; mustMisc r.misc 0#6; .ok (k (← decNum 4 r.a) (← decSrc r.b))
def encS_xset (op : Nat) (c : Ctl) (n : Fin 4) (x : Src) : DWord :=
  packS op c (BitVec.ofNat 8 n.val) (encSrc x) 0#8 0#6

/-- R194: a scalar destination 0xC0-0xFF. -/
def decScl (x : BitVec 8) : Except Reject (Fin 64) :=
  if 0xC0 ≤ x.toNat then .ok (Fin.ofNat 64 x.toNat) else .error .destination
def encScl (i : Fin 64) : BitVec 8 := BitVec.ofNat 8 (0xC0 + i.val)

def decS_sc2 (k : Fin 64 → Src → Src → Instr) (r : RawS) : Except Reject Instr := do
  mustMisc r.misc 0#6; .ok (k (← decScl r.a) (← decSrc r.b) (← decSrc r.x))
def encS_sc2 (op : Nat) (c : Ctl) (d : Fin 64) (x y : Src) : DWord :=
  packS op c (encScl d) (encSrc x) (encSrc y) 0#6

/-- R195: misc [21:19] condition, [22] unsigned, [24:23] zero. -/
def decS_setps (k : Fin 7 → Src → Src → Cond → Bool → Instr) (r : RawS) : Except Reject Instr := do
  mustMisc (r.misc.extractLsb' 4 2) 0#2
  .ok (k (← decPred r.a) (← decSrc r.b) (← decSrc r.x) (← decCond (r.misc.extractLsb' 0 3)) (r.misc.getLsbD 3))
def encS_setps (op : Nat) (c : Ctl) (p : Fin 7) (x y : Src) (q : Cond) (un : Bool) : DWord :=
  packS op c (BitVec.ofNat 8 p.val) (encSrc x) (encSrc y) (0#2 ++ BitVec.ofBool un ++ BitVec.ofNat 3 (encCond q))

def decS_v2s (k : Fin 64 → Src → Instr) (r : RawS) : Except Reject Instr := do
  must r.x 0#8; mustMisc r.misc 0#6; .ok (k (← decScl r.a) (← decSrc r.b))
def encS_v2s (op : Nat) (c : Ctl) (d : Fin 64) (x : Src) : DWord := packS op c (encScl d) (encSrc x) 0#8 0#6

/-! Matrix block (R233). -/

def decS_mldb (k : Fin 32 → CapSel → Src → Instr) (r : RawS) : Except Reject Instr := do
  mustMisc r.misc 0#6; .ok (k (← decNum 32 r.a) (← decCap r.b) (← decSrc r.x))
def encS_mldb (op : Nat) (c : Ctl) (f : Fin 32) (b : CapSel) (x : Src) : DWord :=
  packS op c (BitVec.ofNat 8 f.val) (encCap b) (encSrc x) 0#6

def decS_mbeg (k : Fin 32 → Fin 32 → Fin 3 → Fin 4 → Src → Instr) (r : RawS) : Except Reject Instr := do
  mustMisc (r.misc.extractLsb' 0 2) 0#2
  .ok (k (← decNum 32 r.a) (← decNum 32 r.b) (← decNum 3 (r.misc.extractLsb' 4 2))
    (Fin.ofNat 4 (r.misc.extractLsb' 2 2).toNat) (← decSrc r.x))
def encS_mbeg (op : Nat) (c : Ctl) (af bf : Fin 32) (o : Fin 3) (m : Fin 4) (x : Src) : DWord :=
  packS op c (BitVec.ofNat 8 af.val) (BitVec.ofNat 8 bf.val) (encSrc x)
    (BitVec.ofNat 2 o.val ++ BitVec.ofNat 2 m.val ++ 0#2)

def decS_mma (k : Fin 8 → CapSel → Src → Instr) (r : RawS) : Except Reject Instr := do
  mustMisc r.misc 0#6; .ok (k (← decNum 8 r.a) (← decCap r.b) (← decSrc r.x))
def encS_mma (op : Nat) (c : Ctl) (g : Fin 8) (b : CapSel) (x : Src) : DWord :=
  packS op c (BitVec.ofNat 8 g.val) (encCap b) (encSrc x) 0#6

/-- R233: misc [19] 1 for .noc, with c = 0x00. -/
def decS_mend (k : Src → CapSel → Option CapSel → Instr) (r : RawS) : Except Reject Instr := do
  mustMisc (r.misc.extractLsb' 1 5) 0#5
  .ok (k (← decSrc r.a) (← decCap r.b) (← decCapOpt (!r.misc.getLsbD 0) r.x))
def encS_mend (op : Nat) (c : Ctl) (x : Src) (b : CapSel) (cc : Option CapSel) : DWord :=
  packS op c (encSrc x) (encCap b) (encCapOpt cc) (0#5 ++ BitVec.ofBool cc.isNone)

def decS_mzero := decS_swin
def encS_mzero := encS_swin

def decS_mrd (k : Fin 16 → Src → Instr) (r : RawS) : Except Reject Instr := do
  must r.b 0#8; mustMisc r.misc 0#6; .ok (k (← decMul 8 16 r.a) (← decSrc r.x))
def encS_mrd (op : Nat) (c : Ctl) (d : Fin 16) (x : Src) : DWord := packS op c (encMul 8 d) 0#8 (encSrc x) 0#6

def decS_mstat (k : Dst → Src → Instr) (r : RawS) : Except Reject Instr := do
  must r.b 0#8; mustMisc r.misc 0#6; .ok (k (← decDst r.a) (← decSrc r.x))
def encS_mstat (op : Nat) (c : Ctl) (d : Dst) (x : Src) : DWord := packS op c (encDst d) 0#8 (encSrc x) 0#6

/-! Task block (11_cluster_grid_tasks). -/

def decS_spawn (k : Fin 32 → Instr) (r : RawS) : Except Reject Instr := do
  must r.b 0#8; must r.x 0#8; mustMisc r.misc 0#6; .ok (k (← decMul 4 32 r.a))
def encS_spawn (op : Nat) (c : Ctl) (v : Fin 32) : DWord := packS op c (encMul 4 v) 0#8 0#8 0#6

/-- R291: misc [24:22] scope; `tend.nc` holds b = 0x00 and misc [19] = 1. -/
def decS_tend (k : Option CapSel → Scope → Instr) (r : RawS) : Except Reject Instr := do
  must r.a 0#8; must r.x 0#8; mustMisc (r.misc.extractLsb' 1 2) 0#2
  .ok (k (← decCapOpt (!r.misc.getLsbD 0) r.b) (← decScope (r.misc.extractLsb' 3 3)))
def encS_tend (op : Nat) (c : Ctl) (b : Option CapSel) (sc : Scope) : DWord :=
  packS op c 0#8 (encCapOpt b) 0#8 (encScope sc ++ 0#2 ++ BitVec.ofBool b.isNone)

/-- R292: misc [21:19] holds 1. -/
def decS_join (k : CapSel → Src → Scope → Instr) (r : RawS) : Except Reject Instr := do
  must r.a 0#8; mustMisc (r.misc.extractLsb' 0 3) 1#3
  .ok (k (← decCap r.b) (← decSrc r.x) (← decScope (r.misc.extractLsb' 3 3)))
def encS_join (op : Nat) (c : Ctl) (b : CapSel) (off : Src) (sc : Scope) : DWord :=
  packS op c 0#8 (encCap b) (encSrc off) (encScope sc ++ 1#3)

def decS_launch (k : CapSel → Src → Instr) (r : RawS) : Except Reject Instr := do
  must r.a 0#8; mustMisc r.misc 0#6; .ok (k (← decCap r.b) (← decSrc r.x))
def encS_launch (op : Nat) (c : Ctl) (b : CapSel) (off : Src) : DWord :=
  packS op c 0#8 (encCap b) (encSrc off) 0#6

/-- R285, R286: misc [21:19] holds `o`, 1 for `evwait` and 0 for `evpub`. -/
def decS_ev (o : BitVec 3) (k : Src → CapSel → Src → Scope → Instr) (r : RawS) : Except Reject Instr := do
  mustMisc (r.misc.extractLsb' 0 3) o
  .ok (k (← decSrc r.a) (← decCap r.b) (← decSrc r.x) (← decScope (r.misc.extractLsb' 3 3)))
def encS_ev (o : BitVec 3) (op : Nat) (c : Ctl) (g : Src) (b : CapSel) (off : Src) (sc : Scope) : DWord :=
  packS op c (encSrc g) (encCap b) (encSrc off) (encScope sc ++ o)

def decS_dqinfo (k : Dst → Fin 4 → Instr) (r : RawS) : Except Reject Instr := do
  must r.b 0#8; mustMisc r.misc 0#6; .ok (k (← decDst r.a) (← decNum 4 r.x))
def encS_dqinfo (op : Nat) (c : Ctl) (d : Dst) (item : Fin 4) : DWord :=
  packS op c (encDst d) 0#8 (BitVec.ofNat 8 item.val) 0#6

/-! Kernel block (R345). -/

/-- A Q field that is sent, or 0x00 with .nc. -/
def decQ (present : Bool) (x : BitVec 8) : Except Reject (Option (Fin 31)) := do
  if present then .ok (some (← decNum 31 x)) else do must x 0#8; .ok none
def encQ : Option (Fin 31) → BitVec 8
  | none => 0#8
  | some q => BitVec.ofNat 8 q.val

def decS_post (k : Fin 16 → CapSel → Option (Fin 31) → Instr) (r : RawS) : Except Reject Instr := do
  mustMisc (r.misc.extractLsb' 1 5) 0#5
  .ok (k (← decMul 8 16 r.a) (← decCap r.b) (← decQ (r.misc.getLsbD 0) r.x))
def encS_post (op : Nat) (c : Ctl) (m : Fin 16) (e : CapSel) (q : Option (Fin 31)) : DWord :=
  packS op c (encMul 8 m) (encCap e) (encQ q) (0#5 ++ BitVec.ofBool q.isSome)

def decS_take (k : Fin 16 → CapSel → Fin 30 → Instr) (r : RawS) : Except Reject Instr := do
  mustMisc r.misc 0#6; .ok (k (← decMul 8 16 r.a) (← decCap r.b) (← decNum 30 r.x))
def encS_take (op : Nat) (c : Ctl) (m : Fin 16) (e : CapSel) (q : Fin 30) : DWord :=
  packS op c (encMul 8 m) (encCap e) (BitVec.ofNat 8 q.val) 0#6

def decS_ask (k : Option (Fin 7) → Fin 16 → CapSel → Fin 30 → Bool → Instr) (r : RawS) : Except Reject Instr := do
  mustMisc (r.misc.extractLsb' 1 2) 0#2
  .ok (k (decPredOpt (r.misc.extractLsb' 3 3)) (← decMul 8 16 r.a) (← decCap r.b) (← decNum 30 r.x) (r.misc.getLsbD 0))
def encS_ask (op : Nat) (c : Ctl) (p : Option (Fin 7)) (m : Fin 16) (e : CapSel) (q : Fin 30) (qs : Bool) : DWord :=
  packS op c (encMul 8 m) (encCap e) (BitVec.ofNat 8 q.val) (encPredOpt p ++ 0#2 ++ BitVec.ofBool qs)

/-- misc [24:20] holds Q, [19] quads sent; c is the endpoint. -/
def decS_settle (k : Fin 16 → CapSel → CapSel → Fin 30 → Bool → Instr) (r : RawS) : Except Reject Instr := do
  .ok (k (← decMul 8 16 r.a) (← decCap r.b) (← decCap r.x) (← decNum 30 (r.misc.extractLsb' 1 5)) (r.misc.getLsbD 0))
def encS_settle (op : Nat) (c : Ctl) (m : Fin 16) (r e : CapSel) (q : Fin 30) (qs : Bool) : DWord :=
  packS op c (encMul 8 m) (encCap r) (encCap e) (BitVec.ofNat 5 q.val ++ BitVec.ofBool qs)

def decS_posttry (k : Option (Fin 7) → Fin 16 → CapSel → Option (Fin 31) → Instr) (r : RawS) : Except Reject Instr := do
  mustMisc (r.misc.extractLsb' 1 2) 0#2
  .ok (k (decPredOpt (r.misc.extractLsb' 3 3)) (← decMul 8 16 r.a) (← decCap r.b) (← decQ (r.misc.getLsbD 0) r.x))
def encS_posttry (op : Nat) (c : Ctl) (p : Option (Fin 7)) (m : Fin 16) (e : CapSel) (q : Option (Fin 31)) : DWord :=
  packS op c (encMul 8 m) (encCap e) (encQ q) (encPredOpt p ++ 0#2 ++ BitVec.ofBool q.isSome)

def decS_ctxnew (k : CapSel → CapSel → Fin 29 → Instr) (r : RawS) : Except Reject Instr := do
  mustMisc r.misc 0#6; .ok (k (← decCap r.a) (← decCap r.b) (← decNum 29 r.x))
def encS_ctxnew (op : Nat) (c : Ctl) (d r : CapSel) (q : Fin 29) : DWord :=
  packS op c (encCap d) (encCap r) (BitVec.ofNat 8 q.val) 0#6

/-- R354: misc [24:19] holds the item. -/
def decCtxItem (item : BitVec 6) (x : BitVec 8) : Except Reject CtxItem :=
  let n := item.toNat
  if n = 0 then do .ok (.ceil (← decSrc x))
  else if n = 1 then do .ok (.fault (← decCap x))
  else if n = 2 then do .ok (.cset (← decCap x))
  else if 16 ≤ n ∧ n < 24 then do must x 0#8; .ok (.cnt (Fin.ofNat 8 n))
  else .ok (.other item x)
def encCtxItem : CtxItem → BitVec 6
  | .ceil _ => 0#6
  | .fault _ => 1#6
  | .cset _ => 2#6
  | .cnt n => BitVec.ofNat 6 (16 + n.val)
  | .other item _ => item
def encCtxOpnd : CtxItem → BitVec 8
  | .ceil x => encSrc x
  | .fault c => encCap c
  | .cset c => encCap c
  | .cnt _ => 0#8
  | .other _ raw => raw

def decS_ctxcfg (k : Dst → CapSel → CtxItem → Instr) (r : RawS) : Except Reject Instr := do
  .ok (k (← decDst r.a) (← decCap r.b) (← decCtxItem r.misc r.x))
def encS_ctxcfg (op : Nat) (c : Ctl) (d : Dst) (x : CapSel) (it : CtxItem) : DWord :=
  packS op c (encDst d) (encCap x) (encCtxOpnd it) (encCtxItem it)

/-- misc [19] 1 when the c capability is present. -/
def decS_ctxrun (k : Dst → CapSel → Option CapSel → Instr) (r : RawS) : Except Reject Instr := do
  mustMisc (r.misc.extractLsb' 1 5) 0#5
  .ok (k (← decDst r.a) (← decCap r.b) (← decCapOpt (r.misc.getLsbD 0) r.x))
def encS_ctxrun (op : Nat) (c : Ctl) (d : Dst) (x : CapSel) (y : Option CapSel) : DWord :=
  packS op c (encDst d) (encCap x) (encCapOpt y) (0#5 ++ BitVec.ofBool y.isSome)
def decS_lnbind := decS_ctxrun
def encS_lnbind := encS_ctxrun

def decS_ctxstop (k : Dst → CapSel → Bool → Instr) (r : RawS) : Except Reject Instr := do
  must r.x 0#8; mustMisc (r.misc.extractLsb' 1 5) 0#5
  .ok (k (← decDst r.a) (← decCap r.b) (r.misc.getLsbD 0))
def encS_ctxstop (op : Nat) (c : Ctl) (d : Dst) (x : CapSel) (cut : Bool) : DWord :=
  packS op c (encDst d) (encCap x) 0#8 (0#5 ++ BitVec.ofBool cut)

def decS_k1 := decS_cd
def encS_k1 := encS_cd
def decS_asnew := decS_c2
def encS_asnew := encS_c2

def decS_asmap (k : Dst → CapSel → Fin 16 → Instr) (r : RawS) : Except Reject Instr := do
  mustMisc r.misc 0#6; .ok (k (← decDst r.a) (← decCap r.b) (← decMul 8 16 r.x))
def encS_asmap (op : Nat) (c : Ctl) (d : Dst) (x : CapSel) (m : Fin 16) : DWord :=
  packS op c (encDst d) (encCap x) (encMul 8 m) 0#6

def decS_objmake := decS_cm
def encS_objmake := encS_cm

/-- R372: misc [20:19] holds the notification kind; kind 3 raises ILLEGAL. -/
def decS_revoke (k : Dst → CapSel → Notify → Instr) (r : RawS) : Except Reject Instr := do
  mustMisc (r.misc.extractLsb' 2 4) 0#4
  let d ← decDst r.a
  let b ← decCap r.b
  match (r.misc.extractLsb' 0 2).toNat with
  | 0 => do must r.x 0#8; .ok (k d b .none)
  | 1 => do .ok (k d b (.event (← decCap r.x)))
  | 2 => do .ok (k d b (.endpoint (← decCap r.x)))
  | _ => .error .misc
def encNotify : Notify → BitVec 8 × BitVec 2
  | .none => (0#8, 0#2)
  | .event c => (encCap c, 1#2)
  | .endpoint c => (encCap c, 2#2)
def encS_revoke (op : Nat) (c : Ctl) (d : Dst) (r : CapSel) (n : Notify) : DWord :=
  packS op c (encDst d) (encCap r) (encNotify n).1 (0#4 ++ (encNotify n).2)

def decS_schset (k : Fin 3 → Dst → CapSel → Src → Instr) (r : RawS) : Except Reject Instr := do
  .ok (k (← decNum 3 r.misc) (← decDst r.a) (← decCap r.b) (← decSrc r.x))
def encS_schset (op : Nat) (c : Ctl) (item : Fin 3) (d : Dst) (r : CapSel) (x : Src) : DWord :=
  packS op c (encDst d) (encCap r) (encSrc x) (BitVec.ofNat 6 item.val)

def decS_tread (k : TDst → CapSel → Src → Instr) (r : RawS) : Except Reject Instr := do
  mustMisc (r.misc.extractLsb' 1 5) 0#5
  let d ← if r.misc.getLsbD 0 then do .ok (TDst.cap (← decCap r.a)) else do .ok (TDst.reg (← decDst r.a))
  .ok (k d (← decCap r.b) (← decSrc r.x))
def encTDst : TDst → BitVec 8 × Bool
  | .reg d => (encDst d, false)
  | .cap c => (encCap c, true)
def encS_tread (op : Nat) (c : Ctl) (d : TDst) (t : CapSel) (x : Src) : DWord :=
  packS op c (encTDst d).1 (encCap t) (encSrc x) (0#5 ++ BitVec.ofBool (encTDst d).2)

def decS_twrite (k : TSrc → CapSel → Src → Instr) (r : RawS) : Except Reject Instr := do
  mustMisc (r.misc.extractLsb' 1 5) 0#5
  let y ← if r.misc.getLsbD 0 then do .ok (TSrc.cap (← decCap r.a)) else do .ok (TSrc.reg (← decSrc r.a))
  .ok (k y (← decCap r.b) (← decSrc r.x))
def encTSrc : TSrc → BitVec 8 × Bool
  | .reg x => (encSrc x, false)
  | .cap c => (encCap c, true)
def encS_twrite (op : Nat) (c : Ctl) (y : TSrc) (t : CapSel) (x : Src) : DWord :=
  packS op c (encTSrc y).1 (encCap t) (encSrc x) (0#5 ++ BitVec.ofBool (encTSrc y).2)

def decS_tclr := decS_wait
def encS_tclr := encS_wait

/-- R389: misc [19] is 1 for `.self`, with b = 0x00. -/
def decS_attest (k : Fin 16 → Option CapSel → CapSel → Instr) (r : RawS) : Except Reject Instr := do
  mustMisc (r.misc.extractLsb' 1 5) 0#5
  .ok (k (← decMul 8 16 r.a) (← decCapOpt (!r.misc.getLsbD 0) r.b) (← decCap r.x))
def encS_attest (op : Nat) (c : Ctl) (m : Fin 16) (x : Option CapSel) (b : CapSel) : DWord :=
  packS op c (encMul 8 m) (encCapOpt x) (encCap b) (0#5 ++ BitVec.ofBool x.isNone)

def decS_topen := decS_cc
def encS_topen := encS_cc

/-- R392: misc [24:22] scope; [21:19] 0. -/
def decS_tabs (k : CapSel → CapSel → Src → Scope → Instr) (r : RawS) : Except Reject Instr := do
  mustMisc (r.misc.extractLsb' 0 3) 0#3
  .ok (k (← decCap r.a) (← decCap r.b) (← decSrc r.x) (← decScope (r.misc.extractLsb' 3 3)))
def encS_tabs (op : Nat) (c : Ctl) (s b : CapSel) (x : Src) (sc : Scope) : DWord :=
  packS op c (encCap s) (encCap b) (encSrc x) (encScope sc ++ 0#3)

/-- Words with no operands: a, b, c and misc are 0 (R119, R120, R259). -/
def decS_none (k : Instr) (r : RawS) : Except Reject Instr := do
  must r.a 0#8; must r.b 0#8; must r.x 0#8; mustMisc r.misc 0#6; .ok k
def encS_none (op : Nat) (c : Ctl) : DWord := packS op c 0#8 0#8 0#8 0#6
def decS_nop := decS_none
def encS_nop := encS_none

/-- R118: field b holds a capability selector; a, c and misc are 0. -/
def decS_jmp (k : CapSel → Instr) (r : RawS) : Except Reject Instr := do
  must r.a 0#8; must r.x 0#8; mustMisc r.misc 0#6; .ok (k (← decCap r.b))
def encS_jmp (op : Nat) (c : Ctl) (b : CapSel) : DWord := packS op c 0#8 (encCap b) 0#8 0#6

/-! ### The P and B formats -/

/-- R78: the integer half opcodes. -/
def intOps : List POp :=
  [.add, .sub, .mul, .and, .or, .xor, .andn, .shl, .shr, .sar, .minI32, .maxI32, .minN32, .maxN32,
   .mov, .popc, .clz, .not, .neg, .absI32]

/-- R78: the FP half opcodes. -/
def fpOps : List POp :=
  [.fadd, .fsub, .fmul, .fmin, .fmax, .fabs, .fneg, .fmov, .hadd2Bf16, .hmul2Bf16, .hadd2F16, .hmul2F16]

/-- R78: the half opcode of an operation. -/
def encPOp (o : POp) : Nat := if o.isFp then fpOps.idxOf o else intOps.idxOf o

/-- R70. -/
def decPSel (x : BitVec 6) : Except Reject PSel :=
  let n := x.toNat
  if n < 0x10 then .ok (.o (Fin.ofNat 16 n))
  else if n < 0x14 then .ok (.b (Fin.ofNat 4 n))
  else if n = 0x14 then .ok .zero
  else if n = 0x15 then .ok .lane
  else if n < 0x18 then .error .source
  else if n < 0x20 then .ok (.s (Fin.ofNat 8 n))
  else .ok (.v (Fin.ofNat 32 n))
def encPSel : PSel → BitVec 6
  | .o n => BitVec.ofNat 6 n.val
  | .b n => BitVec.ofNat 6 (0x10 + n.val)
  | .zero => 0x14#6
  | .lane => 0x15#6
  | .s n => BitVec.ofNat 6 (0x18 + n.val)
  | .v n => BitVec.ofNat 6 (0x20 + n.val)

/-- R70. -/
def decPHDst (x : BitVec 6) : Except Reject PHDst :=
  let n := x.toNat
  if n < 0x10 then .ok (.o (Fin.ofNat 16 n))
  else if n = 0x14 then .ok .latch
  else if 0x20 ≤ n then .ok (.v (Fin.ofNat 32 n))
  else .error .destination
def encPHDst : PHDst → BitVec 6
  | .o n => BitVec.ofNat 6 n.val
  | .latch => 0x14#6
  | .v n => BitVec.ofNat 6 (0x20 + n.val)

/-- One half: opcode, destination, source A, source B in 23 bits (R69). -/
def decHalf (fp : Bool) (op : BitVec 5) (d a b : BitVec 6) : Except Reject PHalf :=
  match (if fp then fpOps else intOps)[op.toNat]? with
  | none => .error .opcode
  | some o => do .ok { op := o, d := ← decPHDst d, a := ← decPSel a, b := ← decPSel b }
def encHalf (h : PHalf) : BitVec 23 :=
  BitVec.ofNat 5 (encPOp h.op) ++ encPHDst h.d ++ encPSel h.a ++ encPSel h.b

/-- R69: the word's guard and flag fields do not exist. -/
def decP (w : DWord) : Except Reject Ins := do
  let fp := w.getLsbD 61
  let h1 ← decHalf fp (fld w 56 5) (fld w 50 6) (fld w 44 6) (fld w 38 6)
  let h2 ← decHalf fp (fld w 33 5) (fld w 27 6) (fld w 21 6) (fld w 15 6)
  .ok ⟨{ pr := none, st := Fin.ofNat 8 (fld w 12 3).toNat, wm := fld w 0 12, sf := none }, .pairedWord fp h1 h2⟩
def encP (c : Ctl) (fp : Bool) (h1 h2 : PHalf) : DWord :=
  1#2 ++ BitVec.ofBool fp ++ encHalf h1 ++ encHalf h2 ++ BitVec.ofNat 3 c.st.val ++ c.wm

/-- R72, R79. -/
def decB (w : DWord) : Except Reject Ins :=
  let op := (fld w 56 6).toNat
  if op < 2 then do
    let c ← decCtl w 53
    let h ← decNum 3 (fld w 19 2)
    if op = 0 then .ok ⟨c, .bra (fld w 21 32) h⟩ else .ok ⟨c, .call (fld w 21 32) h⟩
  else .ok ⟨Ctl.none, .reservedOpcode⟩
def encB_br (op : Nat) (c : Ctl) (off : BitVec 32) (h : Fin 3) : DWord :=
  2#2 ++ BitVec.ofNat 6 op ++ encPr c.pr ++ off ++ BitVec.ofNat 2 h.val ++ encCtl c

/-! ### The opcode maps (R77, R80) -/

def fTable0 : List (Nat × (RawF → Except Reject Instr)) :=
  [(0x0, decF_dab .add),
   (0x1, decF_dab .sub),
   (0x2, decF_dab .addSatI32),
   (0x3, decF_dab .subSatI32),
   (0x4, decF_dab .mul),
   (0x5, decF_dab .mulhiI32),
   (0x6, decF_dab .mulhiN32),
   (0x7, decF_dabc .mad),
   (0x8, decF_dab .minI32),
   (0x9, decF_dab .minN32),
   (0xA, decF_dab .maxI32),
   (0xB, decF_dab .maxN32),
   (0xC, decF_da .absI32),
   (0xD, decF_da .neg),
   (0xE, decF_dab .and),
   (0xF, decF_dab .or),
   (0x10, decF_dab .xor),
   (0x11, decF_dab .andn),
   (0x12, decF_da .not),
   (0x13, decF_dab .shl),
   (0x14, decF_dab .shr),
   (0x15, decF_dab .sar),
   (0x16, decF_dab .rotl),
   (0x17, decF_da .popc)]

def fTable1 : List (Nat × (RawF → Except Reject Instr)) :=
  [(0x18, decF_da .clz),
   (0x19, decF_da .brev),
   (0x1A, decF_dab .bfeN32),
   (0x1B, decF_dab .bfeI32),
   (0x1C, decF_dabc .bfi),
   (0x1D, decF_dabc .bsel),
   (0x1E, decF_sel .sel),
   (0x1F, decF_da .mov),
   (0x20, decF_p64 .add64),
   (0x21, decF_p64 .sub64),
   (0x22, decF_p64 .mul64),
   (0x23, decF_p64s .shl64),
   (0x24, decF_p64s .srl64),
   (0x25, decF_p64s .sra64),
   (0x26, decF_dabL .divI32),
   (0x27, decF_dabL .divN32),
   (0x28, decF_dabL .remI32),
   (0x29, decF_dabL .remN32),
   (0x40, decF_dabm .fadd),
   (0x41, decF_dabm .fsub),
   (0x42, decF_dabm .fmul),
   (0x43, decF_dabc .ffma),
   (0x44, decF_dab .fmin),
   (0x45, decF_dab .fmax)]

def fTable2 : List (Nat × (RawF → Except Reject Instr)) :=
  [(0x46, decF_dab .fminp),
   (0x47, decF_dab .fmaxp),
   (0x48, decF_da .fabs),
   (0x49, decF_da .fneg),
   (0x4A, decF_dab .fcopysign),
   (0x4B, decF_dam .frnd),
   (0x4C, decF_dabm .fscale),
   (0x4D, decF_da .fgetexp),
   (0x4E, decF_da .fgetman),
   (0x4F, decF_dabL .fdiv),
   (0x50, decF_daL .frcp),
   (0x51, decF_daL .frsq),
   (0x52, decF_daL .fsqrt),
   (0x53, decF_daL .fexp2),
   (0x54, decF_daL .flog2),
   (0x55, decF_daL .fsin),
   (0x56, decF_daL .fcos),
   (0x80, decF_dab .hadd2Bf16),
   (0x81, decF_dab .hmul2Bf16),
   (0x82, decF_dabc .hfma2Bf16),
   (0x83, decF_dab .hadd2F16),
   (0x84, decF_dab .hmul2F16),
   (0x85, decF_dabc .hfma2F16),
   (0x86, decF_dabc .hdot2Bf16)]

def fTable3 : List (Nat × (RawF → Except Reject Instr)) :=
  [(0x87, decF_dabc .hdot2F16),
   (0xA0, decF_pk .pk),
   (0xA1, decF_upk .upk),
   (0xA2, decF_dam .cvtF32I32),
   (0xA3, decF_dam .cvtF32N32),
   (0xA4, decF_cvti .cvtI32F32),
   (0xA5, decF_cvti .cvtN32F32),
   (0xC0, decF_setp .setpI32),
   (0xC1, decF_setp .setpN32),
   (0xC2, decF_setpf .setpF32),
   (0xC3, decF_setp64 .setpI64),
   (0xC4, decF_setp64 .setpN64),
   (0xC5, decF_pl2 .pand),
   (0xC6, decF_pl2 .por),
   (0xC7, decF_pl2 .pxor),
   (0xC8, decF_pl1 .pnot),
   (0xC9, decF_v2p .v2p),
   (0xCA, decF_p2v .p2v),
   (0xE0, decF_lx .lxAt),
   (0xE1, decF_lx .lxShift),
   (0xE2, decF_lx .lxRot),
   (0xE3, decF_lx .lxFlip),
   (0xE4, decF_poll .pollAny),
   (0xE5, decF_poll .pollAll)]

def fTable4 : List (Nat × (RawF → Except Reject Instr)) :=
  [(0xE6, decF_pollm .pollMask),
   (0xE7, decF_peers .peers),
   (0xE8, decF_xda .redAddI32),
   (0xE9, decF_xda .redAddF32),
   (0xEA, decF_xda .redMinI32),
   (0xEB, decF_xda .redMaxI32),
   (0xEC, decF_xda .redMinF32),
   (0xED, decF_xda .redMaxF32),
   (0xEE, decF_xda .redAnd),
   (0xEF, decF_xda .redOr),
   (0xF0, decF_xda .redXor),
   (0xF1, decF_xda .scanAddI32),
   (0xF2, decF_xda .scanAddI32X),
   (0xF3, decF_xda .scanAddF32),
   (0xF4, decF_xda .bcast),
   (0xF5, decF_elect .elect),
   (0xF6, decF_lx .sample)]

/-- R77: the F opcodes. -/
def fTable : List (Nat × (RawF → Except Reject Instr)) :=
  fTable0 ++ fTable1 ++ fTable2 ++ fTable3 ++ fTable4

def sTable0 : List (Nat × (RawS → Except Reject Instr)) :=
  [(0x0, decS_ld .ldB8),
   (0x1, decS_ld .ldB16),
   (0x2, decS_ldw .ldB32),
   (0x3, decS_ld64 .ldB64),
   (0x4, decS_ld128 .ldB128),
   (0x5, decS_ldc .ldc),
   (0x6, decS_st .stB8),
   (0x7, decS_st .stB16),
   (0x8, decS_st .stB32),
   (0x9, decS_st64 .stB64),
   (0xA, decS_st128 .stB128),
   (0xB, decS_stc .stc),
   (0xC, decS_atom .atomAdd),
   (0xD, decS_atom .atomMinI32),
   (0xE, decS_atom .atomMinN32),
   (0xF, decS_atom .atomMaxI32),
   (0x10, decS_atom .atomMaxN32),
   (0x11, decS_atom .atomAnd),
   (0x12, decS_atom .atomOr),
   (0x13, decS_atom .atomXor),
   (0x14, decS_atom .atomXchg),
   (0x15, decS_cas .atomCas),
   (0x16, decS_add64 .atomAdd64),
   (0x17, decS_cas64 .atomCas64)]

def sTable1 : List (Nat × (RawS → Except Reject Instr)) :=
  [(0x18, decS_cas128 .atomCas128),
   (0x19, decS_atom .atomFaddF32),
   (0x1A, decS_fence .fence),
   (0x1B, decS_waitne .waitne),
   (0x1C, decS_prefetch .prefetch),
   (0x100, decS_cq .capAddr),
   (0x101, decS_cq .capBase),
   (0x102, decS_cq .capLen),
   (0x103, decS_cd .capPerm),
   (0x104, decS_cd .capType),
   (0x105, decS_cd .capTag),
   (0x106, decS_cx .capSeta),
   (0x107, decS_cx .capAdd),
   (0x108, decS_cx .capBound),
   (0x109, decS_cx .capBoundx),
   (0x10A, decS_cm .capMask),
   (0x10B, decS_cc .capSeal),
   (0x10C, decS_cc .capUnseal),
   (0x10D, decS_c2 .capUntag),
   (0x10E, decS_c2 .capMov),
   (0x10F, decS_cdiff .capDiff),
   (0x110, decS_cp .capWithin),
   (0x111, decS_cl .capRlen),
   (0x112, decS_cl .capAmask)]

def sTable2 : List (Nat × (RawS → Except Reject Instr)) :=
  [(0x113, decS_cc .capMint),
   (0x114, decS_cp .capSame),
   (0x180, decS_copy .cpin),
   (0x181, decS_copy .cpout),
   (0x182, decS_copy .cpx),
   (0x183, decS_cpfill .cpfill),
   (0x184, decS_wait .waitown),
   (0x185, decS_wait .waitgen),
   (0x186, decS_wait .arrset),
   (0x187, decS_ocfill .ocfill),
   (0x188, decS_ocspill .ocspill),
   (0x189, decS_carve .carve),
   (0x18A, decS_bar .tbar),
   (0x18B, decS_bar .rbarInit),
   (0x18C, decS_bar .rbarWait),
   (0x18D, decS_swin .swin),
   (0x18E, decS_sread .sread),
   (0x18F, decS_swrite .swrite),
   (0x190, decS_rndc .rndc),
   (0x191, decS_yield .yield),
   (0x192, decS_xset .xset),
   (0x1C0, decS_sc2 .sadd),
   (0x1C1, decS_sc2 .ssub),
   (0x1C2, decS_sc2 .smul)]

def sTable3 : List (Nat × (RawS → Except Reject Instr)) :=
  [(0x1C3, decS_sc2 .sand),
   (0x1C4, decS_sc2 .sor),
   (0x1C5, decS_sc2 .sxor),
   (0x1C6, decS_sc2 .sshl),
   (0x1C7, decS_sc2 .sshr),
   (0x1C8, decS_sc2 .ssar),
   (0x1C9, decS_sc2 .sminI32),
   (0x1CA, decS_sc2 .smaxI32),
   (0x1CB, decS_setps .setps),
   (0x1CC, decS_v2s .v2s),
   (0x200, decS_mldb .mldb),
   (0x201, decS_mbeg .mbeg),
   (0x202, decS_mma .mma),
   (0x203, decS_mend .mend),
   (0x204, decS_mzero .mzero),
   (0x205, decS_mrd .mrd),
   (0x206, decS_mstat .mstat),
   (0x280, decS_spawn .spawn),
   (0x281, decS_tend .tend),
   (0x282, decS_join .join),
   (0x283, decS_launch .launch),
   (0x284, decS_ev 1#3 .evwait),
   (0x285, decS_ev 0#3 .evpub),
   (0x286, decS_dqinfo .dqinfo)]

def sTable4 : List (Nat × (RawS → Except Reject Instr)) :=
  [(0x300, decS_post .post),
   (0x301, decS_take .take),
   (0x302, decS_ask .ask),
   (0x303, decS_post .answer),
   (0x304, decS_settle .settle),
   (0x305, decS_posttry .postTry),
   (0x306, decS_ctxnew .ctxnew),
   (0x307, decS_ctxcfg .ctxcfg),
   (0x308, decS_ctxrun .ctxrun),
   (0x309, decS_ctxstop .ctxstop),
   (0x30A, decS_k1 .ctxkill),
   (0x30B, decS_asnew .asnew),
   (0x30C, decS_asmap .asmap),
   (0x30D, decS_asmap .asunmap),
   (0x30E, decS_objmake .objmake),
   (0x30F, decS_revoke .revoke),
   (0x310, decS_objmake .schnew),
   (0x311, decS_schset .schset),
   (0x312, decS_lnbind .lnbind),
   (0x313, decS_k1 .lnack),
   (0x314, decS_tread .tread),
   (0x315, decS_twrite .twrite),
   (0x316, decS_tclr .tclr),
   (0x317, decS_k1 .tresume)]

def sTable5 : List (Nat × (RawS → Except Reject Instr)) :=
  [(0x318, decS_attest .attest),
   (0x319, decS_topen .troyOpen),
   (0x31A, decS_tabs .troyAbs),
   (0x31B, decS_k1 .troyClose),
   (0x380, decS_trap .trap),
   (0x381, decS_none .bkpt),
   (0x382, decS_none .exit),
   (0x383, decS_jmp .callc),
   (0x384, decS_jmp .jmpc),
   (0x385, decS_jmp .ret),
   (0x386, decS_nop .nop)]

/-- R80: the S opcodes. -/
def sTable : List (Nat × (RawS → Except Reject Instr)) :=
  sTable0 ++ sTable1 ++ sTable2 ++ sTable3 ++ sTable4 ++ sTable5

/-- The row of an opcode, if the map lists it (R76). -/
def findRow {α : Type} (op : Nat) : List (Nat × α) → Option α
  | [] => none
  | (k, r) :: rest => if k = op then some r else findRow op rest

/-- R59-R80: the fields of a word read as an instruction, before the checks of `Instr.problem`. -/
def decodeRaw (w : DWord) : Except Reject Ins :=
  match (fld w 62 2).toNat with
  | 0 =>
    match findRow (fld w 54 8).toNat fTable with
    | none => .ok ⟨Ctl.none, .reservedOpcode⟩
    | some k => do
      let r ← rawF w
      .ok ⟨r.c, ← k r⟩
  | 1 => decP w
  | 2 => decB w
  | _ =>
    match findRow (fld w 52 10).toNat sTable with
    | none => .ok ⟨Ctl.none, .reservedOpcode⟩
    | some k => do
      let r ← rawS w
      .ok ⟨r.c, ← k r⟩

/-- R59: decode one word. An opcode outside the map gives the step RESERVED_OPCODE (R76); every other
reserved value is rejected by name. -/
def decode (w : DWord) : Except Reject Ins := do
  let x ← decodeRaw w
  match x.i.problem x.c with
  | none => .ok x
  | some r => .error r

/-- R7, R58: eight bytes, the lowest address first, as a word. -/
def wordOfBytes : List Byte → Nat
  | [] => 0
  | b :: rest => b.toNat + 256 * wordOfBytes rest

/-- R7: the `n` low bytes of a number, the least significant first. -/
def bytesOfNat : Nat → Nat → List Byte
  | 0, _ => []
  | n + 1, v => BitVec.ofNat 8 v :: bytesOfNat n (v / 256)

/-- R58: decode the instruction at the head of a list of bytes; `none` where fewer than eight bytes stand. -/
def decodeBytes (bs : List Byte) : Option (Except Reject Ins × List Byte) :=
  if bs.length < 8 then none
  else some (decode (BitVec.ofNat 64 (wordOfBytes (bs.take 8))), bs.drop 8)

/-- The instruction the decoder reads from a table row's bits: the first word is bits [63:0], laid out
as eight little-endian bytes (R58); a literal word or liveness block above it is never decoded (R62). -/
def decodeTableWord (_nbits w : Nat) : Option Instr :=
  match decodeBytes (bytesOfNat 8 w) with
  | some (.ok x, _) => some x.i
  | _ => none

/-! ### Encoding -/

/-- R60-R80: the word of an instruction under a control field; `none` for the steps that are no instruction word. -/
def encode (i : Instr) (c : Ctl) : Option DWord :=
  match i with
  | .add d a b => some (encF_dab 0x0 c d a b)
  | .sub d a b => some (encF_dab 0x1 c d a b)
  | .addSatI32 d a b => some (encF_dab 0x2 c d a b)
  | .subSatI32 d a b => some (encF_dab 0x3 c d a b)
  | .mul d a b => some (encF_dab 0x4 c d a b)
  | .mulhiI32 d a b => some (encF_dab 0x5 c d a b)
  | .mulhiN32 d a b => some (encF_dab 0x6 c d a b)
  | .mad d a b x => some (encF_dabc 0x7 c d a b x)
  | .minI32 d a b => some (encF_dab 0x8 c d a b)
  | .minN32 d a b => some (encF_dab 0x9 c d a b)
  | .maxI32 d a b => some (encF_dab 0xA c d a b)
  | .maxN32 d a b => some (encF_dab 0xB c d a b)
  | .absI32 d a => some (encF_da 0xC c d a)
  | .neg d a => some (encF_da 0xD c d a)
  | .and d a b => some (encF_dab 0xE c d a b)
  | .or d a b => some (encF_dab 0xF c d a b)
  | .xor d a b => some (encF_dab 0x10 c d a b)
  | .andn d a b => some (encF_dab 0x11 c d a b)
  | .not d a => some (encF_da 0x12 c d a)
  | .shl d a b => some (encF_dab 0x13 c d a b)
  | .shr d a b => some (encF_dab 0x14 c d a b)
  | .sar d a b => some (encF_dab 0x15 c d a b)
  | .rotl d a b => some (encF_dab 0x16 c d a b)
  | .popc d a => some (encF_da 0x17 c d a)
  | .clz d a => some (encF_da 0x18 c d a)
  | .brev d a => some (encF_da 0x19 c d a)
  | .bfeN32 d a b => some (encF_dab 0x1A c d a b)
  | .bfeI32 d a b => some (encF_dab 0x1B c d a b)
  | .bfi d a b x => some (encF_dabc 0x1C c d a b x)
  | .bsel d a b x => some (encF_dabc 0x1D c d a b x)
  | .sel d a b q => some (encF_sel 0x1E c d a b q)
  | .mov d a => some (encF_da 0x1F c d a)
  | .add64 d a b => some (encF_p64 0x20 c d a b)
  | .sub64 d a b => some (encF_p64 0x21 c d a b)
  | .mul64 d a b => some (encF_p64 0x22 c d a b)
  | .shl64 d a n => some (encF_p64s 0x23 c d a n)
  | .srl64 d a n => some (encF_p64s 0x24 c d a n)
  | .sra64 d a n => some (encF_p64s 0x25 c d a n)
  | .divI32 d a b => some (encF_dabL 0x26 c d a b)
  | .divN32 d a b => some (encF_dabL 0x27 c d a b)
  | .remI32 d a b => some (encF_dabL 0x28 c d a b)
  | .remN32 d a b => some (encF_dabL 0x29 c d a b)
  | .fadd d a b m => some (encF_dabm 0x40 c d a b m)
  | .fsub d a b m => some (encF_dabm 0x41 c d a b m)
  | .fmul d a b m => some (encF_dabm 0x42 c d a b m)
  | .ffma d a b x => some (encF_dabc 0x43 c d a b x)
  | .fmin d a b => some (encF_dab 0x44 c d a b)
  | .fmax d a b => some (encF_dab 0x45 c d a b)
  | .fminp d a b => some (encF_dab 0x46 c d a b)
  | .fmaxp d a b => some (encF_dab 0x47 c d a b)
  | .fabs d a => some (encF_da 0x48 c d a)
  | .fneg d a => some (encF_da 0x49 c d a)
  | .fcopysign d a b => some (encF_dab 0x4A c d a b)
  | .frnd d a m => some (encF_dam 0x4B c d a m)
  | .fscale d a b m => some (encF_dabm 0x4C c d a b m)
  | .fgetexp d a => some (encF_da 0x4D c d a)
  | .fgetman d a => some (encF_da 0x4E c d a)
  | .fdiv d a b => some (encF_dabL 0x4F c d a b)
  | .frcp d a => some (encF_daL 0x50 c d a)
  | .frsq d a => some (encF_daL 0x51 c d a)
  | .fsqrt d a => some (encF_daL 0x52 c d a)
  | .fexp2 d a => some (encF_daL 0x53 c d a)
  | .flog2 d a => some (encF_daL 0x54 c d a)
  | .fsin d a => some (encF_daL 0x55 c d a)
  | .fcos d a => some (encF_daL 0x56 c d a)
  | .hadd2Bf16 d a b => some (encF_dab 0x80 c d a b)
  | .hmul2Bf16 d a b => some (encF_dab 0x81 c d a b)
  | .hfma2Bf16 d a b x => some (encF_dabc 0x82 c d a b x)
  | .hadd2F16 d a b => some (encF_dab 0x83 c d a b)
  | .hmul2F16 d a b => some (encF_dab 0x84 c d a b)
  | .hfma2F16 d a b x => some (encF_dabc 0x85 c d a b x)
  | .hdot2Bf16 d a b x => some (encF_dabc 0x86 c d a b x)
  | .hdot2F16 d a b x => some (encF_dabc 0x87 c d a b x)
  | .pk d a f slot sat m => some (encF_pk 0xA0 c d a f slot sat m)
  | .upk d a f slot => some (encF_upk 0xA1 c d a f slot)
  | .cvtF32I32 d a m => some (encF_dam 0xA2 c d a m)
  | .cvtF32N32 d a m => some (encF_dam 0xA3 c d a m)
  | .cvtI32F32 d a sat m => some (encF_cvti 0xA4 c d a sat m)
  | .cvtN32F32 d a sat m => some (encF_cvti 0xA5 c d a sat m)
  | .setpI32 p a b q => some (encF_setp 0xC0 c p a b q)
  | .setpN32 p a b q => some (encF_setp 0xC1 c p a b q)
  | .setpF32 p a b q => some (encF_setpf 0xC2 c p a b q)
  | .setpI64 p a b q => some (encF_setp64 0xC3 c p a b q)
  | .setpN64 p a b q => some (encF_setp64 0xC4 c p a b q)
  | .pand p q1 q2 => some (encF_pl2 0xC5 c p q1 q2)
  | .por p q1 q2 => some (encF_pl2 0xC6 c p q1 q2)
  | .pxor p q1 q2 => some (encF_pl2 0xC7 c p q1 q2)
  | .pnot p q1 => some (encF_pl1 0xC8 c p q1)
  | .v2p m a => some (encF_v2p 0xC9 c m a)
  | .p2v d => some (encF_p2v 0xCA c d)
  | .lxAt d a j g => some (encF_lx 0xE0 c d a j g)
  | .lxShift d a j g => some (encF_lx 0xE1 c d a j g)
  | .lxRot d a j g => some (encF_lx 0xE2 c d a j g)
  | .lxFlip d a j g => some (encF_lx 0xE3 c d a j g)
  | .pollAny p q g => some (encF_poll 0xE4 c p q g)
  | .pollAll p q g => some (encF_poll 0xE5 c p q g)
  | .pollMask d q g => some (encF_pollm 0xE6 c d q g)
  | .peers d a g => some (encF_peers 0xE7 c d a g)
  | .redAddI32 d a g => some (encF_xda 0xE8 c d a g)
  | .redAddF32 d a g => some (encF_xda 0xE9 c d a g)
  | .redMinI32 d a g => some (encF_xda 0xEA c d a g)
  | .redMaxI32 d a g => some (encF_xda 0xEB c d a g)
  | .redMinF32 d a g => some (encF_xda 0xEC c d a g)
  | .redMaxF32 d a g => some (encF_xda 0xED c d a g)
  | .redAnd d a g => some (encF_xda 0xEE c d a g)
  | .redOr d a g => some (encF_xda 0xEF c d a g)
  | .redXor d a g => some (encF_xda 0xF0 c d a g)
  | .scanAddI32 d a g => some (encF_xda 0xF1 c d a g)
  | .scanAddI32X d a g => some (encF_xda 0xF2 c d a g)
  | .scanAddF32 d a g => some (encF_xda 0xF3 c d a g)
  | .bcast d a g => some (encF_xda 0xF4 c d a g)
  | .elect p g => some (encF_elect 0xF5 c p g)
  | .sample d a j g => some (encF_lx 0xF6 c d a j g)
  | .pairedWord fp h1 h2 => some (encP c fp h1 h2)
  | .bra off h => some (encB_br 0 c off h)
  | .call off h => some (encB_br 1 c off h)
  | .ldB8 d b off m => some (encS_ld 0x0 c d b off m)
  | .ldB16 d b off m => some (encS_ld 0x1 c d b off m)
  | .ldB32 d b off m => some (encS_ldw 0x2 c d b off m)
  | .ldB64 d b off m => some (encS_ld64 0x3 c d b off m)
  | .ldB128 d b off m => some (encS_ld128 0x4 c d b off m)
  | .ldc d b off m => some (encS_ldc 0x5 c d b off m)
  | .stB8 a b off sc o => some (encS_st 0x6 c a b off sc o)
  | .stB16 a b off sc o => some (encS_st 0x7 c a b off sc o)
  | .stB32 a b off sc o => some (encS_st 0x8 c a b off sc o)
  | .stB64 a b off sc o => some (encS_st64 0x9 c a b off sc o)
  | .stB128 a b off sc o => some (encS_st128 0xA c a b off sc o)
  | .stc a b off sc o => some (encS_stc 0xB c a b off sc o)
  | .atomAdd d b x sc o => some (encS_atom 0xC c d b x sc o)
  | .atomMinI32 d b x sc o => some (encS_atom 0xD c d b x sc o)
  | .atomMinN32 d b x sc o => some (encS_atom 0xE c d b x sc o)
  | .atomMaxI32 d b x sc o => some (encS_atom 0xF c d b x sc o)
  | .atomMaxN32 d b x sc o => some (encS_atom 0x10 c d b x sc o)
  | .atomAnd d b x sc o => some (encS_atom 0x11 c d b x sc o)
  | .atomOr d b x sc o => some (encS_atom 0x12 c d b x sc o)
  | .atomXor d b x sc o => some (encS_atom 0x13 c d b x sc o)
  | .atomXchg d b x sc o => some (encS_atom 0x14 c d b x sc o)
  | .atomCas d b x sc o => some (encS_cas 0x15 c d b x sc o)
  | .atomAdd64 d b x sc o => some (encS_add64 0x16 c d b x sc o)
  | .atomCas64 d b x sc o => some (encS_cas64 0x17 c d b x sc o)
  | .atomCas128 d b x sc o => some (encS_cas128 0x18 c d b x sc o)
  | .atomFaddF32 d b x sc o => some (encS_atom 0x19 c d b x sc o)
  | .fence sc o => some (encS_fence 0x1A c sc o)
  | .waitne a b off sc acq => some (encS_waitne 0x1B c a b off sc acq)
  | .prefetch b off h => some (encS_prefetch 0x1C c b off h)
  | .capAddr d b => some (encS_cq 0x100 c d b)
  | .capBase d b => some (encS_cq 0x101 c d b)
  | .capLen d b => some (encS_cq 0x102 c d b)
  | .capPerm d b => some (encS_cd 0x103 c d b)
  | .capType d b => some (encS_cd 0x104 c d b)
  | .capTag d b => some (encS_cd 0x105 c d b)
  | .capSeta d b x => some (encS_cx 0x106 c d b x)
  | .capAdd d b x => some (encS_cx 0x107 c d b x)
  | .capBound d b x => some (encS_cx 0x108 c d b x)
  | .capBoundx d b x => some (encS_cx 0x109 c d b x)
  | .capMask d b m => some (encS_cm 0x10A c d b m)
  | .capSeal d b x => some (encS_cc 0x10B c d b x)
  | .capUnseal d b x => some (encS_cc 0x10C c d b x)
  | .capUntag d b => some (encS_c2 0x10D c d b)
  | .capMov d b => some (encS_c2 0x10E c d b)
  | .capDiff d b x => some (encS_cdiff 0x10F c d b x)
  | .capWithin p b x => some (encS_cp 0x110 c p b x)
  | .capRlen d x => some (encS_cl 0x111 c d x)
  | .capAmask d x => some (encS_cl 0x112 c d x)
  | .capMint d b x => some (encS_cc 0x113 c d b x)
  | .capSame p b x => some (encS_cp 0x114 c p b x)
  | .cpin a b x sc tm => some (encS_copy 0x180 c a b x sc tm)
  | .cpout a b x sc tm => some (encS_copy 0x181 c a b x sc tm)
  | .cpx a b x sc tm => some (encS_copy 0x182 c a b x sc tm)
  | .cpfill a v x sc => some (encS_cpfill 0x183 c a v x sc)
  | .waitown a b off => some (encS_wait 0x184 c a b off)
  | .waitgen a b off => some (encS_wait 0x185 c a b off)
  | .arrset a b off => some (encS_wait 0x186 c a b off)
  | .ocfill o v n => some (encS_ocfill 0x187 c o v n)
  | .ocspill v o n => some (encS_ocspill 0x188 c v o n)
  | .carve p x n => some (encS_carve 0x189 c p x n)
  | .tbar n => some (encS_bar 0x18A c n)
  | .rbarInit n => some (encS_bar 0x18B c n)
  | .rbarWait n => some (encS_bar 0x18C c n)
  | .swin x => some (encS_swin 0x18D c x)
  | .sread d n => some (encS_sread 0x18E c d n)
  | .swrite x => some (encS_swrite 0x18F c x)
  | .rndc d => some (encS_rndc 0x190 c d)
  | .yield step => some (encS_yield 0x191 c step)
  | .xset k x => some (encS_xset 0x192 c k x)
  | .sadd d x y => some (encS_sc2 0x1C0 c d x y)
  | .ssub d x y => some (encS_sc2 0x1C1 c d x y)
  | .smul d x y => some (encS_sc2 0x1C2 c d x y)
  | .sand d x y => some (encS_sc2 0x1C3 c d x y)
  | .sor d x y => some (encS_sc2 0x1C4 c d x y)
  | .sxor d x y => some (encS_sc2 0x1C5 c d x y)
  | .sshl d x y => some (encS_sc2 0x1C6 c d x y)
  | .sshr d x y => some (encS_sc2 0x1C7 c d x y)
  | .ssar d x y => some (encS_sc2 0x1C8 c d x y)
  | .sminI32 d x y => some (encS_sc2 0x1C9 c d x y)
  | .smaxI32 d x y => some (encS_sc2 0x1CA c d x y)
  | .setps p x y q un => some (encS_setps 0x1CB c p x y q un)
  | .v2s d x => some (encS_v2s 0x1CC c d x)
  | .mldb bf b x => some (encS_mldb 0x200 c bf b x)
  | .mbeg af bf ofm m x => some (encS_mbeg 0x201 c af bf ofm m x)
  | .mma g b x => some (encS_mma 0x202 c g b x)
  | .mend x b cc => some (encS_mend 0x203 c x b cc)
  | .mzero x => some (encS_mzero 0x204 c x)
  | .mrd d x => some (encS_mrd 0x205 c d x)
  | .mstat d x => some (encS_mstat 0x206 c d x)
  | .spawn v => some (encS_spawn 0x280 c v)
  | .tend b sc => some (encS_tend 0x281 c b sc)
  | .join b off sc => some (encS_join 0x282 c b off sc)
  | .launch b off => some (encS_launch 0x283 c b off)
  | .evwait g b off sc => some (encS_ev 1#3 0x284 c g b off sc)
  | .evpub g b off sc => some (encS_ev 0#3 0x285 c g b off sc)
  | .dqinfo d item => some (encS_dqinfo 0x286 c d item)
  | .post m e q => some (encS_post 0x300 c m e q)
  | .take m e q => some (encS_take 0x301 c m e q)
  | .ask p m e q qs => some (encS_ask 0x302 c p m e q qs)
  | .answer m e q => some (encS_post 0x303 c m e q)
  | .settle m r e q qs => some (encS_settle 0x304 c m r e q qs)
  | .postTry p m e q => some (encS_posttry 0x305 c p m e q)
  | .ctxnew d r q => some (encS_ctxnew 0x306 c d r q)
  | .ctxcfg d x it => some (encS_ctxcfg 0x307 c d x it)
  | .ctxrun d x r => some (encS_ctxrun 0x308 c d x r)
  | .ctxstop d x cut => some (encS_ctxstop 0x309 c d x cut)
  | .ctxkill d x => some (encS_k1 0x30A c d x)
  | .asnew d r => some (encS_asnew 0x30B c d r)
  | .asmap d x m => some (encS_asmap 0x30C c d x m)
  | .asunmap d x m => some (encS_asmap 0x30D c d x m)
  | .objmake d r x => some (encS_objmake 0x30E c d r x)
  | .revoke d r n => some (encS_revoke 0x30F c d r n)
  | .schnew d r x => some (encS_objmake 0x310 c d r x)
  | .schset item d r x => some (encS_schset 0x311 c item d r x)
  | .lnbind d i e => some (encS_lnbind 0x312 c d i e)
  | .lnack d x => some (encS_k1 0x313 c d x)
  | .tread d t x => some (encS_tread 0x314 c d t x)
  | .twrite y t x => some (encS_twrite 0x315 c y t x)
  | .tclr m t g => some (encS_tclr 0x316 c m t g)
  | .tresume d x => some (encS_k1 0x317 c d x)
  | .attest m x b => some (encS_attest 0x318 c m x b)
  | .troyOpen d k b => some (encS_topen 0x319 c d k b)
  | .troyAbs s b x sc => some (encS_tabs 0x31A c s b x sc)
  | .troyClose d x => some (encS_k1 0x31B c d x)
  | .trap code => some (encS_trap 0x380 c code)
  | .callc b => some (encS_jmp 0x383 c b)
  | .jmpc b => some (encS_jmp 0x384 c b)
  | .ret b => some (encS_jmp 0x385 c b)
  | .exit  => some (encS_none 0x382 c )
  | .bkpt  => some (encS_none 0x381 c )
  | .nop  => some (encS_nop 0x386 c )
  | .aluWriteback => none
  | .predicateWriteback => none
  | .scalarWriteback => none
  | .landingWrite => none
  | .storePerform => none
  | .latchHoldExpiry => none
  | .affinityRunLimit => none
  | .spanDisplacement => none
  | .unhousedHousing => none
  | .pccEntryAcquire => none
  | .waitneWake => none
  | .waitownComplete => none
  | .waitgenComplete => none
  | .teamBarrierRelease => none
  | .convergenceRelease => none
  | .joinComplete => none
  | .evwaitComplete => none
  | .yieldComplete => none
  | .exitCompletion => none
  | .tendCompletion => none
  | .taskStart => none
  | .refill => none
  | .stealSearch => none
  | .stealRequest => none
  | .stealFrameArrival => none
  | .arrivalWordUpdate => none
  | .copyComplete => none
  | .copyAbort => none
  | .mldbPerform => none
  | .mbegPerform => none
  | .mmaPerform => none
  | .mendPerform => none
  | .mzeroPerform => none
  | .mrdPerform => none
  | .mstatPerform => none
  | .currentGrant => none
  | .asyncCause => none
  | .haltRequest => none
  | .skidLimit => none
  | .stopComplete => none
  | .descheduleRequest => none
  | .yieldDebt => none
  | .cutRound => none
  | .teamSave => none
  | .teamRestore => none
  | .launchAcceptance => none
  | .launchReady => none
  | .clusterPlacement => none
  | .teamCompletion => none
  | .budgetWindow => none
  | .allowanceReached => none
  | .priorityClaim => none
  | .equalPriorityHoldLimit => none
  | .interruptSignal => none
  | .filterActivation => none
  | .furlongPass => none
  | .revocationComplete => none
  | .ctxstopComplete => none
  | .ctxkillComplete => none
  | .asunmapComplete => none
  | .absorbComplete => none
  | .sealRecordWrite => none
  | .ageingMonitorRead => none
  | .spareRemap => none
  | .channelRetirement => none
  | .rds => none
  | .rdx => none
  | .upg => none
  | .wb => none
  | .inv => none
  | .fwdS => none
  | .fwdX => none
  | .data => none
  | .grant => none
  | .ack => none
  | .stale => none
  | .externalWrite => none
  | .externalRead => none
  | .hostPacket => none
  | .atsInvalidation => none
  | .priResponse => none
  | .fabricPacketArrival => none
  | .creditGrant => none
  | .remoteAck => none
  | .connectionDown => none
  | .withdrawalComplete => none
  | .keyArm => none
  | .keyDestroy => none
  | .keyDestruction => none
  | .keyQuery => none
  | .qiBind => none
  | .qiUnbind => none
  | .qiQuery => none
  | .qiInterrupt => none
  | .regExport => none
  | .regImport => none
  | .regWithdraw => none
  | .regUnimport => none
  | .query => none
  | .loadRoot => none
  | .pasidLive => none
  | .pasidRevoke => none
  | .hostMap => none
  | .hostUnmap => none
  | .modeSet => none
  | .connUp => none
  | .connDown => none
  | .certRead => none
  | .voidRead => none
  | .cxlAdd => none
  | .cxlRemove => none
  | .signal => none
  | .errlogRead => none
  | .rootClear => none
  | .reset => none
  | .reservedRegisterWrite => none
  | .getVersion => none
  | .getCapabilities => none
  | .negotiateAlgorithms => none
  | .getDigests => none
  | .getCertificate => none
  | .challenge => none
  | .getMeasurements => none
  | .dieTestComplete => none
  | .powerGate => none
  | .coreWake => none
  | .coldReset => none
  | .hotReset => none
  | .functionLevelReset => none
  | .reservedOpcode => none
  | .pasidRevocationComplete => none
  | .packetRetransmission => none
  | .vfEnable => none
  | .msixVectorUnmask => none
  | .completionTimeout => none

end Sys2Proof
end

