-- ==== Sys2Proof/Machine/State.lean ====
section
/-! DEFINITION. The state of the KDT-9120 as plain data: cores, teams, groups and threads; the object table of the
kernel; memory; engines; coherence; host, fabric and firmware. `State.reset` is the part right after a cold reset
(R447). Fields that are the model's own and not the manual's are marked MODEL. -/

namespace Sys2Proof.Machine

open Sys2Proof

/-- Values by number, keys strictly rising: the canonical form every sparse table of the state keeps. -/
abbrev NMap (α : Type) := List (Nat × α)

/-- Memory bytes by physical address, canonical: strictly rising, no zero byte listed (R447 clears memory). -/
abbrev Memory := List Host.Cell

/-! ### Threads -/

/-- A capability of 128 bits with its tag (R121). -/
structure Cap where
  bits : BitVec 128
  tag : Bool
  deriving DecidableEq, Repr

/-- R121: the capability of a quad that holds zero and is untagged. -/
def Cap.zero : Cap := ⟨0, false⟩

/-- Where a latch entry's producer wrote the same result (R22). -/
inductive Home where
  | v (n : Nat)
  | o (n : Nat)
  deriving DecidableEq, Repr

/-- A bypass latch entry (R22, R23). `stale`: the home was written or read dead since; `ready`: the cycle from
which the home holds the result (MODEL, for the 4 cc of R23). -/
structure Latch where
  val : Word
  lost : Bool
  home : Option Home
  stale : Bool
  ready : Nat
  deriving DecidableEq, Repr

/-- R15: a latch at team start, lost with no home. -/
def Latch.none : Latch := ⟨0, true, .none, false, 0⟩

/-- The state of a slot that holds a thread (R14); a Free slot is absent from its group's table. -/
inductive Slot where
  | active | parked | stopped
  deriving DecidableEq, Repr

/-- What a parked thread waits for (R255, R268). `kind` is the park kind 1-12; `addr` the effective address with
the capability `cap` it goes through; `val` the comparand, length, generation, barrier or register number;
`next` the PC on completion. -/
structure Park where
  kind : Nat
  cap : Cap
  addr : Nat
  val : Word
  scope : Scope
  acq : Bool
  sf : Option (Fin 12)
  pd : Option (Fin 7)
  obj : Nat
  m : Nat
  q : Nat
  next : DWord
  /-- the thread left its endpoint's queue with a save, and executes its word again when its team runs (R268) -/
  redo : Bool
  deriving DecidableEq, Repr

/-- What a thread that stays Active waits for its own flags to do (R217, R119, R291); `skid` says that its `yield` issued
in a skid (R217, R250). -/
inductive Await where
  | yield (step : BitVec 16) (w1 w2 w3 : DWord) (skid : Bool)
  | exit
  | tend (cap : Option Cap) (scope : Scope)
  deriving DecidableEq, Repr

/-- What the accesses after an acquire follow: the accesses of lanes of a group before an operation number, with the scope toward
which they follow them (R207, R229, R329), or the earlier writes of a connection (R322, R327). -/
inductive Gate where
  | ops (team g : Nat) (lanes : List Nat) (before scope : Nat)
  | ext (conn seq : Nat)
  deriving DecidableEq, Repr

/-- A thread (R13-R32). -/
structure Thread where
  /-- slot state (R14) -/
  st : Slot
  /-- R13 -/
  pc : DWord
  /-- index into the group's PCC table (R13) -/
  pccx : Nat
  /-- the code capability a thread waits to enter into the PCC table with (R13) -/
  want : Option Cap
  /-- backing word of a backed thread (R13) -/
  backed : Option Cap
  /-- v0-v127; registers at and above N read zero and are out of reach (R17) -/
  v : List Word
  /-- quad tags of w0-w31 (R20) -/
  vtag : List Bool
  /-- o0-o15 and their valid bits (R21) -/
  o : List Word
  oval : List Bool
  /-- b0-b3 (R22) -/
  b : List Latch
  /-- x0-x3 (R25) -/
  x : List (BitVec 16)
  /-- p0-p6 (R27) -/
  p : List Bool
  /-- f0-f11 (R28) -/
  f : List Bool
  /-- cycle of the last issue, for the distance count D (R61); none reads D = 7 -/
  last : Option Nat
  /-- %fps (R32) -/
  fps : Word
  park : Option Park
  await : Option Await
  /-- stop kind (R255) -/
  stopKind : Nat
  /-- causes this lane raised itself (R255) -/
  cause : Word
  /-- trap code (R255) -/
  trap : BitVec 16
  /-- yield step (R255) and the recorded liveness block (R262) -/
  step : BitVec 16
  block : Option (DWord × DWord × DWord)
  /-- words since the last yield while a deschedule is pending (R261) -/
  words : Nat
  /-- id of the frame that started the thread (R301) -/
  frame : DWord
  /-- the team's operations entered before the thread's last taken transfer: its fetches follow the fences among them
  (R75) -/
  xfer : Nat
  /-- what its accesses followed, by `gates`, as it last executed a fence with acquire ordering, and as it then last took a
  transfer: its fetches follow it (R75) -/
  fenced : List Gate
  fetchGates : List Gate
  /-- the thread executes a `settle` again whose answer half is done (R268) -/
  half : Bool
  /-- what its next accesses follow beside its own earlier ones: by the messages it has taken and the releases of convergence
  registers (R207, R327, R329) -/
  gates : List Gate
  /-- MODEL: values the thread held since it started, among which an undefined value lies (R6) -/
  held : List Word
  deriving DecidableEq, Repr

/-! ### Groups -/

/-- R229: the operands recorded at the first signature. -/
structure Signature where
  config : Word
  cap : Cap
  lane : Nat
  sf : List (Nat × Fin 12)
  /-- what the operation follows: each signature is a release by its lane (R229), of its own accesses and of what those
  follow -/
  gates : List Gate
  deriving DecidableEq, Repr

/-- A convergence register (R31, R229). -/
structure Conv where
  expect : BitVec 128
  arrived : BitVec 128
  armed : Bool
  sign : Bool
  used : Bool
  sig : Option Signature
  deriving DecidableEq, Repr

/-- R31. -/
def Conv.idle : Conv := ⟨0, 0, false, false, false, .none⟩

/-- A valid entry of a PC-table section (R162): key, lanes in ascending order, creation rank. -/
structure PcEntry where
  pccx : Nat
  pc : DWord
  mask : List Nat
  order : Nat
  deriving DecidableEq, Repr

/-- R251, R255: the engine record. -/
structure EngineRecord where
  op : Nat
  lane : Nat
  valid : Bool
  pc : DWord
  deriving DecidableEq, Repr

/-- One register write of one lane that performs at its own time (R18, R92, R196). -/
inductive Upd where
  | v (n : Nat) (w : Word)
  | quad (m : Nat) (c : Cap)
  | o (n : Nat) (w : Word)
  | p (n : Fin 7) (b : Bool)
  | x (k : Fin 4) (w : BitVec 16)
  | s (i : Nat) (w : Word)
  | k (i : Nat) (c : Cap)
  | sw (w : BitVec 2)
  | fps (w : Word)
  | fpsOr (w : Word)
  | flag (n : Fin 12)
  deriving DecidableEq, Repr

/-- Which timed write of 95 a pending write is. -/
inductive PendKind where
  | alu | pred | scalar
  deriving DecidableEq, Repr

/-- Writes of an issued word that perform in cycle `due` (R18, R92, R196). -/
structure Pend where
  due : Nat
  kind : PendKind
  g : Nat
  upds : List (Nat × Upd)
  deriving DecidableEq, Repr

/-- A group (R15, R29-R31, R161-R166, R247). -/
structure Group where
  /-- non-Free threads by lane -/
  threads : NMap Thread
  s : List Word
  sw : BitVec 2
  k : List Cap
  g : List Conv
  cause : Word
  pcc : List (Option Cap)
  pct : List (Option PcEntry)
  /-- unhoused lanes in queue order (R163), and behind them those that became unhoused in this cycle -/
  queue : List Nat
  joining : List Nat
  /-- the housing of R165 that the last cycle owes this section -/
  houseDue : Bool
  age : Nat
  issued : Nat
  /-- words issued while the queue held an eligible thread and no entry freed (R166) -/
  crowd : Nat
  engRec : EngineRecord
  skid : Nat
  initiator : Bool
  /-- the group issues no more (R249, R250) -/
  halted : Bool
  /-- the group receives no HALT from the halt under way (R250, R251, R261) -/
  exempt : Bool
  deriving DecidableEq, Repr

/-! ### In-flight operations -/

/-- A core by die and logical position, as a number for tables: 128 * die + position. -/
abbrev CoreNo := Nat

/-- The place an access reaches once it has been checked and translated (R123, R366): physical memory, an offset of a
team's scratchpad share, a host page or a remote range. -/
inductive Loc where
  | mem (pa : Nat)
  | spad (team off : Nat)
  | host (fn pasid iova : Nat)
  | remote (conn handle off : Nat)
  /-- a remote place whose reply is complete (R432): the bytes it returned -/
  | reply (data : BitVec 128)
  deriving DecidableEq, Repr

/-- The kinds of read-modify-write (R151, R285, R289, R291). -/
inductive Rmw where
  | add | minI | minN | maxI | maxN | and | or | xor | xchg | cas | add64 | cas64 | cas128 | fadd
  | evpub
  deriving DecidableEq, Repr

/-- One lane's access of a word in flight. `x` is the data or operand, `y` the new value of a compare; `want` is
set when a stored capability is tagged or a loaded tag may be kept (R146, R148). -/
structure Access where
  lane : Nat
  loc : Loc
  size : Nat
  va : Nat
  x : BitVec 128
  y : BitVec 128
  tag : Bool
  cap : Cap
  /-- the space of the capability it goes through -/
  space : Nat
  deriving DecidableEq, Repr

/-- Where a long-latency result goes (R65, R99, R131). -/
inductive Dest where
  | none
  | v (n : Nat)
  | o (n : Nat)
  | pair (n : Nat)
  | quad (n : Nat)
  | capW (m : Nat)
  | capK (i : Nat)
  deriving DecidableEq, Repr

/-- One side of a copy or of an engine read: a capability resolved at issue (R208). -/
structure Side where
  space : Nat
  addr : Nat
  cap : Cap
  deriving DecidableEq, Repr

/-- A copy command in flight (R208-R213), one per lane of its word. -/
structure Copy where
  dst : Side
  src : Option Side
  pattern : Word
  len : Nat
  /-- the parts still to land: offset and length -/
  left : List (Nat × Nat)
  /-- source bytes read ahead of their landing, by offset (R323) -/
  got : NMap Byte
  /-- the word it issued with (the number of the word's first operation) and its lane -/
  word : Nat
  lane : Nat
  /-- the arrival word: the team whose share holds it, and its offset -/
  arrival : Option (Nat × Nat)
  /-- the granules the command holds: team and index -/
  granules : List (Nat × Nat)
  tagMode : Bool
  kind : Nat
  /-- the current grant that a command over 64 KiB waits for, and its place in the order of requests (R212, R445) -/
  grant : Bool
  asked : Nat
  /-- it has made an access: its scope has met the ceiling (R312) -/
  begun : Bool
  deriving DecidableEq, Repr

/-- A task frame (R287). -/
structure Frame where
  code : Cap
  data : Cap
  join : Cap
  args : List Word
  entry : Word
  flags : BitVec 16
  id : DWord
  deriving DecidableEq, Repr

/-- What an operation in flight does when it performs. -/
inductive OpKind where
  /-- a result written through the landing buffer (R18); the updates are the entry's -/
  | land (upds : List (Nat × Upd))
  /-- a load: the lanes still to perform, and what those that have performed read, with its tag -/
  | load (acc : List Access) (dst : List (Nat × Dest)) (sext : Bool) (isCap : Bool) (got : List (Nat × Upd))
  | store (acc : List Access) (isCap : Bool)
  | rmw (k : Rmw) (acc : List Access) (dst : List (Nat × Dest)) (got : List (Nat × BitVec 128))
  | fence
  | copy (c : Copy)
  /-- a prefetch (R158): it changes nothing -/
  | prefetch
  /-- a kernel word whose outcome waits on other agents (R356, R357, R365, R372): `obj` is what it waits on; `marks`
  are the teams and operation numbers before which accesses must have performed (R365) -/
  | kernel (obj : Nat) (marks : List (Nat × Nat)) (dst : List (Nat × Dest))
  /-- `spawn` (R289): per lane its frame and the access that increments the join counter -/
  | spawn (items : List (Nat × Frame × Option Access))
  /-- `troy.abs` (R394): a session with its generation, the data and the bytes to read -/
  | absorb (sess : Nat) (gen : BitVec 32) (src : Side) (len : Nat) (granules : List (Nat × Nat))
  /-- `troy.close` (R395) -/
  | sealing (sess : Nat) (dst : List (Nat × Dest))
  /-- `attest` (R389): the record still to be written through a capability -/
  | attest (cap : Cap) (record : List Byte) (m : Nat)
  /-- `ctxcfg.ceil` (R354): the ceiling of the context of a creation number changes as the status lands -/
  | ceil (born n : Nat) (upds : List (Nat × Upd))
  /-- `launch` measuring and accepting (R280, R388): launches to accept -/
  | launch (ids : List Nat)
  deriving DecidableEq, Repr

/-- An operation in flight (R252): issuing thread lanes, the flag it clears, its order among the team's accesses. -/
structure Op where
  id : Nat
  g : Nat
  lanes : List Nat
  sf : Option (Fin 12)
  op10 : Nat
  pc : DWord
  /-- the PCC-table entry under which the word issued (R13) -/
  pccx : Nat
  scope : Scope
  acq : Bool
  rel : Bool
  seq : Bool
  kind : OpKind
  /-- by lane, what it follows beside the earlier accesses of its thread (R207, R327, R329) -/
  gates : List (Nat × Gate)
  deriving DecidableEq, Repr

/-! ### Matrix engine -/

/-- An exact element value: an integer times a power of two, or special (R57, R218). -/
inductive Elem where
  | fin (m : Int) (e : Int)
  | posInf
  | negInf
  | nan
  deriving DecidableEq, Repr

/-- A macro (R218). `cols` holds the exact element values of the loaded columns: those of a cell and those of the
residue store alike, the latter named by (column, k) in `residue` (R221). -/
structure Macro where
  fmt : Option Nat
  cols : List (List Elem)
  residue : List (Nat × Nat)
  poisoned : Bool
  deriving DecidableEq, Repr

/-- The state of an accumulator entry (R222). -/
inductive EState where
  | fin | posInf | negInf | nan
  deriving DecidableEq, Repr

/-- An accumulator entry: its value in units of the grid (R222). -/
structure Entry where
  value : Int
  st : EState
  ovf : Bool
  deriving DecidableEq, Repr

/-- An accumulator bank (R222); entries not listed are 0, finite, ovf 0. -/
structure Bank where
  openC : Bool
  afmt : Nat
  bfmt : Nat
  ofmt : Nat
  mode : Nat
  ea : Int
  count : Nat
  status : Word
  grant : Bool
  /-- the place of a restored chain's request in the order of the requests for current (R232, R445) -/
  asked : Nat
  entries : NMap Entry
  deriving DecidableEq, Repr

/-- The issue view of a bank (R228). -/
structure BankView where
  openC : Bool
  afmt : Nat
  bfmt : Nat
  ofmt : Nat
  ea : Int
  count : Nat
  deriving DecidableEq, Repr

/-- The operations of the matrix queue (R228). -/
inductive MKind where
  | mldb (bf mac half cols stride addr : Nat)
  | mbeg (bank af bf ofm mode : Nat) (ea : Int)
  | mma (bank mask r0 rows stride addr : Nat)
  | mend (bank r0 rows stride d : Nat) (c : Option Nat)
  | mzero (bank : Nat)
  | mrd (items : List (Nat × Nat × Nat × Nat))
  | mstat (items : List (Nat × Dest × Nat))
  deriving DecidableEq, Repr

/-- A queued matrix operation, with the flags it clears (lane and flag) and the granules it holds. -/
structure MOp where
  id : Nat
  g : Nat
  /-- what it follows: its issue, or each of its signatures, is a release (R178, R229, R328) -/
  gates : List Gate
  flags : List (Nat × Fin 12)
  granules : List Nat
  op10 : Nat
  lane : Nat
  pc : DWord
  /-- of an `mbeg`, the place of its request in the order of the requests for current, and whether it has been granted (R236, R445) -/
  asked : Nat
  granted : Bool
  kind : MKind
  deriving DecidableEq, Repr

/-- The matrix engine of a core (R218-R232). -/
structure Matrix where
  macros : List Macro
  banks : List Bank
  viewFmt : List (Option Nat)
  viewBank : List BankView
  queue : List MOp
  deriving DecidableEq, Repr

/-! ### Teams -/

/-- R253. -/
inductive TState where
  | running | yielding | halting | draining | stopped | saving | saved | restoring
  deriving DecidableEq, Repr

/-- A granule tied to an arrival word of this team's share (R180): the word's offset; the team that holds the granule
and its index. -/
structure Tie where
  word : Nat
  team : Nat
  granule : Nat
  deriving DecidableEq, Repr

/-- R367: a PAGE or PROT that a word raised precisely: group and lane, level outward from the team's own address
space, the space of that level, the address there, and the access kind (bit 0 load, 1 store, 2 fetch, 3 capability). -/
structure PageFault where
  g : Nat
  lane : Nat
  level : Nat
  space : Nat
  addr : Nat
  kind : Nat
  deriving DecidableEq, Repr

/-- A steal search in progress (R297): the tier and the victims already asked; `asked` is the victim whose answer
is awaited. -/
structure Steal where
  tier : Nat
  done : List CoreNo
  frame : Option Frame
  /-- it began after the team's last slot became Free (R284) -/
  fresh : Bool
  deriving DecidableEq, Repr

/-- The span whose word is chosen or issues: the model's record between choice and issue (R168, R171). -/
structure Sel where
  core : CoreId
  team : Nat
  g : Nat
  pccx : Nat
  pc : DWord
  lanes : List Nat
  word : DWord
  ctl : Ctl
  lit : DWord
  blk : List DWord
  deriving DecidableEq, Repr

/-- The issue slot held by a chosen word until its issue cycle (R171). -/
structure Held where
  g : Nat
  pccx : Nat
  pc : DWord
  issue : Nat
  deriving DecidableEq, Repr

/-- The latch-only hold (R24): the group, the last of the 8 cc after the latch-only word, and the lanes whose next word
it awaits. -/
structure LatchHold where
  g : Nat
  last : Nat
  lanes : List Nat
  deriving DecidableEq, Repr

/-- A team (R160, R175-R181, R253, R277-R301). -/
structure Team where
  /-- the core it is resident on, if any, and the W of the cores it runs on (R16, R443) -/
  core : Option CoreId
  w : Nat
  ctx : Nat
  launch : Nat
  cluster : Nat
  idx : Nat
  cx : Nat
  cy : Nat
  gx : Nat
  gy : Nat
  cw : Nat
  ch : Nat
  sched : Nat
  world : Nat
  /-- the generation of its world's keys when it started: no other restores it (R386) -/
  epoch : Nat
  /-- team objects of the cluster, by team index (R123) -/
  mates : List Nat
  nreg : Nat
  mrf : Nat
  spad : Nat
  st : TState
  faultStop : Bool
  desched : Bool
  cut : Bool
  whole : Bool
  cutStep : BitVec 16
  groups : List Group
  /-- the scratchpad share: bytes, tagged 16-byte granules and engine-owned 1 KiB granules (R175, R177) -/
  sp : Memory
  spTags : List Nat
  owner : List Nat
  /-- granules that an issued command names and whose owner bit flips once the accesses accepted before it have performed
  (R178); until then they are refused to threads and commands like engine-owned ones (R179) -/
  named : List Nat
  ties : List Tie
  ops : List Op
  nextOp : Nat
  pend : List Pend
  mx : Matrix
  deque : List Frame
  ring : Cap
  ringBytes : Nat
  ringOld : Nat
  ringCount : Nat
  refill : Bool
  spawns : Nat
  /-- Free slots in the order in which they take frames (R296) -/
  free : List Nat
  /-- slots that became Free in this cycle, ascending; they follow the others as it ends (R296) -/
  freed : List Nat
  steal : Option Steal
  /-- cycle in which the team became idle, or its last search ended: the next begins within 4,096 (R297) -/
  idleAt : Option Nat
  /-- a search begun after the last slot became Free found no frame (R284) -/
  searched : Bool
  doneCap : Option Cap
  slotPa : Nat
  /-- issue state: group of the last word, run length, whether others were ready, age counter (R161, R168) -/
  lastG : Option Nat
  run : Nat
  contended : Bool
  ageCtr : Nat
  hold : Option LatchHold
  slot : Option Held
  /-- the banks to which ALU results were written back in this cycle (R173) -/
  wrote : List Nat
  /-- cycle up to which each pipe is busy: special-function, memory (R169) -/
  sfuBusy : Nat
  memBusy : Nat
  /-- cycle since which a deschedule is pending (R261) -/
  deschedAt : Nat
  /-- cycle at which the team took its core (R362) -/
  placedAt : Nat
  /-- fault message in its course (R368): its answer object -/
  message : Option Nat
  /-- what the kind-2 message of R367 tells, and whether a PAGE or PROT arose that no word raised precisely -/
  faults : List PageFault
  pageAsync : Bool
  /-- its context was killed: what its accesses have in flight ends, and it is gone (R357) -/
  dead : Bool
  deriving DecidableEq, Repr

/-! ### Cores and dies -/

/-- A core (R33, R361, R384, R446). -/
structure Core where
  cycle : Nat
  team : Option Nat
  world : Nat
  gated : Bool
  retiring : Bool
  /-- cycles charged in the current window, by scheduling context (R361), and what the next window lacks -/
  charged : NMap Nat
  debt : NMap Nat
  window : Nat
  /-- shares that were changed in this window, as they stand until the next (R360) -/
  shares : NMap Nat
  deriving DecidableEq, Repr

/-- A die (R441, R442, R444). -/
structure Die where
  homeOk : Bool
  coresOk : Bool
  failed : Bool
  full : Bool
  clock : Nat
  spares : Nat
  absent : List Nat
  volt : Nat
  deriving DecidableEq, Repr

/-! ### Objects -/

/-- An entry of the object table (R340): type 0 is a free entry; `made` is the reserve, core set or object it was
made from (R343). -/
structure ObjEntry where
  otype : Nat
  gen : BitVec 32
  made : Option Nat
  deriving DecidableEq, Repr

/-- R352. -/
inductive CtxSt where
  | created | runnable | stopping | stopped | degraded | dead
  deriving DecidableEq, Repr

/-- A save slot of a context (R343): physical address, bytes, whether in use. -/
structure SaveSlot where
  pa : Nat
  size : Nat
  busy : Bool
  deriving DecidableEq, Repr

/-- A context (R352-R358, R388). -/
structure Ctx where
  creation : Nat
  parent : Option Nat
  depth : Nat
  st : CtxSt
  /-- stopped by its own `ctxstop`, not through an ancestor (R352) -/
  ownStop : Bool
  /-- a cut is asked for, and whether it is still reachable (R265, R356) -/
  cut : Bool
  cutFailed : Bool
  cset : Nat
  sched : Nat
  space : Nat
  fault : Option Cap
  ceil : Nat
  counters : List Nat
  reserve : Nat
  slots : List SaveSlot
  meas : List Byte
  events : Nat
  measured : List (BitVec 128)
  /-- the 4 KiB of its reserve (R341) -/
  pa : Nat
  /-- the common or largest step of the latest cut (R265, R356) -/
  cutStep : BitVec 16
  /-- the cut has had a round, so that `cutStep` holds its largest step (R265) -/
  cutRound : Bool
  deriving DecidableEq, Repr

/-- A run of mapped pages (R364): inner and outer address, page size, length in bytes and rights. -/
structure MapRange where
  va : Nat
  len : Nat
  page : Nat
  target : Nat
  r : Bool
  w : Bool
  x : Bool
  t : Bool
  deriving DecidableEq, Repr

/-- A host page (R424) of 4 KiB. -/
structure HostPage where
  va : Nat
  fn : Nat
  pasid : Nat
  iova : Nat
  r : Bool
  w : Bool
  deriving DecidableEq, Repr

/-- Remote pages of an import (R434). -/
structure RemotePages where
  va : Nat
  len : Nat
  conn : Nat
  handle : Nat
  ld : Bool
  st : Bool
  ldc : Bool
  stc : Bool
  deriving DecidableEq, Repr

/-- An address space (R363-R366, R448): owner context, outer level, ASID, reserve, 4 KiB units held, tables
present as (level, index), and its pages. -/
structure Space where
  owner : Nat
  /-- the creation number of the context that made it (R353) -/
  born : Nat
  outer : Option Nat
  asid : Nat
  reserve : Nat
  units : List Nat
  tables : List (Nat × Nat)
  maps : List MapRange
  hostPages : List HostPage
  remote : List RemotePages
  deriving DecidableEq, Repr

/-- A message (R347). `ans` is the answer object of an `ask`; `ctx` and `space` are the poster's context and address space,
`born` and `sgen` the creation number of the one and the generation of the other, by which R348 knows them again. -/
structure Msg where
  words : List Word
  q0 : Cap
  q1 : Cap
  ans : Option Nat
  prio : Nat
  seq : Nat
  ctx : Nat
  born : Nat
  space : Nat
  sgen : BitVec 32
  kernel : Bool
  /-- 0 for a thread's message; 1-5 for the kinds of R367-R375; 6 for a host packet; 255, in `Answer.held` alone, for an
  answer object destroyed unused -/
  kind : Nat
  /-- the interface of a host packet, the line of a kind-4 message or the team of a fault message -/
  src : Nat
  pasid : Nat
  /-- the release it carries, with what its poster's accesses follow (R329), or its place in its connection's order of writes
  (R327) -/
  gates : List Gate
  /-- the slot of the endpoint's memory in which it waits (R347, R349) -/
  slot : Nat
  deriving DecidableEq, Repr

/-- A thread waiting at an endpoint (R349): team object, group, lane, priority, order; the message of a poster. -/
structure Waiter where
  team : Nat
  g : Nat
  lane : Nat
  prio : Nat
  seq : Nat
  msg : Option Msg
  deriving DecidableEq, Repr

/-- An endpoint (R349); the state Empty, Holding or Waiting is what its queues hold. -/
structure Endpoint where
  pa : Nat
  slots : List Msg
  kq : List Msg
  posters : List Waiter
  takers : List Waiter
  /-- 0: an `objmake` endpoint; 1 key, 2 host, 3 fabric: the firmware's own (R440) -/
  firmware : Nat
  deriving DecidableEq, Repr

/-- A scheduling context (R359). -/
structure Sched where
  parent : Option Nat
  share : Nat
  allocated : Nat
  prio : Nat
  ylim : Nat
  bound : Option Nat
  deriving DecidableEq, Repr

/-- R370. -/
inductive LineSt where
  | unbound | armed | awaiting (pending : Bool)
  deriving DecidableEq, Repr

/-- An interrupt line (R370). -/
structure Line where
  number : Nat
  st : LineSt
  ep : Option Nat
  /-- the generation of that endpoint -/
  epGen : BitVec 32
  status : Word
  deriving DecidableEq, Repr

/-- A range of a reserve and its free map, as the runs of 4 KiB units in use: first unit and number of units, rising. -/
structure Range where
  pa : Nat
  len : Nat
  used : List (Nat × Nat)
  deriving DecidableEq, Repr

/-- A reserve (R343): its range with its free map, and the ranges that replace bytes it has lost (R371). -/
structure Reserve where
  pa : Nat
  len : Nat
  used : List (Nat × Nat)
  more : List Range
  deriving DecidableEq, Repr

/-- A core set (R344, R449): its cores with their numbers, and the guaranteed count. -/
structure CoreSet where
  cores : List (CoreNo × Nat)
  guaranteed : Nat
  deriving DecidableEq, Repr

/-- An answer object (R351): the asker's thread (none for a fault message or once the asker is gone), the thread
that holds its capability, an answer that waits for a team to run again (R268). -/
structure Answer where
  asker : Option (Nat × Nat × Nat)
  m : Nat
  q : Nat
  pd : Option (Fin 7)
  sf : Option (Fin 12)
  /-- the fault message this answer ends or reflects (R368): team and the context that last held it -/
  course : Option (Nat × Nat)
  holder : Option (Nat × Nat × Nat)
  held : Option Msg
  /-- the fault message, for its reflection (R368) -/
  note : Option Msg
  /-- the firmware has taken the message and is to answer it (R351) -/
  taken : Bool
  deriving DecidableEq, Repr

/-- R385. -/
inductive SlotSt where
  | empty | armed | destroying
  deriving DecidableEq, Repr

/-- A key slot (R385): state, epoch of its keys, session count, void log (R396). -/
structure KeySlot where
  st : SlotSt
  epoch : Nat
  sessions : Nat
  voids : List (List Byte)
  /-- the asker that waits for a destruction to end -/
  reply : Option Nat
  deriving DecidableEq, Repr

/-- R391. -/
inductive SessSt where
  | opened | closing | closed | void
  deriving DecidableEq, Repr

/-- A Troy session (R391-R396). -/
structure Session where
  number : Nat
  slot : Nat
  ctx : Nat
  /-- the creation number of its context, and the context's M at the close (R397) -/
  born : Nat
  meas : List Byte
  team : Nat
  st : SessSt
  buf : Cap
  total : Nat
  data : List Byte
  deriving DecidableEq, Repr

/-- A registration (R434). -/
structure Registration where
  conn : Nat
  /-- the address space in which the range lies -/
  space : Nat
  base : Nat
  len : Nat
  ld : Bool
  st : Bool
  ldc : Bool
  stc : Bool
  withdrawing : Bool
  /-- the answer owed when a withdrawal completes (R435) -/
  reply : Option Nat
  deriving DecidableEq, Repr

/-- A queue interface (R418, R421). -/
structure QueueIf where
  bound : Bool
  ep : Nat
  prio : Nat
  binder : Nat
  event : Option Cap
  delivered : Word
  refused : BitVec 16
  code : Nat
  deriving DecidableEq, Repr

/-! ### Launches and revocation -/

/-- An accepted launch (R279-R283). -/
structure Launch where
  id : Nat
  ctx : Nat
  code : Cap
  arg : Cap
  ring : Cap
  sched : Nat
  world : Nat
  done : Option Cap
  waits : List (Cap × Nat)
  entry : Nat
  gx : Nat
  gy : Nat
  cw : Nat
  ch : Nat
  groups : Nat
  carve : Word
  ringBytes : Nat
  doneTarget : Nat
  accepted : Bool
  ready : Bool
  placed : Nat
  /-- its place in the order of acceptance (R283) -/
  turn : Nat
  /-- what its teams follow: the earlier writes of the connections whose event words made it ready (R281, R327) -/
  gates : List Gate
  /-- the digest of the code, when the launch is to be measured (R388) -/
  digest : Option (List Byte)
  deriving DecidableEq, Repr

/-- What a revocation covers (R372, R373). -/
inductive Region where
  | reserve (r : Nat)
  | range (space lo hi : Nat)
  deriving DecidableEq, Repr

/-- A revocation (R372-R375): its filter entry and its course. -/
structure Revocation where
  seq : Nat
  what : Region
  issuer : Nat
  notify : Option Cap
  /-- the issuer's address space and its generation, in which an event word lies (R372) -/
  notifySpace : Nat
  notifyGen : BitVec 32
  active : Bool
  swept : Bool
  pages : Nat
  deriving DecidableEq, Repr

/-! ### Memory side -/

/-- A tag-summary byte (R381). -/
structure Summary where
  world : Nat
  mixed : Bool
  deriving DecidableEq, Repr

/-- The key a line of M-mode memory was stored under: its world and the epoch of the slot's keys (R382, R386). -/
structure Stamp where
  world : Nat
  epoch : Nat
  deriving DecidableEq, Repr

/-- The state of a line at its home's directory (R314). -/
inductive DirSt where
  | shared (mask : List Nat)
  | exclusive (owner : Nat)
  | owned (owner : Nat) (mask : List Nat)
  | busy (req : Nat) (kind : Nat) (acks : List Nat) (prev : Option Nat)
  deriving DecidableEq, Repr

/-- MOESI (R313); Invalid is absence. -/
inductive Moesi where
  | modified | owned | exclusive | shared
  deriving DecidableEq, Repr

/-- A coherence message in flight (R315): its kind by name, the die and the line. -/
inductive CohKind where
  | rds | rdx | upg | wb | inv | fwdS | fwdX | data | grant | ack | stale
  deriving DecidableEq, Repr

/-- A message between a die's L2 and a home (R315). -/
structure CohFlight where
  kind : CohKind
  die : Nat
  line : Nat
  /-- of a forward the requesting die; of DATA 0 shared or 1 exclusive from the home, 2 shared or 3 exclusive from an
  owner; of an ACK 0 to a home, 1 from it for a write-back, 2 to a home for an external write, 3 to a home from a
  write-back buffer -/
  arg : Nat
  /-- of an INV for an external write, its connection and its place in the connection's order (R322) -/
  ext : Option (Nat × Nat)
  deriving DecidableEq, Repr

/-- A line in a die's L2: its state and the key id of the access that last filled or wrote it (R313, R383). -/
structure L2Line where
  st : Moesi
  key : Nat
  /-- what no context has been charged for yet (R358): 1 for a line that an owner sent, 2 for one that memory supplied -/
  due : Nat
  deriving DecidableEq, Repr

/-- The 64 bytes of a line and its four tag bits (R313), and which external writes its bytes come from (R322). -/
structure LineData where
  bytes : List Byte
  tags : List Bool
  ext : NMap (Nat × Nat)
  /-- of a copy that an INV is still to reach, the number of recorded events when it went out of date (MODEL) -/
  since : Nat
  /-- of what memory holds of a line that it is not current of: one more than the creation number of the context that wrote the line
  last, or 0 (R358) -/
  writer : Nat
  deriving DecidableEq, Repr

/-- The protocol's state (R313-R322). `State.mem` holds for each byte the last store of the single order of R156. The copies
of a line in caches, write-back buffers and messages hold those bytes (R320), but for `stale`; memory holds them but for
`behind`. -/
structure Coherence where
  dir : NMap DirSt
  /-- lines held by L2s: key 10 * line + die -/
  l2 : NMap L2Line
  /-- lines held by L1s: key 2048 * line + core -/
  l1 : NMap Moesi
  /-- lines in a die's write-back buffer (R317), with their key ids: key 10 * line + die -/
  wb : NMap Nat
  flight : List CohFlight
  waiting : List CohFlight
  /-- what memory holds of lines of which it is not current (R314) -/
  behind : NMap LineData
  /-- what a die that the INV of an external write has not reached still holds of a line (R322): key 10 * line + die -/
  stale : NMap LineData
  /-- the external write that a byte comes from: connection, and place in its order (R322) -/
  extBy : NMap (Nat × Nat)
  /-- external writes applied, by connection -/
  extSeq : NMap Nat
  deriving DecidableEq, Repr

/-! ### Events (R310, R323, R324) -/

/-- R310: the agents. `part` stands for the kernel unit, the distributor, the save and restore engines, the Furlong and
Troy; an external agent is named by its connection. -/
inductive Agent where
  | thread (team g lane : Nat)
  | copy (team op : Nat)
  | matrix (team op : Nat)
  | part
  | external (conn : Nat)
  deriving DecidableEq, Repr

/-- Bytes that an access touches: its lane, its place and size, and whether it writes. -/
structure Touch where
  lane : Nat
  loc : Loc
  size : Nat
  write : Bool
  deriving DecidableEq, Repr

/-- R324: the carrier of an edge: the group of the thread that issued it, and its scope. -/
structure Carrier where
  team : Nat
  g : Nat
  scope : Nat
  deriving DecidableEq, Repr

/-- An event (R323) that has performed while the model records events: its agent, the operation it belongs to with its lane
and acting scope, and what it touched. -/
structure Ev where
  agent : Agent
  op : Op
  lane : Nat
  scope : Nat
  touch : List Touch
  /-- the team's next operation number as it performed: operations from it on were issued later -/
  next : Nat
  /-- of an external write, its connection and its place in the connection's order (R322) -/
  ext : Option (Nat × Nat)
  /-- of the distributor's read before a dependent launch, the launch (R281, R328) -/
  launch : Option Nat
  /-- the granules whose return it observed (R178) -/
  seen : List (Nat × Nat)
  /-- the edges of R326 that lead to it: the number of the event from which each comes, and its carrier -/
  ins : List (Nat × Option Carrier)
  deriving DecidableEq, Repr

/-! ### Host, fabric, firmware -/

/-- The firmware command registers (R437, R438). -/
structure CommandSet where
  req : List Word
  /-- the request words that the write to CMD read (R438) -/
  args : List Word
  cmd : Option (Nat × Nat)
  statTag : Nat
  status : Nat
  resp : List Byte
  deriving DecidableEq, Repr

/-- One logged event (R439). -/
structure LogEntry where
  kind : Nat
  arg : List Word
  deriving DecidableEq, Repr

/-- An MSI-X vector (R425): its entry of the MSI-X table, as the host programs it, and its Pending Bit. -/
structure Vector where
  addr : Nat
  data : Word
  masked : Bool
  pending : Bool
  deriving DecidableEq, Repr

/-- What leaves the package (R425, R424, R428, R438, R387). -/
inductive Outbound where
  /-- of a function, under a vector: the address and data of the vector's entry (R425) -/
  | msix (fn vec addr : Nat) (data : Word)
  | hostWrite (fn pasid iova : Nat) (bytes : List Byte)
  | hostRead (fn pasid iova len : Nat)
  /-- an AtomicOp (R416, R424): the operation and its operands -/
  | hostAtomic (fn pasid iova size : Nat) (k : Rmw) (x y : BitVec 128)
  | pageRequest (fn pasid iova : Nat)
  /-- a packet (R428): its message's length `total` as the wire carries it, and its own offset `pos` there. In tag mode
  every 16 bytes are followed by a byte that holds their tag (R436) -/
  | fabricWrite (conn seq handle off : Nat) (tagMode : Bool) (total pos : Nat) (bytes : List Byte)
  | fabricRead (conn seq handle off len : Nat) (tagMode : Bool)
  /-- a packet of a reply; the cause is 0 when the message was applied, REVOKED when it was refused -/
  | fabricReply (conn seq : Nat) (cause : Word) (total pos : Nat) (bytes : List Byte)
  /-- units of reassembly space granted to the peer (R431) -/
  | credit (conn units : Nat)
  | spdm (bytes : List Byte)
  | readData (bytes : List Byte)
  deriving DecidableEq, Repr

/-- A message being reassembled or waiting at the receiver (R432). -/
structure InMsg where
  seq : Nat
  isRead : Bool
  handle : Nat
  off : Nat
  len : Nat
  got : List (Nat × List Byte)
  refused : Bool
  tagMode : Bool
  deriving DecidableEq, Repr

/-- A message of this package that awaits its reply (R430, R433). -/
structure OutMsg where
  seq : Nat
  team : Nat
  op : Nat
  lane : Nat
  off : Nat
  len : Nat
  units : Nat
  /-- retransmissions counted toward the retry limit (R427) -/
  tries : Nat
  /-- the bytes of its reply, and what of them has been reassembled (R432) -/
  wire : Nat
  got : List (Nat × List Byte)
  deriving DecidableEq, Repr

/-- A connection (R427). -/
structure Conn where
  up : Bool
  paths : Nat
  peer : List Word
  sendSeq : Nat
  recvSeq : Nat
  credits : Nat
  /-- units of this package's reassembly space that the peer holds (R431) -/
  given : Nat
  inMsgs : List InMsg
  outMsgs : List OutMsg
  deriving DecidableEq, Repr

/-- Remote pages that were removed and whose accesses in flight have still to end, with the answer owed (R434
operation 4). -/
structure Leaving where
  conn : Nat
  handle : Nat
  reply : Option Nat
  deriving DecidableEq, Repr

/-- A pending page request of the part (R424): function, PASID, address, the answer if it came, and the span whose word
waits for it: team, group and PC. -/
structure PageReq where
  id : Nat
  fn : Nat
  pasid : Nat
  iova : Nat
  answer : Option Bool
  span : Option (Nat × Nat × DWord)
  deriving DecidableEq, Repr

/-- The SPDM responder (R387): negotiated version and step. -/
structure Spdm where
  version : Nat
  stage : Nat
  deriving DecidableEq, Repr

/-! ### The machine -/

/-- What acts next (MODEL): a core, a step of a unit with its arguments, or the oldest outside event. -/
inductive Actor where
  | core (c : CoreId)
  | input
  | unit (i : Instr) (a : EvArg)
  deriving DecidableEq, Repr

/-- The state of the part. -/
structure State where
  cores : NMap Core
  dies : List Die
  teams : NMap Team
  /-- the object table (R340) by index -/
  objs : NMap ObjEntry
  ctxs : NMap Ctx
  spaces : NMap Space
  eps : NMap Endpoint
  scheds : NMap Sched
  lines : NMap Line
  reserves : NMap Reserve
  csets : NMap CoreSet
  answers : NMap Answer
  keys : NMap Nat
  slots : List KeySlot
  sessions : NMap Session
  regs : NMap Registration
  qifs : NMap QueueIf
  /-- the root's objects, once the firmware has made them (R440) -/
  root : Option Nat
  creation : Nat
  launches : NMap Launch
  launchSeq : Nat
  /-- launches accepted, and by priority the place of the launch that last had its turn (R283) -/
  accepted : Nat
  turns : NMap Nat
  revs : List Revocation
  revSeq : Nat
  /-- order in which messages and waiters enter endpoints (R349) -/
  msgSeq : Nat
  /-- physical memory (R376): bytes, tagged 16-byte granules, poisoned lines (R150), stamps of M-mode lines -/
  mem : Memory
  tags : List Nat
  poison : List Nat
  stamps : NMap Stamp
  modes : NMap Nat
  summary : NMap Summary
  cxl : List Nat
  /-- ranges of channels that no spare rows replace (R444): base and bytes -/
  lost : List (Nat × Nat)
  /-- the channel retirements that the non-volatile remap table records: base, bytes, and whether spare rows took them (R444) -/
  rows : List (Nat × Nat × Bool)
  /-- CXL ports whose device or link has stopped answering (R378) -/
  dead : List Nat
  coh : Coherence
  /-- MODEL: the events that have performed while some access went ahead of one that it follows (R319), or the INV of an
  external write is under way (R322) -/
  events : List Ev
  fw : CommandSet
  state : Nat
  /-- the firmware's error counters (R380): stacks 0-11, then CXL ports as 12-15 -/
  corrected : NMap Nat
  errlog : List LogEntry
  spdm : Spdm
  vfs : Nat
  /-- the base address registers as the host has programmed them: key 8 * function + BAR (R417) -/
  bars : NMap Nat
  /-- the functions on which the host has enabled ATS, and PRI (R416, R424) -/
  atsOn : List Nat
  priOn : List Nat
  /-- the virtual functions whose Function Level Reset waits for their requests (R423) -/
  flr : List Nat
  pasids : List (Nat × Nat)
  vectors : NMap Vector
  pageReqs : List PageReq
  ats : List (Nat × Nat × Nat)
  conns : NMap Conn
  leaving : List Leaving
  outbox : List Outbound
  /-- fuses and non-volatile remap table (R447): retirements by (die, position) -/
  remap : List (Nat × Nat)
  /-- MODEL: outside events still to come, the oldest first -/
  inputs : List (Instr × EvArg)
  /-- MODEL: who acts next, when that is already decided -/
  turn : Option Actor
  /-- MODEL: the word in issue and the arguments of the step under way -/
  sel : Option Sel
  ev : EvArg
  /-- MODEL: the requests for current grants that have arrived (R445) -/
  asks : Nat
  /-- MODEL: the counter that draws free values -/
  draws : Nat
  deriving DecidableEq, Repr

/-- Why the machine stops. -/
inductive Fault where
  /-- an instruction is executed where no span stands in issue, or its team or group is gone: `exec` alone, never
  `step`, can ask for it. Safe: the part has no such state. -/
  | noSpan
  deriving DecidableEq, Repr

/-- Why a word has no meaning here. -/
inductive Refusal where
  /-- `exec` has no meaning for the instruction yet. Safe. -/
  | notModelled (mnemonic : String)
  deriving DecidableEq, Repr

/-- R442: a compute die before its test, at 425 MHz; the spare count is what shipment leaves (at most 8). -/
def Die.fresh : Die :=
  { homeOk := false, coresOk := false, failed := false, full := false, clock := 425, spares := 8, absent := [],
    volt := 0 }

/-- R443: the control die, whose cores run at 850 MHz. -/
def Die.control : Die := { Die.fresh with clock := 850 }

/-- The dies of the part, the control die the last of them. -/
def Die.all : List Die := List.replicate 9 Die.fresh ++ [Die.control]

/-- R385, R447: an empty key slot. -/
def KeySlot.empty : KeySlot := { st := .empty, epoch := 0, sessions := 0, voids := [], reply := none }

/-- The part right after a cold reset (R447): service state ROM, memory clear, every object gone, every range in
mode P, slot 0 Armed, no command run. -/
def State.reset : State :=
  { cores := [], dies := Die.all, teams := [], objs := [], ctxs := [], spaces := [], eps := [],
    scheds := [], lines := [], reserves := [], csets := [], answers := [], keys := [],
    slots := { KeySlot.empty with st := .armed } :: List.replicate 63 KeySlot.empty,
    sessions := [], regs := [], qifs := [], root := none, creation := 0, launches := [], launchSeq := 0, accepted := 0, turns := [], revs := [],
    revSeq := 0, msgSeq := 0, mem := [], tags := [], poison := [], stamps := [], modes := [], summary := [],
    cxl := [0, 0, 0, 0], lost := [], rows := [], dead := [],
    coh := { dir := [], l2 := [], l1 := [], wb := [], flight := [], waiting := [], behind := [], stale := [], extBy := [],
             extSeq := [] },
    events := [],
    fw := { req := List.replicate 64 0, args := List.replicate 64 0, cmd := none, statTag := 0, status := 0, resp := List.replicate 256 0 },
    state := 0, corrected := [], errlog := [], spdm := { version := 0, stage := 0 }, vfs := 0, bars := [], atsOn := [],
    priOn := [], flr := [], pasids := [],
    vectors := [], pageReqs := [], ats := [], conns := [], leaving := [], outbox := [], remap := [], inputs := [], turn := none,
    sel := none, ev := EvArg.none, asks := 0, draws := 0 }

end Sys2Proof.Machine
end

