-- ==== Sys2Proof/Machine/Sha.lean ====
section
/-! DEFINITION. The SHA-384 digest that R388, R390 and R397 name, as FIPS 180-4 describes it: the manual names the function
and does not print it. Its constants are the fractional parts of roots of primes, which are computed here. -/

namespace Sys2Proof.Machine

open Sys2Proof

/-- A byte string cut, or filled up with zeros, to a length. -/
def padTo (n : Nat) (l : List Byte) : List Byte := l.take n ++ List.replicate (n - l.length) 0

/-! ### Constants -/

/-- The first 80 primes. -/
def shaPrimes : List Nat := (List.range' 2 408).filter fun p => (List.range' 2 19).all fun d => p ≤ d || p % d != 0

/-- The k-th root of x, rounded down, below 2^n beyond the part `r` already found. -/
def rootFrom (k x : Nat) : Nat → Nat → Nat
  | 0, r => r
  | n + 1, r => rootFrom k x n (if (r + 2 ^ n) ^ k ≤ x then r + 2 ^ n else r)

/-- The first 64 bits of the fractional part of the k-th root of a prime. -/
def fracRoot (k p : Nat) : DWord := BitVec.ofNat 64 (rootFrom k (p * 2 ^ (64 * k)) 70 0)

/-- The constant of each round: from the cube root of its prime. -/
def roundConstants : List DWord := shaPrimes.map (fracRoot 3)

/-- The hash value at the start: from the square roots of the ninth to sixteenth primes. -/
def hashStart : List DWord := ((shaPrimes.drop 8).take 8).map (fracRoot 2)

/-! ### Blocks -/

/-- Exclusive or of a word rotated by each of some amounts. -/
def spins (w : DWord) (l : List Nat) : DWord := l.foldl (fun x r => x ^^^ w.rotateRight r) 0

/-- The message in blocks of sixteen words, high byte first: it is followed by a one bit, zeros, and its length in bits. -/
def shaBlocks (m : List Byte) : List (List DWord) :=
  let n := (m.length + 17 + 127) / 128
  let whole := padTo (128 * n - 16) (m ++ [0x80])
  let size : List DWord := [BitVec.ofNat 64 (8 * m.length / 2 ^ 64), BitVec.ofNat 64 (8 * m.length)]
  let word := fun (j : Nat) => ((whole.drop (8 * j)).take 8).foldl (fun (w : DWord) b => w * 256 + b.zeroExtend 64) 0
  let words := (List.range (16 * n - 2)).map word ++ size
  (List.range n).map fun j => (words.drop (16 * j)).take 16

/-- What a round works on: the eight variables, the first of them first, and the schedule's next sixteen words. -/
structure Turn where
  vars : List DWord
  sched : List DWord

/-- One round under its constant: the variables shift down by one, and two of them take sums in; the schedule moves on. -/
def Turn.next (x : Turn) (k : DWord) : Turn :=
  match x.vars, x.sched with
  | [a, b, c, d, e, f, g, h], w :: rest =>
    let sum := k + w + h + spins e [14, 18, 41] + (g ^^^ (e &&& (f ^^^ g)))
    let most := (a &&& (b ||| c)) ||| (b &&& c)
    let near := rest.getD 0 0
    let far := rest.getD 13 0
    let new := w + rest.getD 8 0 + (spins near [1, 8] ^^^ (near >>> 7)) + (spins far [19, 61] ^^^ (far >>> 6))
    ⟨[sum + spins a [28, 34, 39] + most, a, b, c, sum + d, e, f, g], rest ++ [new]⟩
  | _, _ => x

/-- The 48 bytes of the digest. -/
def sha384 (m : List Byte) : List Byte :=
  let ends := (shaBlocks m).foldl (fun h b => h.zipWith (· + ·) (roundConstants.foldl Turn.next ⟨h, b⟩).vars) hashStart
  (ends.take 6).flatMap fun w => (List.range' 1 8).map fun j => BitVec.ofNat 8 (w.toNat / 256 ^ (8 - j))

end Sys2Proof.Machine
end

