-- ==== Sys2Proof/Machine/Ops.lean ====
section
/-! DEFINITION. The named operations over the state: sparse tables, registers, the PC and PCC tables (R13, R162-R166),
latches (R22-R24), the commit of an issued word (R11, R164, R168, R171), and taking and leaving an exception
(R247-R253, R258). -/

namespace Sys2Proof.Machine

open Sys2Proof

/-! ### Sparse tables -/

/-- The value at a key. -/
def NMap.look {α : Type} : NMap α → Nat → Option α
  | [], _ => none
  | (k, a) :: r, n => if k = n then some a else NMap.look r n

/-- Set the value at a key, keeping the keys rising. -/
def NMap.put {α : Type} : NMap α → Nat → α → NMap α
  | [], n, v => [(n, v)]
  | (k, a) :: r, n, v =>
    if n < k then (n, v) :: (k, a) :: r
    else if n = k then (n, v) :: r
    else (k, a) :: NMap.put r n v

/-- Drop a key. -/
def NMap.del {α : Type} : NMap α → Nat → NMap α
  | [], _ => []
  | (k, a) :: r, n => if k = n then r else (k, a) :: NMap.del r n

/-- Change the value at a key, if there is one. -/
def NMap.upd {α : Type} (m : NMap α) (n : Nat) (f : α → α) : NMap α :=
  match m.look n with
  | none => m
  | some a => m.put n (f a)

/-- Change every value. -/
def NMap.mapv {α : Type} (m : NMap α) (f : Nat → α → α) : NMap α := m.map fun p => (p.1, f p.1 p.2)

/-- The keys of a table are strictly rising. -/
def NMap.rising {α : Type} : NMap α → Bool
  | [] => true
  | [_] => true
  | a :: b :: r => decide (a.1 < b.1) && NMap.rising (b :: r)

/-- Put a number into a rising list. -/
def addNum : List Nat → Nat → List Nat
  | [], n => [n]
  | k :: r, n => if n < k then n :: k :: r else if n = k then k :: r else k :: addNum r n

/-- Drop a number from a list. -/
def delNum (l : List Nat) (n : Nat) : List Nat := l.filter (· != n)

/-! ### Memory as a table of bytes (R7, R447) -/

/-- The form every memory keeps: addresses strictly rising, no zero byte listed. -/
def Memory.wf (m : Memory) : Bool := NMap.rising m && m.all fun c => c.2 != 0

/-- One byte; an unlisted address reads 0 (R447). -/
def Memory.byte (m : Memory) (a : Nat) : Byte := (NMap.look m a).getD 0

/-- Write one byte, keeping the form. -/
def Memory.setByte (m : Memory) (a : Nat) (b : Byte) : Memory := if b = 0 then NMap.del m a else NMap.put m a b

/-- `n` bytes from `a` up. -/
def Memory.bytes (m : Memory) (a : Nat) : Nat → List Byte
  | 0 => []
  | n + 1 => Memory.byte m a :: Memory.bytes m (a + 1) n

/-- Write bytes from `a` up. -/
def Memory.setBytes (m : Memory) (a : Nat) : List Byte → Memory
  | [] => m
  | b :: r => Memory.setBytes (Memory.setByte m a b) (a + 1) r

/-- `n` bytes from `a` up as a little-endian number (R7). -/
def Memory.num (m : Memory) (a n : Nat) : Nat := wordOfBytes (Memory.bytes m a n)

/-- Drop every byte of [a, a + n). -/
def Memory.clear (m : Memory) (a n : Nat) : Memory := m.filter fun c => c.1 < a || a + n ≤ c.1

/-! ### Bits -/

/-- A word with one bit set. -/
def bit (n : Nat) : Word := BitVec.ofNat 32 (2 ^ n)

/-- R247: the cause bits. -/
def cIllegal : Word := bit 0
def cOcinv : Word := bit 1
def cXbound : Word := bit 2
def cAlign : Word := bit 3
def cCaptag : Word := bit 4
def cCapbound : Word := bit 5
def cCapperm : Word := bit 6
def cCapseal : Word := bit 7
def cCaprep : Word := bit 8
def cOwner : Word := bit 9
def cPage : Word := bit 10
def cProt : Word := bit 11
def cScope : Word := bit 12
def cRevoked : Word := bit 13
def cMemerr : Word := bit 14
def cMacfail : Word := bit 15
def cWorld : Word := bit 16
def cEngine : Word := bit 17
def cDeque : Word := bit 18
def cKernel : Word := bit 19
def cBudget : Word := bit 20
def cYieldDebt : Word := bit 21
def cSwtrap : Word := bit 22
def cBkpt : Word := bit 23
def cHalt : Word := bit 24
def cPreempt : Word := bit 25
def cMatrix : Word := bit 26
def cLaunch : Word := bit 27

/-- R248: the stopping causes, bits 0-20, 22-24, 26 and 27. -/
def stoppingMask : Word := 0x0DDFFFFF#32

/-- Some bit of `m` stands in `w`. -/
def anyBit (w m : Word) : Bool := (w &&& m) != 0

/-- The bits of a list of masks. -/
def orAll (l : List Word) : Word := l.foldl (· ||| ·) 0

/-- The n-th item of a list of Booleans, false beyond its end. -/
def flagAt (l : List Bool) (n : Nat) : Bool := l.getD n false

/-! ### Cores, teams, groups, threads -/

/-- The number of a core: 128 * die + position (R442). -/
def coreNo (c : CoreId) : Nat := 128 * c.die + c.pos

/-- The core of a number. -/
def coreOfNo (n : Nat) : CoreId := ⟨n / 128, n % 128⟩

/-- A core that has just left reset (R33, R384). -/
def Core.fresh : Core :=
  { cycle := 0, team := none, world := 0, gated := false, retiring := false, charged := [], debt := [], window := 0,
    shares := [] }

/-- The core at a place. -/
def State.core (s : State) (c : CoreId) : Core := (s.cores.look (coreNo c)).getD Core.fresh

/-- Change a core. -/
def State.upCore (s : State) (c : CoreId) (f : Core → Core) : State :=
  { s with cores := s.cores.put (coreNo c) (f (s.core c)) }

/-- Change a team. -/
def State.upTeam (s : State) (id : Nat) (f : Team → Team) : State := { s with teams := s.teams.upd id f }

/-- Change a group of a team. -/
def Team.upGroup (t : Team) (g : Nat) (f : Group → Group) : Team := { t with groups := t.groups.modify g f }

/-- Change a thread of a group. -/
def Group.upThread (g : Group) (lane : Nat) (f : Thread → Thread) : Group := { g with threads := g.threads.upd lane f }

/-- Change a thread of a team. -/
def Team.upThread (t : Team) (g lane : Nat) (f : Thread → Thread) : Team := t.upGroup g (·.upThread lane f)

/-- Change every thread of a group. -/
def Group.mapThreads (g : Group) (f : Nat → Thread → Thread) : Group := { g with threads := g.threads.mapv f }

/-- The thread in a slot. -/
def Team.thread (t : Team) (g lane : Nat) : Option Thread := (t.groups[g]?).bind (·.threads.look lane)

/-- W of a core (R4). -/
def widthOf (c : CoreId) : Nat := Config.width c.die

/-- R18, R24: the cycles from issue at which an ALU write and a predicate write perform. -/
def aluLatency : Nat := 4
def predLatency : Nat := 2

/-! ### Main registers, quads, latches -/

/-- v n. -/
def Thread.rdV (t : Thread) (n : Nat) : Word := t.v.getD n 0

/-- R20: write v n as data; the quad's tag clears. -/
def Thread.wrV (t : Thread) (n : Nat) (w : Word) : Thread :=
  { t with v := t.v.set n w, vtag := t.vtag.set (n / 4) false, held := w :: t.held }

/-- R20: the quad w m with its tag. -/
def Thread.quad (t : Thread) (m : Nat) : Cap :=
  ⟨t.rdV (4 * m + 3) ++ t.rdV (4 * m + 2) ++ t.rdV (4 * m + 1) ++ t.rdV (4 * m), flagAt t.vtag m⟩

/-- R20: write a quad whole, with its tag. -/
def Thread.wrQuad (t : Thread) (m : Nat) (c : Cap) : Thread :=
  let t' := (((t.wrV (4 * m) (c.bits.extractLsb' 0 32)).wrV (4 * m + 1) (c.bits.extractLsb' 32 32)).wrV (4 * m + 2)
    (c.bits.extractLsb' 64 32)).wrV (4 * m + 3) (c.bits.extractLsb' 96 32)
  { t' with vtag := t'.vtag.set m c.tag }

/-- The pair vn, vn+1 as 64 bits (R99). -/
def Thread.pair (t : Thread) (n : Nat) : DWord := t.rdV (n + 1) ++ t.rdV n

/-- R23: the thread has written a home, or read it dead. -/
def Thread.stale (t : Thread) (h : Home) : Thread :=
  { t with b := t.b.map fun l => if l.home = some h then { l with stale := true } else l }

/-- R22: one shift of the latch chain. -/
def Thread.shift (t : Thread) (val : Word) (home : Option Home) (ready : Nat) : Thread :=
  { t with b := ⟨val, false, home, false, ready⟩ :: t.b.take 3, held := val :: t.held }

/-- R23: every latch becomes lost and keeps its home. -/
def Thread.lose (t : Thread) : Thread := { t with b := t.b.map fun l => { l with lost := true } }

/-- R15: after a yield the latches are lost with no home. -/
def Thread.forget (t : Thread) : Thread := { t with b := List.replicate 4 Latch.none }

/-- R6: an undefined value for a register whose prior value is given: the prior value, zero, or a value the thread
held since it started; which one is not fixed. -/
def undefWord (draw : Nat) (t : Thread) (prior : Word) : Word :=
  let cands := prior :: 0 :: t.held
  cands.getD (Config.undefChoice draw % cands.length) prior

/-- Perform one register write in a lane (R18, R20, R21). -/
def Thread.apply (t : Thread) : Upd → Thread
  | .v n w => t.wrV n w
  | .quad m c => t.wrQuad m c
  | .o n w => { t with o := t.o.set n w, oval := t.oval.set n true, held := w :: t.held }
  | .p n b => { t with p := t.p.set n.val b }
  | .x k w => { t with x := t.x.set k.val w, held := w.zeroExtend 32 :: t.held }
  | .fps w => { t with fps := w, held := w :: t.held }
  | .fpsOr w => { t with fps := t.fps ||| w, held := (t.fps ||| w) :: t.held }
  | .flag n => { t with f := t.f.set n.val false }
  | .s _ _ => t
  | .k _ _ => t
  | .sw _ => t

/-- Perform one register write of a lane in its group. -/
def Group.apply (g : Group) (lane : Nat) (u : Upd) : Group :=
  match u with
  | .s i w => { g with s := g.s.set i w }
  | .k i c => { g with k := g.k.set i c }
  | .sw w => { g with sw := w }
  | _ => g.upThread lane (·.apply u)

/-- The homes a write reaches (R22). -/
def Upd.homes : Upd → List Home
  | .v n _ => [.v n]
  | .quad m _ => [.v (4 * m), .v (4 * m + 1), .v (4 * m + 2), .v (4 * m + 3)]
  | .o n _ => [.o n]
  | _ => []

/-- R23: a landing write makes stale the homes it writes. -/
def Group.applyLanding (g : Group) (lane : Nat) (u : Upd) : Group :=
  (g.upThread lane fun t => u.homes.foldl Thread.stale t).apply lane u

/-! ### The PCC table (R13) -/

/-- The index of a capability in the table. -/
def Group.pccFind (g : Group) (c : Cap) : Option Nat := g.pcc.findIdx? (· == some c)

/-- R13: the capability a thread waits to enter into the table: that of a backed thread, or the one it moves to. -/
def Thread.wantsPcc (t : Thread) : Option Cap := t.backed.orElse fun _ => t.want

/-- Threads that use entry `i`: those that index it, and those that move to the capability it holds. -/
def Group.pccUsers (g : Group) (i : Nat) : List Nat :=
  (g.threads.filter fun p =>
    match p.2.backed, p.2.want with
    | some _, _ => false
    | none, some c => g.pcc.getD i none == some c
    | none, none => p.2.pccx == i).map (·.1)

/-- R13: entries no thread uses free. -/
def Group.pccSweep (g : Group) : Group :=
  { g with pcc := g.pcc.mapIdx fun i e => if (g.pccUsers i).isEmpty then none else e }

/-- A thread takes PCC entry `i` for a capability and leaves the one it used. -/
def Group.pccGive (g : Group) (lane : Nat) (c : Cap) (i : Nat) : Group :=
  ({ g with pcc := g.pcc.set i (some c) }.upThread lane fun t => { t with pccx := i, want := none, backed := none }).pccSweep

/-- R13: an idle entry: every thread that uses it is Parked. -/
def Group.pccIdle (g : Group) (i : Nat) : Bool :=
  (g.pccUsers i).all fun l => match g.threads.look l with | some t => t.st == .parked | none => true

/-- R13: an entry for a capability: the one that holds it, the lowest free one, else the lowest idle one, whose
users become backed. -/
def Group.pccTake (g : Group) (lane : Nat) (c : Cap) : Option Group :=
  match g.pccFind c with
  | some i => some (g.pccGive lane c i)
  | none =>
    let g := (g.upThread lane fun t => { t with want := some c }).pccSweep
    match g.pcc.findIdx? (·.isNone) with
    | some i => some (g.pccGive lane c i)
    | none =>
      match (List.range 8).find? g.pccIdle with
      | none => none
      | some i =>
        let old := (g.pcc.getD i none).getD Cap.zero
        let users := g.pccUsers i
        some ((g.mapThreads fun l t => if users.contains l then { t with backed := some old, pccx := 0 } else t).pccGive lane c i)

/-- R13: a thread that needs a PCC entry takes one; none when it must wait. -/
def Group.pccEnter (g : Group) (lane : Nat) : Option Group :=
  match (g.threads.look lane).bind Thread.wantsPcc with
  | some c => g.pccTake lane c
  | none => some g

/-- The code capability of a thread: its entry, or its backing word. -/
def Group.pccOf (g : Group) (t : Thread) : Cap :=
  match t.backed, t.want with
  | some c, _ => c
  | none, some c => c
  | none, none => (g.pcc.getD t.pccx none).getD Cap.zero

/-! ### The PC table (R162-R166) -/

/-- The index of the valid entry with a key. -/
def Group.entryOf (g : Group) (pccx : Nat) (pc : DWord) : Option Nat :=
  g.pct.findIdx? fun e => match e with | some e => e.pccx == pccx && e.pc == pc | none => false

/-- The number of valid entries, which is the youngest creation rank plus one. -/
def Group.entries (g : Group) : Nat := (g.pct.filter (·.isSome)).length

/-- R164: free entry `i`; every younger entry's order closes up by one. -/
def Group.freeEntry (g : Group) (i : Nat) : Group :=
  match g.pct.getD i none with
  | none => g
  | some e =>
    { g with
      pct := (g.pct.set i none).map (Option.map fun (y : PcEntry) => if e.order < y.order then { y with order := y.order - 1 } else y),
      crowd := 0 }

/-- The unhoused lanes of a section in order (R163). -/
def Group.line (g : Group) : List Nat := g.queue ++ g.joining

/-- Take a lane out of the queue. -/
def Group.leaveLine (g : Group) (lane : Nat) : Group :=
  { g with queue := delNum g.queue lane, joining := delNum g.joining lane }

/-- R163: the place of a lane among those that became unhoused in one cycle: its key, then its lane; a lane that waits
for a PCC entry has no full key and stands behind the others (log 135). -/
def Group.lineKey (g : Group) (lane : Nat) : Nat :=
  match g.threads.look lane with
  | none => lane
  | some t => ((if t.wantsPcc.isSome then 8 else t.pccx) * 2 ^ 64 + t.pc.toNat) * 128 + lane

/-- Insert a number before the first one with a greater key. -/
def insertBy (key : Nat → Nat) (n : Nat) : List Nat → List Nat
  | [] => [n]
  | k :: r => if key n < key k then n :: k :: r else k :: insertBy key n r

/-- R163: a lane becomes unhoused. -/
def Group.enqueue (g : Group) (lane : Nat) : Group :=
  { g.leaveLine lane with joining := insertBy g.lineKey lane (delNum g.joining lane) }

/-- The first queued thread of a group that has its PCC entry (R165). -/
def Group.eligible (g : Group) : Option Nat :=
  g.line.find? fun l => match g.threads.look l with | some t => t.wantsPcc.isNone | none => false

/-- Take a lane out of the entries; entries that become empty free. -/
def Group.unhouse (g : Group) (lane : Nat) : Group :=
  let g := { g with pct := g.pct.map (Option.map fun (e : PcEntry) => { e with mask := delNum e.mask lane }) }.leaveLine lane
  match g.pct.findIdx? fun e => match e with | some e => e.mask.isEmpty | none => false with
  | some i => g.freeEntry i
  | none => g

/-- R164: merge into the entry with the key, else the lowest free entry, else the queue's tail. -/
def Group.house (g : Group) (lane : Nat) (pccx : Nat) (pc : DWord) : Group :=
  match g.entryOf pccx pc with
  | some i => { g with pct := g.pct.modify i fun e => e.map fun e => { e with mask := addNum e.mask lane } }
  | none =>
    match g.pct.findIdx? (·.isNone) with
    | some i => { g with pct := g.pct.set i (some ⟨pccx, pc, [lane], g.entries⟩) }
    | none => g.enqueue lane

/-- R164, R13: place a thread that has become Active; a backed or moving thread first takes its PCC entry. -/
def Group.place (g : Group) (lane : Nat) : Group :=
  match g.threads.look lane with
  | none => g
  | some t =>
    if t.st != .active then g
    else match g.pccEnter lane with
      | none => g.enqueue lane
      | some g =>
        match g.threads.look lane with
        | none => g
        | some t => g.house lane t.pccx t.pc

/-- R164: the placement of one member of an issued span whose entry is `ei`; the flag says that the entry has been
retargeted. -/
def Group.placeMember (ei : Nat) (acc : Group × Bool) (lane : Nat) : Group × Bool :=
  match acc.1.threads.look lane with
  | none => acc
  | some t =>
    if t.st != .active then acc
    else match acc.1.pccEnter lane with
      | none => (acc.1.enqueue lane, acc.2)
      | some g =>
        match g.threads.look lane with
        | none => (g, acc.2)
        | some t =>
          let hit := g.pct.findIdx? fun e =>
            match e with | some e => e.pccx == t.pccx && e.pc == t.pc && !e.mask.isEmpty | none => false
          match hit with
          | some i => ({ g with pct := g.pct.modify i fun e => e.map fun e => { e with mask := addNum e.mask lane } }, acc.2)
          | none =>
            if acc.2 then (g.house lane t.pccx t.pc, true)
            else
              ({ g with pct := g.pct.modify ei fun e => e.map fun e =>
                  { e with pccx := t.pccx, pc := t.pc, mask := [lane] } }, true)

/-- R164: the placement of the members of an issued span whose entry is `ei`, in ascending lane order. -/
def Group.placeSpan (g : Group) (ei : Nat) (lanes : List Nat) : Group :=
  match g.pct.getD ei none with
  | none => lanes.foldl (fun g l => g.place l) g
  | some _ =>
    let g := { g with pct := g.pct.modify ei fun e => e.map fun e => { e with mask := [] } }
    let (g, ret) := lanes.foldl (Group.placeMember ei) (g, false)
    if ret then g.pccSweep else (g.freeEntry ei).pccSweep

/-! ### Stopping, ending and waking threads -/

/-- R14: a thread ends and its slot becomes Free; its pending writes go with it. Slots that become Free in one cycle of a
Running team take frames in ascending order behind the others; those of a team that does not run are found as it runs
again (R296). A search that is under way began before this slot was Free (R284). -/
def Team.freeThread (t : Team) (g lane w : Nat) : Team :=
  let t := t.upGroup g fun gr => ({ (gr.unhouse lane) with threads := gr.threads.del lane }).pccSweep
  { t with pend := t.pend.map (fun p => if p.g = g then { p with upds := p.upds.filter fun u =>
             u.1 != lane || (match u.2 with | .s _ _ => true | .k _ _ => true | .sw _ => true | _ => false) } else p),
           freed := if t.st == .running then insertBy id (g * w + lane) t.freed else t.freed, searched := false,
           steal := t.steal.map fun q => { q with fresh := false } }

/-- R14: a Parked thread becomes Active at its completion PC and is placed; its named flag clears. A PC that `twrite` has given it
while it was Parked is lost: R256 does not say what becomes of it, and this is the model's choice (log 177). -/
def Group.wake (g : Group) (lane : Nat) : Group :=
  match g.threads.look lane with
  | none => g
  | some t =>
    match t.park with
    | none => g
    | some p =>
      let f := match p.sf with | some n => t.f.set n.val false | none => t.f
      ((g.upThread lane fun t => { t with st := .active, park := none, pc := p.next, f := f }).place lane)

/-- R14: the team states in which a condition wakes a Parked thread. -/
def TState.wakes : TState → Bool
  | .running => true
  | .yielding => true
  | _ => false

/-- R249: the threads of a group stop where they stand; those of `at_` at the word itself. A thread that waits on
its own flags completes its word during the drain (R217), and a Parked one stays Parked. -/
def Group.halt (g : Group) (atWord : List Nat) : Group :=
  let g := g.mapThreads fun l t =>
    if t.st == .active && t.await.isNone then
      { t with st := .stopped, stopKind := if atWord.contains l then 0 else 1 }
    else t
  { g with halted := true, pct := List.replicate 16 none, queue := [], joining := [] }

/-- Some group holds a stopping cause (R248, R252). -/
def Team.hasStopping (t : Team) : Bool := t.groups.any fun g => anyBit g.cause stoppingMask

/-- R250: the broadcast of a halt. `exempt` are the groups that receive no HALT from it; `initiator` the group that
raised, if a word raised. -/
def Team.broadcast (t : Team) (initiator : Option Nat) (exempt : List Nat) : Team :=
  if t.st == .running || t.st == .yielding then
    { t with
      st := .halting, hold := none, slot := none,
      groups := t.groups.mapIdx fun i g =>
        { g with skid := 0, halted := initiator == some i, initiator := initiator == some i,
                 exempt := initiator == some i || exempt.contains i } }
  else t

/-- R249, R252: when every group has stopped, the team drains. -/
def Team.settleHalt (t : Team) : Team :=
  if t.st == .halting && t.groups.all (·.halted) then { t with st := .draining } else t

/-- R249, R12: a word of group `g` raises causes in lanes of the span: the group's %cause and the lanes' own causes
are set, the span stops at the word and the group issues no more. -/
def Team.takeCause (t : Team) (g : Nat) (span : List Nat) (causes : List (Nat × Word)) : Team :=
  let all := orAll (causes.map (·.2))
  let t := t.broadcast (some g) []
  let t := t.upGroup g fun gr =>
    let gr := gr.mapThreads fun l th =>
      { th with cause := th.cause ||| orAll ((causes.filter (·.1 == l)).map (·.2)) }
    let gr := { gr with cause := gr.cause ||| all ||| (if gr.initiator || gr.exempt then 0 else cHalt) }
    gr.halt span
  { t with faultStop := true }.settleHalt

/-- R251: an asynchronous cause in group `g`: set in the cycle it is detected, with no initiator; the engine record
takes the failing word unless it holds one. -/
def Team.asyncCause (t : Team) (g : Nat) (cause : Word) (r : Option EngineRecord) : Team :=
  let t := t.broadcast none [g]
  { t.upGroup g fun gr =>
      { gr with cause := gr.cause ||| cause,
                engRec := match r with | some r => if gr.engRec.valid then gr.engRec else r | none => gr.engRec }
    with faultStop := true }

/-- R250: a group is stopped within its skid; a non-initiator receives HALT. -/
def Team.stopGroup (t : Team) (g : Nat) : Team :=
  (t.upGroup g fun gr =>
    { (gr.halt []) with cause := gr.cause ||| (if gr.initiator || gr.exempt then 0 else cHalt) }).settleHalt

/-- R258, R268: a thread as its team runs again: a Stopped one is Active at its PC with D = 7 and its flags clear; so is
one whose message word is to be executed again, and of a `settle` only the take half; other Parked threads keep their
condition for the re-test. -/
def Thread.resumed (th : Thread) : Thread :=
  let th := { th with f := List.replicate 12 false, last := none, words := 0, cause := 0, block := none }
  if th.st == .stopped then { th with st := .active, stopKind := 0 }
  else match th.park with
    | some p => if p.redo then { th with st := .active, stopKind := 0, park := none, half := p.kind == 9 } else th
    | none => th

/-- R258, R267: every thread resumes; the PC table is rebuilt, group slots and then lanes ascending. -/
def Team.resume (t : Team) (w : Nat) : Team :=
  let groups := t.groups.map fun g =>
    let g := { g with pct := List.replicate 16 none, queue := [], joining := [], houseDue := false, halted := false,
                      exempt := false, initiator := false, skid := 0, crowd := 0 }
    let g := g.mapThreads fun _ th => th.resumed
    g.threads.foldl (fun g p => if p.2.st == .active then g.place p.1 else g) g
  let occupied := fun (sl : Nat) => match groups[sl / w]? with | some g => (g.threads.look (sl % w)).isSome | none => true
  let free := (List.range (groups.length * w)).filter fun sl => !occupied sl
  { t with groups := groups, st := .running, refill := t.refill || (t.deque.isEmpty && decide (0 < t.ringCount)),
           faultStop := false, faults := [], pageAsync := false, lastG := none, run := 0, contended := false, hold := none,
           slot := none, freed := [],
           free := t.free.filter (free.contains ·) ++ free.filter fun sl => !t.free.contains sl }

/-! ### The span in issue -/

/-- What a meaning of an instruction word works on: the span's record, its core, team and group. -/
structure Issue where
  s : State
  x : Sel
  core : Core
  t : Team
  g : Group

/-- The span in issue, if the state has one. -/
def State.issue (s : State) : Option Issue :=
  match s.sel with
  | none => none
  | some x =>
    match s.teams.look x.team with
    | none => none
    | some t =>
      match t.groups[x.g]? with
      | none => none
      | some g => some ⟨s, x, s.core x.core, t, g⟩

/-- Run a meaning on the span in issue. -/
def onIssue (s : State) (k : Issue → State) : Host.Outcome State Fault Refusal :=
  match s.issue with
  | none => .fault .noSpan
  | some i => .next (k i)

/-- W of the issuing core. -/
def Issue.w (i : Issue) : Nat := widthOf i.x.core

/-- R27: a member lane is visited when its guard is true. -/
def Issue.guard (i : Issue) (t : Thread) : Bool :=
  match i.x.ctl.pr with
  | none => true
  | some n => flagAt t.p n.val

/-- The visited lanes with their threads, ascending (R11). -/
def Issue.visited (i : Issue) : List (Nat × Thread) :=
  i.x.lanes.filterMap fun l =>
    match i.g.threads.look l with
    | none => none
    | some t => if i.guard t then some (l, t) else none

/-- R259, R12, R249: the word raises causes and completes nothing. -/
def Issue.raise (i : Issue) (causes : List (Nat × Word)) : State :=
  { i.s.upTeam i.x.team (·.takeCause i.x.g i.x.lanes causes) with sel := none }

/-- R59: the whole span raises ILLEGAL, whatever the guards. -/
def Issue.illegal (i : Issue) : State := i.raise (i.x.lanes.map fun l => (l, cIllegal))

/-- What one visited lane does at issue and later. -/
structure LaneOut where
  /-- register writes in the issue cycle -/
  now : List Upd
  /-- register writes that perform later (R18, R92, R196) -/
  upds : List Upd
  /-- shifts of the latch chain in order (R22) -/
  latch : List (Word × Option Home)
  /-- status bits ORed into %fps (R32) -/
  fps : Word
  /-- the next PC, when it is not the word after -/
  next : Option DWord
  /-- the code capability the thread moves to (R118) -/
  moved : Option Cap
  park : Option Park
  await : Option Await
  /-- registers read dead beyond those of the operands' dead bits -/
  trap : Option (BitVec 16)

/-- A lane that does nothing but go on. -/
def LaneOut.nil : LaneOut :=
  { now := [], upds := [], latch := [], fps := 0, next := none, moved := none, park := none, await := none, trap := none }

/-- R19: the main registers a lane reads dead become undefined and their quads lose their tags. -/
def Thread.kill (draw : Nat) (t : Thread) : List Nat → Thread
  | [] => t
  | n :: r =>
    let t' := { (t.wrV n (undefWord draw t (t.rdV n))) with held := t.held }
    Thread.kill (draw + 1) (t'.stale (.v n)) r

/-- The issue effects of a visited lane on its thread. -/
def Thread.issueLane (t : Thread) (draw cycle : Nat) (sf : Option (Fin 12)) (dead : List Nat) (r : LaneOut) : Thread :=
  let t := t.kill draw dead
  let t := (r.upds.flatMap Upd.homes).foldl Thread.stale t
  let t := r.latch.foldl (fun t l => t.shift l.1 l.2 (cycle + aluLatency)) t
  let t := r.now.foldl Thread.apply t
  let t := { t with fps := t.fps ||| r.fps,
                    held := if r.fps = 0 then t.held else (t.fps ||| r.fps) :: t.held,
                    f := match sf with | some n => t.f.set n.val true | none => t.f,
                    await := r.await, trap := r.trap.getD t.trap }
  match r.park with
  | some p => { t with st := .parked, park := some p, stopKind := 3 }
  | none => t

/-- R61, R28: the issue effects of every member lane, visited or not. -/
def Thread.issueMember (t : Thread) (cycle : Nat) (next : DWord) (count : Bool) : Thread :=
  { t with last := some cycle, pc := next, words := if count then t.words + 1 else t.words, half := false }

/-- R75, R118: what a taken transfer leaves in its thread: the operations and gates that its later fetches follow, and the code
capability it moves to. -/
def Thread.transfer (t : Thread) (op : Nat) (r : LaneOut) : Thread :=
  { t with xfer := if r.next.isSome then op else t.xfer,
           fetchGates := if r.next.isSome then t.fenced else t.fetchGates,
           want := match r.moved with | some c => some c | none => t.want,
           backed := match r.moved with | some _ => none | none => t.backed }

/-- R358: a counter of a context counts events. -/
def State.countBy (s : State) (ctx n k : Nat) : State :=
  { s with ctxs := s.ctxs.upd ctx fun c => { c with counters := c.counters.modify n (· + k) } }

/-- R358: a counter of a context counts one event. -/
def State.count (s : State) (ctx n : Nat) : State := s.countBy ctx n 1

/-- R358: an access of a context has performed: the cycles that it waited and its bytes on the mesh are counted, and both are free
(log 156). -/
def State.metered (s : State) (ctx : Nat) : State :=
  (s.countBy ctx 2 (Config.traffic 2 s.draws)).countBy ctx 5 (Config.traffic 5 s.draws)

/-- R28: the update that clears the word's flag in a lane. -/
def clearFlag (sf : Option (Fin 12)) : List Upd := match sf with | some n => [.flag n] | none => []

/-- R161: stamps renumbered from oldest to youngest. -/
def Team.renumber (t : Team) : Team :=
  let rank := fun (g : Group) => (t.groups.filter fun x => decide (x.age < g.age)).length
  { t with groups := t.groups.map fun (g : Group) => { g with age := rank g }, ageCtr := t.groups.length }

/-- R161: a group's stamp is renewed; the counter never passes 0xFFFF_FFF0. -/
def Team.renew (t : Team) (g : Nat) : Team :=
  let t := if 0xFFFFFFF0 ≤ t.ageCtr then t.renumber else t
  { (t.upGroup g fun gr => { gr with age := t.ageCtr }) with ageCtr := t.ageCtr + 1 }

/-- R168: the affinity record after a word of group `g`; `others` says that another group of equal or higher
priority had a ready span. -/
def Team.noteRun (t : Team) (g : Nat) (others : Bool) : Team :=
  if t.lastG = some g then
    { t with run := t.run + (if others then 1 else 0), contended := t.contended || others }
  else
    let t := match t.lastG with
      | some o => if t.contended then t.renew o else t
      | none => t
    { t with lastG := some g, run := if others then 1 else 0, contended := others }

/-- R24: the lanes that a hold still stands for: those of its lanes that have issued no word since the latch-only one. -/
def Group.holdLanes (g : Group) (h : LatchHold) : List Nat :=
  h.lanes.filter fun l => match g.threads.look l with
    | some t => t.st == .active && t.last == some (h.last - 8)
    | none => false

/-- R24: the hold after a word of this span: a latch-only word that did not itself issue under a hold begins one for the
lanes in which it wrote a latch alone. Whether their next words read a latch is settled as the cycle ends. R24 says that the
hold binds until 8 cc have passed and not whether it still binds in the eighth cycle after the word: it does, and it ends in the
ninth, which is the model's choice (log 164). A run that a hold extends ends with its 33rd word (R168). -/
def Issue.nextHold (i : Issue) (latchOnly : List Nat) : Option LatchHold :=
  match i.t.hold with
  | some h => if 32 < i.t.run then none else some h
  | none => if latchOnly.isEmpty then none else some ⟨i.x.g, i.core.cycle + 8, latchOnly⟩

/-- The lanes in which a word wrote a latch with no home (R24). -/
def latchOnly (outs : List (Nat × LaneOut)) : List Nat := (outs.filter fun p => p.2.latch.any (·.2.isNone)).map (·.1)

/-- R164, R28, R61: commit an issued word: per visited lane its `LaneOut`, its dead registers, the time `lat` and kind
of its later writes, and the length of the word in bytes. `clearBy` says that the word's flag clears with those
writes (R28). -/
def Issue.commit (i : Issue) (len : Nat) (kind : PendKind) (lat : Nat) (clearBy : Bool)
    (dead : Nat → Thread → List Nat) (outs : List (Nat × LaneOut)) : State :=
  let cyc := i.core.cycle
  let count := i.t.desched
  let g := i.g
  let ei := g.entryOf i.x.pccx i.x.pc
  let g := g.mapThreads fun l t =>
    if !i.x.lanes.contains l then t
    else
      match outs.find? (·.1 == l) with
      | none => t.issueMember cyc (i.x.pc + BitVec.ofNat 64 len) count
      | some (_, r) =>
        let t' := t.issueLane (i.s.draws + 128 * l) cyc (if r.await.isNone && (r.park.isSome || decide (lat > 0) || !clearBy) then i.x.ctl.sf else none)
          (dead l t) r
        (t'.issueMember cyc (r.next.getD (i.x.pc + BitVec.ofNat 64 len)) count).transfer i.t.nextOp r
  let g := { g with issued := (g.issued + 1) % 2 ^ 32, skid := if i.t.st == .halting then g.skid + 1 else g.skid,
                    crowd := if g.eligible.isSome then g.crowd + 1 else 0 }
  let g := match ei with | some e => g.placeSpan e i.x.lanes | none => i.x.lanes.foldl (fun g l => g.place l) g
  let upds := outs.flatMap fun p => (p.2.upds ++ (if clearBy && p.2.park.isNone && p.2.await.isNone
    then clearFlag i.x.ctl.sf else [])).map fun u => (p.1, u)
  let pend := if upds.isEmpty then i.t.pend else i.t.pend ++ [⟨cyc + lat, kind, i.x.g, upds⟩]
  let groups := (i.t.groups.set i.x.g g).mapIdx fun j gr => if j = i.x.g then gr else gr.mapThreads fun _ t => t.lose
  let t := { i.t with groups := groups, pend := pend,
                      hold := i.nextHold (latchOnly outs) }
  { i.s.upTeam i.x.team (fun _ => t) with
    draws := i.s.draws + 16384, sel := none,
    ctxs := i.s.ctxs.upd t.ctx fun c => { c with counters := c.counters.modify 0 (· + 1) } }

/-- What the next accesses of a thread follow beside its own earlier ones. -/
def Team.gatesAt (t : Team) (g lane : Nat) : List Gate := match t.thread g lane with | some th => th.gates | none => []

/-- An operation enters the team's flight, in program order (R154, R252), with what its lanes follow. -/
def Team.addOp (t : Team) (o : Op) : Team :=
  let gates := o.lanes.flatMap fun l => (t.gatesAt o.g l).map fun k => (l, k)
  { t with ops := t.ops ++ [{ o with id := t.nextOp, gates := gates }], nextOp := t.nextOp + 1 }

/-- R28: the flag of an operation clears in its lanes. -/
def Team.clearOpFlag (t : Team) (g : Nat) (lanes : List Nat) (sf : Option (Fin 12)) : Team :=
  match sf with
  | none => t
  | some n => t.upGroup g fun gr => lanes.foldl (fun gr l => gr.upThread l fun th => { th with f := th.f.set n.val false }) gr

/-- Spawn frames issued and not yet pushed. -/
def Team.spawning (t : Team) : Nat :=
  (t.ops.map fun o => match o.kind with | .spawn items => items.length | _ => 0).foldl (· + ·) 0

/-- R297: a core is idle. Frames of a `spawn` in flight, whose places were found as it issued (R289), count as frames of its
deque, which is the model's choice (log 155). -/
def Team.idle (t : Team) : Bool :=
  t.st == .running && !t.free.isEmpty && t.deque.isEmpty && t.ringCount == 0 && !t.refill && t.steal.isNone && t.spawning == 0

/-- An operation leaves the flight and clears its flag. R18 lets the flag of a landing write clear in its cycle or in a later
one; here it clears in the same step, so that a read with the flag still set gives the prior value: the model's choice
(log 142). -/
def Team.endOp (t : Team) (o : Op) : Team :=
  { t with ops := t.ops.filter (·.id != o.id) }.clearOpFlag o.g o.lanes o.sf

end Sys2Proof.Machine
end

