-- ==== Sys2Proof/Machine/Caps.lean ====
section
/-! DEFINITION. Capabilities bit by bit: fields, decoding of bounds, representability, derivation
(05_capabilities_memory R121-R141). -/

namespace Sys2Proof.Machine

open Sys2Proof

def Cap.perms (c : Cap) : BitVec 16 := c.bits.extractLsb' 112 16
def Cap.space (c : Cap) : Nat := (c.bits.extractLsb' 110 2).toNat
def Cap.otype (c : Cap) : Nat := (c.bits.extractLsb' 96 14).toNat
def Cap.e (c : Cap) : Nat := (c.bits.extractLsb' 90 6).toNat
def Cap.c (c : Cap) : Nat := (c.bits.extractLsb' 88 2).toNat
def Cap.b (c : Cap) : Nat := (c.bits.extractLsb' 76 12).toNat
def Cap.l (c : Cap) : Nat := (c.bits.extractLsb' 64 12).toNat
def Cap.addr (c : Cap) : DWord := c.bits.extractLsb' 0 64

/-- R121: a capability from its fields. -/
def Cap.build (perms : BitVec 16) (space otype e c b l : Nat) (addr : DWord) (tag : Bool) : Cap :=
  ⟨perms ++ BitVec.ofNat 2 space ++ BitVec.ofNat 14 otype ++ BitVec.ofNat 6 e ++ BitVec.ofNat 2 c ++ BitVec.ofNat 12 b
    ++ BitVec.ofNat 12 l ++ addr, tag⟩

def Cap.withAddr (c : Cap) (a : DWord) (cc : Nat) : Cap := Cap.build c.perms c.space c.otype c.e cc c.b c.l a c.tag
def Cap.withOtype (c : Cap) (o : Nat) : Cap := Cap.build c.perms c.space o c.e c.c c.b c.l c.addr c.tag
def Cap.withPerms (c : Cap) (p : BitVec 16) : Cap := Cap.build p c.space c.otype c.e c.c c.b c.l c.addr c.tag
def Cap.untag (c : Cap) : Cap := { c with tag := false }

/-- R122: the permission bits of a capability as a mask of its perms field. -/
def pLD : BitVec 16 := 0x0001#16
def pST : BitVec 16 := 0x0002#16
def pEX : BitVec 16 := 0x0004#16
def pLDC : BitVec 16 := 0x0008#16
def pSTC : BitVec 16 := 0x0010#16
def pSTL : BitVec 16 := 0x0020#16
def pGL : BitVec 16 := 0x0040#16
def pSL : BitVec 16 := 0x0080#16
def pUS : BitVec 16 := 0x0100#16
def pIV : BitVec 16 := 0x0200#16
def pEN : BitVec 16 := 0x0400#16
def pRV : BitVec 16 := 0x0800#16
def pCX : BitVec 16 := 0x1000#16
def pSY : BitVec 16 := 0x2000#16

/-- Every permission of `p` stands in `c`. -/
def Cap.has (c : Cap) (p : BitVec 16) : Bool := (c.perms &&& p) == p

/-- R124: the size of a block and the index of the base's block. -/
def Cap.blk (c : Cap) : Nat := 2 ^ (c.e + 12)
def Cap.bblk (c : Cap) : Int := (c.addr.toNat / c.blk : Nat) - (c.c : Int)

/-- R124: base and top before clipping. -/
def Cap.rawBase (c : Cap) : Int := c.bblk * c.blk + c.b * 2 ^ c.e
def Cap.rawTop (c : Cap) : Int := c.rawBase + c.l * 2 ^ c.e

/-- R124: base and top. -/
def Cap.decode (c : Cap) : Nat × Nat :=
  if 54 ≤ c.e then (0, 0) else (c.rawBase.toNat, min c.rawTop.toNat (2 ^ 64))

/-- R124: the length. -/
def Cap.length (c : Cap) : Nat := c.decode.2 - c.decode.1

/-- R125: well formed. -/
def Cap.wellFormed (c : Cap) : Bool :=
  decide (c.e ≤ 53) && decide (0 ≤ c.bblk) && decide (c.rawTop ≤ 2 ^ 64)

/-- R133, R126: move the address; an unrepresentable address loses the tag and keeps E, C, B and L. -/
def Cap.move (c : Cap) (n : DWord) : Cap :=
  if c.tag then
    let d : Int := (n.toNat / c.blk : Nat) - c.bblk
    if 0 ≤ d ∧ d ≤ 3 then c.withAddr n d.toNat else (c.withAddr n c.c).untag
  else c.withAddr n c.c

/-- ⌈a / b⌉. -/
def ceilDiv (a b : Nat) : Nat := (a + b - 1) / b

/-- R134: the least exponent at which [lo, hi) spans at most 4,095 granules. -/
def leastE (lo hi : Nat) : Nat :=
  ((List.range 54).find? fun e => decide (ceilDiv hi (2 ^ e) - lo / 2 ^ e ≤ 4095)).getD 53

/-- R134: narrow to [lo, hi), rounded outward to granules; `exact` refuses rounding with CAPREP. -/
def Cap.bound (c : Cap) (x : Nat) (exact : Bool) : Except Word Cap :=
  if !c.tag then .error cCaptag
  else if c.otype ≠ 0 then .error cCapseal
  else
    let (b, t) := c.decode
    let lo := c.addr.toNat
    let hi := lo + x
    if lo < b ∨ t < hi then .error cCapbound
    else
      let e := leastE lo hi
      let nb := lo / 2 ^ e
      let nt := ceilDiv hi (2 ^ e)
      if exact ∧ (nb * 2 ^ e ≠ lo ∨ nt * 2 ^ e ≠ hi) then .error cCaprep
      else .ok (Cap.build c.perms c.space c.otype e 0 (nb % 4096) (nt - nb) c.addr c.tag)

/-- A tagged, unsealed capability over [base, base + len), if exactly representable. -/
def Cap.exact (perms : BitVec 16) (space : Nat) (base len : Nat) : Option Cap :=
  let e := leastE base (base + len)
  if base % 2 ^ e = 0 ∧ len % 2 ^ e = 0 ∧ base + len ≤ 2 ^ 64 then
    some (Cap.build perms space 0 e 0 (base / 2 ^ e % 4096) (len / 2 ^ e) (BitVec.ofNat 64 base) true)
  else none

/-- R340: a kernel object capability, sealed with the object's type. -/
def Cap.object (perms : BitVec 16) (otype index : Nat) (gen : BitVec 32) : Cap :=
  Cap.build perms 3 otype 0 0 0 0 (0#12 ++ gen ++ BitVec.ofNat 20 index) true

/-- R340: the index and generation a space-3 capability names. -/
def Cap.objIndex (c : Cap) : Nat := (c.addr.extractLsb' 0 20).toNat
def Cap.objGen (c : Cap) : BitVec 32 := c.addr.extractLsb' 20 32

/-- R13: a code capability without its address: the base stands for the address, so that the bounds are those of
the capability at every PC (assumption 12). -/
def Cap.code (c : Cap) : Cap := (c.withAddr (BitVec.ofNat 64 c.decode.1) 0)

/-- R13: the PCC of a thread: its entry's capability with the PC as its address. -/
def pccAt (c : Cap) (pc : DWord) : Cap := c.move pc

/-- R141: the checks on an access, in order. `spaces` are those the entry accepts; `sys` says that the word has system
scope; `align` that the entry calls for the alignment check; `extra` that the rules of R129 and R149 pass; `inShare`
that the space rule of R123 passes. -/
def capCheck (c : Cap) (perm : BitVec 16) (addr size : Nat) (spaces : List Nat) (sys align extra inShare : Bool) :
    Except Word Unit :=
  let (b, t) := c.decode
  if !c.tag then .error cCaptag
  else if c.otype ≠ 0 then .error cCapseal
  else if c.space = 3 ∨ ¬ spaces.contains c.space ∨ ¬ c.has perm ∨ ((perm &&& pEX) ≠ 0 ∧ c.space ≠ 0)
      ∨ (sys ∧ ¬ c.has pSY) ∨ ¬ extra then .error cCapperm
  else if addr < b ∨ t < addr + size ∨ ¬ inShare then .error cCapbound
  else if align ∧ [1, 2, 4, 8, 16].contains size ∧ addr % size ≠ 0 then .error cAlign
  else .ok ()

/-- R129: a tagged capability with GL clear. -/
def Cap.isLocal (c : Cap) : Bool := c.tag && !c.has pGL

/-- R149: whether a capability may be stored through another. -/
def storeCapOk (val thr : Cap) : Bool :=
  !val.tag || (thr.has pSTC && (!val.isLocal || thr.has pSTL)
    && !((val.space == 1 || val.space == 2) && thr.space == 0))

end Sys2Proof.Machine
end

