-- ==== Sys2Proof/Machine/Operands.lean ====
section
/-! DEFINITION. Operand forms: what each instruction names (for the N and W checks of R17, R59, R66, R190, for bank
conflicts R172 and literals R62), and reading and writing through every kind of selector (R63-R66, R70, R99). -/

namespace Sys2Proof.Machine

open Sys2Proof

/-- One operand field of a word. -/
inductive Opnd where
  | src (a : Src)
  | srcD (a : SrcD)
  | srcC (a : SrcC)
  | psrc (a : PSrc)
  | psrcD (a : PSrcD)
  | dst (d : Dst)
  | dstOld (d : Dst)
  | dstOpt (d : Option Dst)
  | pdst (d : PDst)
  | cap (c : CapSel)
  | capDst (c : CapSel)
  | capOpt (c : Option CapSel)
  | block (base count : Nat) (read : Bool)
  | blockOpt (base : Option Nat) (count : Nat)
  | mask (d : Dst) (seg : Fin 7)
  | quads (q count read : Nat)
  | quadsOpt (q : Option Nat) (count : Nat)
  | half (h : PHalf)
  | mode (m : RMode)
  | sdst (d : SDst)
  | tdst (d : TDst)
  | tsrc (y : TSrc)
  | ctxDst (d : Dst) (it : CtxItem)
  | ctxItem (it : CtxItem)
  | notify (n : Notify)
  deriving DecidableEq, Repr

/-- The operand fields of an instruction word, in field order. -/
def operands (i : Instr) : List Opnd :=
  match i with
  | .add d a b => [.dst d, .srcD a, .srcD b]
  | .sub d a b => [.dst d, .srcD a, .srcD b]
  | .addSatI32 d a b => [.dst d, .srcD a, .srcD b]
  | .subSatI32 d a b => [.dst d, .srcD a, .srcD b]
  | .mul d a b => [.dst d, .srcD a, .srcD b]
  | .mulhiI32 d a b => [.dst d, .srcD a, .srcD b]
  | .mulhiN32 d a b => [.dst d, .srcD a, .srcD b]
  | .mad d a b x => [.dst d, .srcD a, .srcD b, .srcC x]
  | .minI32 d a b => [.dst d, .srcD a, .srcD b]
  | .minN32 d a b => [.dst d, .srcD a, .srcD b]
  | .maxI32 d a b => [.dst d, .srcD a, .srcD b]
  | .maxN32 d a b => [.dst d, .srcD a, .srcD b]
  | .absI32 d a => [.dst d, .srcD a]
  | .neg d a => [.dst d, .srcD a]
  | .and d a b => [.dst d, .srcD a, .srcD b]
  | .or d a b => [.dst d, .srcD a, .srcD b]
  | .xor d a b => [.dst d, .srcD a, .srcD b]
  | .andn d a b => [.dst d, .srcD a, .srcD b]
  | .not d a => [.dst d, .srcD a]
  | .shl d a b => [.dst d, .srcD a, .srcD b]
  | .shr d a b => [.dst d, .srcD a, .srcD b]
  | .sar d a b => [.dst d, .srcD a, .srcD b]
  | .rotl d a b => [.dst d, .srcD a, .srcD b]
  | .popc d a => [.dst d, .srcD a]
  | .clz d a => [.dst d, .srcD a]
  | .brev d a => [.dst d, .srcD a]
  | .bfeN32 d a b => [.dst d, .srcD a, .srcD b]
  | .bfeI32 d a b => [.dst d, .srcD a, .srcD b]
  | .bfi d a b x => [.dst d, .srcD a, .srcD b, .srcC x]
  | .bsel d a b x => [.dst d, .srcD a, .srcD b, .srcC x]
  | .sel d a b _ => [.dst d, .srcD a, .srcD b]
  | .mov d a => [.dst d, .srcD a]
  | .add64 d a b => [.pdst d, .psrcD a, .psrcD b]
  | .sub64 d a b => [.pdst d, .psrcD a, .psrcD b]
  | .mul64 d a b => [.pdst d, .psrcD a, .psrcD b]
  | .shl64 d a n => [.pdst d, .psrcD a, .srcD n]
  | .srl64 d a n => [.pdst d, .psrcD a, .srcD n]
  | .sra64 d a n => [.pdst d, .psrcD a, .srcD n]
  | .divI32 d a b => [.dst d, .srcD a, .srcD b]
  | .divN32 d a b => [.dst d, .srcD a, .srcD b]
  | .remI32 d a b => [.dst d, .srcD a, .srcD b]
  | .remN32 d a b => [.dst d, .srcD a, .srcD b]
  | .fadd d a b m => [.dst d, .srcD a, .srcD b, .mode m]
  | .fsub d a b m => [.dst d, .srcD a, .srcD b, .mode m]
  | .fmul d a b m => [.dst d, .srcD a, .srcD b, .mode m]
  | .ffma d a b x => [.dst d, .srcD a, .srcD b, .srcC x]
  | .fmin d a b => [.dst d, .srcD a, .srcD b]
  | .fmax d a b => [.dst d, .srcD a, .srcD b]
  | .fminp d a b => [.dst d, .srcD a, .srcD b]
  | .fmaxp d a b => [.dst d, .srcD a, .srcD b]
  | .fabs d a => [.dst d, .srcD a]
  | .fneg d a => [.dst d, .srcD a]
  | .fcopysign d a b => [.dst d, .srcD a, .srcD b]
  | .frnd d a m => [.dst d, .srcD a, .mode m]
  | .fscale d a b m => [.dst d, .srcD a, .srcD b, .mode m]
  | .fgetexp d a => [.dst d, .srcD a]
  | .fgetman d a => [.dst d, .srcD a]
  | .fdiv d a b => [.dst d, .srcD a, .srcD b]
  | .frcp d a => [.dst d, .srcD a]
  | .frsq d a => [.dst d, .srcD a]
  | .fsqrt d a => [.dst d, .srcD a]
  | .fexp2 d a => [.dst d, .srcD a]
  | .flog2 d a => [.dst d, .srcD a]
  | .fsin d a => [.dst d, .srcD a]
  | .fcos d a => [.dst d, .srcD a]
  | .hadd2Bf16 d a b => [.dst d, .srcD a, .srcD b]
  | .hmul2Bf16 d a b => [.dst d, .srcD a, .srcD b]
  | .hfma2Bf16 d a b x => [.dst d, .srcD a, .srcD b, .srcC x]
  | .hadd2F16 d a b => [.dst d, .srcD a, .srcD b]
  | .hmul2F16 d a b => [.dst d, .srcD a, .srcD b]
  | .hfma2F16 d a b x => [.dst d, .srcD a, .srcD b, .srcC x]
  | .hdot2Bf16 d a b x => [.dst d, .srcD a, .srcD b, .srcC x]
  | .hdot2F16 d a b x => [.dst d, .srcD a, .srcD b, .srcC x]
  | .pk d a _ _ _ m => [.dstOld d, .srcD a, .mode m]
  | .upk d a _ _ => [.dst d, .srcD a]
  | .cvtF32I32 d a m => [.dst d, .srcD a, .mode m]
  | .cvtF32N32 d a m => [.dst d, .srcD a, .mode m]
  | .cvtI32F32 d a _ m => [.dst d, .srcD a, .mode m]
  | .cvtN32F32 d a _ m => [.dst d, .srcD a, .mode m]
  | .setpI32 _ a b _ => [.srcD a, .srcD b]
  | .setpN32 _ a b _ => [.srcD a, .srcD b]
  | .setpF32 _ a b _ => [.srcD a, .srcD b]
  | .setpI64 _ a b _ => [.psrcD a, .psrcD b]
  | .setpN64 _ a b _ => [.psrcD a, .psrcD b]
  | .pand _ _ _ => []
  | .por _ _ _ => []
  | .pxor _ _ _ => []
  | .pnot _ _ => []
  | .v2p _ a => [.srcD a]
  | .p2v d => [.dst d]
  | .lxAt d a j _ => [.dst d, .srcD a, .srcD j]
  | .lxShift d a j _ => [.dst d, .srcD a, .srcD j]
  | .lxRot d a j _ => [.dst d, .srcD a, .srcD j]
  | .lxFlip d a j _ => [.dst d, .srcD a, .srcD j]
  | .pollAny _ _ _ => []
  | .pollAll _ _ _ => []
  | .pollMask d _ g => [.mask d g]
  | .peers d a g => [.mask d g, .srcD a]
  | .redAddI32 d a _ => [.dst d, .srcD a]
  | .redAddF32 d a _ => [.dst d, .srcD a]
  | .redMinI32 d a _ => [.dst d, .srcD a]
  | .redMaxI32 d a _ => [.dst d, .srcD a]
  | .redMinF32 d a _ => [.dst d, .srcD a]
  | .redMaxF32 d a _ => [.dst d, .srcD a]
  | .redAnd d a _ => [.dst d, .srcD a]
  | .redOr d a _ => [.dst d, .srcD a]
  | .redXor d a _ => [.dst d, .srcD a]
  | .scanAddI32 d a _ => [.dst d, .srcD a]
  | .scanAddI32X d a _ => [.dst d, .srcD a]
  | .scanAddF32 d a _ => [.dst d, .srcD a]
  | .bcast d a _ => [.dst d, .srcD a]
  | .elect _ _ => []
  | .sample d a j _ => [.dst d, .srcD a, .srcD j]
  | .pairedWord _ h1 h2 => [.half h1, .half h2]
  | .bra _ _ => []
  | .call _ _ => []
  | .ldB8 d b off _ => [.dst d, .cap b, .src off]
  | .ldB16 d b off _ => [.dst d, .cap b, .src off]
  | .ldB32 d b off _ => [.dst d, .cap b, .src off]
  | .ldB64 d b off _ => [.block (2 * d.val) 2 false, .cap b, .src off]
  | .ldB128 d b off _ => [.block (4 * d.val) 4 false, .cap b, .src off]
  | .ldc d b off _ => [.capDst d, .cap b, .src off]
  | .stB8 a b off _ _ => [.src a, .cap b, .src off]
  | .stB16 a b off _ _ => [.src a, .cap b, .src off]
  | .stB32 a b off _ _ => [.src a, .cap b, .src off]
  | .stB64 a b off _ _ => [.psrc a, .cap b, .src off]
  | .stB128 a b off _ _ => [.block (4 * a.val) 4 true, .cap b, .src off]
  | .stc a b off _ _ => [.cap a, .cap b, .src off]
  | .atomAdd d b x _ _ => [.dstOpt d, .cap b, .src x]
  | .atomMinI32 d b x _ _ => [.dstOpt d, .cap b, .src x]
  | .atomMinN32 d b x _ _ => [.dstOpt d, .cap b, .src x]
  | .atomMaxI32 d b x _ _ => [.dstOpt d, .cap b, .src x]
  | .atomMaxN32 d b x _ _ => [.dstOpt d, .cap b, .src x]
  | .atomAnd d b x _ _ => [.dstOpt d, .cap b, .src x]
  | .atomOr d b x _ _ => [.dstOpt d, .cap b, .src x]
  | .atomXor d b x _ _ => [.dstOpt d, .cap b, .src x]
  | .atomXchg d b x _ _ => [.dstOpt d, .cap b, .src x]
  | .atomCas d b x _ _ => [.dstOpt d, .cap b, .block (2 * x.val) 2 true]
  | .atomAdd64 d b x _ _ => [.blockOpt (d.map (2 * ·.val)) 2, .cap b, .psrc x]
  | .atomCas64 d b x _ _ => [.blockOpt (d.map (2 * ·.val)) 2, .cap b, .block (4 * x.val) 4 true]
  | .atomCas128 d b x _ _ => [.blockOpt (d.map (4 * ·.val)) 4, .cap b, .block (8 * x.val) 8 true]
  | .atomFaddF32 d b x _ _ => [.dstOpt d, .cap b, .src x]
  | .fence _ _ => []
  | .waitne a b off _ _ => [.src a, .cap b, .src off]
  | .prefetch b off _ => [.cap b, .src off]
  | .capAddr d b => [.block (2 * d.val) 2 false, .cap b]
  | .capBase d b => [.block (2 * d.val) 2 false, .cap b]
  | .capLen d b => [.block (2 * d.val) 2 false, .cap b]
  | .capPerm d b => [.dst d, .cap b]
  | .capType d b => [.dst d, .cap b]
  | .capTag d b => [.dst d, .cap b]
  | .capSeta d b x => [.capDst d, .cap b, .psrc x]
  | .capAdd d b x => [.capDst d, .cap b, .psrc x]
  | .capBound d b x => [.capDst d, .cap b, .psrc x]
  | .capBoundx d b x => [.capDst d, .cap b, .psrc x]
  | .capMask d b m => [.capDst d, .cap b, .src m]
  | .capSeal d b x => [.capDst d, .cap b, .cap x]
  | .capUnseal d b x => [.capDst d, .cap b, .cap x]
  | .capUntag d b => [.capDst d, .cap b]
  | .capMov d b => [.capDst d, .cap b]
  | .capDiff d b x => [.block (2 * d.val) 2 false, .cap b, .cap x]
  | .capWithin _ b x => [.cap b, .cap x]
  | .capRlen d x => [.block (2 * d.val) 2 false, .psrc x]
  | .capAmask d x => [.block (2 * d.val) 2 false, .psrc x]
  | .capMint d b x => [.capDst d, .cap b, .cap x]
  | .capSame _ b x => [.cap b, .cap x]
  | .cpin a b x _ _ => [.cap a, .cap b, .psrc x]
  | .cpout a b x _ _ => [.cap a, .cap b, .psrc x]
  | .cpx a b x _ _ => [.cap a, .cap b, .psrc x]
  | .cpfill a v x _ => [.cap a, .src v, .psrc x]
  | .waitown a b off => [.src a, .cap b, .src off]
  | .waitgen a b off => [.src a, .cap b, .src off]
  | .arrset a b off => [.src a, .cap b, .src off]
  | .ocfill _ v n => [.block v.val n.val true]
  | .ocspill v _ n => [.block v.val n.val false]
  | .carve _ x _ => [.src x]
  | .tbar _ => []
  | .rbarInit _ => []
  | .rbarWait _ => []
  | .swin x => [.src x]
  | .sread d _ => [.sdst d]
  | .swrite x => [.src x]
  | .rndc d => [.dst d]
  | .yield _ => []
  | .xset _ x => [.src x]
  | .sadd _ x y => [.src x, .src y]
  | .ssub _ x y => [.src x, .src y]
  | .smul _ x y => [.src x, .src y]
  | .sand _ x y => [.src x, .src y]
  | .sor _ x y => [.src x, .src y]
  | .sxor _ x y => [.src x, .src y]
  | .sshl _ x y => [.src x, .src y]
  | .sshr _ x y => [.src x, .src y]
  | .ssar _ x y => [.src x, .src y]
  | .sminI32 _ x y => [.src x, .src y]
  | .smaxI32 _ x y => [.src x, .src y]
  | .setps _ x y _ _ => [.src x, .src y]
  | .v2s _ x => [.src x]
  | .mldb _ b x => [.cap b, .src x]
  | .mbeg _ _ _ _ x => [.src x]
  | .mma _ b x => [.cap b, .src x]
  | .mend x b cc => [.src x, .cap b, .capOpt cc]
  | .mzero x => [.src x]
  | .mrd d x => [.block (8 * d.val) 6 false, .src x]
  | .mstat d x => [.dst d, .src x]
  | .spawn v => [.block (4 * v.val) 32 false]
  | .tend b _ => [.capOpt b]
  | .join b off _ => [.cap b, .src off]
  | .launch b off => [.cap b, .src off]
  | .evwait g b off _ => [.src g, .cap b, .src off]
  | .evpub g b off _ => [.src g, .cap b, .src off]
  | .dqinfo d _ => [.dst d]
  | .post m e q => [.block (8 * m.val) 8 false, .cap e, .quadsOpt (q.map (·.val)) 2]
  | .take m e q => [.block (8 * m.val) 8 false, .cap e, .quads q.val 3 0]
  | .ask _ m e q qs => [.block (8 * m.val) 8 false, .cap e, .quads q.val 3 (if qs then 2 else 0)]
  | .answer m e q => [.block (8 * m.val) 8 false, .cap e, .quadsOpt (q.map (·.val)) 2]
  | .settle m r e q qs => [.block (8 * m.val) 8 false, .cap r, .cap e, .quads q.val 3 (if qs then 2 else 0)]
  | .postTry _ m e q => [.block (8 * m.val) 8 false, .cap e, .quadsOpt (q.map (·.val)) 2]
  | .ctxnew d r q => [.capDst d, .cap r, .quads q.val 4 4]
  | .ctxcfg d x it => [.ctxDst d it, .cap x, .ctxItem it]
  | .ctxrun d x r => [.dst d, .cap x, .capOpt r]
  | .ctxstop d x _ => [.dst d, .cap x]
  | .ctxkill d x => [.dst d, .cap x]
  | .asnew d r => [.capDst d, .cap r]
  | .asmap d x m => [.dst d, .cap x, .block (8 * m.val) 8 false]
  | .asunmap d x m => [.dst d, .cap x, .block (8 * m.val) 8 false]
  | .objmake d r x => [.capDst d, .cap r, .src x]
  | .revoke d r n => [.dst d, .cap r, .notify n]
  | .schnew d r x => [.capDst d, .cap r, .src x]
  | .schset _ d r x => [.dst d, .cap r, .src x]
  | .lnbind d i e => [.dst d, .cap i, .capOpt e]
  | .lnack d x => [.dst d, .cap x]
  | .tread d t x => [.tdst d, .cap t, .src x]
  | .twrite y t x => [.tsrc y, .cap t, .src x]
  | .tclr m t g => [.src m, .cap t, .src g]
  | .tresume d x => [.dst d, .cap x]
  | .attest m x b => [.block (8 * m.val) 8 false, .capOpt x, .cap b]
  | .troyOpen d k b => [.capDst d, .cap k, .cap b]
  | .troyAbs s b x _ => [.cap s, .cap b, .src x]
  | .troyClose d x => [.dst d, .cap x]
  | .trap _ => []
  | .callc b => [.cap b]
  | .jmpc b => [.cap b]
  | .ret b => [.cap b]
  | .exit => []
  | .bkpt => []
  | .nop => []
  | .aluWriteback => []
  | .predicateWriteback => []
  | .scalarWriteback => []
  | .landingWrite => []
  | .storePerform => []
  | .latchHoldExpiry => []
  | .affinityRunLimit => []
  | .spanDisplacement => []
  | .unhousedHousing => []
  | .pccEntryAcquire => []
  | .waitneWake => []
  | .waitownComplete => []
  | .waitgenComplete => []
  | .teamBarrierRelease => []
  | .convergenceRelease => []
  | .joinComplete => []
  | .evwaitComplete => []
  | .yieldComplete => []
  | .exitCompletion => []
  | .tendCompletion => []
  | .taskStart => []
  | .refill => []
  | .stealSearch => []
  | .stealRequest => []
  | .stealFrameArrival => []
  | .arrivalWordUpdate => []
  | .copyComplete => []
  | .copyAbort => []
  | .mldbPerform => []
  | .mbegPerform => []
  | .mmaPerform => []
  | .mendPerform => []
  | .mzeroPerform => []
  | .mrdPerform => []
  | .mstatPerform => []
  | .currentGrant => []
  | .asyncCause => []
  | .haltRequest => []
  | .skidLimit => []
  | .stopComplete => []
  | .descheduleRequest => []
  | .yieldDebt => []
  | .cutRound => []
  | .teamSave => []
  | .teamRestore => []
  | .launchAcceptance => []
  | .launchReady => []
  | .clusterPlacement => []
  | .teamCompletion => []
  | .budgetWindow => []
  | .allowanceReached => []
  | .priorityClaim => []
  | .equalPriorityHoldLimit => []
  | .interruptSignal => []
  | .filterActivation => []
  | .furlongPass => []
  | .revocationComplete => []
  | .ctxstopComplete => []
  | .ctxkillComplete => []
  | .asunmapComplete => []
  | .absorbComplete => []
  | .sealRecordWrite => []
  | .ageingMonitorRead => []
  | .spareRemap => []
  | .channelRetirement => []
  | .rds => []
  | .rdx => []
  | .upg => []
  | .wb => []
  | .inv => []
  | .fwdS => []
  | .fwdX => []
  | .data => []
  | .grant => []
  | .ack => []
  | .stale => []
  | .externalWrite => []
  | .externalRead => []
  | .hostPacket => []
  | .atsInvalidation => []
  | .priResponse => []
  | .fabricPacketArrival => []
  | .creditGrant => []
  | .remoteAck => []
  | .connectionDown => []
  | .withdrawalComplete => []
  | .keyArm => []
  | .keyDestroy => []
  | .keyDestruction => []
  | .keyQuery => []
  | .qiBind => []
  | .qiUnbind => []
  | .qiQuery => []
  | .qiInterrupt => []
  | .regExport => []
  | .regImport => []
  | .regWithdraw => []
  | .regUnimport => []
  | .query => []
  | .loadRoot => []
  | .pasidLive => []
  | .pasidRevoke => []
  | .hostMap => []
  | .hostUnmap => []
  | .modeSet => []
  | .connUp => []
  | .connDown => []
  | .certRead => []
  | .voidRead => []
  | .cxlAdd => []
  | .cxlRemove => []
  | .signal => []
  | .errlogRead => []
  | .rootClear => []
  | .reset => []
  | .reservedRegisterWrite => []
  | .getVersion => []
  | .getCapabilities => []
  | .negotiateAlgorithms => []
  | .getDigests => []
  | .getCertificate => []
  | .challenge => []
  | .getMeasurements => []
  | .dieTestComplete => []
  | .powerGate => []
  | .coreWake => []
  | .coldReset => []
  | .hotReset => []
  | .functionLevelReset => []
  | .reservedOpcode => []
  | .pasidRevocationComplete => []
  | .packetRetransmission => []
  | .vfEnable => []
  | .msixVectorUnmask => []
  | .completionTimeout => []

/-! ### The checks against N and W (R17, R59, R66, R190) -/

def srcBad (n : Nat) : Src → Bool
  | .v r => n ≤ r.val
  | _ => false

def capBad (n : Nat) : CapSel → Bool
  | .w m => n ≤ 4 * m.val + 3
  | .k _ => false

def dstBad (n : Nat) : Dst → Bool
  | .v r => n ≤ r.val
  | _ => false

/-- R185: the segment size of a cross-lane word. -/
def segSize (w : Nat) (seg : Fin 7) : Nat := if 2 ^ seg.val ≤ w then w / 2 ^ seg.val else 1

/-- R190: the destination of a mask of S bits. -/
def maskBad (n w : Nat) (d : Dst) (seg : Fin 7) : Bool :=
  let s := segSize w seg
  if s ≤ 32 then dstBad n d
  else match d with
    | .v r => if s ≤ 64 then r.val % 2 != 0 || n ≤ r.val + 1 else r.val % 4 != 0 || n ≤ r.val + 3
    | _ => true

def pselBad (n : Nat) : PSel → Bool
  | .v r => n ≤ r.val
  | _ => false

/-- An operand raises ILLEGAL under the team's N and the core's W. -/
def Opnd.bad (n w : Nat) : Opnd → Bool
  | .src a => srcBad n a
  | .srcD a => srcBad n a.sel
  | .srcC a => match a with | .v r => n ≤ r.val | _ => false
  | .psrc a => match a with | .v r => n ≤ 2 * r.val + 1 | _ => false
  | .psrcD a => match a.sel with | .v r => n ≤ 2 * r.val + 1 | _ => false
  | .dst d => dstBad n d
  | .dstOld d => dstBad n d
  | .dstOpt d => match d with | some d => dstBad n d | none => false
  | .pdst d => match d with | .v r => n ≤ 2 * r.val + 1 | .latch => false
  | .cap c => capBad n c
  | .capDst c => capBad n c
  | .capOpt c => match c with | some c => capBad n c | none => false
  | .block b k _ => n < b + k
  | .blockOpt b k => match b with | some b => n < b + k | none => false
  | .mask d seg => maskBad n w d seg
  | .quads q k _ => n < 4 * (q + k)
  | .quadsOpt q k => match q with | some q => n < 4 * (q + k) | none => false
  | .half h => pselBad n h.a || pselBad n h.b || (match h.d with | .v r => n ≤ r.val | _ => false)
  | .mode _ => false
  | .sdst d => match d with | .reg d => dstBad n d | .s _ => false
  | .tdst d => match d with | .reg d => dstBad n d | .cap c => capBad n c
  | .tsrc y => match y with | .reg a => srcBad n a | .cap c => capBad n c
  | .ctxDst d it => match it with
    | .cnt _ => (match d with | .v r => n ≤ r.val + 1 | _ => true)
    | _ => dstBad n d
  | .ctxItem it => match it with
    | .ceil a => srcBad n a
    | .fault c => capBad n c
    | .cset c => capBad n c
    | _ => false
  | .notify k => match k with | .none => false | .event c => capBad n c | .endpoint c => capBad n c

/-- R59: the word raises ILLEGAL under this N and W. -/
def illegalAt (i : Instr) (n w : Nat) : Bool := (operands i).any (·.bad n w)

/-! ### Literals and lengths (R62) -/

def srcLit : Src → Bool
  | .litLo => true
  | .litHi => true
  | _ => false

def Opnd.isLit : Opnd → Bool
  | .src a => srcLit a
  | .srcD a => srcLit a.sel
  | .psrc a => a == .lit
  | .psrcD a => a.sel == .lit
  | .tsrc y => match y with | .reg a => srcLit a | _ => false
  | .ctxItem it => match it with | .ceil a => srcLit a | _ => false
  | _ => false

/-- R62: the word is followed by a literal word. -/
def usesLit (i : Instr) : Bool := (operands i).any (·.isLit)

/-- R62: the bytes the PC advances past the word and what it consumes. -/
def wordLen (i : Instr) : Nat :=
  match i with
  | .yield _ => 32
  | _ => if usesLit i then 16 else 8

/-! ### Reading -/

/-- R26: the register an indexed selector reaches. -/
def indexed (n : Nat) (t : Thread) (k : Fin 4) (d : Fin 8) : Except Word Nat :=
  let x := t.x.getD k.val 0
  let r := (x.extractLsb' 0 7).toNat + d.val
  if min (x.extractLsb' 8 8).toNat n ≤ r then .error cXbound else .ok r

/-- R21: an operand-cache entry. -/
def rdO (t : Thread) (n : Nat) : Except Word Word :=
  if flagAt t.oval n then .ok (t.o.getD n 0) else .error cOcinv

/-- R22, R23: a latch, through its home when it is lost. A home `vn` whose register a carve has since taken away (n at or above N,
R176) reads 0 and raises nothing, of which R23 says nothing: the model's choice (log 181). -/
def rdB (t : Thread) (n : Nat) : Except Word Word :=
  let l := t.b.getD n Latch.none
  if !l.lost then .ok l.val
  else if l.stale then .error cOcinv
  else match l.home with
    | some (.v r) => .ok (t.rdV r)
    | some (.o r) => rdO t r
    | none => .error cOcinv

/-- R63: a 32-bit source in a lane. -/
def Issue.src (i : Issue) (lane : Nat) (t : Thread) : Src → Except Word Word
  | .v n => .ok (t.rdV n.val)
  | .o n => rdO t n.val
  | .b n => rdB t n.val
  | .zero => .ok 0
  | .lane => .ok (BitVec.ofNat 32 lane)
  | .width => .ok (BitVec.ofNat 32 i.w)
  | .slot => .ok (BitVec.ofNat 32 (i.x.g * i.w + lane))
  | .grp => .ok (BitVec.ofNat 32 i.x.g)
  | .team => .ok (BitVec.ofNat 32 i.t.idx)
  | .litLo => .ok (i.x.lit.extractLsb' 0 32)
  | .litHi => .ok (i.x.lit.extractLsb' 32 32)
  | .vx k d => do .ok (t.rdV (← indexed i.t.nreg t k d))
  | .s n => .ok (i.g.s.getD (64 * i.g.sw.toNat + n.val) 0)

/-- R64: source C. -/
def rdC (t : Thread) : SrcC → Except Word Word
  | .o n => rdO t n.val
  | .b n => rdB t n.val
  | .zero => .ok 0
  | .v n => .ok (t.rdV n.val)

/-- R99: a 64-bit source. -/
def Issue.psrc (i : Issue) (t : Thread) : PSrc → DWord
  | .v n => t.pair (2 * n.val)
  | .zero => 0
  | .lit => i.x.lit
  | .s n => i.g.s.getD (64 * i.g.sw.toNat + 2 * n.val + 1) 0 ++ i.g.s.getD (64 * i.g.sw.toNat + 2 * n.val) 0

/-- R70: a source of a P half. -/
def Issue.psel (i : Issue) (lane : Nat) (t : Thread) : PSel → Except Word Word
  | .o n => rdO t n.val
  | .b n => rdB t n.val
  | .zero => .ok 0
  | .lane => .ok (BitVec.ofNat 32 lane)
  | .s n => .ok (i.g.s.getD n.val 0)
  | .v n => .ok (t.rdV n.val)

/-- R66: a capability operand. -/
def Issue.cap (i : Issue) (t : Thread) : CapSel → Cap
  | .w m => t.quad m.val
  | .k n => i.g.k.getD n.val Cap.zero

/-- R97: a predicate code. -/
def pcode (t : Thread) : PCode → Bool
  | .pos n => flagAt t.p n.val
  | .always => true
  | .neg n => !flagAt t.p n.val
  | .never => false

/-! ### Destinations -/

/-- R65: the write and the latch home of a 32-bit destination. -/
def Issue.dst (i : Issue) (t : Thread) (d : Dst) (w : Word) : Except Word (List Upd × Option Home) :=
  match d with
  | .v n => .ok ([.v n.val w], some (.v n.val))
  | .o n => .ok ([.o n.val w], some (.o n.val))
  | .vx k e => do
    let r ← indexed i.t.nreg t k e
    .ok ([.v r w], some (.v r))
  | .latch => .ok ([], none)

/-- R66: the write of a capability destination. -/
def capUpd : CapSel → Cap → Upd
  | .w m, c => .quad m.val c
  | .k n, c => .k n.val c

/-- R99, R131: the writes of a pair. -/
def pairUpds (n : Nat) (x : DWord) : List Upd := [.v n (x.extractLsb' 0 32), .v (n + 1) (x.extractLsb' 32 32)]

/-- R19: the main registers a word's dead bits name in a lane. -/
def Issue.deadOf (i : Issue) (t : Thread) : Opnd → List Nat
  | .srcD a =>
    if a.dead then
      match a.sel with
      | .v n => [n.val]
      | .vx k d => match indexed i.t.nreg t k d with | .ok r => [r] | .error _ => []
      | _ => []
    else []
  | .psrcD a => if a.dead then (match a.sel with | .v n => [2 * n.val, 2 * n.val + 1] | _ => []) else []
  | _ => []

/-- R19: all registers a word reads dead in a lane. -/
def Issue.dead (i : Issue) (ins : Instr) (_lane : Nat) (t : Thread) : List Nat := (operands ins).flatMap (i.deadOf t)

/-! ### Main-register reads and latch reads, for timing (R172, R23) -/

/-- The main register a lost latch is read through, if any. -/
def latchHome (t : Thread) (n : Nat) : List Nat :=
  let l := t.b.getD n Latch.none
  if l.lost then (match l.home with | some (.v r) => [r] | _ => []) else []

def srcRegs (n : Nat) (t : Thread) : Src → List Nat
  | .v r => [r.val]
  | .b k => latchHome t k.val
  | .vx k d => match indexed n t k d with | .ok r => [r] | .error _ => []
  | _ => []

def capRegs : CapSel → List Nat
  | .w m => [4 * m.val, 4 * m.val + 1, 4 * m.val + 2, 4 * m.val + 3]
  | .k _ => []

def dstRegs (n : Nat) (t : Thread) : Dst → List Nat
  | .v r => [r.val]
  | .vx k d => match indexed n t k d with | .ok r => [r] | .error _ => []
  | _ => []

/-- The registers of `k` quads from quad `q` up. -/
def quadRegs (q k : Nat) : List Nat := (List.range (4 * k)).map (4 * q + ·)

def pselRegs (t : Thread) : PSel → List Nat
  | .v r => [r.val]
  | .b k => latchHome t k.val
  | _ => []

/-- R172: the main registers an operand reads in a lane. A P word has no conflicts (R71), but its reads meet write-backs
(R173). -/
def Opnd.regs (n : Nat) (t : Thread) : Opnd → List Nat
  | .src a => srcRegs n t a
  | .srcD a => srcRegs n t a.sel
  | .srcC a => match a with | .v r => [r.val] | .b k => latchHome t k.val | _ => []
  | .psrc a => match a with | .v r => [2 * r.val, 2 * r.val + 1] | _ => []
  | .psrcD a => match a.sel with | .v r => [2 * r.val, 2 * r.val + 1] | _ => []
  | .dstOld d => dstRegs n t d
  | .cap c => capRegs c
  | .capOpt c => match c with | some c => capRegs c | none => []
  | .block b k rd => if rd then (List.range k).map (b + ·) else []
  | .quads q _ r => quadRegs q r
  | .quadsOpt q k => match q with | some q => quadRegs q k | none => []
  | .half h => pselRegs t h.a ++ pselRegs t h.b
  | .mode m => if m == .sr then latchHome t 0 else []
  | .tsrc y => match y with | .reg a => srcRegs n t a | .cap c => capRegs c
  | .ctxItem it => match it with
    | .ceil a => srcRegs n t a
    | .fault c => capRegs c
    | .cset c => capRegs c
    | _ => []
  | .notify k => match k with | .none => [] | .event c => capRegs c | .endpoint c => capRegs c
  | _ => []

/-- R172: the latches an operand reads. -/
def Opnd.latches : Opnd → List Nat
  | .src (.b k) => [k.val]
  | .srcD a => match a.sel with | .b k => [k.val] | _ => []
  | .srcC (.b k) => [k.val]
  | .mode m => if m == .sr then [0] else []
  | .half h => (match h.a with | .b k => [k.val] | _ => []) ++ (match h.b with | .b k => [k.val] | _ => [])
  | .tsrc (.reg (.b k)) => [k.val]
  | .ctxItem (.ceil (.b k)) => [k.val]
  | _ => []

/-- R22: the latches a word reads. -/
def latchesOf (ins : Instr) : List Nat := (operands ins).flatMap Opnd.latches

/-- R172: the conflict count of a list of registers. -/
def conflicts (regs : List Nat) : Nat :=
  let r := regs.dedup
  ((List.range 4).map fun b => (r.filter (· % 4 == b)).length).foldl max 0 - 1

/-- R172: the registers a word reads in a lane. -/
def regsOf (ins : Instr) (n : Nat) (t : Thread) : List Nat := (operands ins).flatMap (·.regs n t)

/-! ### The shape of every word -/

/-- Evaluate a lane function in every visited lane; causes of all lanes are collected (R12). -/
def Issue.each {ε α : Type} (i : Issue) (f : Nat → Thread → Except ε α) : Except (List (Nat × ε)) (List (Nat × α)) :=
  let rs := i.visited.map fun p => (p.1, f p.1 p.2)
  let errs := rs.filterMap fun p => match p.2 with | .error c => some (p.1, c) | .ok _ => none
  if errs.isEmpty then .ok (rs.filterMap fun p => match p.2 with | .ok a => some (p.1, a) | .error _ => none)
  else .error errs

/-- R59: a word whose operands are out of reach under N or W raises ILLEGAL; otherwise it acts. -/
def wordDo (ins : Instr) (s : State) (k : Issue → State) : Host.Outcome State Fault Refusal :=
  onIssue s fun i => if illegalAt ins i.t.nreg i.w then i.illegal else k i

/-- A word that acts in each visited lane on its own and writes `lat` cycles after issue (R18, R28, R92). -/
def laneWord (ins : Instr) (kind : PendKind) (lat : Nat) (s : State)
    (f : Issue → Nat → Thread → Except Word LaneOut) : Host.Outcome State Fault Refusal :=
  wordDo ins s fun i =>
    match i.each (f i) with
    | .error cs => i.raise cs
    | .ok outs => i.commit (wordLen ins) kind lat true (i.dead ins) outs

/-- The ALU class (R90). -/
def aluWord (ins : Instr) (s : State) (f : Issue → Nat → Thread → Except Word LaneOut) :
    Host.Outcome State Fault Refusal := laneWord ins .alu aluLatency s f

/-- The Predicate class (R92). -/
def predWord (ins : Instr) (s : State) (f : Issue → Nat → Thread → Except Word LaneOut) :
    Host.Outcome State Fault Refusal := laneWord ins .pred predLatency s f

/-- The operation record of a word that has issued. -/
def Issue.op (i : Issue) (lanes : List Nat) (op10 : Nat) (kind : OpKind) : Op :=
  { id := 0, g := i.x.g, lanes := lanes, sf := i.x.ctl.sf, op10 := op10, pc := i.x.pc, pccx := i.x.pccx, scope := .system, acq := false,
    rel := false, seq := false, kind := kind, gates := [] }

/-- Commit a word whose results come through the landing buffer (R18): `outs` its issue effects, `o` its operation. -/
def Issue.commitOp (i : Issue) (ins : Instr) (outs : List (Nat × LaneOut)) (o : Op) : State :=
  let s := i.commit (wordLen ins) .alu 0 false (i.dead ins) outs
  if outs.isEmpty then s else s.upTeam i.x.team (·.addOp o)

/-- Results computed at issue that come through the landing buffer, the flag clearing then (R18, R28). -/
def longLand (ins : Instr) (s : State) (f : Issue → Nat → Thread → Except Word (List Upd)) :
    Host.Outcome State Fault Refusal :=
  wordDo ins s fun i =>
    match i.each (f i) with
    | .error cs => i.raise cs
    | .ok rs =>
      i.commitOp ins (rs.map fun p => (p.1, LaneOut.nil))
        (i.op (rs.map (·.1)) 0 (.land (rs.flatMap fun p => p.2.map fun u => (p.1, u))))

/-- The Long class (R90, R91): the results computed at issue land later and the flag clears then; the
special-function pipe takes 16 lanes a cycle (R169). -/
def longWord (ins : Instr) (s : State) (f : Issue → Nat → Thread → Except Word (List Upd × Word)) :
    Host.Outcome State Fault Refusal :=
  wordDo ins s fun i =>
    match i.each (f i) with
    | .error cs => i.raise cs
    | .ok rs =>
      (i.commitOp ins (rs.map fun p => (p.1, { LaneOut.nil with fps := p.2.2 }))
        (i.op (rs.map (·.1)) 0 (.land (rs.flatMap fun p => p.2.1.map fun u => (p.1, u))))).upTeam i.x.team fun t =>
          { t with sfuBusy := i.core.cycle + ceilDiv i.x.lanes.length 16 }

end Sys2Proof.Machine
end

