-- ==== Sys2Proof/Machine/Flags.lean ====
section
/-! DEFINITION. Flag and condition computations: the status bits of %fps (R32), the integer conditions (R112) and the
predicate logic (R114). No integer instruction has a flag (R93). -/

namespace Sys2Proof.Machine

open Sys2Proof

/-- R32: %fps bits. -/
def fInvalid : Word := bit 0
def fDivzero : Word := bit 1
def fOverflow : Word := bit 2
def fUnderflow : Word := bit 3
def fInexact : Word := bit 4

/-- A mask when a condition holds. -/
def fpsIf (b : Bool) (m : Word) : Word := if b then m else 0

/-- R112: a comparison of exact integers. -/
def condHolds (q : Cond) (a b : Int) : Bool :=
  match q with
  | .eq => a == b
  | .ne => a != b
  | .lt => decide (a < b)
  | .le => decide (a ≤ b)
  | .gt => decide (b < a)
  | .ge => decide (b ≤ a)

/-- R112: the signed and unsigned readings of a value. -/
def asSigned {n : Nat} (x : BitVec n) : Int := x.toInt
def asUnsigned {n : Nat} (x : BitVec n) : Int := (x.toNat : Int)

/-- R113: the answer of a condition for unordered operands and for an ordering of ordered ones. -/
def fcondHolds (q : FCond) (unordered : Bool) (o : Ordering) : Bool :=
  match q with
  | .eq => !unordered && o == .eq
  | .ne => unordered || o != .eq
  | .lt => !unordered && o == .lt
  | .le => !unordered && o != .gt
  | .gt => !unordered && o == .gt
  | .ge => !unordered && o != .lt
  | .equ => unordered || o == .eq
  | .neo => !unordered && o != .eq
  | .ltu => unordered || o == .lt
  | .leu => unordered || o != .gt
  | .gtu => unordered || o == .gt
  | .geu => unordered || o != .lt
  | .num => !unordered
  | .nan => unordered

/-- R113: the conditions for which any NaN sets invalid. -/
def fcondSignals : FCond → Bool
  | .lt => true
  | .le => true
  | .gt => true
  | .ge => true
  | _ => false

end Sys2Proof.Machine
end

