-- ==== Sys2Proof/Machine/Fp.lean ====
section
/-! DEFINITION. Floating-point, integer and narrow formats: exact values of codes, the one rounding function, and the
arithmetic built on it (02_number_formats R34-R48; R101-R110). Codes are natural numbers of the format's width. -/

namespace Sys2Proof.Machine

open Sys2Proof

/-- R34: the parameters of a binary format. `inf`: the all-ones exponent holds infinities and NaNs; `nanTop`: only the
two all-ones codes are NaN (E4M3). -/
structure FFmt where
  e : Nat
  m : Nat
  bias : Nat
  inf : Bool
  nanTop : Bool
  deriving DecidableEq, Repr

def fp32 : FFmt := ⟨8, 23, 127, true, false⟩
def fmtBf16 : FFmt := ⟨8, 7, 127, true, false⟩
def fmtF16 : FFmt := ⟨5, 10, 15, true, false⟩
def fmtE4m3 : FFmt := ⟨4, 3, 7, false, true⟩
def fmtE5m2 : FFmt := ⟨5, 2, 15, true, false⟩
def fmtE3m2 : FFmt := ⟨3, 2, 3, false, false⟩
def fmtE2m3 : FFmt := ⟨2, 3, 1, false, false⟩
def fmtE2m1 : FFmt := ⟨2, 1, 1, false, false⟩

def FFmt.width (f : FFmt) : Nat := 1 + f.e + f.m
def FFmt.signBit (f : FFmt) : Nat := 2 ^ (f.e + f.m)
/-- The code of the largest finite magnitude (R34). -/
def FFmt.maxCode (f : FFmt) : Nat :=
  if f.inf then (2 ^ f.e - 1) * 2 ^ f.m - 1 else if f.nanTop then 2 ^ (f.e + f.m) - 2 else 2 ^ (f.e + f.m) - 1
def FFmt.infCode (f : FFmt) : Nat := (2 ^ f.e - 1) * 2 ^ f.m
/-- R34: the canonical NaN. -/
def FFmt.nanCode (f : FFmt) : Nat := if f.nanTop then 2 ^ (f.e + f.m) - 1 else f.infCode + 2 ^ (f.m - 1)
def FFmt.hasNan (f : FFmt) : Bool := f.inf || f.nanTop

/-- The value of a code (R35): NaN, infinity, or ±m·2^e. -/
inductive FNum where
  | nan
  | inf (s : Bool)
  | num (s : Bool) (m : Nat) (e : Int)
  deriving DecidableEq, Repr

def FFmt.sign (f : FFmt) (x : Nat) : Bool := x / f.signBit % 2 == 1
def FFmt.expField (f : FFmt) (x : Nat) : Nat := x / 2 ^ f.m % 2 ^ f.e
def FFmt.manField (f : FFmt) (x : Nat) : Nat := x % 2 ^ f.m

/-- R34: a NaN code. -/
def FFmt.isNan (f : FFmt) (x : Nat) : Bool :=
  let top := f.expField x == 2 ^ f.e - 1
  if f.inf then top && f.manField x != 0 else f.nanTop && top && f.manField x == 2 ^ f.m - 1

/-- R36: a signalling NaN (only FP32, BF16 and FP16 have them). -/
def FFmt.isSnan (f : FFmt) (x : Nat) : Bool := f.isNan x && f.m ≥ 7 && f.manField x < 2 ^ (f.m - 1)

/-- R35. -/
def FFmt.value (f : FFmt) (x : Nat) : FNum :=
  if f.isNan x then .nan
  else if f.inf && f.expField x == 2 ^ f.e - 1 then .inf (f.sign x)
  else if f.expField x = 0 then .num (f.sign x) (f.manField x) (1 - (f.bias : Int) - f.m)
  else .num (f.sign x) (2 ^ f.m + f.manField x) ((f.expField x : Int) - f.bias - f.m)

/-- The number of bits of a natural number. -/
def bitLen (n : Nat) : Nat := if n = 0 then 0 else n.log2 + 1

/-- R36: a NaN made quiet. -/
def FFmt.quiet (f : FFmt) (x : Nat) : Nat := if x / 2 ^ (f.m - 1) % 2 = 1 then x else x + 2 ^ (f.m - 1)

/-- The code of a signed magnitude code. -/
def FFmt.signed (f : FFmt) (s : Bool) (c : Nat) : Nat := if s then c + f.signBit else c

/-! ### Rounding (R41-R44) -/

/-- The fraction of a discarded tail: `rem / 2^sh`, with `sticky` for a further positive amount below one unit of
`rem`. Whether the magnitude `n` rounds up to `n + 1` (R41, R42): `s` the sign, `odd` whether n is odd, `r` the 16
random bits of b0. -/
def roundUp (mode : RMode) (s odd : Bool) (rem sh r : Nat) (sticky : Bool) : Bool :=
  let half := 2 ^ sh
  let inexact := rem != 0 || sticky
  match mode with
  | .rne => decide (half < 2 * rem) || (2 * rem == half && (sticky || odd))
  | .rz => false
  | .rd => s && inexact
  | .ru => !s && inexact
  | .sr =>
    if !inexact then false
    else if s then decide ((half - rem) * 65536 / half + r < 65536)
    else decide (65536 ≤ rem * 65536 / half + r)

/-- Scale a magnitude m·2^e to units of 2^q: the integer part, the discarded tail and its width. Tails far below a
unit are shortened to a tail of the same consequence. -/
def toUnits (m : Nat) (e q : Int) (sticky : Bool) : Nat × Nat × Nat × Bool :=
  if q ≤ e then (m * 2 ^ (e - q).toNat, 0, 0, sticky)
  else
    let sh := (q - e).toNat
    if bitLen m + 24 < sh then (0, if m = 0 then 0 else 1, 24, sticky)
    else (m / 2 ^ sh, m % 2 ^ sh, sh, sticky)

/-- R41-R44: round ±m·2^e (with `sticky` for a further positive amount of magnitude below one unit of m) into a
binary format. The code and the status bits. -/
def roundF (f : FFmt) (mode : RMode) (sat : Bool) (r : Nat) (s : Bool) (m : Nat) (e : Int) (sticky : Bool) : Nat × Word :=
  if m = 0 && !sticky then (f.signed s 0, 0)
  else
    let emin : Int := 1 - (f.bias : Int)
    let top : Int := e + (bitLen m : Int) - 1
    let q : Int := max top emin - f.m
    let (n, rem, sh, st) := toUnits m e q sticky
    let inexact := rem != 0 || st
    let up := roundUp mode s (n % 2 == 1) rem sh r st
    let n' := if up then n + 1 else n
    let code : Nat := if n' < 2 ^ f.m then n' else ((q + f.m + f.bias).toNat - 1) * 2 ^ f.m + n'
    let exactOver := decide (f.maxCode < (if n < 2 ^ f.m then n else ((q + f.m + f.bias).toNat - 1) * 2 ^ f.m + n))
      || (decide (f.maxCode = (if n < 2 ^ f.m then n else ((q + f.m + f.bias).toNat - 1) * 2 ^ f.m + n)) && inexact)
    let tooBig := if mode == .sr then exactOver else decide (f.maxCode < code)
    if tooBig then
      let flags := fOverflow ||| fInexact
      let big := f.signed s f.maxCode
      let infc := f.signed s f.infCode
      if sat || !f.inf then (big, flags)
      else
        match mode with
        | .rne => (infc, flags)
        | .rz => (big, flags)
        | .rd => (if s then infc else big, flags)
        | .ru => (if s then big else infc, flags)
        | .sr =>
          if f.maxCode < (if n < 2 ^ f.m then n else ((q + f.m + f.bias).toNat - 1) * 2 ^ f.m + n) then (infc, flags)
          else (if 65536 ≤ rem * 65536 / 2 ^ sh + r then infc else big, flags)
    else
      let tiny := decide (top < emin)
      (f.signed s code, fpsIf inexact fInexact ||| fpsIf (tiny && inexact) fUnderflow)

/-- R41: round to an integer: the magnitude and whether it is inexact. Ties go to the even integer. -/
def roundMag (mode : RMode) (r : Nat) (s : Bool) (m : Nat) (e : Int) : Nat × Bool :=
  let (n, rem, sh, _) := toUnits m e 0 false
  (if roundUp mode s (n % 2 == 1) rem sh r false then n + 1 else n, rem != 0)

/-! ### Exact sums -/

/-- A signed term ±m·2^e. -/
abbrev Term := Bool × Nat × Int

def Term.int (t : Term) (e : Int) : Int := (if t.1 then -1 else 1) * (t.2.1 * 2 ^ (t.2.2 - e).toNat : Nat)

/-- The least exponent of a list of terms; exponents of zero terms count for nothing. -/
def leastExp (ts : List Term) : Int :=
  match ts.filter (·.2.1 != 0) with
  | [] => 0
  | t :: r => r.foldl (fun m x => min m x.2.2) t.2.2

/-- R41: the exact sum of terms as one term; a zero sum takes the sign all terms share when they are all zeros, else
+0, or −0 under RD. -/
def sumTerms (mode : RMode) (ts : List Term) : Term :=
  let e := leastExp ts
  let n : Int := (ts.map fun t => if t.2.1 = 0 then (0 : Int) else Term.int t e).foldl (· + ·) 0
  if n = 0 then
    let allZero := ts.all (·.2.1 == 0)
    let s := if allZero && ts.all (·.1) then true
             else if allZero && ts.all (!·.1) then false
             else mode == .rd
    (s, 0, 0)
  else (decide (n < 0), n.natAbs, e)

/-- R36: the NaN result of sources: the first NaN made quiet; any signalling source sets invalid. -/
def FFmt.nanOf (f : FFmt) (xs : List Nat) : Option (Nat × Word) :=
  match xs.find? f.isNan with
  | none => none
  | some x => some (f.quiet x, fpsIf (xs.any f.isSnan) fInvalid)

/-- R36: an operation that produces a NaN from operands that are none. -/
def FFmt.invalid (f : FFmt) : Nat × Word := (f.nanCode, fInvalid)

/-- The infinities of a sum: `none` when there are none, NaN when they disagree. -/
def infSum (vs : List FNum) : Option (Option Bool) :=
  let is := vs.filterMap fun v => match v with | .inf s => some s | _ => none
  match is with
  | [] => none
  | s :: r => some (if r.all (· == s) then some s else none)

/-- The product of two values (no NaN): `none` for 0 × ∞. -/
def mulNum (a b : FNum) : Option FNum :=
  match a, b with
  | .num s m e, .num t n g => some (.num (s != t) (m * n) (e + g))
  | .inf s, .inf t => some (.inf (s != t))
  | .inf s, .num t n _ => if n = 0 then none else some (.inf (s != t))
  | .num s m _, .inf t => if m = 0 then none else some (.inf (s != t))
  | _, _ => none

def FNum.term : FNum → Term
  | .num s m e => (s, m, e)
  | _ => (false, 0, 0)

/-- Round the exact sum of values, none of them NaN. -/
def FFmt.roundSum (f : FFmt) (mode : RMode) (r : Nat) (vs : List FNum) : Nat × Word :=
  match infSum vs with
  | some (some s) => (f.signed s f.infCode, 0)
  | some none => f.invalid
  | none =>
    let t := sumTerms mode (vs.map FNum.term)
    roundF f mode false r t.1 t.2.1 t.2.2 false

/-- The value with its sign inverted. -/
def FNum.neg : FNum → FNum
  | .nan => .nan
  | .inf s => .inf (!s)
  | .num s m e => .num (!s) m e

/-- R102: fadd. -/
def FFmt.add (f : FFmt) (mode : RMode) (r a b : Nat) : Nat × Word :=
  match f.nanOf [a, b] with
  | some x => x
  | none => f.roundSum mode r [f.value a, f.value b]

/-- R102: fsub; a NaN operand keeps its own sign. -/
def FFmt.sub (f : FFmt) (mode : RMode) (r a b : Nat) : Nat × Word :=
  match f.nanOf [a, b] with
  | some x => x
  | none => f.roundSum mode r [f.value a, (f.value b).neg]

/-- R102: fmul. -/
def FFmt.mul (f : FFmt) (mode : RMode) (r a b : Nat) : Nat × Word :=
  match f.nanOf [a, b] with
  | some x => x
  | none =>
    match mulNum (f.value a) (f.value b) with
    | none => f.invalid
    | some (.num s m e) => roundF f mode false r s m e false
    | some v => f.roundSum mode r [v]

/-- R102, R105: fused multiply-add, one rounding. -/
def FFmt.fma (f : FFmt) (a b c : Nat) : Nat × Word :=
  match f.nanOf [a, b, c] with
  | some x => x
  | none =>
    match mulNum (f.value a) (f.value b) with
    | none => f.invalid
    | some p => f.roundSum .rne 0 [p, f.value c]

/-! ### Comparison, minimum and maximum (R102, R113) -/

/-- The order of two values that are no NaN, −0 equal to +0. -/
def cmpNum (a b : FNum) : Ordering :=
  match a, b with
  | .inf s, .inf t => compare (if s then 0 else 1) (if t then 0 else 1 : Nat)
  | .inf s, _ => if s then .lt else .gt
  | _, .inf t => if t then .gt else .lt
  | x, y =>
    let e := leastExp [x.term, y.term]
    compare (if x.term.2.1 = 0 then 0 else x.term.int e) (if y.term.2.1 = 0 then 0 else y.term.int e)

/-- R102: order with −0 below +0. -/
def FFmt.below (f : FFmt) (a b : Nat) : Bool :=
  match cmpNum (f.value a) (f.value b) with
  | .lt => true
  | .gt => false
  | .eq => f.sign a || !f.sign b

/-- R102: fmin and fmax. -/
def FFmt.minNum (f : FFmt) (max : Bool) (a b : Nat) : Nat × Word :=
  match f.isNan a, f.isNan b with
  | true, true => (f.nanOf [a, b]).getD (a, 0)
  | true, false => (b, fpsIf (f.isSnan a) fInvalid)
  | false, true => (a, fpsIf (f.isSnan b) fInvalid)
  | false, false => (if f.below a b != max then a else b, 0)

/-- R102: fminp and fmaxp. -/
def FFmt.minProp (f : FFmt) (max : Bool) (a b : Nat) : Nat × Word :=
  match f.nanOf [a, b] with
  | some x => x
  | none => (if f.below a b != max then a else b, 0)

/-! ### The other FP32 operations (R102) -/

/-- R102: round to an integral value; no status beyond a signalling NaN. -/
def frndF (mode : RMode) (r a : Nat) : Nat × Word :=
  match fp32.nanOf [a] with
  | some x => x
  | none =>
    match fp32.value a with
    | .num s m e => ((roundF fp32 .rne false 0 s (roundMag mode r s m e).1 0 false).1, 0)
    | _ => (a, 0)

/-- R102: fscale by an integer. -/
def fscaleF (mode : RMode) (r a : Nat) (k : Int) : Nat × Word :=
  match fp32.nanOf [a] with
  | some x => x
  | none =>
    match fp32.value a with
    | .num s m e => roundF fp32 mode false r s m (e + k) false
    | _ => (a, 0)

/-- A small integer as FP32, exactly. -/
def intF (n : Int) : Nat := (roundF fp32 .rne false 0 (decide (n < 0)) n.natAbs 0 false).1

/-- R102: fgetexp. -/
def fgetexpF (a : Nat) : Nat × Word :=
  match fp32.nanOf [a] with
  | some x => x
  | none =>
    match fp32.value a with
    | .num _ m e => if m = 0 then (fp32.signed true fp32.infCode, fDivzero) else (intF (e + (bitLen m : Int) - 1), 0)
    | _ => (fp32.infCode, 0)

/-- R102: fgetman. -/
def fgetmanF (a : Nat) : Nat × Word :=
  match fp32.nanOf [a] with
  | some x => x
  | none =>
    match fp32.value a with
    | .num s m _ => if m = 0 then (a, 0) else roundF fp32 .rne false 0 s m (1 - (bitLen m : Int)) false
    | _ => (a, 0)

/-! ### Special functions (R103, R104): exact truncations with a sticky bit, one rounding -/

/-- ⌊√n⌋ by bits: `k` bits still to decide. -/
def isqrtBits (n : Nat) : Nat → Nat → Nat
  | 0, r => r
  | k + 1, r => let c := r + 2 ^ k; if c * c ≤ n then isqrtBits n k c else isqrtBits n k r

/-- ⌊√n⌋. -/
def isqrt (n : Nat) : Nat := isqrtBits n (bitLen n / 2 + 1) 0

/-- R103, R104: fdiv. -/
def fdivF (a b : Nat) : Nat × Word :=
  match fp32.nanOf [a, b] with
  | some x => x
  | none =>
    let s := fp32.sign a != fp32.sign b
    match fp32.value a, fp32.value b with
    | .inf _, .inf _ => fp32.invalid
    | .inf _, _ => (fp32.signed s fp32.infCode, 0)
    | _, .inf _ => (fp32.signed s 0, 0)
    | .num _ m e, .num _ n g =>
      if n = 0 then (if m = 0 then fp32.invalid else (fp32.signed s fp32.infCode, fDivzero))
      else if m = 0 then (fp32.signed s 0, 0)
      else
        roundF fp32 .rne false 0 s (m * 2 ^ 64 / n) (e - g - 64) (m * 2 ^ 64 % n != 0)
    | _, _ => fp32.invalid

/-- R103, R104: frcp. -/
def frcpF (a : Nat) : Nat × Word :=
  match fp32.value a with
  | .num s m _ => if m = 0 then (fp32.signed s fp32.infCode, fDivzero) else fdivF (intF 1) a
  | .inf s => (fp32.signed s 0, 0)
  | .nan => (fp32.nanOf [a]).getD (a, 0)

/-- R103, R104: fsqrt. -/
def fsqrtF (a : Nat) : Nat × Word :=
  match fp32.value a with
  | .nan => (fp32.nanOf [a]).getD (a, 0)
  | .inf s => if s then fp32.invalid else (a, 0)
  | .num s m e =>
    if m = 0 then (a, 0)
    else if s then fp32.invalid
    else
      let odd := e % 2
      let n := m * 2 ^ odd.toNat * 2 ^ 80
      let r := isqrt n
      roundF fp32 .rne false 0 false r ((e - odd) / 2 - 40) (r * r != n)

/-- R103, R104: frsq. -/
def frsqF (a : Nat) : Nat × Word :=
  match fp32.value a with
  | .nan => (fp32.nanOf [a]).getD (a, 0)
  | .inf s => if s then fp32.invalid else (fp32.signed false 0, 0)
  | .num s m e =>
    if m = 0 then (fp32.signed s fp32.infCode, fDivzero)
    else if s then fp32.invalid
    else
      let odd := e % 2
      let n := m * 2 ^ odd.toNat
      let r := isqrt (2 ^ 160 / n)
      roundF fp32 .rne false 0 false r (-80 - (e - odd) / 2) (r * r * n != 2 ^ 160)

/-- ⌊ln 2 · 2^192⌋ and ⌊π · 2^448⌋. -/
def ln2Fix : Nat := 0xb17217f7d1cf79abc9e3b39803f2f6af40f343267298b62d
def piFix : Nat := 0x3243f6a8885a308d313198a2e03707344a4093822299f31d0082efa98ec4e6c89452821e638d01377be5466cf34e90c6cc0ac29b7c97c50dd

/-- e^x·2^p for x = X·2^-p in [0, 1), by the exponential series; short of the exact value by less than 2^10 units. -/
def expFix (p x : Nat) : Nat :=
  ((List.range 50).foldl (fun (acc : Nat × Nat) k => (acc.1 + acc.2, acc.2 * x / 2 ^ p / (k + 1))) (0, 2 ^ p)).1

/-- R103, R104: fexp2. The exact value is irrational unless a is an integer. -/
def fexp2F (a : Nat) : Nat × Word :=
  match fp32.value a with
  | .nan => (fp32.nanOf [a]).getD (a, 0)
  | .inf s => if s then (0, 0) else (a, 0)
  | .num s m e =>
    if m = 0 then (intF 1, 0)
    else if 8 < e + (bitLen m : Int) then
      (if s then roundF fp32 .rne false 0 false 1 (-400) true else roundF fp32 .rne false 0 false 1 400 false)
    else
      let p := 192
      let fix : Int := (if s then -1 else 1) * (if 0 ≤ e then m * 2 ^ e.toNat * 2 ^ p
        else if e.natAbs ≤ p then m * 2 ^ (p - e.natAbs) else m / 2 ^ (e.natAbs - p) : Nat)
      let k := fix / 2 ^ p
      let fr := (fix % 2 ^ p).toNat
      if fr = 0 ∧ (0 ≤ e ∨ (m % 2 ^ e.natAbs = 0)) then roundF fp32 .rne false 0 false 1 k false
      else roundF fp32 .rne false 0 false (expFix p (fr * ln2Fix / 2 ^ p) / 2 ^ 100) (k - 92) true

/-- The binary digits of log2 of x = X·2^-p in [1, 2): `n` digits, by squaring. -/
def log2Bits (p : Nat) : Nat → Nat → Nat → Nat
  | 0, _, acc => acc
  | n + 1, x, acc =>
    let y := x * x / 2 ^ p
    if 2 ^ (p + 1) ≤ y then log2Bits p n (y / 2) (2 * acc + 1) else log2Bits p n y (2 * acc)

/-- R103, R104: flog2. The exact value is irrational unless a is a power of two. -/
def flog2F (a : Nat) : Nat × Word :=
  match fp32.value a with
  | .nan => (fp32.nanOf [a]).getD (a, 0)
  | .inf s => if s then fp32.invalid else (a, 0)
  | .num s m e =>
    if m = 0 then (fp32.signed true fp32.infCode, fDivzero)
    else if s then fp32.invalid
    else
      let len := bitLen m
      let k : Int := e + (len : Int) - 1
      if m = 2 ^ (len - 1) then (intF k, 0)
      else
        let v : Int := k * 2 ^ 120 + ((log2Bits 300 120 (m * 2 ^ (300 - (len - 1))) 0 : Nat) : Int)
        if 0 ≤ v then roundF fp32 .rne false 0 false v.toNat (-120) true
        else roundF fp32 .rne false 0 true (-v - 1).toNat (-120) true

/-- sin and cos of y = Y·2^-p, |y| ≤ π/4 or so, by their series. -/
def sinFix (p : Nat) (y : Int) : Int :=
  let y2 := y * y / 2 ^ p
  ((List.range 45).foldl (fun (acc : Int × Int) k =>
    (acc.1 + acc.2, -(acc.2 * y2 / 2 ^ p) / ((2 * k + 2) * (2 * k + 3) : Nat))) (0, y)).1

def cosFix (p : Nat) (y : Int) : Int :=
  let y2 := y * y / 2 ^ p
  ((List.range 45).foldl (fun (acc : Int × Int) k =>
    (acc.1 + acc.2, -(acc.2 * y2 / 2 ^ p) / ((2 * k + 1) * (2 * k + 2) : Nat))) (0, 2 ^ p)).1

/-- R103: sine (or cosine) of a finite non-zero value, reduced by a multiple of π/2 held to 448 bits: sign, magnitude
in units of 2^-300, short of the exact magnitude by less than one unit more. -/
def trigFix (cosine : Bool) (s : Bool) (m : Nat) (e : Int) : Bool × Nat :=
  let p := 300
  let wide := 448
  let x : Nat := if 0 ≤ e then m * 2 ^ e.toNat * 2 ^ wide
    else if e.natAbs ≤ wide then m * 2 ^ (wide - e.natAbs) else m / 2 ^ (e.natAbs - wide)
  let half := piFix
  let n := (2 * x + half / 2) / half
  let y : Int := ((2 * x : Int) - (n * half : Nat)) / 2 ^ (wide + 1 - p)
  let q := (if cosine then n + 1 else n) % 4
  let v := match q with
    | 0 => sinFix p y
    | 1 => cosFix p y
    | 2 => -sinFix p y
    | _ => -cosFix p y
  let v := if s && !cosine then -v else v
  (decide (v < 0), v.natAbs - 1024)

/-- R103, R104: fsin and fcos. -/
def ftrigF (cosine : Bool) (a : Nat) : Nat × Word :=
  match fp32.value a with
  | .nan => (fp32.nanOf [a]).getD (a, 0)
  | .inf _ => fp32.invalid
  | .num s m e =>
    if m = 0 then (if cosine then intF 1 else a, 0)
    else
      let (sg, v) := trigFix cosine s m e
      roundF fp32 .rne false 0 sg v (-300) true

/-! ### Narrow formats (R37-R48, R52) -/

/-- R52: the levels of Q16N. -/
def q16Levels : List Int := [-127, -96, -74, -57, -43, -31, -20, -10, 0, 11, 24, 38, 54, 73, 97, 127]

/-- R40: the binary format of a narrow format code, if it is one. -/
def nfBinary : NFmt → Option FFmt
  | .bf16 => some fmtBf16
  | .f16 => some fmtF16
  | .e4m3 => some fmtE4m3
  | .e5m2 => some fmtE5m2
  | .e3m2 => some fmtE3m2
  | .e2m3 => some fmtE2m3
  | .e2m1 => some fmtE2m1
  | _ => none

/-- R38: code width and field width. -/
def nfWidth : NFmt → Nat
  | .bf16 => 16 | .f16 => 16
  | .e4m3 => 8 | .e5m2 => 8 | .i8 => 8 | .n8 => 8
  | .e3m2 => 6 | .e2m3 => 6
  | .e2m1 => 4 | .i4 => 4 | .n4 => 4 | .q16n => 4
  | .t2 => 2

def nfField (f : NFmt) : Nat :=
  match nfWidth f with
  | 16 => 16
  | 8 => 8
  | 6 => 8
  | _ => 4

/-- R40: the format code, as R46 holds it. -/
def nfCode (f : NFmt) : Nat := (encNFmt f).toNat

/-- R37: the range of an integer format. -/
def nfRange : NFmt → Int × Int
  | .i8 => (-128, 127)
  | .n8 => (0, 255)
  | .i4 => (-8, 7)
  | .n4 => (0, 15)
  | _ => (0, 0)

/-- R34, R37: a NaN code of the format. -/
def nfIsNan (f : NFmt) (c : Nat) : Bool :=
  match nfBinary f with
  | some b => b.isNan c
  | none => f == .t2 && c == 2

/-- R46: the marked NaN of a NaN code. -/
def markedNan (f : NFmt) (c : Nat) : Nat :=
  let s := match nfBinary f with | some b => b.sign c | none => false
  fp32.signed s (0x7FE00000 + nfCode f * 2 ^ 17 + c)

/-- R45: the FP32 code of a narrow code, exactly. -/
def upkF (f : NFmt) (c : Nat) : Nat :=
  if nfIsNan f c then markedNan f c
  else
    match nfBinary f with
    | some b =>
      match b.value c with
      | .inf s => fp32.signed s fp32.infCode
      | .num s m e => (roundF fp32 .rne false 0 s m e false).1
      | .nan => markedNan f c
    | none =>
      match f with
      | .i8 => intF (BitVec.ofNat 8 c).toInt
      | .i4 => intF (BitVec.ofNat 4 c).toInt
      | .t2 => intF (if c = 1 then 1 else if c = 3 then -1 else 0)
      | .q16n => intF (q16Levels.getD c 0)
      | _ => intF c

/-- R43: an integer result: the rounded integer settled in a range. R43 says when a value `exceeds` an FP or integer target
alone; a value for .t2 exceeds its range here when its rounded value does, which is the model's choice (log 144). -/
def settleInt (lo hi n : Int) (inexact sat : Bool) : Int × Word :=
  if lo ≤ n ∧ n ≤ hi then (n, fpsIf inexact fInexact)
  else if sat then (if n < lo then lo else hi, fOverflow ||| fInexact)
  else (n, fInvalid ||| fInexact)

/-- R47, R43: a finite value into an integer type of given range. -/
def finiteToInt (lo hi : Int) (mode : RMode) (sat : Bool) (r : Nat) (s : Bool) (m : Nat) (e : Int) : Int × Word :=
  let (n, ix) := roundMag mode r s m (min e 80)
  if 80 < e ∧ m ≠ 0 then
    (if sat then (if s then lo else hi, fOverflow ||| fInexact) else (0, fInvalid ||| fInexact))
  else settleInt lo hi (if s then -(n : Int) else n) ix sat

/-- R52, R42: a finite value among rising levels: the index chosen. A value exceeds the range of Q16N when it lies beyond
the last level before it is rounded: R43 does not say, and this is the model's choice (log 144). -/
def nearLevel (levels : List Int) (mode : RMode) (r : Nat) (s : Bool) (m : Nat) (e : Int) : Nat × Word :=
  let e' := min e 40
  let sc : Nat := if e' < 0 then 2 ^ min e'.natAbs 200 else 1
  let mag : Nat := if 0 ≤ e' then m * 2 ^ e'.toNat else if e'.natAbs ≤ 200 then m else 1
  let x : Int := (if s then -1 else 1) * mag
  let n := levels.length
  let idx := (List.range n).filter fun k => decide ((levels.getD k 0) * sc ≤ x)
  if x < levels.getD 0 0 * sc then (0, fOverflow ||| fInexact)
  else if levels.getD (n - 1) 0 * sc < x then (n - 1, fOverflow ||| fInexact)
  else
    let k := idx.length - 1
    let lo := levels.getD k 0 * sc
    let hi := levels.getD (k + 1) 0 * sc
    if x = lo ∧ (e'.natAbs ≤ 200 ∨ 0 ≤ e' ∨ m = 0) then (k, 0)
    else
      let up := match mode with
        | .rne => decide (hi - x < x - lo) || (hi - x == x - lo && k % 2 == 1)
        | .rz => decide (x < 0)
        | .rd => false
        | .ru => true
        | .sr => decide (65536 ≤ (x - lo) * 65536 / (hi - lo) + r)
      (if up then k + 1 else k, fInexact)

/-- R47: the narrow code of an FP32 value. A marked NaN (R46) gives its code back whatever its bit 31, which is the model's
choice (log 145). -/
def pkF (f : NFmt) (mode : RMode) (sat : Bool) (r v : Nat) : Nat × Word :=
  let code := v % 65536
  let marked := v / 2 ^ 21 % 1024 == 0x3FF && v / 2 ^ 17 % 16 == nfCode f && v / 65536 % 2 == 0
    && decide (code < 2 ^ nfWidth f) && nfIsNan f code
  if marked then (code, 0)
  else if fp32.isNan v then
    match nfBinary f with
    | some b => if b.hasNan then (b.nanCode, fpsIf (fp32.isSnan v) fInvalid) else (0, fInvalid)
    | none =>
      match f with
      | .t2 => (2, fpsIf (fp32.isSnan v) fInvalid)
      | .q16n => (8, fInvalid)
      | _ => (0, fInvalid)
  else
    match nfBinary f with
    | some b =>
      match fp32.value v with
      | .inf s => if b.inf then (b.signed s b.infCode, 0) else (b.signed s b.maxCode, fInvalid)
      | .num s m e => roundF b mode sat r s m e false
      | .nan => (0, 0)
    | none =>
      match fp32.value v with
      | .nan => (0, 0)
      | .inf s =>
        match f with
        | .t2 => (if s then 3 else 1, fInvalid)
        | .q16n => (if s then 0 else 15, fInvalid)
        | _ => ((BitVec.ofInt (nfWidth f) (if s then (nfRange f).1 else (nfRange f).2)).toNat, fInvalid)
      | .num s m e =>
        match f with
        | .t2 =>
          let (n, fl) := finiteToInt (-1) 1 mode true r s m e
          (if n = 0 then 0 else if n = 1 then 1 else 3, fl)
        | .q16n => nearLevel q16Levels mode r s m e
        | _ =>
          let (n, fl) := finiteToInt (nfRange f).1 (nfRange f).2 mode sat r s m e
          ((BitVec.ofInt (nfWidth f) n).toNat, fl)

/-- R110: FP32 into a 32-bit integer. -/
def cvtToInt (lo hi : Int) (mode : RMode) (sat : Bool) (r a : Nat) : Word × Word :=
  match fp32.value a with
  | .nan => (0, fInvalid)
  | .inf s => (BitVec.ofInt 32 (if s then lo else hi), fInvalid)
  | .num s m e =>
    let (n, fl) := finiteToInt lo hi mode sat r s m (min e 200)
    if 80 < e ∧ m ≠ 0 ∧ !sat then (0, fInvalid ||| fInexact) else (BitVec.ofInt 32 n, fl)

/-- R109: an integer as FP32. -/
def cvtFromInt (mode : RMode) (r : Nat) (n : Int) : Nat × Word :=
  roundF fp32 mode false r (decide (n < 0)) n.natAbs 0 false

/-- R106: the dot product of two packed pairs plus an FP32 value, one rounding. Of a quiet first NaN before a signalling one
R106 sets no invalid where R44 would: the model follows R106, its choice (log 143). -/
def hdotF (f : FFmt) (a b c : Nat) : Nat × Word :=
  let h := [a % 65536, a / 65536 % 65536, b % 65536, b / 65536 % 65536]
  let widen (x : Nat) : Nat :=
    let q := f.quiet x
    if f.m = 7 then q * 65536 else fp32.signed (f.sign q) (0x7F800000 + f.manField q * 2 ^ 13)
  match h.find? f.isNan with
  | some x => (widen x, fpsIf (f.isSnan x) fInvalid)
  | none =>
    if fp32.isNan c then (fp32.quiet c, fpsIf (fp32.isSnan c) fInvalid)
    else
      match mulNum (f.value (h.getD 0 0)) (f.value (h.getD 2 0)), mulNum (f.value (h.getD 1 0)) (f.value (h.getD 3 0)) with
      | some p, some q => fp32.roundSum .rne 0 [p, q, fp32.value c]
      | _, _ => fp32.invalid

/-! ### Words -/

/-- A 32-bit result from a code and its status. -/
def fw (r : Nat × Word) : Word × Word := (BitVec.ofNat 32 r.1, r.2)

def fadd32 (mode : RMode) (r : Nat) (a b : Word) : Word × Word := fw (fp32.add mode r a.toNat b.toNat)
def fsub32 (mode : RMode) (r : Nat) (a b : Word) : Word × Word := fw (fp32.sub mode r a.toNat b.toNat)
def fmul32 (mode : RMode) (r : Nat) (a b : Word) : Word × Word := fw (fp32.mul mode r a.toNat b.toNat)

/-- R105: an operation on each half of packed pairs, status ORed. -/
def packed2 (op : Nat → Nat → Nat × Word) (a b : Word) : Word × Word :=
  let lo := op (a.toNat % 65536) (b.toNat % 65536)
  let hi := op (a.toNat / 65536) (b.toNat / 65536)
  (BitVec.ofNat 32 (hi.1 * 65536 + lo.1), lo.2 ||| hi.2)

def packed3 (op : Nat → Nat → Nat → Nat × Word) (a b c : Word) : Word × Word :=
  let lo := op (a.toNat % 65536) (b.toNat % 65536) (c.toNat % 65536)
  let hi := op (a.toNat / 65536) (b.toNat / 65536) (c.toNat / 65536)
  (BitVec.ofNat 32 (hi.1 * 65536 + lo.1), lo.2 ||| hi.2)

end Sys2Proof.Machine
end

