-- ==== Sys2Proof/Machine/IntAlu.lean ====
section
/-! DEFINITION. The integer block and the 64-bit pair block (04_thread_instructions R93-R100). -/

namespace Sys2Proof.Machine

open Sys2Proof

/-! ### Shapes -/

/-- The `LaneOut` of an ALU result written through R65. -/
def aluOut (i : Issue) (t : Thread) (d : Dst) (w fps : Word) : Except Word LaneOut := do
  let (us, h) ← i.dst t d w
  .ok { LaneOut.nil with upds := us, latch := [(w, h)], fps := fps }

/-- Two sources, one result. -/
def alu2 (ins : Instr) (d : Dst) (a b : SrcD) (f : Word → Word → Word) (s : State) : Host.Outcome State Fault Refusal :=
  aluWord ins s fun i l t => do
    let x ← i.src l t a.sel
    let y ← i.src l t b.sel
    aluOut i t d (f x y) 0

/-- One source, one result. -/
def alu1 (ins : Instr) (d : Dst) (a : SrcD) (f : Word → Word) (s : State) : Host.Outcome State Fault Refusal :=
  aluWord ins s fun i l t => do
    let x ← i.src l t a.sel
    aluOut i t d (f x) 0

/-- Three sources, one result. -/
def alu3 (ins : Instr) (d : Dst) (a b : SrcD) (c : SrcC) (f : Word → Word → Word → Word) (s : State) :
    Host.Outcome State Fault Refusal :=
  aluWord ins s fun i l t => do
    let x ← i.src l t a.sel
    let y ← i.src l t b.sel
    let z ← rdC t c
    aluOut i t d (f x y z) 0

/-- R99, R22: the `LaneOut` of a 64-bit result; the chain shifts twice, low half first. -/
def pairOut (d : PDst) (x : DWord) : LaneOut :=
  let lo := x.extractLsb' 0 32
  let hi := x.extractLsb' 32 32
  match d with
  | .v n =>
    { LaneOut.nil with upds := pairUpds (2 * n.val) x,
                       latch := [(lo, some (.v (2 * n.val))), (hi, some (.v (2 * n.val + 1)))] }
  | .latch => { LaneOut.nil with latch := [(lo, none), (hi, none)] }

/-- Two 64-bit sources. -/
def alu64 (ins : Instr) (d : PDst) (a b : PSrcD) (f : DWord → DWord → DWord) (s : State) :
    Host.Outcome State Fault Refusal :=
  aluWord ins s fun i _ t => .ok (pairOut d (f (i.psrc t a.sel) (i.psrc t b.sel)))

/-- A 64-bit source and a shift amount. -/
def alu64s (ins : Instr) (d : PDst) (a : PSrcD) (n : SrcD) (f : DWord → Nat → DWord) (s : State) :
    Host.Outcome State Fault Refusal :=
  aluWord ins s fun i l t => do
    let k ← i.src l t n.sel
    .ok (pairOut d (f (i.psrc t a.sel) k.toNat))

/-- A Long-class result of two sources: the landing updates and status (R91). -/
def long2 (ins : Instr) (d : Dst) (a b : SrcD) (f : Word → Word → Word × Word) (s : State) :
    Host.Outcome State Fault Refusal :=
  longWord ins s fun i l t => do
    let x ← i.src l t a.sel
    let y ← i.src l t b.sel
    let r := f x y
    let (us, _) ← i.dst t d r.1
    .ok (us, r.2)

/-- A Long-class result of one source. -/
def long1 (ins : Instr) (d : Dst) (a : SrcD) (f : Word → Word × Word) (s : State) : Host.Outcome State Fault Refusal :=
  longWord ins s fun i l t => do
    let x ← i.src l t a.sel
    let r := f x
    let (us, _) ← i.dst t d r.1
    .ok (us, r.2)

/-! ### Values (R93-R100) -/

/-- R12: clamp to .i32. -/
def satI32 (x : Int) : Word :=
  if x < -2147483648 then 0x80000000#32 else if 2147483647 < x then 0x7FFFFFFF#32 else BitVec.ofInt 32 x

/-- R93: high halves of products. -/
def mulhiS (a b : Word) : Word := BitVec.ofInt 32 (a.toInt * b.toInt / 2 ^ 32)
def mulhiU (a b : Word) : Word := BitVec.ofNat 32 (a.toNat * b.toNat / 2 ^ 32)

def minS (a b : Word) : Word := if a.toInt ≤ b.toInt then a else b
def maxS (a b : Word) : Word := if a.toInt ≤ b.toInt then b else a
def minU (a b : Word) : Word := if a.toNat ≤ b.toNat then a else b
def maxU (a b : Word) : Word := if a.toNat ≤ b.toNat then b else a

/-- R93: |int(a)| mod 2^32. -/
def absW (a : Word) : Word := if a.toInt < 0 then 0 - a else a

def shlW (a b : Word) : Word := if b.toNat < 32 then a <<< b.toNat else 0
def shrW (a b : Word) : Word := if b.toNat < 32 then a >>> b.toNat else 0
def sarW (a b : Word) : Word := BitVec.sshiftRight a (min b.toNat 31)
def rotlW (a b : Word) : Word := a.rotateLeft (b.toNat % 32)

/-- R93: the number of 1 bits. -/
def popcW (a : Word) : Word := BitVec.ofNat 32 ((List.range 32).filter (fun k => a.getLsbD k)).length

/-- R93: the number of 0 bits above the highest 1 bit. -/
def clzW (a : Word) : Word := BitVec.ofNat 32 ((List.range 32).takeWhile (fun k => !a.getLsbD (31 - k))).length

/-- A word from its bits. -/
def wordOfBits (f : Nat → Bool) : Word :=
  BitVec.ofNat 32 ((List.range 32).foldl (fun acc k => acc + (if f k then 2 ^ k else 0)) 0)

/-- R93: bit i of the result is bit 31 - i of a. -/
def brevW (a : Word) : Word := wordOfBits fun k => a.getLsbD (31 - k)

/-- R94: position and length of a bit field. -/
def fieldPos (b : Word) : Nat := (b.extractLsb' 0 8).toNat
def fieldLen (b : Word) : Nat := min (b.extractLsb' 8 8).toNat 32

/-- R94. -/
def bfeW (signed : Bool) (a b : Word) : Word :=
  let pos := fieldPos b
  let len := fieldLen b
  let hi := signed && a.getLsbD 31
  let fieldBit := fun k => if pos + k ≤ 31 then a.getLsbD (pos + k) else hi
  if len = 0 then 0
  else wordOfBits fun k => if k < len then fieldBit k else signed && fieldBit (len - 1)

/-- R95. -/
def bfiW (a b c : Word) : Word :=
  let pos := fieldPos b
  let len := fieldLen b
  wordOfBits fun k => if pos ≤ k ∧ k < pos + len then a.getLsbD (k - pos) else c.getLsbD k

/-- R96: byte k of the result. -/
def bselByte (a b c : Word) (k : Nat) : Byte :=
  let n := (c.toNat / 2 ^ (3 * k)) % 8
  let byte : Byte := if n < 4 then a.extractLsb' (8 * n) 8 else b.extractLsb' (8 * (n - 4)) 8
  if c.getLsbD (12 + k) then 0
  else if c.getLsbD (16 + k) then (if byte.getLsbD 7 then 0xFF#8 else 0)
  else byte

/-- R96. -/
def bselW (a b c : Word) : Word := bselByte a b c 3 ++ bselByte a b c 2 ++ bselByte a b c 1 ++ bselByte a b c 0

/-- R98: quotient and remainder of exact integers A and B. -/
def divRem (a b : Int) (dividend : Word) (signed : Bool) : Word × Word :=
  if b = 0 then (0xFFFFFFFF#32, dividend)
  else if signed ∧ a = -2147483648 ∧ b = -1 then (0x80000000#32, 0)
  else (BitVec.ofInt 32 (a.tdiv b), BitVec.ofInt 32 (a - b * a.tdiv b))

def divRemS (a b : Word) : Word × Word := divRem a.toInt b.toInt a true
def divRemU (a b : Word) : Word × Word := divRem a.toNat b.toNat a false

/-! ### The integer block (R93-R97) -/

def execAdd (d : Dst) (a b : SrcD) (s : State) := alu2 (.add d a b) d a b (· + ·) s
def execSub (d : Dst) (a b : SrcD) (s : State) := alu2 (.sub d a b) d a b (· - ·) s
def execAddSatI32 (d : Dst) (a b : SrcD) (s : State) :=
  alu2 (.addSatI32 d a b) d a b (fun x y => satI32 (x.toInt + y.toInt)) s
def execSubSatI32 (d : Dst) (a b : SrcD) (s : State) :=
  alu2 (.subSatI32 d a b) d a b (fun x y => satI32 (x.toInt - y.toInt)) s
def execMul (d : Dst) (a b : SrcD) (s : State) := alu2 (.mul d a b) d a b (· * ·) s
def execMulhiI32 (d : Dst) (a b : SrcD) (s : State) := alu2 (.mulhiI32 d a b) d a b mulhiS s
def execMulhiN32 (d : Dst) (a b : SrcD) (s : State) := alu2 (.mulhiN32 d a b) d a b mulhiU s
def execMad (d : Dst) (a b : SrcD) (x : SrcC) (s : State) := alu3 (.mad d a b x) d a b x (fun a b c => a * b + c) s
def execMinI32 (d : Dst) (a b : SrcD) (s : State) := alu2 (.minI32 d a b) d a b minS s
def execMinN32 (d : Dst) (a b : SrcD) (s : State) := alu2 (.minN32 d a b) d a b minU s
def execMaxI32 (d : Dst) (a b : SrcD) (s : State) := alu2 (.maxI32 d a b) d a b maxS s
def execMaxN32 (d : Dst) (a b : SrcD) (s : State) := alu2 (.maxN32 d a b) d a b maxU s
def execAbsI32 (d : Dst) (a : SrcD) (s : State) := alu1 (.absI32 d a) d a absW s
def execNeg (d : Dst) (a : SrcD) (s : State) := alu1 (.neg d a) d a (fun x => 0 - x) s
def execAnd (d : Dst) (a b : SrcD) (s : State) := alu2 (.and d a b) d a b (· &&& ·) s
def execOr (d : Dst) (a b : SrcD) (s : State) := alu2 (.or d a b) d a b (· ||| ·) s
def execXor (d : Dst) (a b : SrcD) (s : State) := alu2 (.xor d a b) d a b (· ^^^ ·) s
def execAndn (d : Dst) (a b : SrcD) (s : State) := alu2 (.andn d a b) d a b (fun x y => x &&& ~~~y) s
def execNot (d : Dst) (a : SrcD) (s : State) := alu1 (.not d a) d a (~~~ ·) s
def execShl (d : Dst) (a b : SrcD) (s : State) := alu2 (.shl d a b) d a b shlW s
def execShr (d : Dst) (a b : SrcD) (s : State) := alu2 (.shr d a b) d a b shrW s
def execSar (d : Dst) (a b : SrcD) (s : State) := alu2 (.sar d a b) d a b sarW s
def execRotl (d : Dst) (a b : SrcD) (s : State) := alu2 (.rotl d a b) d a b rotlW s
def execPopc (d : Dst) (a : SrcD) (s : State) := alu1 (.popc d a) d a popcW s
def execClz (d : Dst) (a : SrcD) (s : State) := alu1 (.clz d a) d a clzW s
def execBrev (d : Dst) (a : SrcD) (s : State) := alu1 (.brev d a) d a brevW s
def execBfeN32 (d : Dst) (a b : SrcD) (s : State) := alu2 (.bfeN32 d a b) d a b (bfeW false) s
def execBfeI32 (d : Dst) (a b : SrcD) (s : State) := alu2 (.bfeI32 d a b) d a b (bfeW true) s
def execBfi (d : Dst) (a b : SrcD) (x : SrcC) (s : State) := alu3 (.bfi d a b x) d a b x bfiW s
def execBsel (d : Dst) (a b : SrcD) (x : SrcC) (s : State) := alu3 (.bsel d a b x) d a b x bselW s

/-- R97. -/
def execSel (d : Dst) (a b : SrcD) (q : PCode) (s : State) : Host.Outcome State Fault Refusal :=
  aluWord (.sel d a b q) s fun i l t => do
    let x ← i.src l t a.sel
    let y ← i.src l t b.sel
    aluOut i t d (if pcode t q then x else y) 0

def execMov (d : Dst) (a : SrcD) (s : State) := alu1 (.mov d a) d a id s

/-! ### Division (R98) -/

def execDivI32 (d : Dst) (a b : SrcD) (s : State) := long2 (.divI32 d a b) d a b (fun x y => ((divRemS x y).1, 0)) s
def execDivN32 (d : Dst) (a b : SrcD) (s : State) := long2 (.divN32 d a b) d a b (fun x y => ((divRemU x y).1, 0)) s
def execRemI32 (d : Dst) (a b : SrcD) (s : State) := long2 (.remI32 d a b) d a b (fun x y => ((divRemS x y).2, 0)) s
def execRemN32 (d : Dst) (a b : SrcD) (s : State) := long2 (.remN32 d a b) d a b (fun x y => ((divRemU x y).2, 0)) s

/-! ### The 64-bit pair block (R100) -/

def execAdd64 (d : PDst) (a b : PSrcD) (s : State) := alu64 (.add64 d a b) d a b (· + ·) s
def execSub64 (d : PDst) (a b : PSrcD) (s : State) := alu64 (.sub64 d a b) d a b (· - ·) s
def execMul64 (d : PDst) (a b : PSrcD) (s : State) := alu64 (.mul64 d a b) d a b (· * ·) s
def execShl64 (d : PDst) (a : PSrcD) (n : SrcD) (s : State) :=
  alu64s (.shl64 d a n) d a n (fun x k => if k < 64 then x <<< k else 0) s
def execSrl64 (d : PDst) (a : PSrcD) (n : SrcD) (s : State) :=
  alu64s (.srl64 d a n) d a n (fun x k => if k < 64 then x >>> k else 0) s
def execSra64 (d : PDst) (a : PSrcD) (n : SrcD) (s : State) :=
  alu64s (.sra64 d a n) d a n (fun x k => BitVec.sshiftRight x (min k 63)) s

end Sys2Proof.Machine
end

