-- ==== Sys2Proof/Machine/Predicates.lean ====
section
/-! DEFINITION. The compare and predicate block (04_thread_instructions R112-R115, R92). -/

namespace Sys2Proof.Machine

open Sys2Proof

/-- A comparison of two 32-bit sources. -/
def setp32 (ins : Instr) (p : Fin 7) (a b : SrcD) (f : Word → Word → Bool × Word) (s : State) :
    Host.Outcome State Fault Refusal :=
  predWord ins s fun i l t => do
    let x ← i.src l t a.sel
    let y ← i.src l t b.sel
    let r := f x y
    .ok { LaneOut.nil with upds := [.p p r.1], fps := r.2 }

/-- A comparison of two 64-bit sources. -/
def setp64 (ins : Instr) (p : Fin 7) (a b : PSrcD) (f : DWord → DWord → Bool) (s : State) :
    Host.Outcome State Fault Refusal :=
  predWord ins s fun i _ t => .ok { LaneOut.nil with upds := [.p p (f (i.psrc t a.sel) (i.psrc t b.sel))] }

/-- R113: the FP32 comparison and its status. -/
def fcmpW (q : FCond) (a b : Word) : Bool × Word :=
  let un := fp32.isNan a.toNat || fp32.isNan b.toNat
  let sig := fp32.isSnan a.toNat || fp32.isSnan b.toNat
  (fcondHolds q un (cmpNum (fp32.value a.toNat) (fp32.value b.toNat)), fpsIf (sig || (un && fcondSignals q)) fInvalid)

def execSetpI32 (p : Fin 7) (a b : SrcD) (q : Cond) (s : State) :=
  setp32 (.setpI32 p a b q) p a b (fun x y => (condHolds q (asSigned x) (asSigned y), 0)) s
def execSetpN32 (p : Fin 7) (a b : SrcD) (q : Cond) (s : State) :=
  setp32 (.setpN32 p a b q) p a b (fun x y => (condHolds q (asUnsigned x) (asUnsigned y), 0)) s
def execSetpF32 (p : Fin 7) (a b : SrcD) (q : FCond) (s : State) := setp32 (.setpF32 p a b q) p a b (fcmpW q) s
def execSetpI64 (p : Fin 7) (a b : PSrcD) (q : Cond) (s : State) :=
  setp64 (.setpI64 p a b q) p a b (fun x y => condHolds q (asSigned x) (asSigned y)) s
def execSetpN64 (p : Fin 7) (a b : PSrcD) (q : Cond) (s : State) :=
  setp64 (.setpN64 p a b q) p a b (fun x y => condHolds q (asUnsigned x) (asUnsigned y)) s

/-- R114: predicate logic. -/
def plogic (ins : Instr) (p : Fin 7) (f : Thread → Bool) (s : State) : Host.Outcome State Fault Refusal :=
  predWord ins s fun _ _ t => .ok { LaneOut.nil with upds := [.p p (f t)] }

def execPand (p : Fin 7) (q1 q2 : PCode) (s : State) := plogic (.pand p q1 q2) p (fun t => pcode t q1 && pcode t q2) s
def execPor (p : Fin 7) (q1 q2 : PCode) (s : State) := plogic (.por p q1 q2) p (fun t => pcode t q1 || pcode t q2) s
def execPxor (p : Fin 7) (q1 q2 : PCode) (s : State) := plogic (.pxor p q1 q2) p (fun t => pcode t q1 != pcode t q2) s
def execPnot (p : Fin 7) (q1 : PCode) (s : State) := plogic (.pnot p q1) p (fun t => !pcode t q1) s

/-- R115. -/
def execV2p (m : BitVec 7) (a : SrcD) (s : State) : Host.Outcome State Fault Refusal :=
  predWord (.v2p m a) s fun i l t => do
    let x ← i.src l t a.sel
    .ok { LaneOut.nil with
          upds := (List.finRange 7).filterMap fun k => if m.getLsbD k.val then some (.p k (x.getLsbD k.val)) else none }

/-- R115: the predicates as bits 6-0. -/
def predBits (t : Thread) : Word := wordOfBits fun k => decide (k < 7) && flagAt t.p k

/-- R115, R90: p2v is a Predicate-class word whose register result performs 4 cc after issue and leaves the latches
alone. -/
def execP2v (d : Dst) (s : State) : Host.Outcome State Fault Refusal :=
  laneWord (.p2v d) .alu aluLatency s fun i _ t => do
    let (us, _) ← i.dst t d (predBits t)
    .ok { LaneOut.nil with upds := us }

end Sys2Proof.Machine
end

