-- ==== Sys2Proof/Machine/CapInstr.lean ====
section
/-! DEFINITION. The capability block (05_capabilities_memory R131-R140). -/

namespace Sys2Proof.Machine

open Sys2Proof

/-- R131: a capability word with a register result, 4 cc after issue, the latches untouched. -/
def capWord (ins : Instr) (s : State) (f : Issue → Nat → Thread → Except Word (List Upd)) :
    Host.Outcome State Fault Refusal :=
  laneWord ins .alu aluLatency s fun i l t => do .ok { LaneOut.nil with upds := ← f i l t }

/-- A query with a 64-bit result (R132). -/
def capQuery (ins : Instr) (d : Fin 64) (b : CapSel) (f : Cap → DWord) (s : State) : Host.Outcome State Fault Refusal :=
  capWord ins s fun i _ t => .ok (pairUpds (2 * d.val) (f (i.cap t b)))

/-- A query with a 32-bit result (R132). -/
def capQuery32 (ins : Instr) (d : Dst) (b : CapSel) (f : Cap → Word) (s : State) : Host.Outcome State Fault Refusal :=
  capWord ins s fun i _ t => do .ok (← i.dst t d (f (i.cap t b))).1

/-- A capability made from one capability and a 64-bit value. -/
def capFrom (ins : Instr) (d b : CapSel) (x : PSrc) (f : Cap → DWord → Except Word Cap) (s : State) :
    Host.Outcome State Fault Refusal :=
  capWord ins s fun i _ t => do .ok [capUpd d (← f (i.cap t b) (i.psrc t x))]

/-- A capability made from two capabilities. -/
def capFrom2 (ins : Instr) (d b x : CapSel) (f : Cap → Cap → Except Word Cap) (s : State) :
    Host.Outcome State Fault Refusal :=
  capWord ins s fun i _ t => do .ok [capUpd d (← f (i.cap t b) (i.cap t x))]

/-- R132: a length of 2^64 reads as all ones. -/
def capLen (c : Cap) : DWord := if c.length = 2 ^ 64 then 0 - 1 else BitVec.ofNat 64 c.length

def execCapAddr (d : Fin 64) (b : CapSel) (s : State) := capQuery (.capAddr d b) d b Cap.addr s
/-- R132: of the base of an untagged pattern at 2^64 or above (R124) the model gives the low 64 bits, its choice
(log 146). -/
def execCapBase (d : Fin 64) (b : CapSel) (s : State) :=
  capQuery (.capBase d b) d b (fun c => BitVec.ofNat 64 c.decode.1) s
def execCapLen (d : Fin 64) (b : CapSel) (s : State) := capQuery (.capLen d b) d b capLen s
def execCapPerm (d : Dst) (b : CapSel) (s : State) :=
  capQuery32 (.capPerm d b) d b (fun c => BitVec.ofNat 32 (c.perms.toNat + 65536 * c.space)) s
def execCapType (d : Dst) (b : CapSel) (s : State) := capQuery32 (.capType d b) d b (fun c => BitVec.ofNat 32 c.otype) s
def execCapTag (d : Dst) (b : CapSel) (s : State) := capQuery32 (.capTag d b) d b (fun c => if c.tag then 1 else 0) s

/-- R133: a tagged, sealed capability does not move. -/
def capSetAddr (c : Cap) (n : DWord) : Except Word Cap := if c.tag ∧ c.otype ≠ 0 then .error cCapseal else .ok (c.move n)

def execCapSeta (d b : CapSel) (x : PSrc) (s : State) := capFrom (.capSeta d b x) d b x capSetAddr s
def execCapAdd (d b : CapSel) (x : PSrc) (s : State) :=
  capFrom (.capAdd d b x) d b x (fun c n => capSetAddr c (c.addr + n)) s
def execCapBound (d b : CapSel) (x : PSrc) (s : State) :=
  capFrom (.capBound d b x) d b x (fun c n => c.bound n.toNat false) s
def execCapBoundx (d b : CapSel) (x : PSrc) (s : State) :=
  capFrom (.capBoundx d b x) d b x (fun c n => c.bound n.toNat true) s

/-- R136. -/
def capMaskOf (c : Cap) (m : Word) : Except Word Cap :=
  if c.tag ∧ c.otype ≠ 0 then .error cCapseal else .ok (c.withPerms (c.perms &&& (m.extractLsb' 0 16 &&& 0x3FFF#16)))

def execCapMask (d b : CapSel) (m : Src) (s : State) : Host.Outcome State Fault Refusal :=
  capWord (.capMask d b m) s fun i l t => do
    let x ← i.src l t m
    .ok [capUpd d (← capMaskOf (i.cap t b) x)]

/-- R137. -/
def capSealBy (c cs : Cap) : Except Word Cap :=
  let a := cs.addr.toNat
  if !c.tag || !cs.tag then .error cCaptag
  else if c.otype ≠ 0 ∨ cs.otype ≠ 0 then .error cCapseal
  else if ¬ cs.has pSL ∨ a < 64 ∨ 16383 < a then .error cCapperm
  else if a < cs.decode.1 ∨ cs.decode.2 ≤ a then .error cCapbound
  else .ok (c.withOtype a)

/-- R138. -/
def capUnsealBy (c cs : Cap) : Except Word Cap :=
  let a := cs.addr.toNat
  if !c.tag || !cs.tag then .error cCaptag
  else if c.otype < 64 ∨ cs.otype ≠ 0 ∨ a ≠ c.otype then .error cCapseal
  else if ¬ cs.has pUS then .error cCapperm
  else if a < cs.decode.1 ∨ cs.decode.2 ≤ a then .error cCapbound
  else .ok ((c.withOtype 0).withPerms (if cs.has pGL then c.perms else c.perms &&& ~~~pGL))

/-- R140. -/
def capMintBy (ca cp : Cap) : Except Word Cap :=
  if !ca.tag then .error cCaptag
  else if ca.otype ≠ 0 ∨ cp.otype ≠ 0 then .error cCapseal
  else if !cp.wellFormed then .error cCaprep
  else if cp.space ≠ ca.space ∨ ¬ ca.has cp.perms then .error cCapperm
  else if cp.decode.1 < ca.decode.1 ∨ ca.decode.2 < cp.decode.2 then .error cCapbound
  else .ok { cp with tag := true }

def execCapSeal (d b x : CapSel) (s : State) := capFrom2 (.capSeal d b x) d b x capSealBy s
def execCapUnseal (d b x : CapSel) (s : State) := capFrom2 (.capUnseal d b x) d b x capUnsealBy s
def execCapMint (d b x : CapSel) (s : State) := capFrom2 (.capMint d b x) d b x capMintBy s

def execCapUntag (d b : CapSel) (s : State) : Host.Outcome State Fault Refusal :=
  capWord (.capUntag d b) s fun i _ t => .ok [capUpd d (i.cap t b).untag]
def execCapMov (d b : CapSel) (s : State) : Host.Outcome State Fault Refusal :=
  capWord (.capMov d b) s fun i _ t => .ok [capUpd d (i.cap t b)]
def execCapDiff (d : Fin 64) (b x : CapSel) (s : State) : Host.Outcome State Fault Refusal :=
  capWord (.capDiff d b x) s fun i _ t => .ok (pairUpds (2 * d.val) ((i.cap t b).addr - (i.cap t x).addr))

/-- R139. -/
def capWithin (c1 c2 : Cap) : Bool :=
  c1.tag && c2.tag && c1.otype == 0 && c2.otype == 0 && c1.space == c2.space && c1.has c2.perms
    && decide (c1.decode.1 ≤ c2.decode.1) && decide (c2.decode.2 ≤ c1.decode.2)

def execCapWithin (p : Fin 7) (b x : CapSel) (s : State) : Host.Outcome State Fault Refusal :=
  predWord (.capWithin p b x) s fun i _ t => .ok { LaneOut.nil with upds := [.p p (capWithin (i.cap t b) (i.cap t x))] }
def execCapSame (p : Fin 7) (b x : CapSel) (s : State) : Host.Outcome State Fault Refusal :=
  predWord (.capSame p b x) s fun i _ t => .ok { LaneOut.nil with upds := [.p p (decide (i.cap t b = i.cap t x))] }

/-- R135: the length that `cap.boundx` accepts and the mask of its alignment. -/
def roundedLen (x : DWord) : DWord :=
  let e := leastE 0 x.toNat
  BitVec.ofNat 64 (ceilDiv x.toNat (2 ^ e) * 2 ^ e)
def alignMask (x : DWord) : DWord := BitVec.ofNat 64 (2 ^ 64 - 2 ^ leastE 0 x.toNat)

def execCapRlen (d : Fin 64) (x : PSrc) (s : State) : Host.Outcome State Fault Refusal :=
  capWord (.capRlen d x) s fun i _ t => .ok (pairUpds (2 * d.val) (roundedLen (i.psrc t x)))
def execCapAmask (d : Fin 64) (x : PSrc) (s : State) : Host.Outcome State Fault Refusal :=
  capWord (.capAmask d x) s fun i _ t => .ok (pairUpds (2 * d.val) (alignMask (i.psrc t x)))

end Sys2Proof.Machine
end

