-- ==== Sys2Proof/Machine/Cache.lean ====
section
/-! DEFINITION. Where memory stands: the stack and the home die of an address (R314, R377), lines in L1s and L2s with
their states and key ids (R182, R313, R383), and what a die reads while the INV of an external write is under way
(R322). -/

namespace Sys2Proof.Machine

open Sys2Proof

/-! ### Stacks and homes (R377) -/

/-- R377: the stack of an HBM4E address. -/
def stackOf (pa : Nat) : Nat := pa / 4096 % 12

/-- R377: its offset in the stack. -/
def stackOffset (pa : Nat) : Nat := pa / 4096 / 12 * 4096 + pa % 4096

/-- R314, R377: the compute die that is the home of a line. -/
def homeDie (line : Nat) : Nat := 64 * line / 4096 % 9

/-! ### Lines in caches (R182, R313) -/

/-- The key of a line in a die's L2 or write-back buffer. -/
def lineKey (line die : Nat) : Nat := 10 * line + die

/-- The key of a line in a core's L1. -/
def l1Key (line : Nat) (c : CoreId) : Nat := 2048 * line + coreNo c

/-- A key names this line in the L1 of a core of this die. -/
def l1On (line die k : Nat) : Bool := k / 2048 == line && k % 2048 / 128 == die

/-- Change the protocol's state. -/
def State.upCoh (s : State) (f : Coherence → Coherence) : State := { s with coh := f s.coh }

/-- The L1s of a die drop a line. -/
def Coherence.dropL1s (c : Coherence) (line die : Nat) : Coherence := { c with l1 := c.l1.filter fun p => !l1On line die p.1 }

/-- R315: a die drops a line from its L2 and L1s. -/
def Coherence.dropLine (c : Coherence) (line die : Nat) : Coherence :=
  { c.dropL1s line die with l2 := c.l2.del (lineKey line die), stale := c.stale.del (lineKey line die) }

/-- R313: the die's copies of a line become Shared. -/
def Coherence.shareLine (c : Coherence) (line die : Nat) : Coherence :=
  { c with
    l2 := c.l2.upd (lineKey line die) fun x => { x with st := .shared },
    l1 := c.l1.mapv fun k m => if l1On line die k then .shared else m }

/-- R182, R184: a core's L1 gives up every line; its dirty lines stand in the die's L2. -/
def Coherence.emptyL1 (c : Coherence) (core : CoreId) : Coherence :=
  { c with l1 := c.l1.filter fun p => p.1 % 2048 != coreNo core }

/-- R313: how another L1 of the die holds a line that this one reads. -/
def Moesi.read : Moesi → Moesi
  | .modified => .owned
  | .exclusive => .shared
  | m => m

/-- R182: a core's L1 of `cap` lines has room for one more; where it was full, a line has left it, which no outcome shows
(R183). -/
def Coherence.roomL1 (c : Coherence) (core : CoreId) (cap : Nat) : Coherence :=
  let mine := c.l1.filter fun p => p.1 % 2048 == coreNo core
  if mine.length < cap then c
  else match mine.head? with
    | some p => { c with l1 := c.l1.del p.1 }
    | none => c

/-- A core reads a line that its die's L2 holds: it enters the core's L1, Exclusive where the die may write it and no
other L1 holds it. R313 says no more of the L1s of a die (log 149). -/
def Coherence.fillL1 (c : Coherence) (core : CoreId) (cap line : Nat) : Coherence :=
  match c.l2.look (lineKey line core.die), c.l1.look (l1Key line core) with
  | some x, none =>
    let c := c.roomL1 core cap
    let alone := !(c.l1.any fun p => l1On line core.die p.1) && x.st != .shared && x.st != .owned
    let l1 := c.l1.mapv fun k m => if l1On line core.die k then m.read else m
    { c with l1 := l1.put (l1Key line core) (if alone then .exclusive else .shared) }
  | _, _ => c

/-- R313, R314: a line of a die's L2 is Modified, and memory holds what stood there before. -/
def Coherence.dirty (c : Coherence) (line die key : Nat) (old : LineData) : Coherence :=
  { c with
    l2 := c.l2.put (lineKey line die) ⟨.modified, key, 0⟩,
    behind := c.behind.put line (match c.behind.look line with | some d => { d with writer := old.writer } | none => old) }

/-- R320: a core's store has made a line Modified in its L1, and the die's other L1s hold it no more. -/
def Coherence.storeL1 (c : Coherence) (core : CoreId) (cap line key : Nat) (old : LineData) : Coherence :=
  let c := ((c.dropL1s line core.die).roomL1 core cap).dirty line core.die key old
  { c with l1 := c.l1.put (l1Key line core) .modified }

/-- R383: an atomic has executed at a die's L2, or at the core's port, or an agent of the control die has written: no L1 of the
die holds the line. -/
def Coherence.wroteL2 (c : Coherence) (die line key : Nat) (old : LineData) : Coherence :=
  (c.dropL1s line die).dirty line die key old

/-- R313: a die's L2 holds a line, and may write it. -/
def Coherence.canRead (c : Coherence) (line die : Nat) : Bool := (c.l2.look (lineKey line die)).isSome
def Coherence.canWrite (c : Coherence) (line die : Nat) : Bool :=
  match c.l2.look (lineKey line die) with
  | some x => x.st == .modified || x.st == .exclusive
  | none => false

/-! ### Room and transactions (R313, R315, R317) -/

/-- A transaction of the line is in progress. -/
def Coherence.busy (c : Coherence) (line : Nat) : Bool := match c.dir.look line with | some (.busy _ _ _ _) => true | _ => false

/-- A line or a permission on its way to a die. -/
def CohFlight.brings (x : CohFlight) : Bool := x.kind == .data || x.kind == .grant

/-- A line whose home is engaged: a transaction is in progress, or it is on its way to a die. -/
def Coherence.engaged (c : Coherence) (line : Nat) : Bool :=
  c.busy line || c.flight.any fun x => x.brings && x.line == line

/-- Nothing of a line is under way: its home is not engaged, no request waits, and no INV is to reach a die. -/
def Coherence.settled (c : Coherence) (line : Nat) : Bool :=
  !c.engaged line && !(c.waiting.any (·.line == line)) && !(c.flight.any fun x => x.kind == .inv && x.line == line)

/-- A request of this die for this line is under way, or its answer to the home. -/
def Coherence.asking (c : Coherence) (die line : Nat) : Bool :=
  (c.waiting.any fun x => x.die == die && x.line == line && x.kind != .wb)
    || (c.flight.any fun x => (x.brings || (x.kind == .ack && x.arg != 1)) && x.die == die && x.line == line)
    || (match c.dir.look line with | some (.busy req _ _ _) => req == die | _ => false)

/-- R313: the lines that a die's L2 holds: 192 MiB, and 32 MiB on the control die. -/
def l2Lines (die : Nat) : Nat := if die = 9 then 2 ^ 19 else 3 * 2 ^ 20

/-- R313: a die's L2 has room for one more line; where it was full, a Shared line for which the die asks nothing has left it. None
where there is no such line: a dirty one leaves with a write-back first (R317). -/
def Coherence.room (c : Coherence) (die : Nat) : Option Coherence :=
  let mine := c.l2.filter fun p => p.1 % 10 == die
  if mine.length < l2Lines die then some c
  else (mine.find? fun p => p.2.st == .shared && !c.asking die (p.1 / 10)).map fun p => c.dropLine (p.1 / 10) die

/-- R315, R320: a die takes a line of which nothing is under way, to write it: no other copy stands. Where its L2 has no room,
memory takes the write. -/
def Coherence.seize (c : Coherence) (die key line : Nat) : Coherence :=
  if !c.settled line then c
  else
    let had := c.canRead line die
    let c := (List.range 10).foldl (fun c d => if d = die then c else c.dropLine line d) c
    match (if had then some c else c.room die) with
    | some c => { c with l2 := c.l2.put (lineKey line die) ⟨.exclusive, key, 0⟩, dir := c.dir.put line (.exclusive die) }
    | none => { c with dir := c.dir.del line, behind := c.behind.del line }

/-- R313, R315: a die takes a copy of a line of which nothing is under way, to read it; an owner shares it. -/
def Coherence.copyIn (c : Coherence) (die key line : Nat) : Coherence :=
  if c.canRead line die || !c.settled line then c
  else
    let put := fun (c : Coherence) (mask : List Nat) =>
      match c.room die with
      | some c => { c with l2 := c.l2.put (lineKey line die) ⟨.shared, key, 0⟩, dir := c.dir.put line (.shared (addNum mask die)),
                           behind := c.behind.del line }
      | none => c
    match c.dir.look line with
    | none => put c []
    | some (.shared mask) => put c mask
    | some (.exclusive o) => put (c.shareLine line o) [o]
    | some (.owned o mask) => put (c.shareLine line o) (addNum mask o)
    | some (.busy _ _ _ _) => c

/-! ### What a die reads (R322) -/

/-- The bytes, tags and external writes of a line as the single order of R156 has them. -/
def State.lineData (s : State) (line : Nat) : LineData :=
  { bytes := Memory.bytes s.mem (64 * line) 64,
    tags := (List.range 4).map fun k => s.tags.contains (4 * line + k),
    ext := s.coh.extBy.filter fun p => p.1 / 64 == line,
    since := s.events.length, writer := 0 }

/-- What a die that the INV of an external write has not reached still holds of a line; a home (10) holds nothing so. -/
def State.staleAt (s : State) (die line : Nat) : Option LineData := if die < 10 then s.coh.stale.look (lineKey line die) else none

/-- A byte as a die reads it. -/
def State.viewByte (s : State) (die pa : Nat) : Byte :=
  match s.staleAt die (pa / 64) with
  | some d => d.bytes.getD (pa % 64) 0
  | none => Memory.byte s.mem pa

/-- `n` bytes as a die reads them. -/
def State.viewBytes (s : State) (die pa : Nat) : Nat → List Byte
  | 0 => []
  | n + 1 => s.viewByte die pa :: s.viewBytes die (pa + 1) n

/-- The tag of a granule as a die reads it. -/
def State.viewTag (s : State) (die pa : Nat) : Bool :=
  match s.staleAt die (pa / 64) with
  | some d => flagAt d.tags (pa % 64 / 16)
  | none => s.tags.contains (pa / 16)

/-- The external write from which a byte comes, as a die reads it. -/
def State.viewExt (s : State) (die pa : Nat) : Option (Nat × Nat) :=
  match s.staleAt die (pa / 64) with
  | some d => d.ext.look pa
  | none => s.coh.extBy.look pa

/-- R322: an INV of an earlier write of a connection is still to reach a die. -/
def Coherence.invPending (c : Coherence) (die conn seq : Nat) : Bool :=
  c.flight.any fun x => x.kind == .inv && x.die == die && match x.ext with
    | some (k, n) => k == conn && decide (n < seq)
    | none => false

/-- A write at [pa, pa + bs.length) stands in a copy of a line. -/
def LineData.patch (d : LineData) (line pa : Nat) (bs : List Byte) (tag : Bool) : LineData :=
  let inside := fun (a : Nat) => decide (pa ≤ a) && decide (a < pa + bs.length)
  { bytes := d.bytes.zipIdx.map fun p => let a := 64 * line + p.2; if inside a then bs.getD (a - pa) 0 else p.1,
    tags := d.tags.zipIdx.map fun p =>
      let g := 64 * line + 16 * p.2
      if g < pa + bs.length ∧ pa < g + 16 then tag && g == pa else p.1,
    ext := d.ext.filter fun p => !inside p.1, since := d.since, writer := d.writer }

/-- R320: a store of a device agent stands in every copy, and its bytes come from no external write. -/
def Coherence.patch (c : Coherence) (pa : Nat) (bs : List Byte) (tag : Bool) : Coherence :=
  { c with
    stale := c.stale.mapv fun k d => d.patch (k / 10) pa bs tag,
    extBy := c.extBy.filter fun p => !(decide (pa ≤ p.1) && decide (p.1 < pa + bs.length)) }

end Sys2Proof.Machine
end

