-- ==== Sys2Proof/Machine/Mem.lean ====
section
/-! DEFINITION. Memory as an access finds it: translation through the chain of address spaces (R363, R366, R376,
R424, R434), coverage by revocation filters (R373), worlds and stamps (R379-R386), the checks R141 and R142 on an
access, reading and writing of places, agents and scopes (R310, R311), and when an access may perform (R154-R156, R318-R329). -/

namespace Sys2Proof.Machine

open Sys2Proof

/-! ### Bytes of numbers and capabilities -/

/-- Little-endian bytes of a number. -/
def numBytes (n : Nat) : Nat → List Byte
  | 0 => []
  | k + 1 => BitVec.ofNat 8 n :: numBytes (n / 256) k

/-- A capability's 16 bytes. -/
def Cap.bytes (c : Cap) : List Byte := numBytes c.bits.toNat 16

/-- A capability of 16 bytes and a tag. -/
def capOfBytes (bs : List Byte) (tag : Bool) : Cap := ⟨BitVec.ofNat 128 (wordOfBytes bs), tag⟩

/-! ### Contexts and chains -/

/-- R74: the code of a scope. -/
def scopeNo : Scope → Nat
  | .group => 0
  | .team => 1
  | .cluster => 2
  | .context => 3
  | .device => 4
  | .system => 5

/-- R312: the least ceiling among a context and its ancestors. -/
def ceilUp (s : State) : Nat → Nat → Nat → Nat
  | 0, _, acc => acc
  | fuel + 1, ctx, acc =>
    match s.ctxs.look ctx with
    | none => acc
    | some c =>
      match c.parent with
      | none => min acc c.ceil
      | some p => ceilUp s fuel p (min acc c.ceil)

/-- R312: the effective ceiling. -/
def State.ceiling (s : State) (ctx : Nat) : Nat := ceilUp s (s.ctxs.length + 1) ctx 5

/-- The context `a` is `ctx` or an ancestor of it (R341). -/
def ancestorUp (s : State) : Nat → Nat → Nat → Bool
  | 0, _, _ => false
  | fuel + 1, a, ctx =>
    a == ctx ||
      match (s.ctxs.look ctx).bind (·.parent) with
      | none => false
      | some p => ancestorUp s fuel a p

/-- `ctx` lies in the subtree of `a`. -/
def State.inSubtree (s : State) (a ctx : Nat) : Bool := ancestorUp s (s.ctxs.length + 1) a ctx

/-- The space of a context. -/
def State.spaceOf (s : State) (ctx : Nat) : Nat := match s.ctxs.look ctx with | some c => c.space | none => 0

/-- R363: the chain from a space outward contains a space. -/
def chainHas (s : State) : Nat → Nat → Nat → Bool
  | 0, _, _ => false
  | fuel + 1, sp, target =>
    sp == target ||
      match (s.spaces.look sp).bind (·.outer) with
      | none => false
      | some o => chainHas s fuel o target

/-- The chain of a context includes a space (R373). -/
def State.inDomain (s : State) (ctx space : Nat) : Bool := chainHas s (s.spaces.length + 1) (s.spaceOf ctx) space

/-! ### Translation -/

/-- The pages that hold an address. -/
def Space.find (sp : Space) (va : Nat) : Option MapRange :=
  sp.maps.find? fun m => decide (m.va ≤ va) && decide (va < m.va + m.len)

/-- One level a translation passed: its space, the address there, the rights. -/
structure Level where
  space : Nat
  va : Nat
  r : Bool
  w : Bool
  x : Bool
  /-- tags are kept on loads, and on stores -/
  tl : Bool
  ts : Bool

/-- What a walk of the chain finds: a level with no mapping, or the place. -/
inductive Walk where
  | page (levels : List Level) (space va : Nat)
  | done (levels : List Level) (loc : Loc)

/-- R366: walk the chain from a space outward. The outermost space maps to physical memory, host pages and remote
pages. -/
def walk (s : State) : Nat → Nat → Nat → List Level → Walk
  | 0, sp, va, ls => .page ls sp va
  | fuel + 1, sp, va, ls =>
    match s.spaces.look sp with
    | none => .page ls sp va
    | some x =>
      match x.find va with
      | some m =>
        let ls := ls ++ [⟨sp, va, m.r, m.w, m.x, m.t, m.t⟩]
        let o := m.target + (va - m.va)
        match x.outer with
        | some u => walk s fuel u o ls
        | none => .done ls (.mem o)
      | none =>
        match x.hostPages.find? fun h => decide (h.va ≤ va) && decide (va < h.va + 4096) with
        | some h => .done (ls ++ [⟨sp, va, h.r, h.w, false, false, false⟩]) (.host h.fn h.pasid (h.iova + (va - h.va)))
        | none =>
          match x.remote.find? fun h => decide (h.va ≤ va) && decide (va < h.va + h.len) with
          | some h => .done (ls ++ [⟨sp, va, h.ld, h.st, false, h.ldc, h.stc⟩]) (.remote h.conn h.handle (va - h.va))
          | none => .page ls sp va

/-- What an access asks of the pages: loads, stores, fetch, a tagged store, and what a host page refuses (R424). -/
structure Need where
  r : Bool
  w : Bool
  x : Bool
  ts : Bool
  nh : Bool
  /-- what a remote page refuses (R429) -/
  nr : Bool
  /-- the access kind of R367, bit 3: a capability access -/
  cap : Bool

def needR : Need := ⟨true, false, false, false, false, false, false⟩
def needW : Need := ⟨false, true, false, false, false, true, false⟩
def needX : Need := ⟨false, false, true, false, false, true, false⟩

/-- R367: the access kind. -/
def Need.kind (n : Need) : Nat :=
  (if n.r then 1 else 0) + (if n.w then 2 else 0) + (if n.x then 4 else 0) + (if n.cap then 8 else 0)

/-- A failed access: its cause and, for PAGE and PROT, level, space, address and kind (R367). `host` names the host page
(function, PASID, page) that the host refused; with no cause, the one whose answer the access waits for (R424). -/
structure MErr where
  cause : Word
  page : Option (Nat × Nat × Nat × Nat)
  host : Option (Nat × Nat × Nat)

/-- A cause with no page. -/
def errOf (c : Word) : MErr := ⟨c, none, none⟩

/-- The access has no cause yet: it waits for the host (R424). -/
def MErr.waits (e : MErr) : Bool := e.cause == 0

/-- A cause of the thread's own as a failed access. -/
def liftE {α : Type} : Except Word α → Except MErr α
  | .ok a => .ok a
  | .error c => .error (errOf c)

/-- R378: bytes of the CXL tier, seven eighths of what is installed. -/
def State.cxlBytes (s : State) : Nat := s.cxl.foldl (· + ·) 0 * 7 / 8

/-- R376: the ranges available to reserves. -/
def State.available (s : State) (pa : Nat) : Bool :=
  decide (pa < 0x00B2C05E0000) || (decide (0x010000000000 ≤ pa) && decide (pa < 0x010000000000 + s.cxlBytes))

/-- R343: memory that an object holds: a context with its save slots, an address space with its tables, an endpoint. -/
def State.objectMem (s : State) (pa : Nat) : Bool :=
  let inn := fun (a n : Nat) => decide (a ≤ pa) && decide (pa < a + n)
  (s.ctxs.any fun p => inn p.2.pa 4096 || p.2.slots.any fun x => inn x.pa x.size)
    || (s.spaces.any fun p => p.2.units.any fun u => inn u 4096) || s.eps.any fun p => inn p.2.pa 4096

/-- R366, R376, R424, R429: translate an access of a world from a space; the place, and whether tags are kept on loads.
Memory that objects hold is mapped nowhere (R343): the root's pages do not reach it, and an access there is PAGE at the
root's level, which is the model's choice (log 152). -/
def State.translateFrom (s : State) (space world va : Nat) (n : Need) : Except MErr (Loc × Bool) :=
  match walk s (s.spaces.length + 1) space va [] with
  | .page ls sp a => .error ⟨cPage, some (ls.length, sp, a, n.kind), none⟩
  | .done ls loc =>
    let bad := ls.zipIdx.find? fun p =>
      (n.r && !p.1.r) || (n.w && !p.1.w) || (n.x && !p.1.x) || (n.ts && !p.1.ts)
    match bad with
    | some (l, k) => .error ⟨cProt, some (k, l.space, l.va, n.kind), none⟩
    | none =>
      let root := (ls.length - 1, (ls.getLast?.map (·.space)).getD 0, (ls.getLast?.map (·.va)).getD 0, n.kind)
      match loc with
      | .mem pa =>
        if s.objectMem pa then .error ⟨cPage, some root, none⟩
        else if s.available pa then .ok (loc, ls.all (·.tl)) else .error ⟨cProt, some root, none⟩
      | .host fn pasid _ =>
        if n.nh then .error ⟨cProt, some root, none⟩
        else if s.pasids.contains (fn, pasid) then .ok (loc, false)
        else .error ⟨cPage, some root, none⟩
      | _ => if n.nr || world != 0 then .error ⟨cProt, some root, none⟩ else .ok (loc, ls.all (·.tl))

/-- R366: translate an access of a context. -/
def State.translate (s : State) (ctx world va : Nat) (n : Need) : Except MErr (Loc × Bool) :=
  s.translateFrom (s.spaceOf ctx) world va n

/-! ### Host pages (R424) -/

/-- R424: where ATS is enabled, a host page has no translation before the host has answered; what it refused is PAGE at the
root's level. An access through a translation the part holds goes on, and without ATS each goes to the host as it is. -/
def State.hostCheck (s : State) (space va : Nat) (n : Need) (l : Loc) : Except MErr Unit :=
  match l with
  | .host fn pasid iova =>
    let key := (fn, pasid, iova / 4096)
    if !s.atsOn.contains fn || s.ats.contains key then .ok ()
    else
      match s.pageReqs.find? fun r => r.fn == fn && r.pasid == pasid && r.iova == iova / 4096 with
      | some r =>
        if r.answer = some false then
          let root := match walk s (s.spaces.length + 1) space va [] with
            | .done ls _ => (ls.length - 1, (ls.getLast?.map (·.space)).getD 0, (ls.getLast?.map (·.va)).getD 0, n.kind)
            | .page _ sp a => (0, sp, a, n.kind)
          .error ⟨cPage, some root, some key⟩
        else .error ⟨0, none, some key⟩
      | none => .error ⟨0, none, some key⟩
  | _ => .ok ()

/-- R424: ask for a host page by ATS: the host translates it, or reports it absent. A page request then waits where PRI is
enabled; where it is not, the page is refused, which is the model's choice (log 170). A page already asked for is not asked
for again. -/
def State.askPage (s : State) (span : Option (Nat × Nat × DWord)) (key : Nat × Nat × Nat) : State :=
  let (fn, pasid, page) := key
  if s.ats.contains key || s.pageReqs.any (fun r => r.fn == fn && r.pasid == pasid && r.iova == page) then s
  else
    let s' : State := { s with draws := s.draws + 1 }
    if Config.hostAnswer s.draws % 2 = 0 then { s' with ats := key :: s'.ats }
    else
      let id := match s'.pageReqs.getLast? with | some r => r.id + 1 | none => 0
      let pri := s.priOn.contains fn
      let rq : PageReq :=
        { id := id, fn := fn, pasid := pasid, iova := page, answer := if pri then none else some false, span := span }
      { s' with pageReqs := s'.pageReqs ++ [rq],
                outbox := if pri then s'.outbox ++ [.pageRequest fn pasid (4096 * page)] else s'.outbox }

/-- The access of a step waits for a host page. -/
def State.waitHost (s : State) (e : MErr) : State := match e.host with | some k => s.askPage none k | none => s

/-- R424: a refused page request has had its effect. -/
def State.dropRefused (s : State) (key : Option (Nat × Nat × Nat)) : State :=
  match key with
  | none => s
  | some k => { s with pageReqs := s.pageReqs.filter fun r => !((r.fn, r.pasid, r.iova) == k && r.answer == some false) }

/-- R424: what a request to a host page meets: a PASID that is not Live, an Unsupported Request, a Completer Abort or a
poisoned completion. `k` numbers the draw. -/
def State.hostErr (s : State) (k : Nat) (l : Loc) : Option Word :=
  match l with
  | .host fn pasid _ =>
    if !s.pasids.contains (fn, pasid) then some cPage
    else if Config.hostAnswer (s.draws + k) % 2 = 1 then some cMemerr
    else none
  | _ => none

/-! ### Revocation filters (R373) -/

/-- An address space maps an address to something: memory, a host page or a remote page. -/
def Space.has (x : Space) (va : Nat) : Bool :=
  (x.find va).isSome || (x.hostPages.any fun h => decide (h.va ≤ va) && decide (va < h.va + 4096))
    || x.remote.any fun h => decide (h.va ≤ va) && decide (va < h.va + h.len)

/-- R373, R415: the address in an outer space of the chain, whatever the rights; an address that a space on the way, the
last among them, does not map has none. -/
def outward (s : State) : Nat → Nat → Nat → Nat → Option Nat
  | 0, _, _, _ => none
  | fuel + 1, sp, target, va =>
    match s.spaces.look sp with
    | none => none
    | some x =>
      if sp = target then (if x.has va then some va else none)
      else
        match x.find va, x.outer with
        | some m, some o => outward s fuel o target (m.target + (va - m.va))
        | _, _ => none

/-- An object made, directly or through sub-reserves, from a reserve (R343). -/
def madeFrom (s : State) : Nat → Nat → Nat → Bool
  | 0, _, _ => false
  | fuel + 1, obj, r =>
    match (s.objs.look obj).bind (·.made) with
    | none => false
    | some m => m == r || madeFrom s fuel m r

/-- R373: a filter covers a capability held in a context. -/
def State.coveredBy (s : State) (rv : Revocation) (ctx : Nat) (c : Cap) : Bool :=
  match rv.what with
  | .reserve r =>
    c.space == 3 && madeFrom s (s.objs.length + 1) c.objIndex r
      && ((s.objs.look c.objIndex).map (·.gen) == some c.objGen)
  | .range sp lo hi =>
    c.space == 0 && s.inDomain ctx sp &&
      match outward s (s.spaces.length + 1) (s.spaceOf ctx) sp c.decode.1 with
      | none => true
      | some a => decide (lo ≤ a) && decide (a < hi)

/-- R373: a capability under an active filter entry. -/
def State.covered (s : State) (ctx : Nat) (c : Cap) : Bool :=
  c.tag && s.revs.any fun rv => rv.active && s.coveredBy rv ctx c

/-- R373: what a write of a capability leaves: covered ones lose their tags. -/
def State.settleCap (s : State) (ctx : Nat) (c : Cap) : Cap := if s.covered ctx c then c.untag else c

/-! ### Worlds and lines -/

/-- The slot of a world. -/
def State.slotOf (s : State) (w : Nat) : KeySlot := s.slots.getD w KeySlot.empty

/-- R386: the key of a world stands. -/
def State.worldOk (s : State) (w : Nat) : Bool := (s.slotOf w).st == .armed

/-- R379: the mode of the 64 KiB that holds an address. -/
def State.modeOf (s : State) (pa : Nat) : Nat := (s.modes.look (pa / 65536)).getD 0

/-- R382: what a store under a world leaves on a line. -/
def State.stampOf (s : State) (w : Nat) : Stamp := ⟨w, (s.slotOf w).epoch⟩

/-- R378: the base of the CXL tier. -/
def cxlBase : Nat := 0x10000000000

/-- R378: ports of equal capacity are interleaved at 4 KiB, others stand one after another: the port of an offset. -/
def cxlPort (cxl : List Nat) (off : Nat) : Nat :=
  let on := (cxl.zipIdx.filter fun p => p.1 != 0).map fun p => (p.1, p.2)
  if 1 < on.length ∧ on.all (fun p => p.1 == (on.headD (0, 0)).1) then ((on[off / 4096 % on.length]?).map (·.2)).getD 4
  else
    ((on.foldl (fun (acc : Nat × Option Nat) p =>
      let top := acc.1 + p.1 * 7 / 8
      (top, if acc.2.isNone && decide (off < top) then some p.2 else acc.2)) (0, none)).2).getD 4

/-- R378: the device or link of an address of the CXL tier has stopped answering. -/
def State.silent (s : State) (pa : Nat) : Bool :=
  !s.dead.isEmpty && decide (cxlBase ≤ pa) && s.dead.contains (cxlPort s.cxl (pa - cxlBase))

/-- R378, R444: no access to a line has an effect: its channel is lost, or its CXL device does not answer. -/
def State.gone (s : State) (line : Nat) : Bool :=
  s.lost.any (fun r => decide (r.1 ≤ 64 * line) && decide (64 * line < r.1 + r.2)) || s.silent (64 * line)

/-- R378, R380: a line cannot be read: poison or an error that its ECC does not correct, a lost channel, a CXL device that
does not answer. -/
def State.unreadable (s : State) (line : Nat) : Bool := s.poison.contains line || s.gone line

/-- R380, R382: why a line delivers nothing to an access of a world. -/
def State.lineErr (s : State) (w line : Nat) : Option Word :=
  if s.unreadable line then some cMemerr
  else if s.modeOf (64 * line) ≠ 0 ∧ (s.stamps.look line).getD (s.stampOf 0) ≠ s.stampOf w then some cMacfail
  else none

/-- R382, R383: the key id under which a line stands. -/
def State.keyOf (s : State) (line : Nat) : Nat :=
  match s.stamps.look line with
  | some x => if s.modeOf (64 * line) = 0 ∧ x.world ≠ 64 then 0 else x.world
  | none => 0

/-- The lines of [pa, pa + n). -/
def linesOf (pa n : Nat) : List Nat := if n = 0 then [] else List.range' (pa / 64) ((pa + n - 1) / 64 - pa / 64 + 1)

/-- The granules of 16 bytes of [pa, pa + n). -/
def granules16 (pa n : Nat) : List Nat := if n = 0 then [] else List.range' (pa / 16) ((pa + n - 1) / 16 - pa / 16 + 1)

/-- Read physical memory under a world. -/
def State.readMem (s : State) (w pa n : Nat) : Except Word (List Byte) :=
  match (linesOf pa n).filterMap (s.lineErr w) with
  | c :: _ => .error c
  | [] => .ok (Memory.bytes s.mem pa n)

/-- R150, R380, R382: a store's effect on the side-band of one line; a merge into a line that cannot be read
poisons it. -/
def State.touchLine (s : State) (w line : Nat) (whole : Bool) : State :=
  let s := if whole then { s with poison := delNum s.poison line }
           else if (s.lineErr w line).isSome then { s with poison := addNum s.poison line } else s
  if s.modeOf (64 * line) = 0 ∧ w ≠ 64 then { s with stamps := s.stamps.del line }
  else { s with stamps := s.stamps.put line (s.stampOf w) }

/-- R381: a store that sets a tag keeps the page's tag summary. -/
def State.noteTag (s : State) (w pa : Nat) : State :=
  let page := pa / 4096
  match s.summary.look page with
  | none => { s with summary := s.summary.put page ⟨w, false⟩ }
  | some y => if y.world = w then s else { s with summary := s.summary.put page { y with mixed := true } }

/-- R148: write physical memory under a world; every granule touched loses its tag, and `tag` sets that of the one
granule written whole. A die that the INV of an external write has not reached still reads the old bytes. -/
def State.writeRaw (s : State) (w pa : Nat) (bs : List Byte) (tag : Bool) : State :=
  let n := bs.length
  let s := (linesOf pa n).foldl (fun s l => s.touchLine w l (decide (pa ≤ 64 * l) && decide (64 * l + 64 ≤ pa + n))) s
  let tags := (granules16 pa n).foldl delNum s.tags
  let s := { s with mem := Memory.setBytes s.mem pa bs, tags := if tag then addNum tags (pa / 16) else tags }
  if tag then s.noteTag w pa else s

/-- R378, R444: why a store to a place fails: a line that no access reaches, or what the host answers (R424). -/
def State.storeErr (s : State) (l : Loc) (n : Nat) : Option Word :=
  match l with
  | .mem pa => if (linesOf pa n).any s.gone then some cMemerr else none
  | l => s.hostErr 0 l

/-- The world under which the accesses of a team run: that of its core (R382). -/
def State.worldOf (s : State) (t : Team) : Nat := match t.core with | some c => (s.core c).world | none => t.world

/-! ### Scratchpads (R123, R175-R179) -/

/-- R175: bytes of a team's scratchpad share. -/
def Team.share (t : Team) : Nat := 65536 * t.spad

/-- R123: the team and offset a space-1 or space-2 address reaches, when it lies in a share. -/
def State.spadAt (s : State) (id : Nat) (t : Team) (space addr size : Nat) : Option (Nat × Nat) :=
  if space = 1 then (if addr + size ≤ t.share then some (id, addr) else none)
  else
    let off := addr % 2 ^ 22
    if 2 ^ 26 ≤ addr then none
    else
      match t.mates[addr / 2 ^ 22]? with
      | none => none
      | some m =>
        match s.teams.look m with
        | none => none
        | some u => if off + size ≤ u.share then some (m, off) else none

/-- The 1 KiB granules of [off, off + n). -/
def granulesOf (off n : Nat) : List Nat := if n = 0 then [] else List.range' (off / 1024) ((off + n - 1) / 1024 - off / 1024 + 1)

/-- R177-R179: an engine owns the granule, or an issued command names it and is to own it. -/
def Team.holds (t : Team) (k : Nat) : Bool := t.owner.contains k || t.named.contains k

/-- R179: some byte is refused to threads. -/
def State.owned (s : State) (team off n : Nat) : Bool :=
  match s.teams.look team with
  | none => false
  | some u => (granulesOf off n).any u.holds

/-! ### The checks on an access (R141, R142) -/

/-- R141, R142 through WORLD: the place an access reaches and whether it keeps tags on loads. -/
def State.accessAt (s : State) (id : Nat) (t : Team) (world : Nat) (c : Cap) (perm : BitVec 16) (addr size : Nat)
    (spaces : List Nat) (sc : Option Scope) (align extra : Bool) (n : Need) : Except MErr (Loc × Bool) :=
  let place := if c.space = 0 then none else s.spadAt id t c.space addr size
  match capCheck c perm addr size spaces (sc == some .system) align extra (c.space == 0 || place.isSome) with
  | .error w => .error (errOf w)
  | .ok _ =>
    if s.covered t.ctx c then .error (errOf cRevoked)
    else
      match place with
      | some (m, off) => if s.owned m off size then .error (errOf cOwner) else .ok (.spad m off, true)
      | none =>
        match (do
            let r ← s.translate t.ctx world addr n
            let _ ← s.hostCheck (s.spaceOf t.ctx) addr n r.1
            .ok r : Except MErr (Loc × Bool)) with
        | .error e => .error e
        | .ok r =>
          if (match sc with | some k => decide (s.ceiling t.ctx < scopeNo k) | none => false) then .error (errOf cScope)
          else if !s.worldOk world then .error (errOf cWorld)
          else .ok r

/-- The check for a lane of the word in issue. -/
def Issue.access (i : Issue) (c : Cap) (perm : BitVec 16) (addr size : Nat) (spaces : List Nat) (sc : Option Scope)
    (align extra : Bool) (n : Need) : Except MErr (Loc × Bool) :=
  i.s.accessAt i.x.team i.t i.core.world c perm addr size spaces sc align extra n

/-- R144: the effective address. -/
def effAddr (c : Cap) (off : Word) : Nat := (c.addr + off.signExtend 64).toNat

/-- R424: the word waits: its span goes on once the host has answered for these pages. -/
def Issue.waitPages (i : Issue) (keys : List (Nat × Nat × Nat)) : State :=
  { keys.foldl (fun s k => s.askPage (some (i.x.team, i.x.g, i.x.pc)) k) i.s with sel := none }

/-- R143, R367: the word raises the causes of its lanes; PAGE and PROT are recorded with their level. While a lane's checks
wait for the host, the word waits (R150, R424). -/
def Issue.raiseM (i : Issue) (es : List (Nat × MErr)) : State :=
  if es.any (·.2.waits) then i.waitPages ((es.filter (·.2.waits)).filterMap (·.2.host))
  else
    let fs : List PageFault := es.filterMap fun p =>
      p.2.page.map fun q => ⟨i.x.g, p.1, q.1, q.2.1, q.2.2.1, q.2.2.2⟩
    let s := es.foldl (fun s p => s.dropRefused p.2.host) i.s
    { i with s := s.upTeam i.x.team fun t => { t with faults := t.faults ++ fs } }.raise (es.map fun (p : Nat × MErr) => (p.1, p.2.cause))

/-! ### Reading and writing a place -/

/-- The bytes at a place as an agent of a die reads them (R322); `k` numbers the draw for bytes that come from outside the
part. -/
def State.readFor (s : State) (die w : Nat) (l : Loc) (n k : Nat) : Except Word (List Byte) :=
  match l with
  | .mem pa =>
    match (linesOf pa n).filterMap (s.lineErr w) with
    | c :: _ => .error c
    | [] => .ok (s.viewBytes die pa n)
  | .spad m off => .ok (match s.teams.look m with | some u => Memory.bytes u.sp off n | none => List.replicate n 0)
  | .host _ _ _ =>
    match s.hostErr k l with
    | some c => .error c
    | none => .ok ((List.range n).map fun j => Config.hostByte (s.draws + k + j))
  | .remote _ _ _ => .ok ((List.range n).map fun j => Config.peerByte (s.draws + k + j))
  | .reply d => .ok ((List.range n).map fun j => d.extractLsb' (8 * j) 8)

/-- R424: a load, or an engine's read, of a host page is one request. -/
def State.askHost (s : State) (l : Loc) (n : Nat) : State :=
  match l with
  | .host fn pasid iova => { s with outbox := s.outbox ++ [.hostRead fn pasid iova n] }
  | _ => s

/-- The bytes at a place as an agent of the control die reads them. -/
def State.readLoc (s : State) (w : Nat) (l : Loc) (n k : Nat) : Except Word (List Byte) := s.readFor 9 w l n k

/-- The tag of the granule at a place as an agent of a die reads it. -/
def State.tagFor (s : State) (die : Nat) (l : Loc) : Bool :=
  match l with
  | .mem pa => s.viewTag die pa
  | .spad m off => match s.teams.look m with | some u => u.spTags.contains (off / 16) | none => false
  | _ => false

/-- The tag of the granule at a place as an agent of the control die reads it. -/
def State.tagLoc (s : State) (l : Loc) : Bool := s.tagFor 9 l

/-- R148: write a team's scratchpad. -/
def Team.writeSp (t : Team) (off : Nat) (bs : List Byte) (tag : Bool) : Team :=
  let tags := (granules16 off bs.length).foldl delNum t.spTags
  { t with sp := Memory.setBytes t.sp off bs, spTags := if tag then addNum tags (off / 16) else tags }

/-- R148, R320: bytes stand at a place, for every agent; a host write leaves the part as a request (R424). A remote write has
left with its message (R428). -/
def State.putLoc (s : State) (w : Nat) (l : Loc) (bs : List Byte) (tag : Bool) : State :=
  match l with
  | .mem pa => (s.writeRaw w pa bs tag).upCoh (·.patch pa bs tag)
  | .spad m off => s.upTeam m (·.writeSp off bs tag)
  | .host fn pasid iova => { s with outbox := s.outbox ++ [.hostWrite fn pasid iova bs] }
  | .remote _ _ _ => s
  | .reply _ => s

/-- The die of a team's core. -/
def Team.die (t : Team) : Nat := match t.core with | some c => c.die | none => 9

/-! ### Agents and scopes (R310, R311) -/

/-- R310: an agent inside the package. -/
def Agent.device : Agent → Bool
  | .external _ => false
  | _ => true

/-- The team of a thread, or of the thread that issued a command or operation. -/
def Agent.team : Agent → Option Nat
  | .thread t _ _ => some t
  | .copy t _ => some t
  | .matrix t _ => some t
  | _ => none

/-- R311: a scope of a thread of a group contains an agent. -/
def State.inScope (s : State) (id g sc : Nat) (a : Agent) : Bool :=
  let mate := fun (p : Team → Team → Bool) => match a.team with
    | none => false
    | some u => u == id || match s.teams.look id, s.teams.look u with | some x, some y => p x y | _, _ => false
  match sc with
  | 0 => match a with | .thread u h _ => u == id && h == g | _ => false
  | 1 => a.team == some id
  | 2 => mate fun x _ => match a.team with | some u => x.mates.contains u | none => false
  | 3 => mate fun x y => x.ctx == y.ctx
  | 4 => a.device
  | _ => true

/-- An access as the bytes it touches. -/
def Access.touch (a : Access) (write : Bool) : Touch := ⟨a.lane, a.loc, a.size, write⟩

/-! ### Order within a thread (R154-R156, R324, R328) -/

def Op.isFence (o : Op) : Bool := match o.kind with | .fence => true | _ => false
def Op.isLoad (o : Op) : Bool := match o.kind with | .load _ _ _ _ _ => true | _ => false
def Op.isStore (o : Op) : Bool := match o.kind with | .store _ _ => true | _ => false
def Op.isCopy (o : Op) : Bool := match o.kind with | .copy _ => true | _ => false
def Op.isRmw (o : Op) : Bool := match o.kind with | .rmw _ _ _ _ => true | .spawn _ => true | _ => false

/-- The accesses still to perform. -/
def Op.accs (o : Op) : List Access :=
  match o.kind with
  | .load a _ _ _ _ => a
  | .store a _ => a
  | .rmw _ a _ _ => a
  | .spawn items => items.filterMap (·.2.2)
  | _ => []

/-- The lanes in which the operation has still to perform, as an event of the memory model. -/
def Op.lanesLeft (o : Op) : List Nat := if o.isFence then o.lanes else o.accs.map (·.lane)

/-- The bytes of two places meet. -/
def locMeet (a : Loc) (n : Nat) (b : Loc) (m : Nat) : Bool :=
  match a, b with
  | .mem x, .mem y => decide (x < y + m) && decide (y < x + n)
  | .spad t x, .spad u y => t == u && decide (x < y + m) && decide (y < x + n)
  | .host f p x, .host g q y => f == g && p == q && decide (x < y + m) && decide (y < x + n)
  | .remote c h x, .remote d k y => c == d && h == k && decide (x < y + m) && decide (y < x + n)
  | _, _ => false

/-- R324: the scopes of the carriers by which `e`, the earlier of two operations of one thread, is ordered before `o`, the two
acting at `es` and `os`; none where R154, R155 and R328 order nothing. -/
def Op.carriers (e o : Op) (es os : Nat) : List Nat :=
  let acq := if e.acq then [es] else []
  if e.isFence then
    if !o.isFence && (e.seq || e.acq || (e.rel && (o.isStore || o.isRmw || o.isCopy))) then [es] else []
  else if o.isFence then
    if o.seq || o.rel || (o.acq && (e.isLoad || e.isRmw)) then [os] else []
  else
    match o.kind with
    | .load _ _ _ _ _ => acq ++ if e.seq && o.seq && e.isStore then [min es os] else []
    | .store _ _ => acq ++ if o.rel then [os] else []
    | .rmw _ _ _ _ => acq ++ if o.rel then [os] else []
    | .copy _ => acq ++ [os]
    | .absorb _ _ _ _ _ => acq ++ [os]
    | .spawn _ => [5]
    | _ => []

/-- R156: accesses of one lane to one byte. -/
def Op.sameByte (e o : Op) (lane : Nat) : Bool :=
  (e.accs.filter (·.lane == lane)).any fun a =>
    (o.accs.filter (·.lane == lane)).any fun b => locMeet a.loc a.size b.loc b.size

/-- The operations that entered flight before `o`. -/
def Team.earlier (t : Team) (o : Op) : List Op := t.ops.filter fun e => decide (e.id < o.id)

/-- R154, R312: the scope at which an operation acts in a lane: at the ceiling at most, and through a space-2 capability at
cluster scope at least. -/
def Op.actsAt (o : Op) (ceil lane : Nat) : Nat :=
  min ceil (match o.accs.find? (·.lane == lane) with
    | some a => if a.space = 2 then max 2 (scopeNo o.scope) else scopeNo o.scope
    | none => scopeNo o.scope)

/-- What an operation follows in a lane: earlier operations of its thread that are still to perform there, with the widest
scope toward which it follows each; 6 stands for every agent (R156). -/
def State.follows (s : State) (t : Team) (o : Op) (lane : Nat) : List (Op × Nat) :=
  let at_ := fun (x : Op) => x.actsAt (s.ceiling t.ctx) lane
  (t.earlier o).filterMap fun e =>
    if e.g != o.g || !e.lanesLeft.contains lane then none
    else if e.sameByte o lane then some (e, 6)
    else match e.carriers o (at_ e) (at_ o) with
      | [] => none
      | k :: r => some (e, r.foldl max k)

/-- The operation follows nothing in these lanes that is still to perform. -/
def State.inOrder (s : State) (t : Team) (o : Op) (lanes : List Nat) : Bool :=
  lanes.all fun l => (s.follows t o l).isEmpty

/-! ### Gates (R207, R322, R327-R329) -/

/-- What a gate stands for has performed: the accesses that it names; the INVs of the earlier writes of its connection at the
die of the thread it holds. -/
def State.gateOpen (s : State) (die : Nat) : Gate → Bool
  | .ops team g lanes n _ =>
    match s.teams.look team with
    | none => true
    | some t => t.ops.all fun e => !(e.g == g && decide (e.id < n) && lanes.any (e.lanesLeft.contains ·))
  | .ext conn n => !s.coh.invPending die conn n

/-- R319: a gate binds until it is open, unless its scope is narrow. -/
def Gate.strict : Gate → Bool
  | .ops _ _ _ _ sc => decide (4 ≤ sc)
  | .ext _ _ => true

/-- The gates of an operation in a lane. -/
def Op.gatesOf (o : Op) (lane : Nat) : List Gate := (o.gates.filter (·.1 == lane)).map (·.2)

/-- A gate holds the operation back in a lane. -/
def State.gated (s : State) (t : Team) (o : Op) (lane : Nat) : Bool :=
  (o.gatesOf lane).any fun g => g.strict && !s.gateOpen t.die g

/-! ### Orderings of narrow scope (R319, R325, R326)

An ordering whose scope does not hold every device agent binds toward the agents of that scope alone, and an access may go
ahead of one that it so follows. From then on, until the one it follows has performed, every event is recorded with the edges
of R326 that lead to it. An access performs only if it closes no cycle that R326 forbids, and if every access in flight can
still perform after it, in some order, without closing one. -/

/-- The agents that an operation's access in a lane belongs to. -/
def Op.agent (o : Op) (id lane : Nat) : Agent :=
  match o.kind with
  | .copy _ => .copy id o.id
  | .absorb _ _ _ _ _ => .part
  | _ => .thread id o.g lane

/-- Two accesses touch a byte that one of them writes. -/
def Touch.conflict (a b : Touch) : Bool := (a.write || b.write) && locMeet a.loc a.size b.loc b.size

/-- A place `j` bytes on. -/
def Loc.plus (l : Loc) (j : Nat) : Loc :=
  match l with
  | .mem pa => .mem (pa + j)
  | .spad m o => .spad m (o + j)
  | .host f p a => .host f p (a + j)
  | .remote c h o => .remote c h (o + j)
  | .reply d => .reply d

/-- The thread to which an event belongs: its own, or the one that issued its command. -/
def Ev.thread (x : Ev) : Option (Nat × Nat × Nat) :=
  match x.agent with
  | .thread t g l => some (t, g, l)
  | .copy t _ => some (t, x.op.g, x.lane)
  | _ => none

/-- An event of a thread itself. -/
def Ev.ofThread (x : Ev) : Bool := match x.agent with | .thread _ _ _ => true | _ => false

/-- The event comes before another in one thread's program order. -/
def Ev.before (a b : Ev) : Bool := a.ofThread && a.thread == b.thread && decide (a.op.id < b.op.id)

/-- The event writes. -/
def Ev.writes (x : Ev) : Bool := x.touch.any (·.write)

/-- An event as the operation's access in a lane makes it. -/
def Op.event (o : Op) (id ceil next lane : Nat) (ts : List Touch) : Ev :=
  { agent := o.agent id lane, op := o, lane := lane, scope := o.actsAt ceil lane, touch := ts, next := next, ext := none,
    launch := none, seen := [], ins := [] }

/-- No operation: that of the events of the part and of external agents. -/
def Op.none : Op :=
  { id := 0, g := 0, lanes := [], sf := .none, op10 := 0, pc := 0, pccx := 0, scope := .system, acq := false, rel := false, seq := false,
    kind := .prefetch, gates := [] }

/-- An event of an agent that is no thread's. -/
def Agent.event (a : Agent) (ts : List Touch) : Ev :=
  { agent := a, op := Op.none, lane := 0, scope := 5, touch := ts, next := 0, ext := none, launch := none, seen := [], ins := [] }

/-- The fences of a thread, performed or not, with the scopes at which they act. -/
def State.fences (s : State) (g : List Ev) (x : Ev) : List (Op × Nat) :=
  (g.filter fun e => e.op.isFence && e.thread == x.thread).map (fun e => (e.op, e.scope)) ++
    match x.thread with
    | none => []
    | some (id, gr, l) =>
      match s.teams.look id with
      | none => []
      | some t => (t.ops.filter fun o => o.isFence && o.g == gr && o.lanes.contains l).map fun o =>
          (o, o.actsAt (s.ceiling t.ctx) l)

/-- R324: the carriers of the ord edges between two events of one thread, through its fences too. -/
def State.ordEdges (s : State) (g : List Ev) (a b : Ev) : List (Option Carrier) :=
  if !a.before b then []
  else
    let team := match a.thread with | some (t, _, _) => t | none => 0
    let through := (s.fences g a).filterMap fun f =>
      if a.op.id < f.1.id ∧ f.1.id < b.op.id ∧ !(a.op.carriers f.1 a.scope f.2).isEmpty ∧ !(f.1.carriers b.op f.2 b.scope).isEmpty
      then some f.2 else none
    (a.op.carriers b.op a.scope b.scope ++ through).map fun sc => some ⟨team, a.op.g, sc⟩

/-- R207, R327-R329: the edges by the gates of the later event. -/
def gateEdges (a b : Ev) : List (Option Carrier) :=
  (b.op.gatesOf b.lane).filterMap fun k =>
    match k with
    | .ops team g lanes n sc =>
      (match a.agent with
      | .thread u h l => if u = team ∧ h = g ∧ lanes.contains l ∧ a.op.id < n then some (some ⟨team, g, sc⟩) else none
      | _ => none)
    | .ext conn n => match a.ext with
      | some (c, m) => if c = conn ∧ m < n then some none else none
      | none => none

/-- R178: an event has observed the return of a granule that another event wrote. -/
def Ev.sawWrites (b a : Ev) : Bool :=
  a.touch.any fun x => x.write && match x.loc with
    | .spad m off => (granulesOf off x.size).any fun n => b.seen.contains (m, n)
    | _ => false

/-- R178, R181, R212, R328: a thread's event observes the writes of an engine: through the granules whose return it saw, and of a
command through an acquire load of the arrival word, or the cleared flag of a `cpout`. That a later access of its thread has seen
the flag is taken for granted, which is the model's choice (log 150). -/
def State.engineEdges (s : State) (a b : Ev) : List (Option Carrier) :=
  match a.agent, a.op.kind, b.ofThread with
  | .copy u k, .copy c, true =>
    let flying := match s.teams.look u with | some t => t.ops.any (·.id == k) | none => false
    let word := b.op.acq && decide (1 ≤ b.scope) && b.touch.any fun x => match x.loc, c.arrival with
      | .spad m off, some w => (m, off) == w
      | _, _ => false
    let flag := c.kind == 1 && a.op.sf.isSome && !flying && a.thread == b.thread && decide (a.op.id < b.op.id)
    if a.writes ∧ (b.sawWrites a ∨ word ∨ flag) then [some ⟨u, a.op.g, a.scope⟩] else []
  | .matrix u _, _, true => if b.sawWrites a then [some ⟨u, a.op.g, a.scope⟩] else []
  | _, _, _ => []

/-- R324: a later operation of a load's thread that issued once its value was there counts as dependent on it, whether or not
its registers are: the model's choice (log 150). -/
def depEdges (a b : Ev) : List (Option Carrier) :=
  if a.before b && (a.op.isLoad || a.op.isRmw) && decide (a.next ≤ b.op.id) then [none] else []

/-- R281, R328: the distributor's read before a dependent launch goes before the accesses of its teams. -/
def State.launchEdges (s : State) (a b : Ev) : List (Option Carrier) :=
  match a.launch, b.agent with
  | some n, .thread u _ _ => match s.teams.look u with
    | some t => if t.launch = n then [none] else []
    | none => []
  | _, _ => []

/-- Events of different agents; those of the part are of several. -/
def Ev.apart (a b : Ev) : Bool := a.agent != b.agent || a.agent == .part

/-- The number of the last event that writes a byte. -/
def lastWrite (g : List Ev) (l : Loc) : Option Nat :=
  (g.zipIdx.filter fun p => p.1.touch.any fun x => x.write && locMeet x.loc x.size l 1).getLast?.map (·.2)

/-- The number of recorded events from which a read of a byte is out of date: those that an INV on its way keeps from the
reader's die (R322). At a home (10) none is. -/
def State.since (s : State) (die : Nat) (l : Loc) : Option Nat :=
  match l with
  | .mem pa => (s.staleAt die (pa / 64)).map (·.since)
  | _ => none

/-- R324: event number `j` of the record comes before a new one by rf, co or fr: its bytes are overwritten, or read. The new
event reads what the record holds up to `since`. -/
def comBefore (g : List Ev) (j : Nat) (a x : Ev) (since : Loc → Option Nat) : Bool :=
  a.apart x && ((x.touch.any fun t => t.write && a.touch.any t.conflict) ||
    (a.agent.device && x.touch.any fun t => !t.write && (List.range t.size).any fun k =>
      let l := t.loc.plus k
      match since l with
      | some n => lastWrite (g.take n) l == some j
      | none => lastWrite g l == some j))

/-- R322, R324: a new event reads a byte that event number `j` overwrote at its home: fr leads from it to that event. -/
def comAfter (j : Nat) (b x : Ev) (since : Loc → Option Nat) : Bool :=
  x.touch.any fun t => !t.write && (List.range t.size).any fun k =>
    let l := t.loc.plus k
    match since l with
    | some n => decide (n ≤ j) && b.touch.any fun y => y.write && locMeet y.loc y.size l 1
    | none => false

/-- R327: an acquire at system scope that reads an external write follows the earlier writes of its connection. -/
def extEdges (a x : Ev) (reads : List (Nat × Nat)) : List (Option Carrier) :=
  match a.ext with
  | some (c, n) => if x.op.acq ∧ x.scope = 5 ∧ reads.any (fun r => r.1 == c && decide (n < r.2)) then [none] else []
  | none => []

/-- The edges that lead from an event of the record to a new one. -/
def State.edgesIn (s : State) (g : List Ev) (since : Loc → Option Nat) (reads : List (Nat × Nat)) (x : Ev) (p : Ev × Nat) :
    List (Option Carrier) :=
  (if comBefore g p.2 p.1 x since then [none] else []) ++ s.ordEdges g p.1 x ++ gateEdges p.1 x ++ s.engineEdges p.1 x
    ++ depEdges p.1 x ++ s.launchEdges p.1 x ++ extEdges p.1 x reads

/-- The edges that lead from a new event to one of the record, which has gone ahead of it or which it has not seen. -/
def State.edgesOut (s : State) (g : List Ev) (since : Loc → Option Nat) (x : Ev) (p : Ev × Nat) : List (Option Carrier) :=
  (if comAfter p.2 p.1 x since then [none] else []) ++ s.ordEdges g x p.1 ++ gateEdges x p.1

/-- The record with a new event. -/
def State.addEv (s : State) (g : List Ev) (since : Loc → Option Nat) (reads : List (Nat × Nat)) (x : Ev) : List Ev :=
  let n := g.length
  let ins := g.zipIdx.flatMap fun p => (s.edgesIn g since reads x p).map fun c => (p.2, c)
  (g.zipIdx.map fun p => { p.1 with ins := p.1.ins ++ (s.edgesOut g since x p).map fun c => (n, c) }) ++ [{ x with ins := ins }]

/-- R326: the events and carriers of a path agree: every event's agent lies in every carrier's scope. -/
def State.agree (s : State) (g : List Ev) (path : List Nat) (cs : List Carrier) : Bool :=
  path.all fun j => match g[j]? with
    | some e => cs.all fun c => s.inScope c.team c.g c.scope e.agent
    | none => false

/-- R326: a path from an event leads on to `target`, its events and carriers agreeing. -/
def State.leadsTo (s : State) (g : List Ev) (target : Nat) : Nat → List Nat → List Carrier → Bool
  | 0, _, _ => false
  | n + 1, path, cs =>
    g.zipIdx.any fun p => p.1.ins.any fun i =>
      path.head? == some i.1 &&
        (let cs' := match i.2 with | some c => c :: cs | none => cs
         s.agree g (p.2 :: path) cs' &&
          (p.2 == target || (!path.contains p.2 && s.leadsTo g target n (p.2 :: path) cs')))

/-- R326: the last event of the record closes a forbidden cycle. -/
def State.cyclic (s : State) (g : List Ev) : Bool :=
  match g.length with
  | 0 => false
  | n + 1 => s.leadsTo g n (n + 1) [n] []

/-- The accesses in flight, as the events that they are to be. -/
def State.pending (s : State) : List Ev :=
  s.teams.flatMap fun p => p.2.ops.flatMap fun o =>
    o.accs.map fun a => o.event p.1 (s.ceiling p.2.ctx) p.2.nextOp a.lane [a.touch (!o.isLoad)]

/-- The carriers by which an access in flight, or an event, follows another in flight. -/
def State.owes (s : State) (g : List Ev) (b q : Ev) : List (Option Carrier) := s.ordEdges g q b ++ gateEdges q b

/-- R319: an access in flight must wait for another of its thread, or of one that it follows: toward every device agent, or
for the bytes they share (R156). -/
def State.waitsFor (s : State) (g : List Ev) (b q : Ev) : Bool :=
  (q.before b && b.touch.any fun x => q.touch.any fun y => locMeet x.loc x.size y.loc y.size)
    || (s.owes g b q).any fun c => match c with | some c => decide (4 ≤ c.scope) | none => true

/-- The accesses in flight can all perform after the events of a record, in some order, without a forbidden cycle. -/
def State.finishes (s : State) : Nat → List Ev → List Ev → Bool
  | 0, _, _ => true
  | n + 1, g, ps =>
    ps.isEmpty || ps.zipIdx.any fun p =>
      let others := ps.eraseIdx p.2
      !(others.any (s.waitsFor g p.1)) &&
        (let g' := s.addEv g (fun _ => none) [] p.1
         !s.cyclic g' && s.finishes n g' others)

/-- An event that has performed still goes ahead of one that it follows, or an external write's INV is under way: events are
recorded. -/
def State.recording (s : State) : Bool :=
  !s.events.isEmpty &&
    ((s.coh.flight.any fun x => x.ext.isSome) ||
      (let ps := s.pending
       s.events.any fun b => ps.any fun q => !(s.owes s.events b q).isEmpty))

/-- The record of events. -/
def State.record (s : State) : List Ev := if s.recording then s.events else []

/-- The gates that still matter: those not open, and while events are recorded all of them. -/
def State.liveGates (s : State) (die : Nat) (gs : List Gate) : List Gate :=
  if s.record.isEmpty then gs.filter fun g => !s.gateOpen die g else gs

/-- The external writes that an event reads, at a die. -/
def State.extReads (s : State) (die : Nat) (x : Ev) : List (Nat × Nat) :=
  x.touch.flatMap fun t => match t.loc with
    | .mem pa => (List.range t.size).filterMap fun k => s.viewExt die (pa + k)
    | _ => []

/-- What an event of a die adds to the record. -/
def State.recorded (s : State) (die : Nat) (x : Ev) : List Ev := s.addEv s.record (s.since die) (s.extReads die x) x

/-- R319, R326: an event of a die may perform; `early` says that it goes ahead of something that it follows. -/
def State.allowed (s : State) (die : Nat) (early : Bool) (x : Ev) : Bool :=
  if s.record.isEmpty && !early then true
  else
    let g := s.recorded die x
    let rest := s.pending.filter fun q => !(q.agent == x.agent && q.op.id == x.op.id)
    !s.cyclic g && s.finishes rest.length g rest

/-- An event of a die has performed. -/
def State.noteEv (s : State) (die : Nat) (early : Bool) (x : Ev) : State :=
  if s.record.isEmpty && !early then (if s.events.isEmpty then s else { s with events := [] })
  else { s with events := s.recorded die x }

/-- R319: the operation may go ahead of what it follows in a lane: toward narrow scopes alone; an access to a remote page
follows others toward agents of its peer at system scope alone (R433). -/
def State.mayLead (s : State) (t : Team) (o : Op) (x : Touch) : Bool :=
  let bound := match x.loc with | .remote _ _ _ => 5 | _ => 4
  !o.isFence && (match o.kind with | .spawn _ => false | _ => true)
    && (s.follows t o x.lane).all fun p => decide (p.2 < bound)

/-- The operation goes ahead in a lane of something that it follows. -/
def State.early (s : State) (t : Team) (o : Op) (lane : Nat) : Bool :=
  !(s.follows t o lane).isEmpty || (o.gatesOf lane).any fun g => !s.gateOpen t.die g

/-- The events of an operation's accesses: those of one lane are one event. -/
def State.eventsOf (s : State) (id : Nat) (t : Team) (o : Op) (ts : List Touch) : List Ev :=
  (ts.map (·.lane)).dedup.map fun l => o.event id (s.ceiling t.ctx) t.nextOp l (ts.filter (·.lane == l))

/-- R358: accesses of a context have performed through a die's L2: a line that came for them counts as a miss, and where memory
supplied it as 64 bytes read. -/
def State.charge_ (s : State) (die ctx : Nat) (ts : List Touch) : State :=
  let lines := (ts.flatMap fun x => match x.loc with | .mem pa => linesOf pa x.size | _ => []).dedup
  lines.foldl (fun s k => match s.coh.l2.look (lineKey k die) with
    | some x =>
      if x.due = 0 then s
      else ((s.countBy ctx 3 1).countBy ctx 4 (if x.due = 2 then 64 else 0)).upCoh fun c =>
        { c with l2 := c.l2.put (lineKey k die) { x with due := 0 } }
    | none => s) (s.metered ctx)

/-- Accesses of an operation perform: their events are recorded; the context's counters take the traffic (R358). -/
def State.note (s : State) (id : Nat) (t : Team) (o : Op) (ts : List Touch) : State :=
  (s.eventsOf id t o ts).foldl (fun s x => s.noteEv t.die (s.early t o x.lane) x) (s.charge_ t.die t.ctx ts)

/-- R322: an acquire at system scope that returns an external write waits for its die's INVs of the earlier writes of the same
connection. -/
def State.extReady (s : State) (t : Team) (o : Op) (x : Touch) : Bool :=
  !o.acq || o.scope != .system ||
    match x.loc with
    | .mem pa => (List.range x.size).all fun k => match s.viewExt t.die (pa + k) with
      | some (conn, n) => !s.coh.invPending t.die conn n
      | none => true
    | _ => true

/-! ### When an access performs (R313, R318-R320, R383) -/

/-- R313, R320: the die's L2 holds the lines that an access reads, and may write those that it writes. A line that delivers
nothing is installed in no cache (R380). -/
def State.held (s : State) (t : Team) (x : Touch) : Bool :=
  match x.loc with
  | .mem pa => (linesOf pa x.size).all fun l =>
      (s.lineErr (s.worldOf t) l).isSome || (if x.write then s.coh.canWrite l t.die else s.coh.canRead l t.die)
  | _ => true

/-- The accesses of an operation may perform now: in the order of their thread, with what R318-R329 ask. -/
def State.may (s : State) (id : Nat) (t : Team) (o : Op) (ts : List Touch) : Bool :=
  ts.all (fun x => !s.gated t o x.lane && ((s.follows t o x.lane).isEmpty || s.mayLead t o x) && s.extReady t o x && s.held t x)
    && (s.eventsOf id t o ts).all fun x => s.allowed t.die (s.early t o x.lane) x

/-- R182, R175, R443: the lines that the L1 of a team's carve holds. -/
def Team.l1Lines (t : Team) : Nat := ((if t.die = 9 then 16 else 64) - t.mrf - t.spad) * 1024

/-- R182, R313: lines that a core reads enter its L1. -/
def State.fillLines (s : State) (t : Team) (ts : List Touch) : State :=
  match t.core with
  | none => s
  | some c => ts.foldl (fun s x => match x.loc with
      | .mem pa => s.upCoh fun h => (linesOf pa x.size).foldl (fun h l => h.fillL1 c t.l1Lines l) h
      | _ => s) s

/-- R358: memory has taken back lines that it held an older copy of: the context that wrote such a line last counts 64 bytes. -/
def State.paid (s : State) (old : Coherence) : State :=
  old.behind.foldl (fun s p =>
    if p.2.writer = 0 ∨ (s.coh.behind.look p.1).isSome then s
    else match s.ctxs.find? fun c => c.2.creation + 1 == p.2.writer with
      | some (i, _) => s.countBy i 4 64
      | none => s) s

/-- A step of the protocol, with the write-backs that it brings. -/
def State.cohPaid (s : State) (f : Coherence → Coherence) : State := (s.upCoh f).paid s.coh

/-- R315, R320: a die takes the lines of a place that its agent is to write; one that it may write already is its own, and one of
which something is under way stays where it is (log 149). -/
def State.seize (s : State) (die : Nat) (l : Loc) (n : Nat) : State :=
  match l with
  | .mem pa => (linesOf pa n).foldl (fun s k => if s.coh.canWrite k die then s else s.cohPaid (·.seize die (s.keyOf k) k)) s
  | _ => s

/-- R320, R383: a write of a thread or a command at a place; the lines are then Modified, in the core's L1, or for an atomic in
the L2 alone. -/
def State.storeAt (s : State) (t : Team) (atom : Bool) (l : Loc) (bs : List Byte) (tag : Bool) : State :=
  let s := s.seize t.die l bs.length
  let s' := s.putLoc (s.worldOf t) l bs tag
  match t.core, l with
  | some c, .mem pa => (linesOf pa bs.length).foldl (fun u k =>
      if s.coh.canWrite k c.die then
        let old := { s.lineData k with writer := match s.ctxs.look t.ctx with | some x => x.creation + 1 | none => 0 }
        u.upCoh fun h => if atom then h.wroteL2 c.die k (u.keyOf k) old else h.storeL1 c t.l1Lines k (u.keyOf k) old
      else u) s'
  | _, _ => s'

/-- R310, R313, R320: a store of an agent of the control die: the kernel unit, the distributor, Troy, the firmware. Its lines are
then Modified in that die's L2, under the key id of the access (R383). -/
def State.writeMem (s : State) (w pa : Nat) (bs : List Byte) (tag : Bool) : State :=
  let s := (s.noteEv 9 false (Agent.part.event [⟨0, .mem pa, bs.length, true⟩])).seize 9 (.mem pa) bs.length
  (linesOf pa bs.length).foldl (fun u k =>
    if s.coh.canWrite k 9 then u.upCoh (·.wroteL2 9 k (u.keyOf k) (s.lineData k)) else u) (s.putLoc w (.mem pa) bs tag)

/-- A write of an agent of the control die at a place. -/
def State.writeLoc (s : State) (w : Nat) (l : Loc) (bs : List Byte) (tag : Bool) : State :=
  match l with
  | .mem pa => s.writeMem w pa bs tag
  | l => s.putLoc w l bs tag

/-- R310, R313: an agent of the control die has read a place through that die's L2. -/
def State.partRead (s : State) (l : Loc) (n : Nat) : State :=
  match l with
  | .mem pa =>
    let s := s.noteEv 9 false (Agent.part.event [⟨0, l, n, false⟩])
    (linesOf pa n).foldl (fun s k => if (s.lineErr (s.keyOf k) k).isSome then s else s.cohPaid (·.copyIn 9 (s.keyOf k) k)) s
  | _ => s

/-- R315, R326: an agent of the control die may write a place now: nothing of its lines is under way, and no recorded event
forbids it. -/
def State.partMay (s : State) (l : Loc) (n : Nat) : Bool :=
  match l with
  | .mem pa => (linesOf pa n).all s.coh.settled && s.allowed 9 false (Agent.part.event [⟨0, l, n, true⟩])
  | _ => true

/-- R174: the passes of a space-1 access; lanes of an atomic count separately. -/
def passes (atomic : Bool) (acc : List (Nat × Nat)) : Nat :=
  let words := acc.flatMap fun p => List.range' (p.1 / 4) ((p.1 + p.2 - 1) / 4 - p.1 / 4 + 1)
  let words := if atomic then words else words.dedup
  max 1 (((List.range 64).map fun b => (words.filter (· % 64 == b)).length).foldl max 0)

/-- R169: the memory pipe is busy for the passes of the word's accesses through space-1 capabilities. -/
def Issue.memPipe (i : Issue) (atomic : Bool) (acc : List (Nat × Access)) (s : State) : State :=
  let own : List (Nat × Nat) := acc.filterMap fun p =>
    match p.2.loc with
    | .spad _ off => if p.1 = 1 then some (off, p.2.size) else none
    | _ => none
  if own.isEmpty then s
  else s.upTeam i.x.team fun t => { t with memBusy := i.core.cycle + passes atomic own }

end Sys2Proof.Machine
end

