-- ==== Sys2Proof/Machine/TeamInstr.lean ====
section
/-! DEFINITION. Team barriers, the carve, convergence registers and `yield` (07_group_team_instructions R203-R207, R217;
09_core_faults R262). -/

namespace Sys2Proof.Machine

open Sys2Proof

/-- A park with no access behind it. -/
def parkOf (i : Issue) (ins : Instr) (kind : Nat) (val : Word) : Park :=
  { kind := kind, cap := Cap.zero, addr := 0, val := val, scope := .team, acq := false, sf := i.x.ctl.sf, pd := none,
    obj := 0, m := 0, q := 0, next := i.x.pc + BitVec.ofNat 64 (wordLen ins), redo := false }

/-- R203: tbar; every visited thread parks until TEAM_BARRIER_RELEASE. -/
def execTbar (n : Fin 8) (s : State) : Host.Outcome State Fault Refusal :=
  laneWord (.tbar n) .alu 0 s fun i _ _ =>
    .ok { LaneOut.nil with park := some (parkOf i (.tbar n) 5 (BitVec.ofNat 32 n.val)) }

/-- R204: carve; every visited thread parks, and arrives once its flags are clear. -/
def execCarve (p : Fin 7) (x : Src) (n : Fin 8) (s : State) : Host.Outcome State Fault Refusal :=
  laneWord (.carve p x n) .alu 0 s fun i l t => do
    let w ← i.src l t x
    .ok { LaneOut.nil with
      park := some { parkOf i (.carve p x n) 6 (BitVec.ofNat 32 n.val) with pd := some p, obj := w.toNat } }

/-! ### Convergence registers (R31, R206, R207) -/

/-- A mask of lanes. -/
def laneMask (ls : List Nat) : BitVec 128 := BitVec.ofNat 128 (ls.foldl (fun m l => m ||| 2 ^ l) 0)

/-- The lanes Parked in `rbar.wait` on a register. -/
def Group.waiters (g : Group) (k : Nat) : List Nat :=
  (g.threads.filter fun p => match p.2.park with
    | some q => p.2.st == .parked && q.kind == 4 && q.val == BitVec.ofNat 32 k
    | none => false).map (·.1)

/-- R206, R229: the flags of the signatures that a new arming cancels clear at once. -/
def Group.cancelSigns (g : Group) (k : Nat) : Group :=
  match (g.g.getD k Conv.idle).sig with
  | none => g
  | some sg => sg.sf.foldl (fun g p => g.upThread p.1 fun t => { t with f := t.f.set p.2.val false }) g

/-- R206: rbar.init; it acts at issue on the visited lanes. Lanes that wait outside the new set are released by
CONVERGENCE_RELEASE at once. An empty set has arrived as soon as it is armed (R207). -/
def execRbarInit (n : Fin 8) (s : State) : Host.Outcome State Fault Refusal :=
  wordDo (.rbarInit n) s fun i =>
    let lanes := i.visited.map (·.1)
    let s' := i.commit (wordLen (.rbarInit n)) .alu 1 true (i.dead (.rbarInit n)) (lanes.map fun l => (l, LaneOut.nil))
    s'.upTeam i.x.team (·.upGroup i.x.g fun g =>
      let g := g.cancelSigns n.val
      let arrived := (g.waiters n.val).filter (lanes.contains ·)
      let c : Conv := ⟨laneMask lanes, laneMask arrived, !lanes.isEmpty, false, !arrived.isEmpty, none⟩
      { g with g := g.g.set n.val c })

/-- R207, R229: rbar.wait; a register in sign use raises MATRIX in every visited lane, whether the register expects the lane
or not. -/
def execRbarWait (n : Fin 8) (s : State) : Host.Outcome State Fault Refusal :=
  wordDo (.rbarWait n) s fun i =>
    let r := i.g.g.getD n.val Conv.idle
    let lanes := i.visited.map (·.1)
    let waits := lanes.filter fun l => r.armed && r.expect.getLsbD l
    if r.armed && r.sign && !lanes.isEmpty then i.raise (lanes.map fun l => (l, cMatrix))
    else
      let s' := i.commit (wordLen (.rbarWait n)) .alu 1 true (i.dead (.rbarWait n))
        (lanes.map fun l => (l, if waits.contains l
          then { LaneOut.nil with park := some (parkOf i (.rbarWait n) 4 (BitVec.ofNat 32 n.val)) } else LaneOut.nil))
      if waits.isEmpty then s'
      else s'.upTeam i.x.team (·.upGroup i.x.g fun g =>
        { g with g := g.g.modify n.val fun c => { c with arrived := c.arrived ||| laneMask waits, used := true } })

/-- R207: the register has every expected lane. -/
def Conv.complete (c : Conv) : Bool := c.armed && !c.sign && (c.expect &&& ~~~c.arrived) == 0

/-- R206, R207: waiting lanes that the register no longer holds, or all of them once it is complete. -/
def Group.released (g : Group) (k : Nat) : List Nat :=
  let c := g.g.getD k Conv.idle
  (g.waiters k).filter fun l => c.complete || !c.armed || !c.expect.getLsbD l

/-- No access of these lanes of a group is still to perform. -/
def Team.quiet (t : Team) (g : Nat) (lanes : List Nat) : Bool :=
  t.ops.all fun o => o.g != g || o.lanesLeft.all fun l => !lanes.contains l

/-- R207: the register with something to release. -/
def Team.convReady (_ : Team) (_ : Nat) (g : Group) : Option Nat :=
  (List.range 8).find? fun k => (g.g.getD k Conv.idle).complete || !(g.released k).isEmpty

/-! ### Barriers (R203, R204) -/

/-- The barrier a thread has arrived at. R204: a thread of a `carve` waits for its flags first. Its own named flag is set at
issue (R28) and clears with the word, so it is not among those it waits for, which is the model's choice (log 137). -/
def Thread.barrier (t : Thread) : Option Nat :=
  match t.park with
  | none => none
  | some p =>
    let clear := t.f.zipIdx.all fun q => !q.1 || p.sf.map (·.val) == some q.2
    if t.st == .parked ∧ (p.kind = 5 ∨ (p.kind = 6 ∧ clear)) then some p.val.toNat else none

/-- Every thread of the team with its place. -/
def Team.allThreads (t : Team) : List (Nat × Nat × Thread) :=
  t.groups.zipIdx.flatMap fun p => p.1.threads.map fun q => (p.2, q.1, q.2)

/-- Some thread of the team waits in a `carve`. -/
def Team.carving (t : Team) : Bool := t.allThreads.any fun p => match p.2.2.park with | some k => k.kind == 6 | none => false

/-- R203: the barrier that every thread which is not Free waits at. Where some of them carve, the accesses that arrived threads
have issued perform first, so that none is under way to bytes that the carve removes, which is the model's choice
(log 166). -/
def Team.barrierReady (t : Team) : Option Nat :=
  match t.allThreads with
  | [] => none
  | (_, _, th) :: r =>
    match th.barrier with
    | none => none
    | some n =>
      if (r.all fun p => p.2.2.barrier == some n) && (!t.carving || t.ops.all fun o => o.lanesLeft.isEmpty) then some n else none

/-- R205, R443: a valid carve word: N, mrf, spad. -/
def carveOk (core : CoreId) (groups : Nat) (w : Word) : Bool :=
  let n := w.toNat % 256
  let mrf := w.toNat / 256 % 16
  let spad := w.toNat / 4096 % 64
  let units := if core.die = 9 then 16 else 64
  n % 8 == 0 && decide (8 ≤ n) && decide (n ≤ 128) && decide (1 ≤ mrf)
    && decide (mrf ≤ (if core.die = 9 then 4 else 8)) && decide (spad ≤ (if core.die = 9 then 8 else 48))
    && decide (mrf + spad + (if core.die = 9 then 4 else 8) ≤ units)
    && w.toNat / 2 ^ 18 == 0 && decide (groups * widthOf core * n * 4 ≤ mrf * 65536)

/-- R17: the registers of a thread under a new N. -/
def Thread.resize (t : Thread) (n : Nat) : Thread :=
  { t with v := t.v.take n ++ List.replicate (n - t.v.length) 0,
           vtag := t.vtag.take (n / 4) ++ List.replicate (n / 4 - t.vtag.length) false }

/-- R176: some engine command works on, owns or counts in a granule from `from_` up. -/
def State.granuleBusy (s : State) (id : Nat) (t : Team) (from_ : Nat) : Bool :=
  (t.owner ++ t.named).any (fun k => decide (from_ ≤ k)) ||
    s.teams.any fun p => p.2.ops.any fun o => match o.kind with
      | .copy c => c.granules.any (fun g => g.1 == id && decide (from_ ≤ g.2))
          || (match c.arrival with | some (m, off) => m == id && decide (from_ ≤ off / 1024) | none => false)
      | .absorb _ _ _ _ gs => gs.any (fun g => g.1 == id && decide (from_ ≤ g.2))
      | _ => false

/-- R176, R17: the carve takes effect. -/
def Team.recarve (t : Team) (w : Word) : Team :=
  let n := w.toNat % 256
  let spad := w.toNat / 4096 % 64
  { t with nreg := n, mrf := w.toNat / 256 % 16, spad := spad,
           groups := t.groups.map fun g => g.mapThreads fun _ th => th.resize n,
           sp := t.sp.filter fun c => decide (c.1 < 65536 * spad),
           spTags := t.spTags.filter fun k => decide (k < 4096 * spad),
           owner := t.owner.filter fun k => decide (k < 64 * spad), named := t.named.filter fun k => decide (k < 64 * spad) }

/-! ### Deschedules (R260) -/

/-- No thread of the team issues or is still to reach its yield. -/
def Team.settled (t : Team) : Bool := t.allThreads.all fun p => p.2.2.st != .active

/-- R260: a Yielding team in which every thread is Stopped, Parked or Free drains; a cut decides for its own teams. -/
def Team.settleYield (t : Team) : Team :=
  if t.st == .yielding && t.desched && !t.cut && t.settled then { t with st := .draining, hold := none, slot := none } else t

/-! ### Budgets (R361) -/

/-- R361: the cycles charged in a core's window to a scheduling context and to those below it. -/
def State.charge (s : State) (k : Core) (x : Nat) : Nat → Nat
  | 0 => (k.charged.look x).getD 0
  | n + 1 =>
    let kids := (s.scheds.filter fun p => p.2.parent == some x).map (·.1)
    (k.charged.look x).getD 0 + (kids.map fun y => s.charge k y n).foldl (· + ·) 0

/-- R360, R361: 16 cycles per unit of share, as it stood when the core's window began, less what the last window took too
much. -/
def Sched.allowance (y : Sched) (k : Core) (x : Nat) : Nat := 16 * (k.shares.look x).getD y.share - (k.debt.look x).getD 0

/-- R361: a scheduling context has allowance left on a core. -/
def State.hasAllowance (s : State) (k : Core) (x : Nat) : Bool :=
  match s.scheds.look x with
  | some y => decide (s.charge k x (s.scheds.length + 1) < y.allowance k x)
  | none => true

/-- R361: every context of a chain has allowance left. -/
def State.chainAllows (s : State) (k : Core) : Nat → Nat → Bool
  | 0, _ => true
  | n + 1, x =>
    s.hasAllowance k x &&
      match (s.scheds.look x).bind (·.parent) with
      | some p => s.chainAllows k n p
      | none => true

/-- R361: the nearest context of a chain that has no allowance left. -/
def State.spentUp (s : State) (k : Core) : Nat → Nat → Option Nat
  | 0, _ => none
  | n + 1, x =>
    if !s.hasAllowance k x then some x
    else match (s.scheds.look x).bind (·.parent) with
      | some p => s.spentUp k n p
      | none => none

/-- R361: the cycles of a window. -/
def windowCycles : Nat := 2 ^ 20

/-! ### yield (R217, R262) -/

/-- R262: a liveness block that names a register at or above N, or sets a reserved bit. -/
def blockBad (n : Nat) (blk : List DWord) : Bool :=
  let w1 := (blk.getD 0 0).toNat
  let w2 := (blk.getD 1 0).toNat
  let w3 := (blk.getD 2 0).toNat
  (w1 + 2 ^ 64 * w2) / 2 ^ n != 0 || w3 % 256 != 0

/-- R217: yield; the thread waits for its flags, which YIELD_COMPLETE ends. -/
def execYield (step : BitVec 16) (s : State) : Host.Outcome State Fault Refusal :=
  wordDo (.yield step) s fun i =>
    if blockBad i.t.nreg i.x.blk then i.illegal
    else
      i.commit (wordLen (.yield step)) .alu 0 false (i.dead (.yield step))
        (i.visited.map fun p => (p.1, { LaneOut.nil with
          await := some (.yield step (i.x.blk.getD 0 0) (i.x.blk.getD 1 0) (i.x.blk.getD 2 0) (i.t.st == .halting)) }))

end Sys2Proof.Machine
end

