-- ==== Sys2Proof/Machine/Fetch.lean ====
section
/-! DEFINITION. Fetching a span's word, readiness and the choice of a word (03_encoding R58-R62; 06_core R165-R173;
01_thread_state R24), and what a core does next. -/

namespace Sys2Proof.Machine

open Sys2Proof

/-! ### Fetch (R58, R59, R62) -/

/-- R58: where the word at an address under a code capability lies. -/
def State.fetchLoc (s : State) (id : Nat) (t : Team) (world : Nat) (c : Cap) (pc : DWord) : Except MErr Loc :=
  match s.accessAt id t world c pEX pc.toNat 8 [0] none true true needX with
  | .error e => .error e
  | .ok (loc, _) => .ok loc

/-- R58: the word at an address under a code capability. -/
def State.fetchWord (s : State) (id : Nat) (t : Team) (world : Nat) (c : Cap) (pc : DWord) : Except MErr DWord :=
  match s.fetchLoc id t world c pc with
  | .error e => .error e
  | .ok loc =>
    match s.readFor t.die world loc 8 0 with
    | .error c => .error (errOf c)
    | .ok bs => .ok (BitVec.ofNat 64 (wordOfBytes bs))

/-- The bytes of `n` words from a PC on, as far as their fetch succeeds. -/
def State.fetchTouches (s : State) (id : Nat) (t : Team) (world : Nat) (c : Cap) (pc : DWord) (n : Nat) : List Touch :=
  (List.range n).filterMap fun j => match s.fetchLoc id t world c (pc + BitVec.ofNat 64 (8 * j)) with
    | .ok l => some ⟨0, l, 8, false⟩
    | .error _ => none

/-- What a fetch gives: the word decoded, and the literal or the words of the block it consumes, if their fetch succeeds;
a word with a reserved encoding decodes to `reservedOpcode` (R59). -/
structure Fetched where
  word : DWord
  ins : Instr
  ctl : Ctl
  ext : Except MErr (List DWord)

/-- The word of a span decoded: a reserved encoding, and one out of reach under N and W, is illegal whatever follows
it (R59). -/
def decodeAt (w : DWord) (n width : Nat) : Instr × Ctl :=
  match decode w with
  | .error _ => (.reservedOpcode, Ctl.none)
  | .ok y => if illegalAt y.i n width then (.reservedOpcode, Ctl.none) else (y.i, y.c)

/-- Words fetched one after another. -/
def State.fetchWords (s : State) (id : Nat) (t : Team) (world : Nat) (c : Cap) (pc : DWord) : Nat → Except MErr (List DWord)
  | 0 => .ok []
  | n + 1 => do
    let w ← s.fetchWord id t world c pc
    .ok (w :: (← s.fetchWords id t world c (pc + 8) n))

/-- R62: the literal or block words that follow a word. -/
def extWords (i : Instr) : Nat :=
  match i with
  | .yield _ => 3
  | _ => if usesLit i then 1 else 0

/-- R58, R62: fetch the word at a PC with the literal or liveness block it consumes. -/
def State.fetch (s : State) (id : Nat) (t : Team) (core : CoreId) (world : Nat) (c : Cap) (pc : DWord) :
    Except MErr Fetched :=
  match s.fetchWord id t world c pc with
  | .error e => .error e
  | .ok w =>
    let (i, ctl) := decodeAt w t.nreg (widthOf core)
    .ok ⟨w, i, ctl, s.fetchWords id t world c (pc + 8) (extWords i)⟩

/-- R59, R262: the word raises ILLEGAL for its own bits or those of its block. -/
def Fetched.illegal (f : Fetched) (n : Nat) : Bool :=
  f.ins == .reservedOpcode ||
    match f.ins, f.ext with
    | .yield _, .ok b => blockBad n b
    | _, _ => false

/-! ### Readiness (R167, R169) -/

/-- The pipe of a word. -/
inductive Pipe where
  | sfu | memory | matrix | copy | other
  deriving DecidableEq, Repr

/-- R169, R228: the pipes that can be busy when a word is chosen. -/
def pipeOf (i : Instr) : Pipe :=
  match i with
  | .divI32 _ _ _ => .sfu
  | .divN32 _ _ _ => .sfu
  | .remI32 _ _ _ => .sfu
  | .remN32 _ _ _ => .sfu
  | .fdiv _ _ _ => .sfu
  | .frcp _ _ => .sfu
  | .frsq _ _ => .sfu
  | .fsqrt _ _ => .sfu
  | .fexp2 _ _ => .sfu
  | .flog2 _ _ => .sfu
  | .fsin _ _ => .sfu
  | .fcos _ _ => .sfu
  | .ldB8 _ _ _ _ => .memory
  | .ldB16 _ _ _ _ => .memory
  | .ldB32 _ _ _ _ => .memory
  | .ldB64 _ _ _ _ => .memory
  | .ldB128 _ _ _ _ => .memory
  | .ldc _ _ _ _ => .memory
  | .stB8 _ _ _ _ _ => .memory
  | .stB16 _ _ _ _ _ => .memory
  | .stB32 _ _ _ _ _ => .memory
  | .stB64 _ _ _ _ _ => .memory
  | .stB128 _ _ _ _ _ => .memory
  | .stc _ _ _ _ _ => .memory
  | .atomAdd _ _ _ _ _ => .memory
  | .atomMinI32 _ _ _ _ _ => .memory
  | .atomMinN32 _ _ _ _ _ => .memory
  | .atomMaxI32 _ _ _ _ _ => .memory
  | .atomMaxN32 _ _ _ _ _ => .memory
  | .atomAnd _ _ _ _ _ => .memory
  | .atomOr _ _ _ _ _ => .memory
  | .atomXor _ _ _ _ _ => .memory
  | .atomXchg _ _ _ _ _ => .memory
  | .atomCas _ _ _ _ _ => .memory
  | .atomAdd64 _ _ _ _ _ => .memory
  | .atomCas64 _ _ _ _ _ => .memory
  | .atomCas128 _ _ _ _ _ => .memory
  | .atomFaddF32 _ _ _ _ _ => .memory
  | .fence _ _ => .memory
  | .waitne _ _ _ _ _ => .memory
  | .prefetch _ _ _ => .memory
  | .cpin _ _ _ _ _ => .copy
  | .cpout _ _ _ _ _ => .copy
  | .cpx _ _ _ _ _ => .copy
  | .cpfill _ _ _ _ => .copy
  | .mldb _ _ _ => .matrix
  | .mbeg _ _ _ _ _ => .matrix
  | .mma _ _ _ => .matrix
  | .mend _ _ _ => .matrix
  | .mzero _ => .matrix
  | .mrd _ _ => .matrix
  | .mstat _ _ => .matrix
  | _ => .other

/-- Commands in flight (R210). -/
def Team.copies (t : Team) : Nat := (t.ops.filter fun o => match o.kind with | .copy _ => true | _ => false).length

/-- R169, R210, R228: the pipe accepts a word of `m` lanes in a cycle. -/
def Team.pipeFree (t : Team) (cycle m : Nat) (i : Instr) : Bool :=
  match pipeOf i with
  | .sfu => decide (t.sfuBusy ≤ cycle)
  | .memory => decide (t.memBusy ≤ cycle)
  | .matrix => decide (t.mx.queue.length < 32)
  | .copy => decide (t.copies + m ≤ 64)
  | .other => true

/-- R198: a word that reads or writes %fps. -/
def touchesFps (i : Instr) : Bool :=
  match i with
  | .sread _ n => n.val == 8
  | .swrite _ => true
  | _ => false

/-- R61: the distance count D. -/
def Thread.distance (t : Thread) (cycle : Nat) : Nat :=
  match t.last with
  | none => 7
  | some c => min 7 (cycle - c)

/-- R23: the latches that the word reads through their homes are 4 cc old; an operand-cache home that is invalid raises
OCINV at once. -/
def Thread.latchesReady (t : Thread) (cycle : Nat) (i : Instr) : Bool :=
  (latchesOf i).all fun k =>
    let l := t.b.getD k Latch.none
    !l.lost || l.stale ||
      match l.home with
      | none => true
      | some (.v _) => decide (l.ready ≤ cycle)
      | some (.o n) => !flagAt t.oval n || decide (l.ready ≤ cycle)

/-- R27: the guard of a word holds in a thread. -/
def guards (c : Ctl) (t : Thread) : Bool :=
  match c.pr with
  | none => true
  | some n => flagAt t.p n.val

/-- R61, R28, R14, R198, R23: a member thread allows the word in this cycle. -/
def Thread.ready (t : Thread) (cycle : Nat) (i : Instr) (c : Ctl) : Bool :=
  t.await.isNone && decide (c.st.val ≤ t.distance cycle)
    && ((List.range 12).all fun k => !(c.wm.getLsbD k && flagAt t.f k))
    && (match c.sf with | some n => !flagAt t.f n.val | none => true)
    && (!touchesFps i || (t.f.all (!·) && decide (4 ≤ t.distance cycle)))
    && (!guards c t || t.latchesReady cycle i)

/-- R75: the fetch of a lane follows the fences with acquire ordering that its thread executed before its last taken transfer, and
what those follow, and nothing else. -/
def fetchOp (g lane : Nat) (th : Thread) : Op :=
  { Op.none with id := th.xfer, g := g, lanes := [lane], gates := th.fetchGates.map fun k => (lane, k) }

/-- R75, R326: a lane may fetch these bytes: the fences that the fetch follows have performed, and nothing that they order before it
is still to perform where the fetch would then return an old word. -/
def State.fetchFree (s : State) (id : Nat) (t : Team) (g : Nat) (ts : List Touch) (lane : Nat) (th : Thread) : Bool :=
  let o := fetchOp g lane th
  (t.ops.all fun f => !(f.isFence && f.acq && f.g == g && decide (f.id < th.xfer) && f.lanesLeft.contains lane))
    && !s.gated t o lane
    && s.allowed t.die (th.fetchGates.any fun k => !s.gateOpen t.die k)
        { o.event id (s.ceiling t.ctx) t.nextOp lane ts with agent := .thread id g lane }

/-- R214, R247: an `arrset` issues once the earlier accesses of its visited threads, and what those follow, have performed
(log 158). -/
def State.arrFree (s : State) (t : Team) (g lane : Nat) (th : Thread) : Bool :=
  t.quiet g [lane] && (th.gates.all fun k => s.gateOpen t.die k) && s.record.isEmpty

/-- A span with what its fetch gave; `free` says that the words are in the die's L2 (R182, R313) and that the memory model lets its
threads fetch, and execute, them now. -/
structure Cand where
  g : Nat
  e : PcEntry
  got : Except MErr Fetched
  free : Bool

/-- R59, R167: the span may be chosen. A word that raises ILLEGAL waits for nothing but its fetch, nor does a word whose
own fetch fails; one whose literal or block fails waits like any other. A thread that waits for its own flags after
`yield`, `exit` or `tend` issues nothing (R14). -/
def Cand.ready (k : Cand) (t : Team) (cycle : Nat) : Bool :=
  let threads := k.e.mask.filterMap fun l => (t.thread k.g l).map fun th => (l, th)
  !threads.isEmpty && (threads.all fun p => p.2.await.isNone) && k.free &&
    match k.got with
    | .error _ => true
    | .ok f =>
      f.illegal t.nreg || ((threads.all fun p => p.2.ready cycle f.ins f.ctl) &&
        t.pipeFree cycle (threads.filter fun p => guards f.ctl p.2).length f.ins)

/-- R62: the words that a span takes from memory. -/
def fetchLen (got : Except MErr Fetched) : Nat := match got with | .ok f => 1 + extWords f.ins | .error _ => 1

/-- The words of a span can be taken and executed now. -/
def State.spanFree (s : State) (id : Nat) (t : Team) (g : Nat) (mask : List Nat) (ts : List Touch) (got : Except MErr Fetched) : Bool :=
  let threads := mask.filterMap fun l => (t.thread g l).map fun th => (l, th)
  ts.all (s.held t) && (threads.all fun p => s.fetchFree id t g ts p.1 p.2) &&
    match got with
    | .ok f => (match f.ins with
      | .arrset _ _ _ => threads.all fun p => !guards f.ctl p.2 || s.arrFree t g p.1 p.2
      | _ => true)
    | .error _ => true

/-- The code capability of a PC-table entry. -/
def Group.codeOf (g : Group) (pccx : Nat) : Cap := (g.pcc.getD pccx none).getD Cap.zero

/-- R424: the word of a span waits on a page request of the part. -/
def State.pageWaits (s : State) (id g : Nat) (pc : DWord) : Bool :=
  s.pageReqs.any fun r => r.answer.isNone && r.span == some (id, g, pc)

/-- The spans of a team with their words; a halted group issues nothing (R249). -/
def State.spans (s : State) (id : Nat) (t : Team) (core : CoreId) : List Cand :=
  (t.groups.zipIdx).flatMap fun p =>
    if p.1.halted then []
    else ((p.1.pct.filterMap fun x => x).filter fun e => !s.pageWaits id p.2 e.pc).map fun e =>
      let world := (s.core core).world
      let code := p.1.codeOf e.pccx
      let got := s.fetch id t core world code e.pc
      { g := p.2, e := e, got := got,
        free := s.spanFree id t p.2 e.mask (s.fetchTouches id t world code e.pc (fetchLen got)) got }

/-! ### The hold of R24 -/

/-- R24: a word reads a latch and has wm = 0. -/
def holdsFor (f : Except MErr Fetched) : Bool :=
  match f with
  | .error _ => false
  | .ok f => f.ctl.wm == 0 && !(latchesOf f.ins).isEmpty

/-- R24: the group the core may not leave. -/
def Team.heldGroup (t : Team) : Option Nat := t.hold.map (·.g)

/-- R24: as a cycle ends, a hold stands for the lanes that have issued nothing since the latch-only word; in the cycle of
that word, for those of them whose next word reads a latch and has wm = 0. -/
def State.settleHold (s : State) (c : CoreId) (id : Nat) (t : Team) : Option LatchHold :=
  match t.hold with
  | none => none
  | some h =>
    match t.groups[h.g]? with
    | none => none
    | some g =>
      let k := s.core c
      let ls := (g.holdLanes h).filter fun l =>
        k.cycle + 8 != h.last ||
          match g.threads.look l with
          | some th => holdsFor (s.fetch id t c k.world (g.pccOf th) th.pc)
          | none => false
      if ls.isEmpty then none else some { h with lanes := ls }

/-! ### The choice (R168, R171-R173) -/

/-- The lowest PC, and then the lowest pccx, of a list of spans. -/
def lowestSpan : List Cand → Option Cand
  | [] => none
  | k :: r =>
    match lowestSpan r with
    | none => some k
    | some m => if k.e.pc.toNat < m.e.pc.toNat ∨ (k.e.pc = m.e.pc ∧ k.e.pccx ≤ m.e.pccx) then some k else some m

/-- The group with the oldest stamp among candidates. -/
def oldestGroup (t : Team) : List Nat → Option Nat
  | [] => none
  | g :: r =>
    match oldestGroup t r with
    | none => some g
    | some m =>
      let age := fun k => ((t.groups[k]?).map (·.age)).getD 0
      if age g ≤ age m then some g else some m

/-- R168: the span chosen among the ready ones; all groups of a team have its priority (R160). -/
def chooseSpan (t : Team) (held : Option Nat) (ready : List Cand) : Option Cand :=
  let groups := (ready.map (·.g)).dedup
  let g := match held with
    | some h => if groups.contains h then some h else none
    | none =>
      match t.lastG with
      | some l => if groups.contains l then some l else oldestGroup t groups
      | none => oldestGroup t groups
  match g with
  | none => none
  | some g => lowestSpan (ready.filter (·.g == g))

/-- R172: the conflict count of a word over the threads of its span; a P word has none (R71). The per-lane counts are taken
over all member lanes, also those whose guard is false: R172 says only `each lane`, and this is the model's choice
(log 139). -/
def conflictCount (t : Team) (k : Cand) (f : Fetched) : Nat :=
  match f.ins with
  | .pairedWord _ _ _ => 0
  | _ => ((k.e.mask.filterMap fun l => t.thread k.g l).map fun th => conflicts (regsOf f.ins t.nreg th)).foldl max 0

/-- The banks that the word reads. -/
def banksRead (t : Team) (k : Cand) (f : Fetched) : List Nat :=
  ((k.e.mask.filterMap fun l => t.thread k.g l).flatMap fun th => (regsOf f.ins t.nreg th).map (· % 4)).dedup

/-- The banks an update writes. -/
def Upd.banks : Upd → List Nat
  | .v n _ => [n % 4]
  | .quad _ _ => [0, 1, 2, 3]
  | _ => []

/-- R173: in the c-th cycle after this one an ALU write-back goes to a bank that the word reads; those of this cycle have
performed already. -/
def collides (t : Team) (cycle c : Nat) (banks : List Nat) : Bool :=
  (t.pend.any fun p => p.due == cycle + c && p.kind == .alu && p.upds.any fun u => u.2.banks.any (banks.contains ·))
    || (c == 0 && t.wrote.any (banks.contains ·))

/-- R171: the cycles from choice to issue. -/
def issueDelay (t : Team) (cycle : Nat) (k : Cand) : Nat :=
  match k.got with
  | .error _ => 0
  | .ok f =>
    if f.ins == .reservedOpcode then 0
    else
      let c := conflictCount t k f
      c + (if collides t cycle c (banksRead t k f) then 1 else 0)

/-- R168: where a run has reached 32 words and a hold alone extends it, only the words that the hold awaits may issue, while
another group has a ready span. -/
def heldOnly (t : Team) (ready : List Cand) : List Cand :=
  match t.hold with
  | some h =>
    if 32 ≤ t.run ∧ ready.any (fun k => k.g != h.g) then ready.filter fun k => k.g == h.g && k.e.mask.any (h.lanes.contains ·)
    else ready
  | none => ready

/-! ### What a core does next -/

/-- The next act of a core (MODEL): a step of its own, a failing fetch, a word to issue, or the passing of a cycle. -/
inductive CoreAct where
  | event (i : Instr) (a : EvArg)
  | raise (s : State)
  | issue (i : Instr) (s : State)
  | pass (s : State)

/-- The arguments of a step of a core. -/
def evAt (c : CoreId) (g lane : Nat) : EvArg := { EvArg.none with core := c, g := g, lane := lane }

/-- The step that performs a due write. -/
def pendStep : PendKind → Instr
  | .alu => .aluWriteback
  | .pred => .predicateWriteback
  | .scalar => .scalarWriteback

/-- R165: some eligible queued thread can be housed now. -/
def Group.canHouse (g : Group) : Bool :=
  (g.pct.any (·.isNone) && g.eligible.isSome) ||
    g.line.any fun l => match g.threads.look l with
      | some t => t.wantsPcc.isNone && (g.entryOf t.pccx t.pc).isSome
      | none => false

/-- R13: the queued thread that can take a PCC entry now. -/
def Group.canAcquire (g : Group) : Option Nat :=
  g.line.find? fun l => match (g.threads.look l).bind Thread.wantsPcc with
    | some c => (g.pccTake l c).isSome
    | none => false

/-- R163, R165: as a cycle ends, the threads that became unhoused in it stand behind the queue, and the section's housing
is due if it can house any: it acts before anything else of the next cycle, in which the housed threads may be chosen. -/
def Group.endCycle (g : Group) : Group := { g with queue := g.line, joining := [], houseDue := g.canHouse }

/-- R261: the yield limit of a team. -/
def State.yieldLimit (s : State) (t : Team) : Nat := match s.scheds.look t.sched with | some x => x.ylim | none => 4096

/-- R261: the team has incurred yield debt. -/
def State.inDebt (s : State) (t : Team) (cycle : Nat) : Bool :=
  t.desched && t.st == .yielding &&
    (decide (t.deschedAt + 16 * s.yieldLimit t ≤ cycle) ||
      t.groups.any fun g => g.threads.any fun p => p.2.st == .active && p.2.await.isNone && decide (s.yieldLimit t ≤ p.2.words))

/-- R361: the scheduling context of a team's chain that has reached its allowance, while no deschedule is pending. -/
def State.spentSched (s : State) (k : Core) (t : Team) : Option Nat :=
  if t.desched then none else s.spentUp k (s.scheds.length + 1) t.sched

/-- R217, R119, R291: a thread whose `yield`, `exit` or `tend.nc` completes, its flags being clear. -/
def Team.awaitDone (t : Team) : Option (Instr × Nat × Nat) :=
  t.allThreads.findSome? fun p =>
    match p.2.2.await with
    | some (.yield _ _ _ _ _) => if p.2.2.f.all (!·) then some (.yieldComplete, p.1, p.2.1) else none
    | some .exit => if p.2.2.f.all (!·) then some (.exitCompletion, p.1, p.2.1) else none
    | some (.tend none _) => if p.2.2.f.all (!·) then some (.tendCompletion, p.1, p.2.1) else none
    | _ => none

/-- R173, R296, R297: as a cycle ends, its write-backs are past, the slots that became Free in it stand behind the others, and an
idle core counts from the cycle in which it became idle. -/
def Team.endCycle (t : Team) (cycle : Nat) : Team :=
  { t with free := t.free ++ t.freed, freed := [], wrote := [], idleAt := if t.idle then some (t.idleAt.getD cycle) else none }

/-- R297: an idle core's search is due: it begins within 4,096 cycles. -/
def Team.searchDue (t : Team) (cycle : Nat) : Bool :=
  t.idle && match t.idleAt with | some n => decide (n + 4095 ≤ cycle) | none => false

/-- Steps that a core takes in the cycle in which they fall due (95): writes, the PCC and PC tables, affinity, the hold
of R24, yield debt, a steal search. -/
def State.dueStep (s : State) (c : CoreId) (t : Team) : Option (Instr × EvArg) :=
  let cycle := (s.core c).cycle
  match t.groups.zipIdx.find? fun p => p.1.houseDue with
  | some (_, g) => some (.unhousedHousing, evAt c g 0)
  | none =>
    match t.pend.find? fun p => decide (p.due ≤ cycle) with
    | some p => some (pendStep p.kind, evAt c 0 0)
    | none =>
      match t.groups.zipIdx.findSome? fun p => p.1.canAcquire.map fun l => (p.2, l) with
      | some (g, l) => some (.pccEntryAcquire, evAt c g l)
      | none =>
        match t.groups.zipIdx.find? fun p => decide (1024 ≤ p.1.crowd) with
        | some (_, g) => some (.spanDisplacement, evAt c g 0)
        | none =>
          match t.awaitDone with
          | some (i, g, l) => some (i, evAt c g l)
          | none =>
            match (if t.st.wakes then t.groups.zipIdx.findSome? fun p => (t.convReady p.2 p.1).map fun k => (p.2, k) else none) with
            | some (g, k) => some (.convergenceRelease, { evAt c g 0 with n := k })
            | none =>
              match (if t.st.wakes then t.barrierReady else none) with
              | some n => some (.teamBarrierRelease, { evAt c 0 0 with n := n })
              | none =>
                if 32 ≤ t.run ∧ t.hold.isNone then some (.affinityRunLimit, evAt c 0 0)
                else if (match t.hold with | some h => decide (h.last < cycle) | none => false) then some (.latchHoldExpiry, evAt c 0 0)
                else if s.inDebt t cycle then some (.yieldDebt, evAt c 0 0)
                else if t.searchDue cycle then some (.stealSearch, evAt c 0 0)
                else (s.spentSched (s.core c) t).map fun x => (.allowanceReached, { evAt c 0 0 with id := x })

/-- The core's cycle passes; the team's scheduling context is charged for it (R361), its context counts it (R358); its hold
and its queues are settled (R24, R163, R165). -/
def State.tick (s : State) (c : CoreId) : State :=
  let s := match (s.core c).team with
    | some id =>
      (match s.teams.look id with | some t => s.count t.ctx 1 | none => s).upTeam id fun t =>
        ({ t with groups := t.groups.map Group.endCycle, hold := s.settleHold c id t }.endCycle (s.core c).cycle).settleYield
    | none => s
  s.upCore c fun k =>
    { k with
      cycle := k.cycle + 1,
      charged := match k.team.bind (s.teams.look ·) with
        | some t => k.charged.put t.sched ((k.charged.look t.sched).getD 0 + 1)
        | none => k.charged }

/-- R182, R313: the words of a span pass through the core's L1. -/
def State.fillFetch (s : State) (t : Team) (ts : List Touch) : State := (s.charge_ t.die t.ctx ts).fillLines t ts

/-- Put a span into issue: its record, and the run of its group (R168); `others` says that another group had a ready
span. -/
def State.startIssue (s : State) (c : CoreId) (id : Nat) (k : Cand) (w : DWord) (ctl : Ctl) (ext : List DWord) (others : Bool) :
    State :=
  { s.upTeam id fun t => { t.noteRun k.g others with slot := none } with
    sel := some ⟨c, id, k.g, k.e.pccx, k.e.pc, k.e.mask, w, ctl, ext.getD 0 0, ext⟩ }

/-- R58, R59, R62, R217: issue the word of a span, or raise what its fetch raised: a failing word in every lane, and so a
literal or block past the end of the code capability; any other failure of a literal or block in the visited lanes. -/
def State.issueSpan (s : State) (c : CoreId) (id : Nat) (k : Cand) (others : Bool) : CoreAct :=
  match k.got with
  | .ok f =>
    match f.ext with
    | .ok ext =>
      let s := match s.teams.look id with
        | some t => s.fillFetch t (s.fetchTouches id t (s.core c).world
            ((t.groups[k.g]?).elim Cap.zero (·.codeOf k.e.pccx)) k.e.pc (fetchLen k.got))
        | none => s
      .issue f.ins (s.startIssue c id k f.word f.ctl ext others)
    | .error e =>
      let s := s.startIssue c id k f.word f.ctl [] others
      match s.issue with
      | none => .pass s
      | some i =>
        let lanes := if e.cause = cCapbound then k.e.mask else i.visited.map (·.1)
        if lanes.isEmpty then .issue f.ins s else .raise (i.raiseM (lanes.map fun l => (l, e)))
  | .error e =>
    let s := s.startIssue c id k 0 Ctl.none [] others
    match s.issue with
    | none => .pass s
    | some i => .raise (i.raiseM (k.e.mask.map fun l => (l, e)))

/-- A team that issues words (R253). -/
def TState.issues : TState → Bool
  | .running => true
  | .yielding => true
  | .halting => true
  | _ => false

/-- What the core does next. A thread that has merged into a chosen word's entry makes it wait too (the corner of R166): a
held word whose span is not ready in its issue cycle gives the slot back, which is the model's choice where R171 does not
say whether the held word takes the thread (log 136). -/
def State.coreAct (s : State) (c : CoreId) : CoreAct :=
  if (s.core c).window < (s.core c).cycle / windowCycles then .event .budgetWindow (evAt c 0 0)
  else match (s.core c).team with
  | none => .pass s
  | some id =>
    match s.teams.look id with
    | none => .pass s
    | some t =>
      match s.dueStep c t with
      | some (i, a) => .event i a
      | none =>
        if !t.st.issues then .pass s
        else
          let cycle := (s.core c).cycle
          let spans := s.spans id t c
          let ready := spans.filter (·.ready t cycle)
          match t.slot with
          | some h =>
            if cycle < h.issue then .pass s
            else
              match spans.find? fun k => k.g == h.g && k.e.pccx == h.pccx && k.e.pc == h.pc with
              | none => .pass (s.upTeam id fun t => { t with slot := none })
              | some k =>
                if k.ready t cycle then s.issueSpan c id k (ready.any fun r => r.g != k.g)
                else .pass (s.upTeam id fun t => { t with slot := none })
          | none =>
            match t.groups.zipIdx.find? fun p => t.st == .halting && !p.1.halted
                && (decide (16 ≤ p.1.skid) || !(ready.any fun r => r.g == p.2)) with
            | some (_, g) => .event .skidLimit (evAt c g 0)
            | none =>
              match chooseSpan t t.heldGroup (heldOnly t ready) with
              | none => .pass s
              | some k =>
                let d := issueDelay t cycle k
                if d = 0 then s.issueSpan c id k (ready.any fun r => r.g != k.g)
                else .pass (s.upTeam id fun t => { t with slot := some ⟨k.g, k.e.pccx, k.e.pc, cycle + d⟩ })

/-- The steps that units of the part take of their own accord; the other steps stand for what comes from outside: the
host, peers, the environment, and an instruction word. -/
def unitStep (i : Instr) : Bool :=
  match i with
  | .aluWriteback => true
  | .predicateWriteback => true
  | .scalarWriteback => true
  | .landingWrite => true
  | .storePerform => true
  | .latchHoldExpiry => true
  | .affinityRunLimit => true
  | .spanDisplacement => true
  | .unhousedHousing => true
  | .pccEntryAcquire => true
  | .waitneWake => true
  | .waitownComplete => true
  | .waitgenComplete => true
  | .teamBarrierRelease => true
  | .convergenceRelease => true
  | .joinComplete => true
  | .evwaitComplete => true
  | .yieldComplete => true
  | .exitCompletion => true
  | .tendCompletion => true
  | .taskStart => true
  | .refill => true
  | .stealSearch => true
  | .stealRequest => true
  | .stealFrameArrival => true
  | .arrivalWordUpdate => true
  | .copyComplete => true
  | .copyAbort => true
  | .mldbPerform => true
  | .mbegPerform => true
  | .mmaPerform => true
  | .mendPerform => true
  | .mzeroPerform => true
  | .mrdPerform => true
  | .mstatPerform => true
  | .currentGrant => true
  | .skidLimit => true
  | .stopComplete => true
  | .yieldDebt => true
  | .cutRound => true
  | .teamSave => true
  | .teamRestore => true
  | .launchAcceptance => true
  | .launchReady => true
  | .clusterPlacement => true
  | .teamCompletion => true
  | .budgetWindow => true
  | .allowanceReached => true
  | .priorityClaim => true
  | .equalPriorityHoldLimit => true
  | .filterActivation => true
  | .furlongPass => true
  | .revocationComplete => true
  | .ctxstopComplete => true
  | .ctxkillComplete => true
  | .asunmapComplete => true
  | .absorbComplete => true
  | .sealRecordWrite => true
  | .spareRemap => true
  | .rds => true
  | .rdx => true
  | .upg => true
  | .wb => true
  | .inv => true
  | .fwdS => true
  | .fwdX => true
  | .data => true
  | .grant => true
  | .ack => true
  | .stale => true
  | .withdrawalComplete => true
  | .keyArm => true
  | .keyDestroy => true
  | .keyDestruction => true
  | .keyQuery => true
  | .qiBind => true
  | .qiUnbind => true
  | .qiQuery => true
  | .qiInterrupt => true
  | .regExport => true
  | .regImport => true
  | .regWithdraw => true
  | .regUnimport => true
  | .query => true
  | .loadRoot => true
  | .pasidLive => true
  | .pasidRevoke => true
  | .hostMap => true
  | .hostUnmap => true
  | .modeSet => true
  | .connUp => true
  | .connDown => true
  | .certRead => true
  | .voidRead => true
  | .cxlAdd => true
  | .cxlRemove => true
  | .signal => true
  | .errlogRead => true
  | .rootClear => true
  | .reset => true
  | .dieTestComplete => true
  | .powerGate => true
  | .coreWake => true
  | .pasidRevocationComplete => true
  | _ => false

end Sys2Proof.Machine
end

