-- ==== Sys2Proof/Machine/FloatAlu.lean ====
section
/-! DEFINITION. The FP32, special-function, packed 16-bit and conversion blocks, and the P word
(04_thread_instructions R101-R110; 03_encoding R69-R71, R78). -/

namespace Sys2Proof.Machine

open Sys2Proof

/-! ### Shapes -/

/-- R42: the 16 random bits of a word; only SR reads b0. -/
def srBits (t : Thread) (m : RMode) : Except Word Nat :=
  match m with
  | .sr => do .ok ((← rdB t 0).toNat % 65536)
  | _ => .ok 0

/-- Two sources and a rounding mode. -/
def fp2 (ins : Instr) (d : Dst) (a b : SrcD) (m : RMode) (f : RMode → Nat → Word → Word → Word × Word) (s : State) :
    Host.Outcome State Fault Refusal :=
  aluWord ins s fun i l t => do
    let x ← i.src l t a.sel
    let y ← i.src l t b.sel
    let r ← srBits t m
    let v := f m r x y
    aluOut i t d v.1 v.2

/-- One source and a rounding mode. -/
def fp1 (ins : Instr) (d : Dst) (a : SrcD) (m : RMode) (f : RMode → Nat → Word → Word × Word) (s : State) :
    Host.Outcome State Fault Refusal :=
  aluWord ins s fun i l t => do
    let x ← i.src l t a.sel
    let r ← srBits t m
    let v := f m r x
    aluOut i t d v.1 v.2

/-- Three sources, always RNE. -/
def fp3 (ins : Instr) (d : Dst) (a b : SrcD) (c : SrcC) (f : Word → Word → Word → Word × Word) (s : State) :
    Host.Outcome State Fault Refusal :=
  aluWord ins s fun i l t => do
    let x ← i.src l t a.sel
    let y ← i.src l t b.sel
    let z ← rdC t c
    let v := f x y z
    aluOut i t d v.1 v.2

/-- A function of two codes as a function of words. -/
def onNat2 (f : Nat → Nat → Nat × Word) (a b : Word) : Word × Word := fw (f a.toNat b.toNat)
def onNat1 (f : Nat → Nat × Word) (a : Word) : Word × Word := fw (f a.toNat)
def onNat3 (f : Nat → Nat → Nat → Nat × Word) (a b c : Word) : Word × Word := fw (f a.toNat b.toNat c.toNat)

/-! ### FP32 (R102) -/

def execFadd (d : Dst) (a b : SrcD) (m : RMode) (s : State) := fp2 (.fadd d a b m) d a b m fadd32 s
def execFsub (d : Dst) (a b : SrcD) (m : RMode) (s : State) := fp2 (.fsub d a b m) d a b m fsub32 s
def execFmul (d : Dst) (a b : SrcD) (m : RMode) (s : State) := fp2 (.fmul d a b m) d a b m fmul32 s
def execFfma (d : Dst) (a b : SrcD) (x : SrcC) (s : State) := fp3 (.ffma d a b x) d a b x (onNat3 fp32.fma) s
def execFmin (d : Dst) (a b : SrcD) (s : State) :=
  fp2 (.fmin d a b) d a b .rne (fun _ _ => onNat2 (fp32.minNum false)) s
def execFmax (d : Dst) (a b : SrcD) (s : State) :=
  fp2 (.fmax d a b) d a b .rne (fun _ _ => onNat2 (fp32.minNum true)) s
def execFminp (d : Dst) (a b : SrcD) (s : State) :=
  fp2 (.fminp d a b) d a b .rne (fun _ _ => onNat2 (fp32.minProp false)) s
def execFmaxp (d : Dst) (a b : SrcD) (s : State) :=
  fp2 (.fmaxp d a b) d a b .rne (fun _ _ => onNat2 (fp32.minProp true)) s

/-- R102: the bit operations. -/
def fabsW (a : Word) : Word := a &&& 0x7FFFFFFF#32
def fnegW (a : Word) : Word := a ^^^ 0x80000000#32
def fcopysignW (a b : Word) : Word := (a &&& 0x7FFFFFFF#32) ||| (b &&& 0x80000000#32)

def execFabs (d : Dst) (a : SrcD) (s : State) := alu1 (.fabs d a) d a fabsW s
def execFneg (d : Dst) (a : SrcD) (s : State) := alu1 (.fneg d a) d a fnegW s
def execFcopysign (d : Dst) (a b : SrcD) (s : State) := alu2 (.fcopysign d a b) d a b fcopysignW s
def execFrnd (d : Dst) (a : SrcD) (m : RMode) (s : State) :=
  fp1 (.frnd d a m) d a m (fun m r => onNat1 (frndF m r)) s
def execFscale (d : Dst) (a b : SrcD) (m : RMode) (s : State) :=
  fp2 (.fscale d a b m) d a b m (fun m r x y => fw (fscaleF m r x.toNat y.toInt)) s
def execFgetexp (d : Dst) (a : SrcD) (s : State) := fp1 (.fgetexp d a) d a .rne (fun _ _ => onNat1 fgetexpF) s
def execFgetman (d : Dst) (a : SrcD) (s : State) := fp1 (.fgetman d a) d a .rne (fun _ _ => onNat1 fgetmanF) s

/-! ### Special functions (R103, R104) -/

def execFdiv (d : Dst) (a b : SrcD) (s : State) := long2 (.fdiv d a b) d a b (onNat2 fdivF) s
def execFrcp (d : Dst) (a : SrcD) (s : State) := long1 (.frcp d a) d a (onNat1 frcpF) s
def execFrsq (d : Dst) (a : SrcD) (s : State) := long1 (.frsq d a) d a (onNat1 frsqF) s
def execFsqrt (d : Dst) (a : SrcD) (s : State) := long1 (.fsqrt d a) d a (onNat1 fsqrtF) s
def execFexp2 (d : Dst) (a : SrcD) (s : State) := long1 (.fexp2 d a) d a (onNat1 fexp2F) s
def execFlog2 (d : Dst) (a : SrcD) (s : State) := long1 (.flog2 d a) d a (onNat1 flog2F) s
def execFsin (d : Dst) (a : SrcD) (s : State) := long1 (.fsin d a) d a (onNat1 (ftrigF false)) s
def execFcos (d : Dst) (a : SrcD) (s : State) := long1 (.fcos d a) d a (onNat1 (ftrigF true)) s

/-! ### Packed 16-bit (R105, R106) -/

def execHadd2Bf16 (d : Dst) (a b : SrcD) (s : State) :=
  fp2 (.hadd2Bf16 d a b) d a b .rne (fun _ _ => packed2 (fmtBf16.add .rne 0)) s
def execHmul2Bf16 (d : Dst) (a b : SrcD) (s : State) :=
  fp2 (.hmul2Bf16 d a b) d a b .rne (fun _ _ => packed2 (fmtBf16.mul .rne 0)) s
def execHfma2Bf16 (d : Dst) (a b : SrcD) (x : SrcC) (s : State) :=
  fp3 (.hfma2Bf16 d a b x) d a b x (packed3 fmtBf16.fma) s
def execHadd2F16 (d : Dst) (a b : SrcD) (s : State) :=
  fp2 (.hadd2F16 d a b) d a b .rne (fun _ _ => packed2 (fmtF16.add .rne 0)) s
def execHmul2F16 (d : Dst) (a b : SrcD) (s : State) :=
  fp2 (.hmul2F16 d a b) d a b .rne (fun _ _ => packed2 (fmtF16.mul .rne 0)) s
def execHfma2F16 (d : Dst) (a b : SrcD) (x : SrcC) (s : State) :=
  fp3 (.hfma2F16 d a b x) d a b x (packed3 fmtF16.fma) s
def execHdot2Bf16 (d : Dst) (a b : SrcD) (x : SrcC) (s : State) :=
  fp3 (.hdot2Bf16 d a b x) d a b x (onNat3 (hdotF fmtBf16)) s
def execHdot2F16 (d : Dst) (a b : SrcD) (x : SrcC) (s : State) :=
  fp3 (.hdot2F16 d a b x) d a b x (onNat3 (hdotF fmtF16)) s

/-! ### Conversions (R107-R110) -/

/-- R107: the prior value of the destination, a source of the word. -/
def Issue.oldOf (i : Issue) (t : Thread) (d : Dst) : Except Word Word :=
  match d with
  | .v n => .ok (t.rdV n.val)
  | .o n => rdO t n.val
  | .vx k e => do .ok (t.rdV (← indexed i.t.nreg t k e))
  | .latch => .ok 0

/-- R38: a word with one field replaced. -/
def putField (old : Word) (slot width code : Nat) : Word :=
  let lo := slot * width
  BitVec.ofNat 32 (old.toNat - old.toNat / 2 ^ lo % 2 ^ width * 2 ^ lo + code % 2 ^ width * 2 ^ lo)

/-- R38: the code in a field; the bits of the field above the code are ignored (R108). -/
def getField (w : Word) (f : NFmt) (slot : Nat) : Nat := w.toNat / 2 ^ (slot * nfField f) % 2 ^ nfWidth f

def execPk (d : Dst) (a : SrcD) (f : NFmt) (slot : Fin 8) (sat : Bool) (m : RMode) (s : State) :
    Host.Outcome State Fault Refusal :=
  aluWord (.pk d a f slot sat m) s fun i l t => do
    let x ← i.src l t a.sel
    let old ← i.oldOf t d
    let r ← srBits t m
    let v := pkF f m sat r x.toNat
    aluOut i t d (putField old slot.val (nfField f) v.1) v.2

def execUpk (d : Dst) (a : SrcD) (f : NFmt) (slot : Fin 8) (s : State) :=
  alu1 (.upk d a f slot) d a (fun x => BitVec.ofNat 32 (upkF f (getField x f slot.val))) s

def execCvtF32I32 (d : Dst) (a : SrcD) (m : RMode) (s : State) :=
  fp1 (.cvtF32I32 d a m) d a m (fun m r x => fw (cvtFromInt m r x.toInt)) s
def execCvtF32N32 (d : Dst) (a : SrcD) (m : RMode) (s : State) :=
  fp1 (.cvtF32N32 d a m) d a m (fun m r x => fw (cvtFromInt m r x.toNat)) s
def execCvtI32F32 (d : Dst) (a : SrcD) (sat : Bool) (m : RMode) (s : State) :=
  fp1 (.cvtI32F32 d a sat m) d a m (fun m r x => cvtToInt (-2147483648) 2147483647 m sat r x.toNat) s
def execCvtN32F32 (d : Dst) (a : SrcD) (sat : Bool) (m : RMode) (s : State) :=
  fp1 (.cvtN32F32 d a sat m) d a m (fun m r x => cvtToInt 0 4294967295 m sat r x.toNat) s

/-! ### The P word (R69-R71, R78) -/

/-- R71, R78: the result and the status of a half. -/
def halfOp (o : POp) (a b : Word) : Word × Word :=
  match o with
  | .add => (a + b, 0)
  | .sub => (a - b, 0)
  | .mul => (a * b, 0)
  | .and => (a &&& b, 0)
  | .or => (a ||| b, 0)
  | .xor => (a ^^^ b, 0)
  | .andn => (a &&& ~~~b, 0)
  | .shl => (shlW a b, 0)
  | .shr => (shrW a b, 0)
  | .sar => (sarW a b, 0)
  | .minI32 => (minS a b, 0)
  | .maxI32 => (maxS a b, 0)
  | .minN32 => (minU a b, 0)
  | .maxN32 => (maxU a b, 0)
  | .mov => (a, 0)
  | .popc => (popcW a, 0)
  | .clz => (clzW a, 0)
  | .not => (~~~a, 0)
  | .neg => (0 - a, 0)
  | .absI32 => (absW a, 0)
  | .fadd => fadd32 .rne 0 a b
  | .fsub => fsub32 .rne 0 a b
  | .fmul => fmul32 .rne 0 a b
  | .fmin => onNat2 (fp32.minNum false) a b
  | .fmax => onNat2 (fp32.minNum true) a b
  | .fabs => (fabsW a, 0)
  | .fneg => (fnegW a, 0)
  | .fmov => (a, 0)
  | .hadd2Bf16 => packed2 (fmtBf16.add .rne 0) a b
  | .hmul2Bf16 => packed2 (fmtBf16.mul .rne 0) a b
  | .hadd2F16 => packed2 (fmtF16.add .rne 0) a b
  | .hmul2F16 => packed2 (fmtF16.mul .rne 0) a b

/-- R70: the write and the home of a half's destination. -/
def halfDst : PHDst → Word → List Upd × Option Home
  | .o n, w => ([.o n.val w], some (.o n.val))
  | .v n, w => ([.v n.val w], some (.v n.val))
  | .latch, _ => ([], none)

def execPairedWord (fp : Bool) (h1 h2 : PHalf) (s : State) : Host.Outcome State Fault Refusal :=
  aluWord (.pairedWord fp h1 h2) s fun i l t => do
    let a1 ← i.psel l t h1.a
    let b1 ← i.psel l t h1.b
    let a2 ← i.psel l t h2.a
    let b2 ← i.psel l t h2.b
    let r1 := halfOp h1.op a1 b1
    let r2 := halfOp h2.op a2 b2
    let (u1, m1) := halfDst h1.d r1.1
    let (u2, m2) := halfDst h2.d r2.1
    .ok { LaneOut.nil with upds := u1 ++ u2, latch := [(r1.1, m1), (r2.1, m2)], fps := r1.2 ||| r2.2 }

end Sys2Proof.Machine
end

