-- ==== Sys2Proof/Machine/Memory.lean ====
section
/-! DEFINITION. The memory block: loads, stores, atomics, `fence`, `waitne`, `prefetch` (05_capabilities_memory
R143-R158). A word checks every lane at issue through WORLD and, for data that memory returns, MEMERR and MACFAIL; its
accesses then perform in an order R154-R156 allow. -/

namespace Sys2Proof.Machine

open Sys2Proof

/-! ### Modifiers -/

/-- R74: scope, acquire and sequential of a load; a relaxed load has no scope. -/
def ldParts : LdMod → Option Scope × Bool × Bool × Bool
  | .relaxed sx _ => (none, false, false, sx)
  | .acquire sc => (some sc, true, false, false)
  | .sequential sc => (some sc, true, true, false)

/-- R154: acquire, release and sequential of an ordering on an atomic or a fence. -/
def orderParts : Order → Bool × Bool × Bool
  | .relaxed => (false, false, false)
  | .acquire => (true, false, false)
  | .release => (false, true, false)
  | .acqRel => (true, true, false)
  | .sequential => (true, true, true)

/-- Where a register destination stands in a lane, an indexed one resolved (R26). -/
def Issue.destOf (i : Issue) (t : Thread) : Dst → Except Word Dest
  | .v n => .ok (.v n.val)
  | .o n => .ok (.o n.val)
  | .vx k d => do .ok (.v (← indexed i.t.nreg t k d))
  | .latch => .ok .none

/-- The place of a capability destination. -/
def capDest : CapSel → Dest
  | .w m => .capW m.val
  | .k n => .capK n.val

/-! ### Loads (R144-R146) -/

/-- R142 step 5: what the data of a place would raise now; the host's data come with the access (R424). -/
def Issue.dataErr (i : Issue) (l : Loc) (n : Nat) : Except MErr Unit :=
  match l with
  | .host _ _ _ => .ok ()
  | l =>
    match i.s.readFor i.t.die i.core.world l n 0 with
    | .error c => .error (errOf c)
    | .ok _ => .ok ()

/-- A load word of `size` bytes: the checks in every lane, then an operation that lands all lanes at once (R143). -/
def loadWord (ins : Instr) (b : CapSel) (off : Src) (m : LdMod) (size : Nat) (isCap : Bool)
    (dest : Issue → Thread → Except Word Dest) (s : State) : Host.Outcome State Fault Refusal :=
  wordDo ins s fun i =>
    let (sc, acq, seq, sx) := ldParts m
    match i.each (fun l t => do
        let o ← liftE (i.src l t off)
        let d ← liftE (dest i t)
        let c := i.cap t b
        let va := effAddr c o
        let (loc, tg) ← i.access c pLD va size [0, 1, 2] sc true true { needR with cap := isCap }
        let _ ← i.dataErr loc size
        .ok (c.space, d, (⟨l, loc, size, va, 0, 0, isCap && tg && c.has pLDC, Cap.zero, c.space⟩ : Access))) with
    | .error es => i.raiseM es
    | .ok rs =>
      let acc := rs.map fun p => (p.2.1, p.2.2.2)
      i.memPipe false acc
        (i.commitOp ins (rs.map fun p => (p.1, LaneOut.nil))
          { i.op (rs.map (·.1)) 0 (.load (acc.map (·.2)) (rs.map fun p => (p.1, p.2.2.1)) sx isCap []) with
            scope := sc.getD .system, acq := acq, seq := seq })

def execLdB8 (d : Dst) (b : CapSel) (off : Src) (m : LdMod) (s : State) :=
  loadWord (.ldB8 d b off m) b off m 1 false (fun i t => i.destOf t d) s
def execLdB16 (d : Dst) (b : CapSel) (off : Src) (m : LdMod) (s : State) :=
  loadWord (.ldB16 d b off m) b off m 2 false (fun i t => i.destOf t d) s
def execLdB32 (d : Dst) (b : CapSel) (off : Src) (m : LdMod) (s : State) :=
  loadWord (.ldB32 d b off m) b off m 4 false (fun i t => i.destOf t d) s
def execLdB64 (d : Fin 64) (b : CapSel) (off : Src) (m : LdMod) (s : State) :=
  loadWord (.ldB64 d b off m) b off m 8 false (fun _ _ => .ok (.pair (2 * d.val))) s
def execLdB128 (d : Fin 32) (b : CapSel) (off : Src) (m : LdMod) (s : State) :=
  loadWord (.ldB128 d b off m) b off m 16 false (fun _ _ => .ok (.quad d.val)) s
def execLdc (d b : CapSel) (off : Src) (m : LdMod) (s : State) :=
  loadWord (.ldc d b off m) b off m 16 true (fun _ _ => .ok (capDest d)) s

/-! ### Stores (R147-R150) -/

/-- A store word: the data of each lane with its capability when it is `stc`. -/
def storeWord (ins : Instr) (b : CapSel) (off : Src) (sc : Scope) (o : StOrd) (size : Nat) (isCap : Bool)
    (data : Issue → Nat → Thread → Except Word (BitVec 128 × Cap)) (s : State) : Host.Outcome State Fault Refusal :=
  wordDo ins s fun i =>
    match i.each (fun l t => do
        let (x, v) ← liftE (data i l t)
        let ofs ← liftE (i.src l t off)
        let c := i.cap t b
        let va := effAddr c ofs
        let (loc, _) ← i.access c pST va size [0, 1, 2] (some sc) true (storeCapOk v c)
          { needW with ts := v.tag, cap := isCap }
        .ok (c.space, (⟨l, loc, size, va, x, 0, v.tag, v, c.space⟩ : Access))) with
    | .error es => i.raiseM es
    | .ok rs =>
      let acc := rs.map (·.2)
      i.memPipe false acc
        (i.commitOp ins (rs.map fun p => (p.1, LaneOut.nil))
          { i.op (rs.map (·.1)) 0 (.store (acc.map (·.2)) isCap) with
            scope := sc, rel := o != .relaxed, seq := o == .sequential })

/-- A 32-bit source as store data. -/
def stData (a : Src) (i : Issue) (l : Nat) (t : Thread) : Except Word (BitVec 128 × Cap) := do
  .ok ((← i.src l t a).zeroExtend 128, Cap.zero)

def execStB8 (a : Src) (b : CapSel) (off : Src) (sc : Scope) (o : StOrd) (s : State) :=
  storeWord (.stB8 a b off sc o) b off sc o 1 false (stData a) s
def execStB16 (a : Src) (b : CapSel) (off : Src) (sc : Scope) (o : StOrd) (s : State) :=
  storeWord (.stB16 a b off sc o) b off sc o 2 false (stData a) s
def execStB32 (a : Src) (b : CapSel) (off : Src) (sc : Scope) (o : StOrd) (s : State) :=
  storeWord (.stB32 a b off sc o) b off sc o 4 false (stData a) s
def execStB64 (a : PSrc) (b : CapSel) (off : Src) (sc : Scope) (o : StOrd) (s : State) :=
  storeWord (.stB64 a b off sc o) b off sc o 8 false (fun i _ t => .ok ((i.psrc t a).zeroExtend 128, Cap.zero)) s
def execStB128 (a : Fin 32) (b : CapSel) (off : Src) (sc : Scope) (o : StOrd) (s : State) :=
  storeWord (.stB128 a b off sc o) b off sc o 16 false (fun _ _ t => .ok ((t.quad a.val).bits, Cap.zero)) s
def execStc (a b : CapSel) (off : Src) (sc : Scope) (o : StOrd) (s : State) :=
  storeWord (.stc a b off sc o) b off sc o 16 true (fun i _ t => .ok ((i.cap t a).bits, i.cap t a)) s

/-! ### Atomics (R151-R153) -/

/-- The atomics that are PCI Express AtomicOps at a host page (R424). -/
def Rmw.hostOk : Rmw → Bool
  | .add => true
  | .xchg => true
  | .cas => true
  | .add64 => true
  | .cas64 => true
  | _ => false

/-- What an atomic asks of its page. -/
def needA (k : Rmw) : Need := ⟨true, true, false, false, !k.hostOk, true, false⟩

/-- An atomic word: `data` gives a lane's operand and the new value of a compare. -/
def atomWord (ins : Instr) (k : Rmw) (b : CapSel) (sc : Scope) (o : Order) (size : Nat)
    (dest : Issue → Thread → Except Word Dest) (data : Issue → Nat → Thread → Except Word (BitVec 128 × BitVec 128))
    (s : State) : Host.Outcome State Fault Refusal :=
  wordDo ins s fun i =>
    match i.each (fun l t => do
        let (x, y) ← liftE (data i l t)
        let d ← liftE (dest i t)
        let c := i.cap t b
        let va := c.addr.toNat
        let (loc, _) ← i.access c (pLD ||| pST) va size [0, 1, 2] (some sc) true true (needA k)
        let _ ← i.dataErr loc size
        .ok (c.space, d, (⟨l, loc, size, va, x, y, false, Cap.zero, c.space⟩ : Access))) with
    | .error es => i.raiseM es
    | .ok rs =>
      let acc := rs.map fun p => (p.2.1, p.2.2.2)
      let (acq, rel, seq) := orderParts o
      i.memPipe true acc
        (i.commitOp ins (rs.map fun p => (p.1, LaneOut.nil))
          { i.op (rs.map (·.1)) 0 (.rmw k (acc.map (·.2)) (rs.map fun p => (p.1, p.2.2.1)) []) with
            scope := sc, acq := acq, rel := rel, seq := seq })

/-- A 32-bit destination that may be absent. -/
def optDest (d : Option Dst) (i : Issue) (t : Thread) : Except Word Dest :=
  match d with
  | some d => i.destOf t d
  | none => .ok .none

/-- A 32-bit operand. -/
def atomData (x : Src) (i : Issue) (l : Nat) (t : Thread) : Except Word (BitVec 128 × BitVec 128) := do
  .ok ((← i.src l t x).zeroExtend 128, 0)

/-- A 32-bit atomic with one operand. -/
def atom32 (ins : Instr) (k : Rmw) (d : Option Dst) (b : CapSel) (x : Src) (sc : Scope) (o : Order) (s : State) :
    Host.Outcome State Fault Refusal := atomWord ins k b sc o 4 (optDest d) (atomData x) s

def execAtomAdd (d : Option Dst) (b : CapSel) (x : Src) (sc : Scope) (o : Order) (s : State) :=
  atom32 (.atomAdd d b x sc o) .add d b x sc o s
def execAtomMinI32 (d : Option Dst) (b : CapSel) (x : Src) (sc : Scope) (o : Order) (s : State) :=
  atom32 (.atomMinI32 d b x sc o) .minI d b x sc o s
def execAtomMinN32 (d : Option Dst) (b : CapSel) (x : Src) (sc : Scope) (o : Order) (s : State) :=
  atom32 (.atomMinN32 d b x sc o) .minN d b x sc o s
def execAtomMaxI32 (d : Option Dst) (b : CapSel) (x : Src) (sc : Scope) (o : Order) (s : State) :=
  atom32 (.atomMaxI32 d b x sc o) .maxI d b x sc o s
def execAtomMaxN32 (d : Option Dst) (b : CapSel) (x : Src) (sc : Scope) (o : Order) (s : State) :=
  atom32 (.atomMaxN32 d b x sc o) .maxN d b x sc o s
def execAtomAnd (d : Option Dst) (b : CapSel) (x : Src) (sc : Scope) (o : Order) (s : State) :=
  atom32 (.atomAnd d b x sc o) .and d b x sc o s
def execAtomOr (d : Option Dst) (b : CapSel) (x : Src) (sc : Scope) (o : Order) (s : State) :=
  atom32 (.atomOr d b x sc o) .or d b x sc o s
def execAtomXor (d : Option Dst) (b : CapSel) (x : Src) (sc : Scope) (o : Order) (s : State) :=
  atom32 (.atomXor d b x sc o) .xor d b x sc o s
def execAtomXchg (d : Option Dst) (b : CapSel) (x : Src) (sc : Scope) (o : Order) (s : State) :=
  atom32 (.atomXchg d b x sc o) .xchg d b x sc o s
def execAtomFaddF32 (d : Option Dst) (b : CapSel) (x : Src) (sc : Scope) (o : Order) (s : State) :=
  atom32 (.atomFaddF32 d b x sc o) .fadd d b x sc o s

def execAtomCas (d : Option Dst) (b : CapSel) (x : Fin 64) (sc : Scope) (o : Order) (s : State) :=
  atomWord (.atomCas d b x sc o) .cas b sc o 4 (optDest d)
    (fun _ _ t => .ok ((t.rdV (2 * x.val)).zeroExtend 128, (t.rdV (2 * x.val + 1)).zeroExtend 128)) s

/-- A 64-bit destination that may be absent. -/
def optPair (d : Option (Fin 64)) (_ : Issue) (_ : Thread) : Except Word Dest :=
  .ok (match d with | some n => .pair (2 * n.val) | none => .none)

def execAtomAdd64 (d : Option (Fin 64)) (b : CapSel) (x : PSrc) (sc : Scope) (o : Order) (s : State) :=
  atomWord (.atomAdd64 d b x sc o) .add64 b sc o 8 (optPair d) (fun i _ t => .ok ((i.psrc t x).zeroExtend 128, 0)) s
def execAtomCas64 (d : Option (Fin 64)) (b : CapSel) (x : Fin 32) (sc : Scope) (o : Order) (s : State) :=
  atomWord (.atomCas64 d b x sc o) .cas64 b sc o 8 (optPair d)
    (fun _ _ t => .ok ((t.pair (4 * x.val)).zeroExtend 128, (t.pair (4 * x.val + 2)).zeroExtend 128)) s
def execAtomCas128 (d : Option (Fin 32)) (b : CapSel) (x : Fin 16) (sc : Scope) (o : Order) (s : State) :=
  atomWord (.atomCas128 d b x sc o) .cas128 b sc o 16
    (fun _ _ => .ok (match d with | some n => .quad n.val | none => .none))
    (fun _ _ t => .ok ((t.quad (2 * x.val)).bits, (t.quad (2 * x.val + 1)).bits)) s

/-! ### fence, waitne, prefetch (R155, R157, R158) -/

/-- R155, R312: fence. -/
def execFence (sc : Scope) (o : Order) (s : State) : Host.Outcome State Fault Refusal :=
  wordDo (.fence sc o) s fun i =>
    let lanes := i.visited.map (·.1)
    if !lanes.isEmpty && decide (i.s.ceiling i.t.ctx < scopeNo sc) then i.raise (lanes.map fun l => (l, cScope))
    else
      let (acq, rel, seq) := orderParts o
      let s' := i.commitOp (.fence sc o) (lanes.map fun l => (l, LaneOut.nil))
        { i.op lanes 0 .fence with scope := sc, acq := acq, rel := rel, seq := seq }
      if acq then s'.upTeam i.x.team (·.upGroup i.x.g fun g => g.mapThreads fun l th =>
        if lanes.contains l then { th with fenced := th.gates } else th)
      else s'

/-- The little-endian word at a place. -/
def wordAt (bs : List Byte) : Word := BitVec.ofNat 32 (wordOfBytes bs)

/-- The load of a word that waits, as an operation of its thread through a capability of a space: what it must follow. -/
def probe (g lane space : Nat) (loc : Loc) (size : Nat) (sc : Scope) (acq : Bool) (next : Nat) (gates : List Gate) : Op :=
  { id := next, g := g, lanes := [lane], sf := none, op10 := 0, pc := 0, pccx := 0, scope := sc, acq := acq, rel := false,
    seq := false, kind := .load [⟨lane, loc, size, 0, 0, 0, false, Cap.zero, space⟩] [] false false [],
    gates := gates.map fun k => (lane, k) }

/-- The load of a waiting word may perform. -/
def State.mayProbe (s : State) (id : Nat) (t : Team) (o : Op) : Bool := s.may id t o (o.accs.map (·.touch false))

/-- The load of a waiting word has performed: of a host page it was one request (R424). -/
def State.probed (s : State) (id : Nat) (t : Team) (o : Op) : State :=
  let ts := o.accs.map (·.touch false)
  o.accs.foldl (fun s a => s.askHost a.loc a.size) ((s.note id t o ts).fillLines t ts)

/-- The loads of the lanes that do not park have performed. -/
def State.probedAll (s : State) (id : Nat) (t : Team) (os : List (Op × LaneOut)) : State :=
  os.foldl (fun s p => if p.2.park.isNone then s.probed id t p.1 else s) s

/-- R157: waitne; a lane whose word differs completes, any other parks. A lane whose earlier accesses hold its load
back parks and is tested when they have performed. -/
def execWaitne (a : Src) (b : CapSel) (off : Src) (sc : Scope) (acq : Bool) (s : State) :
    Host.Outcome State Fault Refusal :=
  wordDo (.waitne a b off sc acq) s fun i =>
    match i.each (fun l t => do
        let v ← liftE (i.src l t a)
        let o ← liftE (i.src l t off)
        let c := i.cap t b
        let va := effAddr c o
        let (loc, _) ← i.access c pLD va 4 [0, 1, 2] (some sc) true true { needR with nr := true }
        let m ← (match i.s.readFor i.t.die i.core.world loc 4 (16 * l) with
          | .ok bs => .ok (wordAt bs)
          | .error e => .error (errOf e))
        let q := probe i.x.g l c.space loc 4 sc acq i.t.nextOp t.gates
        let go := i.s.mayProbe i.x.team i.t q && m != v
        let p : Park :=
          { kind := 1, cap := c, addr := va, val := v, scope := sc, acq := acq, sf := i.x.ctl.sf, pd := none, obj := 0,
            m := 0, q := 0, next := i.x.pc + BitVec.ofNat 64 (wordLen (.waitne a b off sc acq)), redo := false }
        .ok (c.space, (⟨l, loc, 4, va, 0, 0, false, Cap.zero, c.space⟩ : Access), q,
          if go then LaneOut.nil else { LaneOut.nil with park := some p })) with
    | .error es => i.raiseM es
    | .ok rs =>
      i.memPipe false (rs.map fun p => (p.2.1, p.2.2.1))
        ((i.commit (wordLen (.waitne a b off sc acq)) .alu 1 true (i.dead (.waitne a b off sc acq))
          (rs.map fun p => (p.1, p.2.2.2.2))).probedAll i.x.team i.t (rs.map fun p => p.2.2.2))

/-- R158: prefetch changes no value; a lane whose check fails is dropped. -/
def execPrefetch (b : CapSel) (off : Src) (h : Hint) (s : State) : Host.Outcome State Fault Refusal :=
  laneWord (.prefetch b off h) .alu 1 s fun i l t => do
    let _ ← i.src l t off
    .ok LaneOut.nil

end Sys2Proof.Machine
end

