-- ==== Sys2Proof/Machine/Objects.lean ====
section
/-! DEFINITION. The object table and its checks (15_package_kernel R340-R343), reserves and core sets (R343, R344,
R449), the mesh (R442, R443), and the shape of the kernel words (R345, R346). -/

namespace Sys2Proof.Machine

open Sys2Proof

/-! ### The object table (R340) -/

/-- The generation of an entry; an entry never used has generation 0. -/
def State.genOf (s : State) (i : Nat) : BitVec 32 := match s.objs.look i with | some o => o.gen | none => 0

/-- The lowest entry with no object: `k` counts the entries passed. -/
def freeEntryIn : NMap ObjEntry → Nat → Nat
  | [], k => k
  | (i, o) :: r, k => if k < i then k else if o.otype = 0 then i else freeEntryIn r (i + 1)

/-- R340, R346: an entry for a new object; `made` is what it was made from. None when the table is full. -/
def State.newObj (s : State) (otype : Nat) (made : Option Nat) : Option (Nat × State) :=
  let i := freeEntryIn s.objs 0
  if i < 2 ^ 20 then some (i, { s with objs := s.objs.put i ⟨otype, s.genOf i, made⟩ }) else none

/-- R340: an object is destroyed. -/
def State.dropObj (s : State) (i : Nat) : State := { s with objs := s.objs.put i ⟨0, s.genOf i + 1, none⟩ }

/-- R340: an object is destroyed while parts of it are still to end: its entry is not free yet. -/
def State.retireObj (s : State) (i : Nat) : State := { s with objs := s.objs.upd i fun o => { o with otype := 63, gen := o.gen + 1 } }

/-- The entry of a retired object becomes free. -/
def State.freeObj (s : State) (i : Nat) : State :=
  { s with objs := s.objs.upd i fun o => if o.otype = 63 then { o with otype := 0, made := none } else o }

/-- R340: the capability names an object that exists. -/
def State.live (s : State) (c : Cap) : Bool :=
  match s.objs.look c.objIndex with
  | some o => o.otype == c.otype && o.gen == c.objGen
  | none => false

/-- R342: obj_check. -/
def State.objCheck (s : State) (ctx : Nat) (c : Cap) (types : List Nat) (right : BitVec 16) : Except Word Unit :=
  if !c.tag then .error cCaptag
  else if c.space ≠ 3 ∨ ¬ types.contains c.otype then .error cKernel
  else if ¬ c.has right then .error cCapperm
  else if !s.live c || s.covered ctx c then .error cRevoked
  else .ok ()

/-- The capability of an object with permissions. -/
def State.capOf (s : State) (perms : BitVec 16) (i : Nat) : Cap :=
  Cap.object perms (match s.objs.look i with | some o => o.otype | none => 0) i (s.genOf i)

/-! ### Reserves (R343) -/

/-- The lowest run of `n` free units, aligned to `al` units, from `cur` up, among the runs in use. -/
def gapFrom (n al total : Nat) : Nat → List (Nat × Nat) → Option Nat
  | cur, [] =>
    let c := (cur + al - 1) / al * al
    if c + n ≤ total then some c else none
  | cur, (a, l) :: r =>
    let c := (cur + al - 1) / al * al
    if c + n ≤ a then some c else gapFrom n al total (max cur (a + l)) r

/-- Mark a run as in use. -/
def addRun (a n : Nat) : List (Nat × Nat) → List (Nat × Nat)
  | [] => [(a, n)]
  | (b, l) :: r => if a < b then (a, n) :: (b, l) :: r else (b, l) :: addRun a n r

/-- Free the units [a, a + n). -/
def freeRun (a n : Nat) (l : List (Nat × Nat)) : List (Nat × Nat) :=
  l.flatMap fun p =>
    (if p.1 < a then [(p.1, min p.2 (a - p.1))] else []) ++
      (if a + n < p.1 + p.2 then [(max p.1 (a + n), p.1 + p.2 - max p.1 (a + n))] else [])

/-- The ranges of a reserve: its own, and those that replace lost bytes (R371). -/
def Reserve.ranges (x : Reserve) : List Range := ⟨x.pa, x.len, x.used⟩ :: x.more

/-- Change the free map of the range that holds an address. -/
def Reserve.upMap (x : Reserve) (pa : Nat) (f : Nat → List (Nat × Nat) → List (Nat × Nat)) : Reserve :=
  let on := fun (a n : Nat) => decide (a ≤ pa) && decide (pa < a + n)
  if on x.pa x.len then { x with used := f ((pa - x.pa) / 4096) x.used }
  else { x with more := x.more.map fun y => if on y.pa y.len then { y with used := f ((pa - y.pa) / 4096) y.used } else y }

/-- R343, R371: the lowest-addressed run of `n` free units of a range, at a multiple of `al` units, that no lost channel holds. -/
def Range.gap (x : Range) (lost : List (Nat × Nat)) (n al : Nat) : Option Nat :=
  let out := lost.filter fun r => decide (r.1 < x.pa + x.len) && decide (x.pa < r.1 + r.2)
  let used := out.foldl (fun u r =>
    let a := (r.1 - x.pa) / 4096
    let k := (r.1 + r.2 - x.pa + 4095) / 4096 - a
    addRun a k (freeRun a k u)) x.used
  let o := x.pa / 4096 % al
  (gapFrom n al (o + x.len / 4096) o (used.map fun r => (o + r.1, r.2))).map fun a => x.pa + 4096 * (a - o)

/-- R343: take a run of 4 KiB units of a reserve, the lowest-addressed one; its physical address. -/
def State.takeUnits (s : State) (r n al : Nat) : Option (Nat × State) :=
  match s.reserves.look r with
  | none => none
  | some x =>
    let found := x.ranges.filterMap fun y => y.gap s.lost n al
    match found with
    | [] => none
    | a :: more =>
      let pa := more.foldl min a
      some (pa, { s with reserves := s.reserves.put r (x.upMap pa fun k u => addRun k n u) })

/-- R343, R382: take units for an object other than a save slot; the kernel unit stores there under the package-internal key. -/
def State.takeObject (s : State) (r : Nat) : Option (Nat × State) :=
  (s.takeUnits r 1 1).map fun p => (p.1, (linesOf p.1 4096).foldl (fun s l => s.touchLine 64 l true) p.2)

/-- R343: give units back. -/
def State.giveUnits (s : State) (r pa n : Nat) : State :=
  { s with reserves := s.reserves.upd r fun x => x.upMap pa fun k u => freeRun k n u }

/-! ### The mesh (R442, R443) -/

/-- Columns and rows of a die's logical mesh. -/
def meshW (die : Nat) : Nat := if die = 9 then 4 else 16
def meshH (die : Nat) : Nat := if die = 9 then 4 else 8

/-- The cores of a rectangle, row by row from the north-west core (R277). -/
def rectCores (die x0 y0 w h : Nat) : List CoreId :=
  (List.range h).flatMap fun y => (List.range w).map fun x => ⟨die, (y0 + y) * meshW die + x0 + x⟩

/-- The rectangle lies in the mesh. -/
def rectFits (die x0 y0 w h : Nat) : Bool :=
  decide (die ≤ 9) && decide (x0 + w ≤ meshW die) && decide (y0 + h ≤ meshH die)

/-- R449: a core set holds a core. -/
def CoreSet.holds (c : CoreSet) (k : CoreId) : Bool := c.cores.any fun p => p.1 == coreNo k

/-- R280: some die's part of a core set holds a w × h rectangle. -/
def CoreSet.fits (c : CoreSet) (w h : Nat) : Bool :=
  c.cores.any fun p =>
    let k := coreOfNo p.1
    let x0 := k.pos % meshW k.die
    let y0 := k.pos / meshW k.die
    rectFits k.die x0 y0 w h && (rectCores k.die x0 y0 w h).all c.holds

/-- The core set of a context. -/
def State.csetOf (s : State) (ctx : Nat) : CoreSet :=
  match (s.ctxs.look ctx).bind fun c => s.csets.look c.cset with
  | some c => c
  | none => ⟨[], 0⟩

/-! ### Contexts and teams -/

/-- The priority of a team: that of its scheduling context (R160). -/
def State.prioOf (s : State) (t : Team) : Nat := match s.scheds.look t.sched with | some x => x.prio | none => 0

/-- The team of the word in issue as it stands. -/
def State.team (s : State) (id : Nat) : Option Team := s.teams.look id

/-- Change a thread. -/
def State.upThread (s : State) (team g lane : Nat) (f : Thread → Thread) : State :=
  s.upTeam team (·.upThread g lane f)

/-- Change a group. -/
def State.upGroup (s : State) (team g : Nat) (f : Group → Group) : State := s.upTeam team (·.upGroup g f)

/-- A thread. -/
def State.thread (s : State) (team g lane : Nat) : Option Thread := (s.teams.look team).bind (·.thread g lane)

/-- The teams whose chain of address spaces holds a space (R373). -/
def State.domainTeams (s : State) (space : Nat) : List Nat :=
  (s.teams.filter fun p => s.inDomain p.2.ctx space).map (·.1)

/-! ### The shape of a kernel word (R345, R346) -/

/-- R346: the status codes. -/
def kOk : Nat := 0
def kNomem : Nat := 1
def kLimit : Nat := 2
def kState : Nat := 3
def kShare : Nat := 4
def kBusy : Nat := 5
def kPrio : Nat := 6
def kRep : Nat := 7
def kOverlap : Nat := 8
def kSubset : Nat := 9

/-- R346: what a refused capability result holds. -/
def statusCap (n : Nat) : Cap := ⟨BitVec.ofNat 128 n, false⟩

/-- R346: a kernel word: the causes of every lane first; then the lanes act in ascending order. -/
def kernelWord {α : Type} (ins : Instr) (s : State) (check : Issue → Nat → Thread → Except MErr α)
    (act : Issue → State → Nat → α → State) : Host.Outcome State Fault Refusal :=
  wordDo ins s fun i =>
    match i.each (check i) with
    | .error es => i.raiseM es
    | .ok rs =>
      rs.foldl (fun s p => act i s p.1 p.2)
        (i.commit (wordLen ins) .alu 0 false (i.dead ins) (rs.map fun p => (p.1, LaneOut.nil)))

/-- The results of a lane land and its flag clears (R18, R346). -/
def Issue.land (i : Issue) (s : State) (lane : Nat) (upds : List Upd) : State :=
  if upds.isEmpty && i.x.ctl.sf.isNone then s
  else s.upTeam i.x.team (·.addOp (i.op [lane] 0 (.land (upds.map fun u => (lane, u)))))

/-- The write of a status or another 32-bit result to a resolved place. -/
def destUpd (d : Dest) (w : Word) : List Upd :=
  match d with
  | .v n => [.v n w]
  | .o n => [.o n w]
  | _ => []

/-- The write of a capability result. -/
def capDestUpd (d : Dest) (c : Cap) : List Upd :=
  match d with
  | .capW m => [.quad m c]
  | .capK n => [.k n c]
  | .quad m => [.quad m c]
  | _ => []

/-- A status lands. -/
def Issue.status (i : Issue) (s : State) (lane : Nat) (d : Dest) (n : Nat) : State :=
  i.land s lane (destUpd d (BitVec.ofNat 32 n))

/-- A capability result lands. -/
def Issue.capResult (i : Issue) (s : State) (lane : Nat) (d : CapSel) (c : Cap) : State :=
  i.land s lane (capDestUpd (capDest d) c)

/-- A thread of the span parks after its word has issued: it leaves its entry of the PC table (R163, R164). -/
def State.parkLane (s : State) (team g lane : Nat) (p : Park) (pc : DWord) : State :=
  s.upGroup team g fun gr =>
    (gr.unhouse lane).upThread lane fun t => { t with st := .parked, park := some p, pc := pc, stopKind := 3 }

/-- Writes of a delivery in one lane (R347), covered capabilities losing their tags (R373). -/
def State.deliverUpds (s : State) (team g lane : Nat) (us : List Upd) : State :=
  match s.teams.look team with
  | none => s
  | some t =>
    let us := us.map fun u => match u with
      | .quad m c => Upd.quad m (s.settleCap t.ctx c)
      | .k n c => .k n (s.settleCap t.ctx c)
      | u => u
    s.upGroup team g fun gr => us.foldl (fun gr u => gr.applyLanding lane u) gr

end Sys2Proof.Machine
end

