-- ==== Sys2Proof/Machine/Messages.lean ====
section
/-! DEFINITION. Endpoints, messages and answers (15_package_kernel R347-R351, R368), and the words `post`, `post.try`,
`ask`, `take`, `answer` and `settle`. -/

namespace Sys2Proof.Machine

open Sys2Proof

/-! ### What a message carries (R347, R348) -/

/-- The creation number of a context; one that is gone has none. -/
def State.bornNo (s : State) (ctx : Nat) : Option Nat := (s.ctxs.look ctx).map (·.creation)

/-- R348: whether a capability of a message keeps its tag at the taker: `born` is the creation number of the poster's context,
`space` and `sgen` the poster's address space and its generation. -/
def State.keepsTag (s : State) (born space : Nat) (sgen : BitVec 32) (takerCtx : Nat) (c : Cap) : Bool :=
  let same := s.bornNo takerCtx == some born
  let ts := s.spaceOf takerCtx
  let near := s.genOf space == sgen &&
    (ts == space || (match s.spaces.look ts with | some x => x.outer == some space | none => false))
  if c.space = 3 then c.has pCX || same
  else if c.space = 0 then near && (c.has pCX || same)
  else false

/-- R348: the rule with a context that stands as the poster. -/
def State.keepsFrom (s : State) (poster takerCtx : Nat) (c : Cap) : Bool :=
  s.keepsTag ((s.bornNo poster).getD 0) (s.spaceOf poster) (s.genOf (s.spaceOf poster)) takerCtx c

/-- R347, R348: a quad of a message as the taker receives it. -/
def State.quadAt (s : State) (m : Msg) (takerCtx : Nat) (c : Cap) : Cap :=
  if m.kernel || !c.tag then c else if s.keepsTag m.born m.space m.sgen takerCtx c then c else c.untag

/-- R347: the writes of a message into a taker's registers; `ans` is the quad wQ + 2. -/
def State.msgUpds (s : State) (m : Msg) (takerCtx mreg q : Nat) (ans : Cap) : List Upd :=
  (List.range 8).map (fun j => Upd.v (mreg + j) (m.words.getD j 0)) ++
    [.quad q (s.quadAt m takerCtx m.q0), .quad (q + 1) (s.quadAt m takerCtx m.q1), .quad (q + 2) ans]

/-- R347: the answer capability a message brings. -/
def State.ansCap (s : State) (m : Msg) : Cap :=
  match m.ans with
  | none => Cap.zero
  | some a => Cap.object pIV 13 a (s.genOf a)

/-- R351, R421: a message goes to a thread, which holds its answer object; a delivered packet counts. -/
def State.setHolder (s : State) (m : Msg) (team g lane : Nat) : State :=
  let s := if m.kind = 6 then { s with qifs := s.qifs.upd m.src fun (x : QueueIf) => { x with delivered := x.delivered + 1 } } else s
  match m.ans with
  | none => s
  | some a => { s with answers := s.answers.upd a fun x => { x with holder := some (team, g, lane) } }

/-! ### Queues (R349) -/

/-- R268, R349: a parked waiter that can be served now. -/
def State.served (s : State) (w : Waiter) : Bool :=
  match s.teams.look w.team with | some t => t.st.wakes | none => false

/-- The first of a list by priority and then by order. -/
def firstBy {α : Type} (key : α → Nat × Nat) : List α → Option α
  | [] => none
  | a :: r =>
    match firstBy key r with
    | none => some a
    | some b => if (key a).1 < (key b).1 ∨ ((key a).1 = (key b).1 ∧ (key a).2 ≤ (key b).2) then some a else some b

def Waiter.key (w : Waiter) : Nat × Nat := (w.prio, w.seq)
def Msg.key (m : Msg) : Nat × Nat := (m.prio, m.seq)

/-- Change an endpoint. -/
def State.upEp (s : State) (e : Nat) (f : Endpoint → Endpoint) : State := { s with eps := s.eps.upd e f }

/-- The next number in the order in which messages and waiters enter endpoints. -/
def State.nextSeq (s : State) : Nat × State := (s.msgSeq, { s with msgSeq := s.msgSeq + 1 })

/-- R329, R327: a thread has taken a message: its later accesses follow what the message's release or its connection's earlier
writes stand for. -/
def State.gate (s : State) (team g lane : Nat) (gts : List Gate) : State :=
  match s.teams.look team with
  | some t => s.upThread team g lane fun th => { th with gates := s.liveGates t.die (th.gates ++ gts) }
  | none => s

/-- R347: hand a message to a parked taker, which becomes Active. -/
def State.handOver (s : State) (m : Msg) (w : Waiter) : State :=
  match s.thread w.team w.g w.lane, s.teams.look w.team with
  | some t, some tm =>
    let p := t.park
    let (r, q) := match p with | some p => (p.m, p.q) | none => (0, 0)
    let s := s.deliverUpds w.team w.g w.lane (s.msgUpds m tm.ctx r q (s.ansCap m))
    ((s.setHolder m w.team w.g w.lane).gate w.team w.g w.lane m.gates).upGroup w.team w.g (·.wake w.lane)
  | _, _ => s

/-- R373: the capabilities of a message that enters a buffer. -/
def State.settleMsg (s : State) (m : Msg) : Msg :=
  if m.kernel then m else { m with q0 := s.settleCap m.ctx m.q0, q1 := s.settleCap m.ctx m.q1 }

/-- R347, R349: the bytes of a message: its eight words and two quads. -/
def Msg.bytes (m : Msg) : List Byte :=
  ((List.range 8).flatMap fun j => numBytes (m.words.getD j 0).toNat 4) ++ m.q0.bytes ++ m.q1.bytes

/-- R347, R382: a message stands in a slot of its endpoint's memory with its tags, under the package-internal key. The slots lie
64 bytes apart from the endpoint's first byte, which is the model's choice (log 153). -/
def State.storeMsg (s : State) (pa : Nat) (m : Msg) : State :=
  let a := pa + 64 * m.slot
  let s := s.writeMem 64 a m.bytes false
  let s := if m.q0.tag then s.writeMem 64 (a + 32) m.q0.bytes true else s
  if m.q1.tag then s.writeMem 64 (a + 48) m.q1.bytes true else s

/-- The tags of a slot go with its message. -/
def State.clearSlot (s : State) (pa slot : Nat) : State :=
  { s with tags := (granules16 (pa + 64 * slot) 64).foldl delNum s.tags }

/-- The lowest slot with no message. -/
def Endpoint.freeSlot (x : Endpoint) : Nat := ((List.range 8).find? fun k => x.slots.all (·.slot != k)).getD 0

/-- R349: deliver a message to the first taker that can be served, or let it enter a slot or the kernel queue. None
when there is neither. -/
def State.sendMsg (s : State) (e : Nat) (m : Msg) : Option State :=
  match s.eps.look e with
  | none => none
  | some x =>
    match firstBy Waiter.key (x.takers.filter s.served) with
    | some w => some ((s.upEp e fun x => { x with takers := x.takers.filter (· != w) }).handOver m w)
    | none =>
      let (n, s) := s.nextSeq
      let m := { s.settleMsg m with seq := n }
      if m.kernel || m.kind = 6 then some (s.upEp e fun x => { x with kq := x.kq ++ [m] })
      else if x.slots.length < 8 then
        let m := { m with slot := x.freeSlot }
        some ((s.storeMsg x.pa m).upEp e fun x => { x with slots := x.slots ++ [m] })
      else none

/-- R350: the answer object of an `ask`. -/
def askAnswer (team g lane m q : Nat) (pd : Option (Fin 7)) (sf : Option (Fin 12)) : Answer :=
  { asker := some (team, g, lane), m := m, q := q, pd := pd, sf := sf, course := none, holder := none, held := none, note := none,
    taken := false }

/-- R350: a parked poster's message enters; a `post` goes on, an `ask` waits for its answer at the next word. -/
def State.enterPoster (s : State) (e : Nat) (w : Waiter) : Option State :=
  match w.msg, (s.thread w.team w.g w.lane).bind (·.park) with
  | some m, some p =>
    let s := s.upEp e fun x => { x with posters := x.posters.filter (· != w) }
    if p.kind = 11 then
      match s.newObj 13 none with
      | none => none
      | some (a, s) =>
        let s := { s with answers := s.answers.put a (askAnswer w.team w.g w.lane p.m p.q p.pd p.sf) }
        (s.sendMsg e { m with ans := some a }).map fun s =>
          s.upThread w.team w.g w.lane fun t =>
            { t with pc := p.next, park := some { p with kind := 12, obj := a } }
    else (s.sendMsg e m).map fun s => s.upGroup w.team w.g (·.wake w.lane)
  | _, _ => some (s.upEp e fun x => { x with posters := x.posters.filter (· != w) })

/-- R349: the first message, taken out of the endpoint. -/
def State.takeFirst (s : State) (e : Nat) : Option (Msg × State) :=
  match s.eps.look e with
  | none => none
  | some x =>
    match firstBy Msg.key (x.slots ++ x.kq) with
    | none => none
    | some m =>
      let s := if x.slots.contains m then s.clearSlot x.pa m.slot else s
      some (m, s.upEp e fun x => { x with slots := x.slots.filter (· != m), kq := x.kq.filter (· != m) })

/-- R349: serve waiters of an endpoint that can be served: takers with messages, then posters with free slots. -/
def State.serveEp (s : State) (e : Nat) : Nat → State
  | 0 => s
  | n + 1 =>
    match s.eps.look e with
    | none => s
    | some x =>
      match firstBy Waiter.key (x.takers.filter s.served), s.takeFirst e with
      | some w, some (m, s') => ((s'.upEp e fun x => { x with takers := x.takers.filter (· != w) }).handOver m w).serveEp e n
      | _, _ =>
        match (if x.slots.length < 8 then firstBy Waiter.key (x.posters.filter s.served) else none) with
        | none => s
        | some w => match s.enterPoster e w with
          | none => s
          | some s => s.serveEp e n

/-- Serve every endpoint, as when a team returns to Running (R268, R349). -/
def State.serveAll (s : State) : State :=
  s.eps.foldl (fun s p => s.serveEp p.1 (p.2.takers.length + p.2.posters.length + 1)) s

/-! ### The words -/

/-- The words and quads a lane sends, with its release (R329): its own accesses, and what those follow. -/
def Issue.message (i : Issue) (l : Nat) (t : Thread) (m : Nat) (q : Option Nat) : Msg :=
  { words := (List.range 8).map fun j => t.rdV (m + j), q0 := match q with | some k => t.quad k | none => Cap.zero,
    q1 := match q with | some k => t.quad (k + 1) | none => Cap.zero, ans := none, prio := i.s.prioOf i.t, seq := 0,
    ctx := i.t.ctx, born := (i.s.bornNo i.t.ctx).getD 0, space := i.s.spaceOf i.t.ctx,
    sgen := i.s.genOf (i.s.spaceOf i.t.ctx), kernel := false, kind := 0, src := 0, pasid := 0,
    gates := .ops i.x.team i.x.g [l] i.t.nextOp 4 :: t.gates, slot := 0 }

/-- A park of a message word: its registers, the predicate of an `ask`, and the PC on completion. -/
def msgPark (i : Issue) (ins : Instr) (kind m q : Nat) (pd : Option (Fin 7)) (obj : Nat) : Park :=
  { kind := kind, cap := Cap.zero, addr := 0, val := 0, scope := .device, acq := true, sf := i.x.ctl.sf, pd := pd, obj := obj,
    m := m, q := q, next := i.x.pc + BitVec.ofNat 64 (wordLen ins), redo := false }

/-- The waiter a lane becomes. -/
def Issue.waiter (i : Issue) (s : State) (lane : Nat) (m : Option Msg) : Waiter × State :=
  let (n, s) := s.nextSeq
  (⟨i.x.team, i.x.g, lane, i.s.prioOf i.t, n, m⟩, s)

/-- R350: obj_check of an endpoint. -/
def Issue.epCheck (i : Issue) (c : Cap) : Except MErr Nat := do
  let _ ← liftE (i.s.objCheck i.t.ctx c [3] pIV)
  .ok c.objIndex

/-- R349, R350: what a `post` does in one lane. -/
def Issue.postLane (i : Issue) (ins : Instr) (s : State) (lane e : Nat) (m : Msg) : State :=
  match s.sendMsg e m with
  | some s => i.land s lane []
  | none =>
    let (w, s) := i.waiter s lane (some m)
    (s.upEp e fun x => { x with posters := x.posters ++ [w] }).parkLane i.x.team i.x.g lane (msgPark i ins 10 0 0 none 0) i.x.pc

/-- R350: post. -/
def execPost (v : Fin 16) (b : CapSel) (q : Option (Fin 31)) (s : State) : Host.Outcome State Fault Refusal :=
  kernelWord (.post v b q) s
    (fun i l t => do .ok (← i.epCheck (i.cap t b), i.message l t (8 * v.val) (q.map (·.val))))
    (fun i s l x => i.postLane (.post v b q) s l x.1 x.2)

/-- R350: post.try; the predicate tells whether the message went. -/
def execPostTry (p : Option (Fin 7)) (v : Fin 16) (b : CapSel) (q : Option (Fin 31)) (s : State) :
    Host.Outcome State Fault Refusal :=
  kernelWord (.postTry p v b q) s
    (fun i l t => do .ok (← i.epCheck (i.cap t b), i.message l t (8 * v.val) (q.map (·.val))))
    (fun i s l x =>
      let r := s.sendMsg x.1 x.2
      i.land (r.getD s) l (match p with | some k => [.p k r.isSome] | none => []))

/-- R350: ask; the lane parks for a slot or for its answer. -/
def execAsk (p : Option (Fin 7)) (v : Fin 16) (b : CapSel) (q : Fin 30) (qs : Bool) (s : State) :
    Host.Outcome State Fault Refusal :=
  kernelWord (.ask p v b q qs) s
    (fun i l t => do
      let e ← i.epCheck (i.cap t b)
      if (i.s.newObj 13 none).isNone then .error (errOf cKernel)
      .ok (e, i.message l t (8 * v.val) (if qs then some q.val else none)))
    (fun i s l x =>
      let ins : Instr := .ask p v b q qs
      let park := fun (s : State) (kind obj : Nat) (pc : DWord) =>
        s.parkLane i.x.team i.x.g l (msgPark i ins kind (8 * v.val) q.val p obj) pc
      let wait := fun (s : State) =>
        let (w, s) := i.waiter s l (some x.2)
        park (s.upEp x.1 fun y => { y with posters := y.posters ++ [w] }) 11 0 i.x.pc
      match s.newObj 13 none with
      | none => wait s
      | some (a, s') =>
        let s' := { s' with answers := s'.answers.put a (askAnswer i.x.team i.x.g l (8 * v.val) q.val p i.x.ctl.sf) }
        let s' := park s' 12 a (i.x.pc + BitVec.ofNat 64 (wordLen ins))
        match s'.sendMsg x.1 { x.2 with ans := some a } with
        | some s => s
        | none => wait s)

/-- R349, R350: what a `take` does in one lane. -/
def Issue.takeLane (i : Issue) (ins : Instr) (s : State) (lane e m q : Nat) : State :=
  match s.takeFirst e with
  | some (msg, s) =>
    let us := s.msgUpds msg i.t.ctx m q (s.ansCap msg)
    (i.land ((s.setHolder msg i.x.team i.x.g lane).gate i.x.team i.x.g lane msg.gates) lane us).serveEp e 1
  | none =>
    let (w, s) := i.waiter s lane none
    (s.upEp e fun x => { x with takers := x.takers ++ [w] }).parkLane i.x.team i.x.g lane
      { msgPark i ins 9 m q none e with addr := (s.genOf e).toNat } i.x.pc

/-- R350: take. -/
def execTake (v : Fin 16) (b : CapSel) (q : Fin 30) (s : State) : Host.Outcome State Fault Refusal :=
  kernelWord (.take v b q) s (fun i _ t => i.epCheck (i.cap t b))
    (fun i s l e => i.takeLane (.take v b q) s l e (8 * v.val) q.val)

/-! ### Answers (R350, R351, R368) -/

/-- R425: the entry of a function's vector; one that the host has not programmed is masked. -/
def State.vector (s : State) (fn vec : Nat) : Vector := (s.vectors.look (16 * fn + vec)).getD ⟨0, 0, true, false⟩

/-- R425: an MSI-X message of a function's vector, with the address and data of its entry; a masked vector sets its Pending
Bit. -/
def State.msix (s : State) (fn vec : Nat) : State :=
  let v := s.vector fn vec
  if v.masked then { s with vectors := s.vectors.put (16 * fn + vec) { v with pending := true } }
  else { s with outbox := s.outbox ++ [.msix fn vec v.addr v.data] }

/-- R439: the firmware logs an event; the 64 newest stand. -/
def State.logEvent (s : State) (kind : Nat) (arg : List Word) : State :=
  { s with errlog := (⟨kind, arg⟩ :: s.errlog).take 64 }

/-- The fault endpoint of a context, if it has one that exists. -/
def State.faultEp (s : State) (ctx : Nat) : Option Nat :=
  match (s.ctxs.look ctx).bind (·.fault) with
  | some c => if c.tag && s.live c then some c.objIndex else none
  | none => none

/-- R368: send a message to the fault endpoint of a context, reflecting it outward where there is none; past the root the
firmware logs it. With `team` the message is an ask (R367). `up` counts the contexts passed. -/
def State.sendFault (s : State) (team : Option Nat) (m : Msg) : Nat → Nat → State
  | 0, _ => s
  | fuel + 1, ctx =>
    match s.faultEp ctx with
    | some e =>
      match team with
      | none => (s.sendMsg e m).getD s
      | some tm =>
        match s.newObj 13 none with
        | none => s
        | some (a, s) =>
          let ans : Answer :=
            { asker := none, m := 0, q := 0, pd := none, sf := none, course := some (tm, ctx), holder := none, held := none,
              note := some m, taken := false }
          let s := { s with answers := s.answers.put a ans }
          let s := s.upTeam tm fun t => { t with message := some a }
          (s.sendMsg e { m with ans := some a }).getD s
    | none =>
      let m := { m with words := m.words.set 6 (m.words.getD 6 0 + 1) }
      match (s.ctxs.look ctx).bind (·.parent) with
      | some p => s.sendFault team m fuel p
      | none =>
        let s := match team with | some tm => s.upTeam tm fun t => { t with message := none } | none => s
        (s.logEvent 1 m.words).msix 0 9

/-- R368: a message is reflected to the parent of the context that last held it. -/
def State.reflect (s : State) (tm ctx : Nat) (m : Msg) : State :=
  let s := s.upTeam tm fun t => { t with message := none }
  let m := { m with words := m.words.set 6 (m.words.getD 6 0 + 1), ans := none }
  match (s.ctxs.look ctx).bind (·.parent) with
  | some p => s.sendFault (some tm) m (s.ctxs.length + 1) p
  | none => (s.logEvent 1 m.words).msix 0 9

/-- R340: the answer object goes; one whose answer was held back has been destroyed already. -/
def State.dropAnswer (s : State) (a : Nat) : State :=
  let retired := match s.objs.look a with | some o => o.otype == 63 | none => false
  { (if retired then s.freeObj a else s.dropObj a) with answers := s.answers.del a }

/-- R350: an answer lands in its asker, which wakes. A destroyed answer object leaves the registers and clears the
predicate. -/
def State.landAnswer (s : State) (a : Nat) (x : Answer) (tm g l : Nat) (m : Msg) : State :=
  let s := s.dropAnswer a
  match s.teams.look tm with
  | none => s
  | some t =>
    let us := if m.kind = 255 then [] else s.msgUpds m t.ctx x.m x.q Cap.zero
    let us := us ++ (match x.pd with | some p => [.p p (m.kind != 255)] | none => [])
    ((s.deliverUpds tm g l us).gate tm g l m.gates).upGroup tm g (·.wake l)

/-- R268, R350, R351, R368: an answer object receives its answer. -/
def State.giveAnswer (s : State) (a : Nat) (m : Msg) : State :=
  match s.answers.look a with
  | none => s
  | some x =>
    match x.asker, x.course with
    | some (tm, g, l), _ =>
      let waits := match (s.thread tm g l).bind (·.park) with | some p => p.kind == 12 && p.obj == a | none => false
      if !waits then s.dropAnswer a
      else if (match s.teams.look tm with | some t => t.st.wakes | none => false) then s.landAnswer a x tm g l m
      else if x.held.isSome then s
      else
        { s.retireObj a with answers := s.answers.put a { x with held := some m } }
    | none, some (tm, ctx) =>
      let s := s.dropAnswer a
      if m.kind = 255 ∨ m.words.getD 0 0 = 1 then
        match x.note with
        | some n => s.reflect tm ctx n
        | none => s
      else s.upTeam tm fun t => { t with message := none }
    | none, none => s.dropAnswer a

/-- The message that stands for the destruction of an answer object. -/
def goneMsg : Msg :=
  { words := [], q0 := Cap.zero, q1 := Cap.zero, ans := none, prio := 0, seq := 0, ctx := 0, born := 0, space := 0, sgen := 0,
    kernel := true, kind := 255, src := 0, pasid := 0, gates := [], slot := 0 }

/-- R351: an answer object is destroyed unused. -/
def State.killAnswer (s : State) (a : Nat) : State := s.giveAnswer a goneMsg

/-- R268: answers held for the threads of a team land when it enters Running. -/
def State.landHeld (s : State) (team : Nat) : State :=
  s.answers.foldl (fun s p =>
    match p.2.asker, p.2.held with
    | some (tm, g, l), some m => if tm = team then s.landAnswer p.1 p.2 tm g l m else s
    | _, _ => s) s

/-- R350: obj_check of an answer. -/
def Issue.ansCheck (i : Issue) (c : Cap) : Except MErr Nat := do
  let _ ← liftE (i.s.objCheck i.t.ctx c [13] pIV)
  .ok c.objIndex

/-- R351: an answer object that has had its answer in this word is stale. -/
def State.answerOnce (s : State) (a : Nat) (gen : BitVec 32) (m : Msg) : State :=
  if s.genOf a = gen then s.giveAnswer a m else s

/-- R350: answer. -/
def execAnswer (v : Fin 16) (b : CapSel) (q : Option (Fin 31)) (s : State) : Host.Outcome State Fault Refusal :=
  kernelWord (.answer v b q) s
    (fun i l t => do .ok (← i.ansCheck (i.cap t b), (i.cap t b).objGen, i.message l t (8 * v.val) (q.map (·.val))))
    (fun i s l x => i.land (s.answerOnce x.1 x.2.1 x.2.2) l [])

/-- R350: settle; an answer, and a take into the same registers. R268: executed again after a restore, its answer half is
not repeated. -/
def execSettle (v : Fin 16) (b ce : CapSel) (q : Fin 30) (qs : Bool) (s : State) : Host.Outcome State Fault Refusal :=
  kernelWord (.settle v b ce q qs) s
    (fun i l t => do
      let a ← (if t.half then .ok none else do .ok (some (← i.ansCheck (i.cap t b), (i.cap t b).objGen)))
      let e ← i.epCheck (i.cap t ce)
      .ok (a, e, i.message l t (8 * v.val) (if qs then some q.val else none)))
    (fun i s l x =>
      i.takeLane (.settle v b ce q qs) (match x.1 with | some a => s.answerOnce a.1 a.2 x.2.2 | none => s) l x.2.1 (8 * v.val) q.val)

end Sys2Proof.Machine
end

