-- ==== Sys2Proof/Machine/CopyEngine.lean ====
section
/-! DEFINITION. Copy commands at issue, `arrset`, `waitown` and `waitgen` (07_group_team_instructions R208-R216; 06_core
R177-R181). What a command does while it runs stands with the steps of the core. -/

namespace Sys2Proof.Machine

open Sys2Proof

/-! ### Granules -/

/-- The granules that a range of a side touches: team and index; none for space 0. -/
def State.sideGranules (s : State) (id : Nat) (t : Team) (c : Cap) (addr len : Nat) : List (Nat × Nat) :=
  if c.space = 0 then []
  else match s.spadAt id t c.space addr len with
    | none => []
    | some (m, off) => (granulesOf off len).map fun k => (m, k)

/-- A granule is engine-owned, or named by a command that is to own it. -/
def State.granuleOwned (s : State) (g : Nat × Nat) : Bool :=
  match s.teams.look g.1 with
  | none => false
  | some u => u.holds g.2

/-- R178: an issued command names granules; they are its own once the accesses accepted before have performed. -/
def State.nameAll (s : State) (gs : List (Nat × Nat)) : State :=
  gs.foldl (fun s g => s.upTeam g.1 fun t => { t with named := addNum t.named g.2 }) s

/-- R177, R178: the owner bits of the granules that are still named flip to 1. -/
def State.ownAll (s : State) (gs : List (Nat × Nat)) : State :=
  gs.foldl (fun s g => s.upTeam g.1 fun t =>
    if t.named.contains g.2 then { t with owner := addNum t.owner g.2, named := delNum t.named g.2 } else t) s

/-- R177: granules return to threads. -/
def State.disown (s : State) (gs : List (Nat × Nat)) : State :=
  gs.foldl (fun s g => s.upTeam g.1 fun t => { t with owner := delNum t.owner g.2, named := delNum t.named g.2 }) s

/-! ### The checks at issue (R209, R210, R213) -/

/-- R209: the fields of the pair x. -/
structure CopyDesc where
  len : Nat
  arrival : Nat
  untied : Bool

/-- R209: the pair as a descriptor, if it is well formed. -/
def copyDesc (x : DWord) : Option CopyDesc :=
  let n := x.toNat
  let len := n % 2 ^ 20
  let arr := n / 2 ^ 20 % 2 ^ 22
  let untied := n / 2 ^ 42 % 2 == 1
  if len = 0 ∨ n / 2 ^ 43 ≠ 0 ∨ (untied ∧ arr ≠ 0) then none else some ⟨len, arr, untied⟩

/-- R210 step 2: one side of a command. -/
def Issue.copySide (i : Issue) (c : Cap) (perm : BitVec 16) (len : Nat) (spaces : List Nat) (sc : Scope) : Except MErr Unit :=
  let addr := c.addr.toNat
  let place := if c.space = 0 then none else i.s.spadAt i.x.team i.t c.space addr len
  match capCheck c perm addr len spaces (sc == .system) false true (c.space == 0 || place.isSome) with
  | .error w => .error (errOf w)
  | .ok _ =>
    if i.s.covered i.t.ctx c then .error (errOf cRevoked)
    else match place with
      | some (m, off) => if i.s.owned m off len then .error (errOf cOwner) else .ok ()
      | none => .ok ()

/-- R209, R210 step 3: the arrival word, in the share that a side's capability reaches. -/
def Issue.arrivalWord (i : Issue) (c : Cap) (arr : Nat) (flips : List (Nat × Nat)) : Except MErr (Nat × Nat) :=
  let base := if c.space = 2 then c.addr.toNat / 2 ^ 22 * 2 ^ 22 else 0
  let a := base + arr
  if ¬ c.has (pLD ||| pST) then .error (errOf cCapperm)
  else if a < c.decode.1 ∨ c.decode.2 < a + 8 then .error (errOf cCapbound)
  else
    match i.s.spadAt i.x.team i.t c.space a 8 with
    | none => .error (errOf cCapbound)
    | some (m, off) =>
      if arr % 8 ≠ 0 then .error (errOf cAlign)
      else if flips.contains (m, off / 1024) then .error (errOf cEngine)
      else if i.s.granuleOwned (m, off / 1024) then .error (errOf cOwner)
      else .ok (m, off)

/-- What a lane asks of the copy engine; the pattern of a fill is its operand as it reads, or the cause of a failing read. -/
structure CopyAsk where
  dst : Cap
  src : Option Cap
  pattern : Except Word Word
  x : DWord

/-- The granules that the space-1 and space-2 ranges of a lane's command touch; none of a malformed descriptor. -/
def Issue.askGranules (i : Issue) (q : CopyAsk) : List (Nat × Nat) :=
  match copyDesc q.x with
  | none => []
  | some d =>
    i.s.sideGranules i.x.team i.t q.dst q.dst.addr.toNat d.len ++
      (match q.src with | some c => i.s.sideGranules i.x.team i.t c c.addr.toNat d.len | none => [])

/-- R210: the checks of one lane, `taken` the granules that earlier lanes of the word name; the command it issues. The read of a
pattern comes before them (log 19). R213 gives the alignment of tag mode no place among the steps of R210: it stands after
step 2, which is the model's choice (log 141). -/
def Issue.copyLane (i : Issue) (q : CopyAsk) (lane : Nat) (sc : Scope) (tm : Bool) (dstSp srcSp : List Nat) (kind : Nat)
    (taken : List (Nat × Nat)) : Except MErr Copy := do
  let pattern ← liftE q.pattern
  let d ← match copyDesc q.x with
    | none => .error (errOf cEngine)
    | some d => if kind = 3 ∧ q.dst.space = 0 ∧ ¬ d.untied then .error (errOf cEngine) else .ok d
  i.copySide q.dst pST d.len dstSp sc
  match q.src with
  | some c => i.copySide c pLD d.len srcSp sc
  | none => .ok ()
  let off16 := fun (c : Cap) => c.addr.toNat % 16 != 0
  if tm && (d.len % 16 != 0 || off16 q.dst || (match q.src with | some c => off16 c | none => false)) then .error (errOf cAlign)
  let gs := i.askGranules q
  let arr ← (if d.untied then .ok none
    else do
      let side := if kind = 1 then q.src.getD q.dst else q.dst
      let a ← i.arrivalWord side d.arrival gs
      .ok (some a) : Except MErr (Option (Nat × Nat)))
  if gs.any fun g => taken.contains g || i.s.granuleOwned g then .error (errOf cOwner)
  .ok { dst := ⟨q.dst.space, q.dst.addr.toNat, q.dst⟩, src := q.src.map fun c => ⟨c.space, c.addr.toNat, c⟩,
        pattern := pattern, len := d.len, left := [(0, d.len)], got := [], word := i.t.nextOp, lane := lane, arrival := arr,
        granules := gs.dedup, tagMode := tm, kind := kind,
        grant := decide (d.len ≤ 65536), asked := 0, begun := false }

/-- R210: the checks of all lanes in order; the causes of every lane that fails. A lane that fails has named its granules
all the same (step 4). -/
def Issue.copyAll (i : Issue) (asks : List (Nat × CopyAsk)) (sc : Scope) (tm : Bool) (dstSp srcSp : List Nat) (kind : Nat) :
    List (Nat × MErr) × List (Nat × Copy) :=
  let r := asks.foldl (fun (acc : List (Nat × MErr) × List (Nat × Copy) × List (Nat × Nat)) p =>
    let taken := acc.2.2 ++ i.askGranules p.2
    match i.copyLane p.2 p.1 sc tm dstSp srcSp kind acc.2.2 with
    | .error e => (acc.1 ++ [(p.1, e)], acc.2.1, taken)
    | .ok c => (acc.1, acc.2.1 ++ [(p.1, c)], taken)) ([], [], [])
  (r.1, r.2.1)

/-- R211, R445: the effects of a word's commands at issue: their granules are named, ties are made, the commands enter flight,
each with its place in the order of the requests for current. -/
def State.startCopies (s : State) (id g : Nat) (lanes : List Nat) (sf : Option (Fin 12)) (op10 : Nat) (pc : DWord) (pccx : Nat)
    (sc : Scope) (cs : List Copy) : State :=
  let s := cs.foldl (fun s c => s.nameAll c.granules) s
  let s := cs.foldl (fun s c => match c.arrival with
    | none => s
    | some (m, off) => s.upTeam m fun t => { t with ties := t.ties ++ c.granules.map fun k => ⟨off, k.1, k.2⟩ }) s
  { s with asks := s.asks + cs.length }.upTeam id fun t => cs.zipIdx.foldl (fun t (c : Copy × Nat) =>
    t.addOp { id := 0, g := g, lanes := lanes, sf := sf, op10 := op10, pc := pc, pccx := pccx, scope := sc, acq := false,
              rel := true, seq := false, kind := .copy { c.1 with asked := s.asks + c.2 }, gates := [] }) t

/-- A copy word (R208-R211): all its lanes are checked as one word, and the causes of every lane that fails are set
together. -/
def copyWord (ins : Instr) (op10 : Nat) (sc : Scope) (tm : Bool) (dstSp srcSp : List Nat) (kind : Nat)
    (ask : Issue → Nat → Thread → CopyAsk) (s : State) : Host.Outcome State Fault Refusal :=
  wordDo ins s fun i =>
    match i.copyAll (i.visited.map fun p => (p.1, ask i p.1 p.2)) sc tm dstSp srcSp kind with
    | (e :: es, _) => i.raiseM (e :: es)
    | ([], cs) =>
      let lanes := cs.map (·.1)
      (i.commit (wordLen ins) .alu 0 false (i.dead ins) (lanes.map fun l => (l, LaneOut.nil))).startCopies
        i.x.team i.x.g lanes i.x.ctl.sf op10 i.x.pc i.x.pccx sc (cs.map (·.2))

/-- The capabilities and the descriptor of a lane. -/
def copyAsk (a b : CapSel) (x : PSrc) (i : Issue) (_ : Nat) (t : Thread) : CopyAsk :=
  ⟨i.cap t a, some (i.cap t b), .ok 0, i.psrc t x⟩

def execCpin (a b : CapSel) (x : PSrc) (sc : Scope) (tm : Bool) (s : State) :=
  copyWord (.cpin a b x sc tm) 0x180 sc tm [1, 2] [0] 0 (copyAsk a b x) s
def execCpout (a b : CapSel) (x : PSrc) (sc : Scope) (tm : Bool) (s : State) :=
  copyWord (.cpout a b x sc tm) 0x181 sc tm [0] [1, 2] 1 (copyAsk a b x) s
def execCpx (a b : CapSel) (x : PSrc) (sc : Scope) (tm : Bool) (s : State) :=
  copyWord (.cpx a b x sc tm) 0x182 sc tm [1, 2] [1, 2] 2 (copyAsk a b x) s
def execCpfill (a : CapSel) (v : Src) (x : PSrc) (sc : Scope) (s : State) :=
  copyWord (.cpfill a v x sc) 0x183 sc false [0, 1, 2] [] 3
    (fun i l t => ⟨i.cap t a, none, i.src l t v, i.psrc t x⟩) s

/-! ### Arrival words (R180, R214-R216) -/

/-- R180: the fields of an arrival word. -/
def arrGen (x : Nat) : Nat := x / 2 ^ 40 % 2 ^ 24
def arrTarget (x : Nat) : Nat := x / 2 ^ 20 % 2 ^ 20
def arrCount (x : Nat) : Nat := x % 2 ^ 20
def arrWord (gen target count : Nat) : Nat := gen % 2 ^ 24 * 2 ^ 40 + target % 2 ^ 20 * 2 ^ 20 + count % 2 ^ 20

/-- The 8 bytes at a scratchpad place as a number. -/
def State.spNum (s : State) (l : Loc) : Nat :=
  match l with
  | .spad m off => match s.teams.look m with | some u => Memory.num u.sp off 8 | none => 0
  | _ => 0

/-- The share that a place lies in is the issuing team's own. -/
def Loc.own (l : Loc) (id : Nat) : Bool := match l with | .spad m _ => m == id | _ => false

/-- R214: the access of an `arrset` as an operation of its thread: an atomic with release ordering, at team scope in the own
core's share and at cluster scope in another's. -/
def arrOp (id g next : Nat) (gates : List Gate) (a : Access) : Op :=
  { probe g a.lane a.space a.loc 8 (if a.loc.own id then .team else .cluster) false next gates with
    rel := true, op10 := 0x186, kind := .rmw .xchg [a] [] [] }

/-- R214: one lane's atomic step on its arrival word. -/
def State.arrStep (s : State) (id g : Nat) (t : Team) (a : Access) : State :=
  match a.loc with
  | .spad m off =>
    let w := s.spNum a.loc
    (s.note id t (arrOp id g t.nextOp (t.gatesAt g a.lane) a) [a.touch true]).upTeam m
      (·.writeSp off (numBytes (arrWord (arrGen w) a.x.toNat 0) 8) false)
  | _ => s

/-- R214: arrset. ENGINE is precise (R247), so the checks see the word as the steps find it: the word issues once the earlier
accesses of its threads have performed, and its steps perform as it issues, in lane order, which is the model's choice
(log 158). A space-2 capability on the own core's share acts at team scope, as R214 says of its own core. -/
def execArrset (a : Src) (b : CapSel) (off : Src) (s : State) : Host.Outcome State Fault Refusal :=
  wordDo (.arrset a b off) s fun i =>
    match i.each (fun l t => do
        let x ← liftE (i.src l t a)
        let o ← liftE (i.src l t off)
        let c := i.cap t b
        let va := effAddr c o
        let (loc, _) ← i.access c (pLD ||| pST) va 8 [1, 2] none true true needW
        if x = 0 ∨ 2 ^ 20 ≤ x.toNat ∨ arrCount (i.s.spNum loc) ≠ 0 then .error (errOf cEngine)
        .ok (⟨l, loc, 8, va, x.zeroExtend 128, 0, false, Cap.zero, if loc.own i.x.team then 1 else 2⟩ : Access)) with
    | .error es => i.raiseM es
    | .ok rs =>
      rs.foldl (fun s p => s.arrStep i.x.team i.x.g i.t p.2)
        (i.commit (wordLen (.arrset a b off)) .alu 1 true (i.dead (.arrset a b off)) (rs.map fun p => (p.1, LaneOut.nil)))

/-- A park on an engine condition. -/
def enginePark (i : Issue) (ins : Instr) (kind : Nat) (c : Cap) (va : Nat) (v : Word) : Park :=
  { kind := kind, cap := c, addr := va, val := v, scope := .cluster, acq := true, sf := i.x.ctl.sf, pd := none, obj := 0,
    m := 0, q := 0, next := i.x.pc + BitVec.ofNat 64 (wordLen ins), redo := false }

/-- R215: every granule of a range has returned to threads. -/
def State.returned (s : State) (id : Nat) (t : Team) (c : Cap) (addr len : Nat) : Bool :=
  (s.sideGranules id t c addr len).all fun g => !s.granuleOwned g

/-- R178: a thread has observed the return of the granules of a range. -/
def State.sawReturn (s : State) (id : Nat) (t : Team) (g lane : Nat) (c : Cap) (addr n : Nat) : State :=
  if s.record.isEmpty then s
  else
    let q : Op := { probe g lane c.space (.spad id 0) 0 .cluster true t.nextOp (t.gatesAt g lane) with kind := .load [] [] false false [] }
    s.noteEv t.die false { q.event id (s.ceiling t.ctx) t.nextOp lane [] with seen := s.sideGranules id t c addr n }

/-- A lane that completes at once or parks. -/
def doneOrPark (done : Bool) (p : Park) : LaneOut := if done then LaneOut.nil else { LaneOut.nil with park := some p }

/-- R215: waitown. -/
def execWaitown (a : Src) (b : CapSel) (off : Src) (s : State) : Host.Outcome State Fault Refusal :=
  wordDo (.waitown a b off) s fun i =>
    match i.each (fun l t => do
        let n ← liftE (i.src l t a)
        let o ← liftE (i.src l t off)
        let c := i.cap t b
        let va := effAddr c o
        let inShare := (i.s.spadAt i.x.team i.t c.space va n.toNat).isSome
        let _ ← liftE (capCheck c pLD va n.toNat [1, 2] false false true inShare)
        if i.s.covered i.t.ctx c then .error (errOf cRevoked)
        .ok (c, va, n.toNat, doneOrPark (n == 0 || i.s.returned i.x.team i.t c va n.toNat)
          (enginePark i (.waitown a b off) 2 c va n))) with
    | .error es => i.raiseM es
    | .ok rs =>
      rs.foldl (fun s p => if p.2.2.2.2.park.isNone then s.sawReturn i.x.team i.t i.x.g p.1 p.2.1 p.2.2.1 p.2.2.2.1 else s)
        (i.commit (wordLen (.waitown a b off)) .alu 1 true (i.dead (.waitown a b off)) (rs.map fun p => (p.1, p.2.2.2.2)))

/-- R216: generation `g` has completed. -/
def genReached (word : Nat) (g : Word) : Bool :=
  decide ((arrGen word + 2 ^ 24 - g.toNat % 2 ^ 24) % 2 ^ 24 < 2 ^ 23)

/-- R216: waitgen. -/
def execWaitgen (a : Src) (b : CapSel) (off : Src) (s : State) : Host.Outcome State Fault Refusal :=
  wordDo (.waitgen a b off) s fun i =>
    match i.each (fun l t => do
        let g ← liftE (i.src l t a)
        let o ← liftE (i.src l t off)
        let c := i.cap t b
        let va := effAddr c o
        let (loc, _) ← i.access c pLD va 8 [1, 2] none true true needR
        let q := probe i.x.g l c.space loc 8 .cluster true i.t.nextOp t.gates
        let go := i.s.mayProbe i.x.team i.t q && genReached (i.s.spNum loc) g
        .ok (q, doneOrPark go (enginePark i (.waitgen a b off) 3 c va g))) with
    | .error es => i.raiseM es
    | .ok rs =>
      (i.commit (wordLen (.waitgen a b off)) .alu 1 true (i.dead (.waitgen a b off)) (rs.map fun p => (p.1, p.2.2))).probedAll
        i.x.team i.t (rs.map (·.2))

end Sys2Proof.Machine
end

