-- ==== Sys2Proof/Machine/Tasks.lean ====
section
/-! DEFINITION. Launch records (11_cluster_grid_tasks R279, R280), event words (R285, R286), task frames, the deque and
its ring (R287-R295), and the words `launch`, `evpub`, `evwait`, `spawn`, `tend`, `join` and `dqinfo`. -/

namespace Sys2Proof.Machine

open Sys2Proof

/-! ### Event words and counters (R285, R286, R291, R292) -/

/-- R285: evpub; the update performs later as a release. -/
def execEvpub (g : Src) (b : CapSel) (off : Src) (sc : Scope) (s : State) : Host.Outcome State Fault Refusal :=
  wordDo (.evpub g b off sc) s fun i =>
    match i.each (fun l t => do
        let n ← liftE (i.src l t g)
        let o ← liftE (i.src l t off)
        let c := i.cap t b
        let va := effAddr c o
        let (loc, _) ← i.access c (pLD ||| pST) va 8 [0] (some sc) true true (needA .evpub)
        let _ ← i.dataErr loc 8
        if 2 ^ 20 ≤ n.toNat then .error (errOf cEngine)
        .ok (⟨l, loc, 8, va, n.zeroExtend 128, 0, false, Cap.zero, c.space⟩ : Access)) with
    | .error es => i.raiseM es
    | .ok rs =>
      i.commitOp (.evpub g b off sc) (rs.map fun p => (p.1, LaneOut.nil))
        { i.op (rs.map (·.1)) 0x285 (.rmw .evpub (rs.map (·.2)) (rs.map fun p => (p.1, Dest.none)) []) with
          scope := sc, rel := true }

/-- A lane that waits on a word of global memory (R286, R292): it completes at once when `done` holds of the bytes it
reads, and parks otherwise. -/
def globalWait (ins : Instr) (b : CapSel) (off : Src) (sc : Scope) (size kind : Nat) (val : Issue → Nat → Thread → Except Word Word)
    (done : Nat → Word → Bool) (s : State) : Host.Outcome State Fault Refusal :=
  wordDo ins s fun i =>
    match i.each (fun l t => do
        let v ← liftE (val i l t)
        let o ← liftE (i.src l t off)
        let c := i.cap t b
        let va := effAddr c o
        let (loc, _) ← i.access c pLD va size [0] (some sc) true true { needR with nr := true }
        let m ← (match i.s.readFor i.t.die i.core.world loc size (16 * l) with
          | .ok bs => .ok (wordOfBytes bs)
          | .error e => .error (errOf e))
        let q := probe i.x.g l c.space loc size sc true i.t.nextOp t.gates
        let go := i.s.mayProbe i.x.team i.t q && done m v
        .ok (q, doneOrPark go { enginePark i ins kind c va v with scope := sc })) with
    | .error es => i.raiseM es
    | .ok rs =>
      (i.commit (wordLen ins) .alu 1 true (i.dead ins) (rs.map fun p => (p.1, p.2.2))).probedAll i.x.team i.t (rs.map (·.2))

/-- R286: evwait. -/
def execEvwait (g : Src) (b : CapSel) (off : Src) (sc : Scope) (s : State) : Host.Outcome State Fault Refusal :=
  globalWait (.evwait g b off sc) b off sc 8 8 (fun i l t => i.src l t g) genReached s

/-- R292: join. -/
def execJoin (b : CapSel) (off : Src) (sc : Scope) (s : State) : Host.Outcome State Fault Refusal :=
  globalWait (.join b off sc) b off sc 4 7 (fun _ _ _ => .ok 0) (fun m _ => m == 0) s

/-- R291: tend; the thread waits at the word for its flags, and TEND_COMPLETION does the rest. -/
def execTend (b : Option CapSel) (sc : Scope) (s : State) : Host.Outcome State Fault Refusal :=
  laneWord (.tend b sc) .alu 0 s fun i _ t =>
    .ok { LaneOut.nil with await := some (.tend (b.map (i.cap t)) sc) }

/-! ### Frames (R287, R289) -/

/-- R287: the bytes of a frame. -/
def Frame.bytes (f : Frame) : List Byte :=
  f.code.bytes ++ f.data.bytes ++ f.join.bytes ++ (f.args.flatMap fun a => numBytes a.toNat 4) ++ numBytes f.entry.toNat 4
    ++ numBytes f.flags.toNat 2 ++ [0, 0] ++ numBytes f.id.toNat 8

/-- R290: a frame as its bytes and tags stand. -/
def frameOfBytes (bs : List Byte) (tc td tj : Bool) : Frame :=
  let at_ := fun (o n : Nat) => wordOfBytes ((bs.drop o).take n)
  { code := capOfBytes (bs.take 16) tc, data := capOfBytes ((bs.drop 16).take 16) td,
    join := capOfBytes ((bs.drop 32).take 16) tj, args := (List.range 16).map fun j => BitVec.ofNat 32 (at_ (48 + 4 * j) 4),
    entry := BitVec.ofNat 32 (at_ 112 4), flags := BitVec.ofNat 16 (at_ 116 2), id := BitVec.ofNat 64 (at_ 120 8) }

/-- R288: the scope and the steal bit of a frame. -/
def Frame.scope (f : Frame) : Nat := f.flags.toNat % 8
def Frame.stealable (f : Frame) : Bool := f.flags.toNat / 8 % 2 == 1

/-- R279: a null capability field. -/
def Cap.isNull (c : Cap) : Bool := c.bits == 0 && !c.tag

/-- R289: the frame in the registers v b to v b + 31. -/
def Thread.frameAt (t : Thread) (b : Nat) : Frame :=
  { code := t.quad (b / 4), data := t.quad (b / 4 + 1), join := t.quad (b / 4 + 2),
    args := (List.range 16).map fun j => t.rdV (b + 12 + j), entry := t.rdV (b + 28),
    flags := (t.rdV (b + 29)).extractLsb' 0 16, id := 0 }

/-- The scope of a code, system beyond the table. -/
def scopeOf (n : Nat) : Scope :=
  if n = 0 then .group else if n = 1 then .team else if n = 2 then .cluster else if n = 3 then .context
  else if n = 4 then .device else .system

/-! ### The deque and the ring (R294, R295) -/

/-- Frames the ring holds at most. -/
def Team.ringCap (t : Team) : Nat := t.ringBytes / 128

/-- R277: the grid-linear team index. -/
def Team.gridIdx (t : Team) : Nat := t.cluster * (t.cw * t.ch) + t.idx

/-- R294: the address of a slot of the team's ring. -/
def Team.ringAddr (t : Team) (k : Nat) : Nat :=
  t.ring.addr.toNat + t.gridIdx * t.ringBytes + 128 * ((t.ringOld + k) % max 1 t.ringCap)

/-- R297: an outstanding steal counts as one frame. -/
def Team.dequeCount (t : Team) : Nat := t.deque.length + (if t.steal.isSome then 1 else 0)

/-- R294: the two lines of a ring slot, with the checks of R142. -/
def State.ringSlot (s : State) (id : Nat) (t : Team) (world k : Nat) (perm : BitVec 16) (n : Need) :
    Except MErr (List (Loc × Bool)) :=
  [0, 64].mapM fun o => s.accessAt id t world t.ring perm (t.ringAddr k + o) 64 [0] none false true n

/-- A frame carries a tagged capability. -/
def Frame.tagged (f : Frame) : Bool := f.code.tag || f.data.tag || f.join.tag

/-- R294: read a frame of the ring. -/
def State.readFrame (s : State) (id : Nat) (t : Team) (world k : Nat) : Except MErr Frame := do
  let locs ← s.ringSlot id t world k (pLD ||| pLDC) { needR with cap := true }
  let a := locs.getD 0 (.reply 0, false)
  let b := locs.getD 1 (.reply 0, false)
  let lo ← (match s.readLoc world a.1 64 0 with | .ok x => .ok x | .error c => .error (errOf c) : Except MErr (List Byte))
  let hi ← (match s.readLoc world b.1 64 64 with | .ok x => .ok x | .error c => .error (errOf c) : Except MErr (List Byte))
  let tag := fun (j : Nat) => a.2 && match a.1 with | .mem pa => s.tagLoc (.mem (pa + 16 * j)) | _ => false
  let f := frameOfBytes (lo ++ hi) (tag 0) (tag 1) (tag 2)
  .ok { f with code := s.settleCap t.ctx f.code, data := s.settleCap t.ctx f.data, join := s.settleCap t.ctx f.join }

/-- R295: the places that a spill of frames takes in the ring, from slot `r` on; `tags` says of each frame whether it carries a
tagged capability, which the page must keep (R366). -/
def State.spillSlots (s : State) (id : Nat) (t : Team) (world r : Nat) (tags : List Bool) : Except MErr (List (List (Loc × Bool))) :=
  if t.ringCap < r + 16 then .error (errOf cDeque)
  else
    match (List.range 16).mapM fun j => s.ringSlot id t world (r + j) (pST ||| pSTC)
        { needW with cap := true, ts := flagAt tags j } with
    | .error e => .error { e with cause := if e.waits then 0 else cDeque ||| e.cause }
    | .ok locs => .ok locs

/-- The frames that a push finds: of each frame of the deque, the oldest first, whether it carries a tagged capability; whether
a steal is outstanding, which counts as one more (R297); and the frames in the ring. -/
structure Room where
  tags : List Bool
  steal : Bool
  ring : Nat

/-- R289 check 6: what one more push leaves, or why there is no place. -/
def State.pushCheck (s : State) (id : Nat) (t : Team) (world : Nat) (q : Room) (tag : Bool) : Except MErr Room :=
  if q.tags.length + (if q.steal then 1 else 0) < 32 then .ok { q with tags := q.tags ++ [tag] }
  else
    match s.spillSlots id t world q.ring (q.tags.take 16) with
    | .error e => .error e
    | .ok _ => .ok { q with tags := q.tags.drop 16 ++ [tag], ring := q.ring + 16 }

/-- R289: further pushes. -/
def State.pushChecks (s : State) (id : Nat) (t : Team) (world : Nat) : List Bool → Room → Except MErr Room
  | [], q => .ok q
  | b :: r, q =>
    match s.pushCheck id t world q b with
    | .error e => .error e
    | .ok q => s.pushChecks id t world r q

/-- R148, R294: write a frame to a ring slot, as whole lines and then its tags. -/
def State.writeFrame (s : State) (ctx world : Nat) (locs : List (Loc × Bool)) (f : Frame) : State :=
  let caps := [s.settleCap ctx f.code, s.settleCap ctx f.data, s.settleCap ctx f.join]
  let lo := (locs.getD 0 (.reply 0, false)).1
  let s := s.writeLoc world lo (f.bytes.take 64) false
  let s := s.writeLoc world (locs.getD 1 (.reply 0, false)).1 (f.bytes.drop 64) false
  match lo with
  | .mem pa => caps.zipIdx.foldl (fun s p => if p.1.tag then s.writeMem world (pa + 16 * p.2) p.1.bytes true else s) s
  | _ => s

/-- R295: a spill of the 16 oldest frames. -/
def State.spill (s : State) (id world : Nat) : Except MErr State :=
  match s.teams.look id with
  | none => .ok s
  | some t =>
    match s.spillSlots id t world t.ringCount ((t.deque.take 16).map Frame.tagged) with
    | .error e => .error e
    | .ok locs =>
      let s := ((t.deque.take 16).zip locs).foldl (fun s p => s.writeFrame t.ctx world p.2 p.1) s
      .ok (s.upTeam id fun t => { t with deque := t.deque.drop 16, ringCount := t.ringCount + 16 })

/-- R289: push a frame at the newest end, after a spill if the deque is full; the frame gets its id. -/
def State.pushFrame (s : State) (id world : Nat) (f : Frame) : Except MErr State := do
  let full := match s.teams.look id with | some t => decide (32 ≤ t.dequeCount) | none => false
  let s ← if full then s.spill id world else .ok s
  .ok (s.upTeam id fun t =>
    let n := (t.spawns + 1) % 2 ^ 32
    { t with spawns := n,
             deque := t.deque ++ [{ f with id := BitVec.ofNat 64 (t.gridIdx * 2 ^ 32 + n) }] })

/-! ### spawn (R289) -/

/-- R289: the checks of one lane through step 5; its frame and the access to its join counter. -/
def Issue.spawnLane (i : Issue) (l : Nat) (t : Thread) (b : Nat) : Except MErr (Frame × Option Access) := do
  let f := t.frameAt b
  let (lo, hi) := f.code.decode
  let start := f.code.addr.toNat + f.entry.toNat
  if i.t.nreg < 128 then .error (errOf cDeque)
  if !f.code.tag then .error (errOf cCaptag)
  if f.code.otype ≠ 0 then .error (errOf cCapseal)
  if f.code.space ≠ 0 ∨ ¬ f.code.has pEX then .error (errOf cCapperm)
  if f.entry.toNat % 8 ≠ 0 then .error (errOf cAlign)
  if start < lo ∨ hi < start + 8 then .error (errOf cCapbound)
  if f.data.tag ∧ f.data.space ≠ 0 then .error (errOf cCapperm)
  let acc ← (if f.join.isNull then .ok none
    else do
      let va := f.join.addr.toNat
      let sc := if f.scope < 6 then some (scopeOf f.scope) else none
      let (loc, _) ← i.access f.join (pLD ||| pST) va 4 [0] sc true true (needA .add)
      let _ ← i.dataErr loc 4
      .ok (some ⟨l, loc, 4, va, 1, 0, false, Cap.zero, 0⟩) : Except MErr (Option Access))
  if (t.rdV (b + 29)).toNat / 2 ^ 16 ≠ 0 ∨ f.flags.toNat / 2 ^ 6 ≠ 0 ∨ 6 ≤ f.scope then .error (errOf cDeque)
  .ok (f, acc)

/-- R289, R295: what a spawn finds: a refill that is pending has moved its frames to the deque. -/
def State.room (s : State) (id : Nat) (t : Team) (world : Nat) : Room :=
  let n := if t.refill then min 16 t.ringCount else 0
  let back := (List.range n).map fun j => match s.readFrame id t world (t.ringCount - n + j) with
    | .ok f => f.tagged
    | .error _ => false
  ⟨back ++ t.deque.map Frame.tagged, t.steal.isSome, t.ringCount - n⟩

/-- R289: the frames of the spawns that have issued and still push, in their order. -/
def Team.spawnTags (t : Team) : List Bool :=
  t.ops.flatMap fun o => match o.kind with | .spawn items => items.map fun x => x.2.1.tagged | _ => []

/-- R289: spawn; the counters are incremented and the frames pushed in lane order by STORE_PERFORM. Its places are those that
the frames before it leave as it issues; a steal in between may have later frames spill than the check saw, and what such a spill
then meets ends the word in the lane of its push, which is the model's choice (log 165). -/
def execSpawn (v : Fin 32) (s : State) : Host.Outcome State Fault Refusal :=
  wordDo (.spawn v) s fun i =>
    let push := i.s.pushCheck i.x.team i.t i.core.world
    let start := i.s.pushChecks i.x.team i.t i.core.world i.t.spawnTags (i.s.room i.x.team i.t i.core.world)
    let r := i.visited.foldl (fun (acc : List (Nat × MErr) × List (Nat × Frame × Option Access) × Except MErr Room) p =>
      match i.spawnLane p.1 p.2 (4 * v.val), acc.2.2 with
      | .error e, _ => (acc.1 ++ [(p.1, e)], acc.2.1, acc.2.2)
      | .ok _, .error e => (acc.1 ++ [(p.1, e)], acc.2.1, acc.2.2)
      | .ok f, .ok q =>
        match push q f.1.tagged with
        | .error e => (acc.1 ++ [(p.1, e)], acc.2.1, .error e)
        | .ok q => (acc.1, acc.2.1 ++ [(p.1, f.1, f.2)], .ok q)) ([], [], start)
    match r with
    | (e :: es, _, _) => i.raiseM (e :: es)
    | ([], items, _) =>
      i.commitOp (.spawn v) (items.map fun p => (p.1, LaneOut.nil))
        { i.op (items.map (·.1)) 0x280 (.spawn items) with rel := true }

/-- R301: dqinfo. -/
def execDqinfo (d : Dst) (item : Fin 4) (s : State) : Host.Outcome State Fault Refusal :=
  longLand (.dqinfo d item) s fun i _ t => do
    let w : Word :=
      if item = 0 then BitVec.ofNat 32 i.t.dequeCount
      else if item = 1 then BitVec.ofNat 32 i.t.ringCount
      else if item = 2 then t.frame.extractLsb' 0 32
      else t.frame.extractLsb' 32 32
    let (us, _) ← i.dst t d w
    .ok us

/-! ### Launch records (R279, R280) -/

/-- A record as read: 256 bytes, and the tags of its 16-byte granules. -/
structure LaunchRec where
  bytes : List Byte
  tags : List Bool

def LaunchRec.num (r : LaunchRec) (o n : Nat) : Nat := wordOfBytes ((r.bytes.drop o).take n)
def LaunchRec.cap (r : LaunchRec) (o : Nat) : Cap := capOfBytes ((r.bytes.drop o).take 16) (flagAt r.tags (o / 16))

/-- R280: read the record through a capability. -/
def Issue.readRecord (i : Issue) (c : Cap) (addr : Nat) : Except MErr LaunchRec := do
  let inShare := c.space == 0 || (i.s.spadAt i.x.team i.t c.space addr 256).isSome
  let _ ← liftE (capCheck c (pLD ||| pLDC) addr 256 [0, 1, 2] false false true inShare)
  if addr % 16 ≠ 0 then .error (errOf cAlign)
  let rs ← (List.range 16).mapM fun j => do
    let (loc, keep) ← i.access c (pLD ||| pLDC) (addr + 16 * j) 16 [0, 1, 2] none true true { needR with cap := true, nr := true }
    match i.s.readLoc i.core.world loc 16 0 with
    | .error e => .error (errOf e)
    | .ok bs => .ok (bs, (i.s.settleCap i.t.ctx (capOfBytes bs (keep && i.s.tagLoc loc))).tag)
  .ok ⟨rs.flatMap (·.1), rs.map (·.2)⟩

/-- R142: access memory on the part's behalf through a capability of an address space, which a filter covers or not: no ceiling
applies (R312). -/
def State.partAccessIn (s : State) (space world : Nat) (hit : Bool) (c : Cap) (perm : BitVec 16) (size : Nat) (n : Need) :
    Except MErr Loc := do
  let _ ← liftE (capCheck c perm c.addr.toNat size [0] false true true true)
  if hit then .error (errOf cRevoked)
  let (loc, _) ← s.translateFrom space world c.addr.toNat n
  let _ ← s.hostCheck space c.addr.toNat n loc
  if !s.worldOk world then .error (errOf cWorld)
  match s.readLoc world loc size 0 with
  | .error e => .error (errOf e)
  | .ok _ => .ok loc

/-- R142: access memory on the part's behalf in a context's address space. -/
def State.partAccess (s : State) (ctx world : Nat) (c : Cap) (perm : BitVec 16) (size : Nat) (n : Need) : Except MErr Loc :=
  s.partAccessIn (s.spaceOf ctx) world (s.covered ctx c) c perm size n

/-- Read [va, stop) of a context's address space page by page. -/
def State.readPages (s : State) (ctx world : Nat) : Nat → Nat → Nat → Except MErr (List Byte)
  | 0, _, _ => .ok []
  | k + 1, va, stop =>
    let e := min stop ((va / 4096 + 1) * 4096)
    if stop ≤ va then .ok []
    else
      match (do
          let r ← s.translate ctx world va needR
          let _ ← s.hostCheck (s.spaceOf ctx) va needR r.1
          .ok r : Except MErr (Loc × Bool)) with
      | .error x => .error x
      | .ok (loc, _) =>
        match s.readLoc world loc (e - va) 0 with
        | .error c => .error (errOf c)
        | .ok bs =>
          match s.readPages ctx world k e stop with
          | .error x => .error x
          | .ok r => .ok (bs ++ r)

/-- R310, R424: an agent of the control die has read [va, stop): through that die's L2, or from the host. -/
def State.pagesRead (s : State) (ctx world : Nat) : Nat → Nat → Nat → State
  | 0, _, _ => s
  | k + 1, va, stop =>
    let e := min stop ((va / 4096 + 1) * 4096)
    if stop ≤ va then s
    else
      match s.translate ctx world va needR with
      | .error _ => s
      | .ok (loc, _) => ((s.partRead loc (e - va)).askHost loc (e - va)).pagesRead ctx world k e stop

/-- R388: the digest of the code of a launch that is to be measured. -/
def State.codeDigest (s : State) (ctx world : Nat) (code : Cap) (entry : Nat) : Except MErr (Option (List Byte)) :=
  let seen := match s.ctxs.look ctx with | some c => c.measured.contains code.code.bits | none => false
  if seen then .ok none
  else
    let (lo, hi) := code.decode
    if s.covered ctx code then .error (errOf cRevoked)
    else if !s.worldOk world then .error (errOf cWorld)
    else
      match s.readPages ctx world ((hi - lo) / 4096 + 2) lo hi with
      | .error e => .error e
      | .ok bs => .ok (some (sha384 (bs ++ numBytes entry 4)))

/-- R280: launches of a context that are not yet fully placed. -/
def State.unplaced (s : State) (ctx : Nat) : Nat := (s.launches.filter fun p => p.2.ctx == ctx && decide (p.2.placed < p.2.gx * p.2.gy)).length

/-- R280 items 5 and 6: an event word capability. -/
def eventCap (c : Cap) (perm : BitVec 16) : Bool :=
  c.tag && c.otype == 0 && c.space == 0 && c.has perm && c.addr.toNat % 8 == 0 && decide (c.decode.1 ≤ c.addr.toNat)
    && decide (c.addr.toNat + 8 ≤ c.decode.2)

/-- R280 item 4: a capability of an object with IV. -/
def objCapOk (c : Cap) (otype : Nat) : Bool := c.tag && c.space == 3 && c.otype == otype && c.has pIV

/-- R280: the checks of a record against a context; the event words are read under world 0 (R382); `extra` counts launches that the word submits before this one. -/
def State.checkRecord (s : State) (ctx extra : Nat) (r : LaunchRec) : Except MErr Launch := do
  let bad : Except MErr Launch := .error (errOf cLaunch)
  let code := r.cap 0
  let ring := r.cap 32
  let sched := r.cap 48
  let world := r.cap 64
  let done := r.cap 80
  let waits := (List.range 4).map fun j => (r.cap (96 + 16 * j), r.num (160 + 4 * j) 4)
  let entry := r.num 176 4
  let gx := r.num 180 2
  let gy := r.num 182 2
  let cw := r.num 184 1
  let ch := r.num 185 1
  let groups := r.num 186 1
  let carve := BitVec.ofNat 32 (r.num 188 4)
  let rb := r.num 192 4
  let target := r.num 196 4
  let own := match s.ctxs.look ctx with | some c => c.sched == sched.objIndex | none => false
  let wslot := if world.isNull then some 0 else s.keys.look world.objIndex
  if r.num 187 1 ≠ 0 ∨ r.num 200 56 ≠ 0 ∨ waits.any (fun w => w.2 / 2 ^ 24 % 128 != 0) then bad
  else if !code.tag ∨ code.otype ≠ 0 ∨ code.space ≠ 0 ∨ ¬ code.has pEX ∨ entry % 8 ≠ 0
      ∨ code.addr.toNat + entry < code.decode.1 ∨ code.decode.2 < code.addr.toNat + entry + 8 then bad
  else if rb % 2048 ≠ 0 ∨ (rb ≠ 0 ∧ ¬ (ring.tag ∧ ring.otype = 0 ∧ ring.space = 0
      ∧ ring.has (pLD ||| pST ||| pLDC ||| pSTC ||| pSTL) ∧ ring.addr.toNat % 64 = 0 ∧ ring.decode.1 ≤ ring.addr.toNat
      ∧ ring.addr.toNat + gx * gy * cw * ch * rb ≤ ring.decode.2)) then bad
  else if !(objCapOk sched 4 && s.live sched && own && (world.isNull || (objCapOk world 8 && s.live world)) && wslot.isSome) then bad
  else if !((done.isNull || eventCap done (pLD ||| pST))
      && (if done.isNull then target == 0 else decide (1 ≤ target) && decide (target < 2 ^ 20))) then bad
  else if waits.any fun w => if w.2 / 2 ^ 31 = 1 then !eventCap w.1 pLD else !w.1.isNull || w.2 != 0 then bad
  else if gx = 0 ∨ gy = 0 ∨ cw = 0 ∨ ch = 0 ∨ 12 < cw * ch ∨ groups = 0 ∨ 16 < groups ∨ ¬ carveOk ⟨0, 0⟩ groups carve then bad
  else if ¬ (s.csetOf ctx).fits cw ch then bad
  else if 512 ≤ s.unplaced ctx + extra then bad
  else do
    let w := wslot.getD 0
    let dw ← (if done.isNull then .ok none
      else do .ok (some (← s.partAccess ctx 0 done (pLD ||| pST) 8 (needA .evpub))) : Except MErr (Option Loc))
    for x in waits do
      if x.2 / 2 ^ 31 = 1 then
        let _ ← s.partAccess ctx 0 x.1 pLD 8 { needR with nr := true }
    match dw with
    | some loc =>
      match s.readLoc 0 loc 8 0 with
      | .ok bs => if arrCount (wordOfBytes bs) ≠ 0 then .error (errOf cLaunch)
      | .error e => .error (errOf e)
    | none => .ok ()
    match s.codeDigest ctx w code entry with
    | .error e => .error (if e.waits then e else errOf cLaunch)
    | .ok dig =>
      .ok { id := 0, ctx := ctx, code := code, arg := r.cap 16, ring := ring, sched := sched.objIndex, world := w,
            done := if done.isNull then none else some done,
            waits := (waits.filter fun x => x.2 / 2 ^ 31 == 1).map fun x => (x.1, x.2 % 2 ^ 24), entry := entry, gx := gx,
            gy := gy, cw := cw, ch := ch, groups := groups, carve := carve, ringBytes := rb, doneTarget := target,
            accepted := false, ready := false, placed := 0, turn := 0, gates := [], digest := dig }

/-- R280: a checked launch is submitted. -/
def State.submit (s : State) (l : Launch) : Nat × State :=
  (s.launchSeq, { s with launches := s.launches.put s.launchSeq { l with id := s.launchSeq }, launchSeq := s.launchSeq + 1 })

/-- R280: launch; each lane submits its record, and LAUNCH_ACCEPTANCE accepts it. -/
def execLaunch (b : CapSel) (off : Src) (s : State) : Host.Outcome State Fault Refusal :=
  kernelWord (.launch b off) s
    (fun i l t => do
      let o ← liftE (i.src l t off)
      let c := i.cap t b
      let r ← i.readRecord c (effAddr c o)
      i.s.checkRecord i.t.ctx (i.visited.filter fun p => decide (p.1 < l)).length r)
    (fun i s l x =>
      let (id, s) := s.submit x
      s.upTeam i.x.team (·.addOp (i.op [l] 0x283 (.launch [id]))))

end Sys2Proof.Machine
end

