-- ==== Sys2Proof/Machine/Teams.lean ====
section
/-! DEFINITION. What happens to whole teams: deschedules (09_core_faults R260), aborts of commands (R179), Troy sessions
that become Void (16_package_memory_trust R396), the end of teams and contexts (R357). -/

namespace Sys2Proof.Machine

open Sys2Proof

/-- The teams of a team's cluster. -/
def Team.cluster_ (t : Team) (id : Nat) : List Nat := if t.mates.contains id then t.mates else [id]

/-- R260: a deschedule becomes pending for one team; a cut joins as a cut. A team that is already Saved holds no core and has
nothing to stop; a Stopped one is to be saved whole (R253, R266). -/
def State.descheduleOne (s : State) (id : Nat) (cut : Bool) : State :=
  let cycle := match (s.teams.look id).bind (·.core) with | some c => (s.core c).cycle | none => 0
  s.upTeam id fun t =>
    if t.core.isNone then t else
    let t := { t with cut := t.cut || cut }
    if t.desched then t
    else
      { t with
        desched := true, st := if t.st == .running then .yielding else if t.st == .stopped then .saving else t.st,
        whole := t.whole || t.st == .stopped, deschedAt := cycle,
        groups := t.groups.map fun g => g.mapThreads fun _ th => { th with words := 0 } }

/-- R260: a deschedule becomes pending for every team of a cluster. -/
def State.deschedule (s : State) (id : Nat) (cut : Bool) : State :=
  match s.teams.look id with
  | none => s
  | some t => (t.cluster_ id).foldl (fun s m => s.descheduleOne m cut) s

/-- R179: a command ends: its granules return and are tied no more. -/
def State.freeGranules (s : State) (gs : List (Nat × Nat)) : State :=
  let s := s.disown gs
  { s with teams := s.teams.mapv fun _ (t : Team) =>
      if t.ties.isEmpty then t else { t with ties := t.ties.filter fun k => !gs.contains (k.team, k.granule) } }

/-! ### Contexts -/

/-- The live contexts of a subtree (R352). -/
def State.subtree (s : State) (ctx : Nat) : List Nat := (s.ctxs.filter fun p => s.inSubtree ctx p.1).map (·.1)

/-- The teams of contexts. -/
def State.teamsOf (s : State) (cs : List Nat) : List Nat := (s.teams.filter fun p => cs.contains p.2.ctx).map (·.1)

/-- R343: a save slot joins the pool of its context. -/
def State.freeSlot (s : State) (ctx pa : Nat) : State :=
  { s with ctxs := s.ctxs.upd ctx fun c =>
      { c with slots := c.slots.map fun (x : SaveSlot) => if x.pa = pa then { x with busy := false } else x } }

/-- The core a team is on becomes free. -/
def State.leaveCore (s : State) (t : Team) : State :=
  match t.core with | some c => s.upCore c fun k => { k with team := none } | none => s

/-- A number that is no object's: the place of a team of the cluster that is gone. -/
def noTeam : Nat := 2 ^ 20

/-- The number that stands, as the holder of an answer capability (R351), for the threads of a context's teams that have
completed. -/
def pastTeam (ctx : Nat) : Nat := 2 ^ 20 + 1 + ctx

/-- R123: a team that is gone has no share. -/
def State.dropMate (s : State) (id : Nat) : State :=
  { s with teams := s.teams.mapv fun _ (t : Team) =>
      if t.mates.contains id then { t with mates := t.mates.map fun m => if m = id then noTeam else m } else t }

/-! ### Troy sessions (R391, R396, R397) -/

/-- R387: the certificate of a slot's sealing key, made when the slot is armed. -/
def sealKeyNo (slot epoch : Nat) : Nat := 4 + slot + 64 * epoch
def sealCert (slot epoch : Nat) : List Byte := Config.certificate (sealKeyNo slot epoch)

/-- R397: the record of a session, kind 1 seal or 2 void; the measurement is the context's at the close, or at the void. -/
def State.sealRecord (s : State) (x : Session) (kind cause detail : Nat) : List Byte :=
  let now := match s.ctxs.look x.ctx with | some c => if c.creation = x.born then c.meas else x.meas | none => x.meas
  let ms := if kind = 1 then x.meas else now
  let key := Config.slotKey x.slot (s.slotOf x.slot).epoch
  let head := numBytes 1 4 ++ numBytes kind 4 ++ numBytes x.number 8 ++ numBytes x.slot 1 ++ numBytes 0 3
    ++ numBytes cause 4 ++ numBytes x.data.length 8 ++ numBytes x.born 8
    ++ (if kind = 1 then sha384 x.data else List.replicate 48 0) ++ padTo 48 ms ++ sha384 (Config.publicKey (sealKeyNo x.slot (s.slotOf x.slot).epoch))
    ++ numBytes detail 4 ++ numBytes 0 4
  head ++ padTo 3309 (Config.mlDsa65 key head) ++ List.replicate 19 0

/-- R424: the first page of a record's `n` lines whose translation the host has still to give. -/
def State.recordWaits (s : State) (ctx world : Nat) (c : Cap) : Nat → Nat → Option MErr
  | 0, _ => none
  | n + 1, off =>
    match s.translate ctx world (c.addr.toNat + off) needW with
    | .error _ => none
    | .ok (loc, _) =>
      match s.hostCheck (s.spaceOf ctx) (c.addr.toNat + off) needW loc with
      | .error e => if e.waits then some e else none
      | .ok _ => s.recordWaits ctx world c n (off + 64)

/-- R389, R395: write a record through a capability as whole lines under a world; the lines written before a failing
one stand. A line fails by PAGE, PROT, REVOKED, MEMERR, or WORLD; one whose page the host has still to translate fails too,
where its writer does not wait (log 171). -/
def State.writeRecord (s : State) (ctx world : Nat) (c : Cap) : Nat → Nat → List Byte → Except State State
  | 0, _, _ => .ok s
  | n + 1, off, bs =>
    if bs.isEmpty then .ok s
    else if !c.tag || s.covered ctx c || !s.worldOk world then .error s
    else
      match s.translate ctx world (c.addr.toNat + off) needW with
      | .error _ => .error s
      | .ok (loc, _) =>
        match s.hostCheck (s.spaceOf ctx) (c.addr.toNat + off) needW loc, s.storeErr loc 64 with
        | .ok _, none =>
          ({ s with draws := s.draws + 1 }.writeLoc world loc (bs.take 64) false).writeRecord ctx world c n (off + 64) (bs.drop 64)
        | _, _ => .error { s with draws := s.draws + 1 }

/-- R391: a session ends; its capabilities become stale. -/
def State.endSession (s : State) (i : Nat) (x : Session) (st : SessSt) : State :=
  { s.dropObj i with sessions := s.sessions.put i { x with st := st } }

/-- R395: the status of a close lands in the team that issued it. -/
def State.closeStatus (s : State) (i n : Nat) : State :=
  { s with teams := s.teams.mapv fun _ (t : Team) =>
      { t with ops := t.ops.map fun (o : Op) =>
          match o.kind with
          | .sealing k dst =>
            if k = i then
              { o with kind := .land (dst.flatMap fun p => (destUpd p.2 (BitVec.ofNat 32 n)).map fun u => (p.1, u)) }
            else o
          | _ => o } }

/-- R396: a session becomes Void; its record is written to its buffer or appended to the slot's void log. -/
def State.voidSession (s : State) (i cause detail : Nat) : State :=
  match s.sessions.look i with
  | none => s
  | some x =>
    if x.st == .opened || (x.st == .closing && decide (5 ≤ cause)) then
      let rec_ := s.sealRecord x 2 cause detail
      let s := match s.writeRecord x.ctx x.slot x.buf 55 0 rec_ with
        | .ok s => s
        | .error s => { s with slots := s.slots.modify x.slot fun (k : KeySlot) => { k with voids := (rec_ :: k.voids).take 64 } }
      (s.endSession i x .void).closeStatus i kState
    else s

/-- R396: sessions that meet a condition become Void. -/
def State.voidSessions (s : State) (p : Session → Bool) (cause detail : Nat) : State :=
  s.sessions.foldl (fun s x => if p x.2 then s.voidSession x.1 cause detail else s) s

/-! ### The end of teams and contexts (R357, R439 ROOT-CLEAR) -/

/-- Change every endpoint. -/
def State.mapEps (s : State) (f : Endpoint → Endpoint) : State := { s with eps := s.eps.mapv fun _ e => f e }

/-- R394, R396: an absorb of a session aborts: the session, if it is still that one, is Void with cause 5. -/
def State.voidAbsorbed (s : State) (k : Nat) (gen : BitVec 32) (detail : Nat) : State :=
  if s.genOf k = gen then s.voidSession k 5 detail else s

/-- R368: the course of a team's fault messages ends: one that waits at its endpoint is withdrawn with its answer object, and an
answer to one that has been taken ends nothing more. -/
def State.endCourse (s : State) (id : Nat) : State :=
  let mine := fun (m : Msg) => (m.kind == 1 || m.kind == 2) && m.src == id
  let waits := fun (a : Nat) => s.eps.any fun p => (p.2.slots ++ p.2.kq).any fun m => mine m && m.ans == some a
  let s' := s.answers.foldl (fun (s : State) p =>
    match p.2.course with
    | some (t, _) =>
      if t ≠ id then s
      else if waits p.1 then s.dropAnswer p.1
      else { s with answers := s.answers.put p.1 { p.2 with course := none } }
    | none => s) s
  s'.mapEps fun e => { e with kq := e.kq.filter fun m => !mine m }

/-- R357: a team stops without a message and its state is discarded; commands and matrix operations abort; what its
threads have stored completes. An absorb that aborts voids its session with cause 5 (R394, R396). -/
def State.killTeam (s : State) (id : Nat) : State :=
  match s.teams.look id with
  | none => s
  | some t =>
    let s := t.ops.foldl (fun s o => match o.kind with
      | .copy c => s.freeGranules c.granules
      | .absorb k gen _ _ gs => (s.freeGranules gs).voidAbsorbed k gen cEngine.toNat
      | .launch ids => { s with launches := s.launches.filter fun p => p.2.accepted || !ids.contains p.1 }
      | _ => s) s
    let s := (s.endCourse id).mapEps fun e =>
      { e with takers := e.takers.filter (·.team != id), posters := e.posters.filter (·.team != id) }
    let s := s.upTeam id fun t =>
      { t with
        dead := true, st := .draining, free := [], refill := false, ringCount := 0, pend := [], deque := [], steal := none, message := none, ties := [], owner := [], named := [], hold := none,
        slot := none, mx := { t.mx with queue := [] },
        groups := t.groups.map fun g => { g with threads := [], pct := List.replicate 16 none, queue := [], joining := [] },
        ops := t.ops.filter fun o => o.isStore || (match o.kind with | .rmw _ _ _ _ => true | _ => false) || o.isFence }
    match s.objs.look id with
    | some o => if o.otype = 12 then s.retireObj id else s
    | none => s

/-- R357: a buffered `ask` is withdrawn: its slot is free. -/
def State.withdraw (s : State) (a : Nat) : State :=
  let gone := fun (m : Msg) => m.ans == some a
  let s := s.eps.foldl (fun s p => (p.2.slots.filter gone).foldl (fun s m => s.clearSlot p.2.pa m.slot) s) s
  s.mapEps fun e => { e with slots := e.slots.filter fun m => !gone m }

/-- R357, R351: answers: those delivered into the teams and not used are destroyed; those of their threads that somebody has taken,
the firmware too, go on without an asker; the messages they buffered by `ask` are withdrawn. -/
def State.killAnswers (s : State) (teams : List Nat) : State :=
  let mine := fun (x : Answer) => match x.asker with | some (t, _, _) => teams.contains t | none => false
  let s := s.answers.foldl (fun s p =>
    if mine p.2 && p.2.holder.isNone && !p.2.taken then
      (s.withdraw p.1).dropAnswer p.1
    else if mine p.2 then { s with answers := s.answers.put p.1 { p.2 with asker := none } }
    else s) s
  s.answers.foldl (fun s p => match p.2.holder with
    | some (t, _, _) => if teams.contains t then s.killAnswer p.1 else s
    | none => s) s

/-- R419, R422: a queue interface is unbound; its queued packets are withdrawn and count as refused. -/
def State.unbindQi (s : State) (q : Nat) (code : Nat) : State :=
  match s.qifs.look q with
  | none => s
  | some x =>
    let n := match s.eps.look x.ep with | some e => (e.kq.filter fun m => m.kind == 6 && m.src == q).length | none => 0
    let s := s.upEp x.ep fun e => { e with kq := e.kq.filter fun m => !(m.kind == 6 && m.src == q) }
    let y : QueueIf :=
      { x with bound := false, event := none, refused := x.refused + BitVec.ofNat 16 n, code := if n = 0 then x.code else code }
    { s with qifs := s.qifs.put q y }

/-- R357: the contexts of a list that are not Dead become so; `cause` is the void cause of their sessions (R396). Slots that
withdrawn messages leave go to the posters parked for one (R349). -/
def State.killContexts (s : State) (cs : List Nat) (cause : Nat) : State :=
  let cs := cs.filter fun c => match s.ctxs.look c with | some x => x.st != CtxSt.dead | none => false
  let teams := s.teamsOf cs
  let s := s.voidSessions (fun x => cs.contains x.ctx) cause 0
  let s := s.killAnswers (teams ++ cs.map pastTeam)
  let s := teams.foldl State.killTeam s
  let s := { s with launches := s.launches.filter fun p => !cs.contains p.2.ctx }
  let s := s.qifs.foldl (fun s p => if p.2.bound && cs.contains p.2.binder then s.unbindQi p.1 1 else s) s
  let s := s.mapEps fun e => { e with kq := e.kq.filter fun m => !(m.kind == 3 && cs.contains m.src) }
  let unbind : Nat → Sched → Sched := fun _ x =>
    match x.bound with | some c => if cs.contains c then { x with bound := none } else x | none => x
  let s := { s with scheds := s.scheds.mapv unbind }
  (cs.foldl (fun s c =>
    let s := { s with ctxs := s.ctxs.upd c fun x => { x with st := .dead } }
    if s.root = some c then s else s.retireObj c) s).serveAll

/-- R357, R395: nothing of the contexts remains in flight, and no session of theirs has its seal record still to come. -/
def State.killed (s : State) (cs : List Nat) : Bool :=
  (s.teams.all fun p => !cs.contains p.2.ctx || (p.2.dead && p.2.ops.isEmpty))
    && s.sessions.all fun p => !(cs.contains p.2.ctx && p.2.st == .closing)

/-- R343, R357: the memory of Dead contexts returns and their teams are gone. -/
def State.bury (s : State) (cs : List Nat) : State :=
  let s := (s.teamsOf cs).foldl (fun s id => match s.teams.look id with
    | some t => ({ s.leaveCore t with teams := (s.leaveCore t).teams.del id }.freeObj id).dropMate id
    | none => s) s
  cs.foldl (fun s c => match s.ctxs.look c with
    | none => s
    | some x =>
      let s := x.slots.foldl (fun s (k : SaveSlot) => s.giveUnits x.reserve k.pa (k.size / 4096)) s
      ({ s.giveUnits x.reserve x.pa 1 with ctxs := s.ctxs.del c }).freeObj c) s

end Sys2Proof.Machine
end

