-- ==== Sys2Proof/Machine/Contexts.lean ====
section
/-! DEFINITION. The object words of the kernel: contexts, scheduling contexts, address spaces, `objmake`, interrupt
lines and `revoke` (15_package_kernel R344, R353-R357, R359, R360, R363-R365, R370, R372, R448). -/

namespace Sys2Proof.Machine

open Sys2Proof

/-- A capability operand of a kernel word checked (R342); the object it names. -/
def Issue.obj (i : Issue) (c : Cap) (types : List Nat) (right : BitVec 16) : Except MErr Nat := do
  let _ ← liftE (i.s.objCheck i.t.ctx c types right)
  .ok c.objIndex

/-- The permissions of R341. -/
def pIvCx : BitVec 16 := pIV ||| pCX
def pIvRvCx : BitVec 16 := pIV ||| pRV ||| pCX

/-- R346: a capability result, or the untagged one that holds a status. -/
def Issue.made (i : Issue) (s : State) (lane : Nat) (d : CapSel) (r : Except Nat (Cap × State)) : State :=
  match r with
  | .ok (c, s) => i.capResult s lane d c
  | .error n => i.capResult s lane d (statusCap n)

/-! ### objmake (R344) -/

/-- R344: what the value names. -/
inductive MakeWhat where
  | endpoint
  | reserve (units : Nat)
  | cset (die x0 y0 w h : Nat)
  deriving DecidableEq, Repr

/-- R344: the value of `objmake` against the type of its source. -/
def makeWhat (otype : Nat) (x : Word) : Option MakeWhat :=
  let n := x.toNat
  let ty := n % 64
  if otype = 6 then
    if ty = 3 ∧ n / 64 = 0 then some .endpoint
    else if ty = 6 ∧ n / 64 ≠ 0 then some (.reserve (n / 64))
    else none
  else
    let die := n / 2 ^ 6 % 16
    let x0 := n / 2 ^ 10 % 16
    let y0 := n / 2 ^ 14 % 8
    let w := n / 2 ^ 17 % 16 + 1
    let h := n / 2 ^ 21 % 8 + 1
    if ty = 7 ∧ n / 2 ^ 24 = 0 ∧ rectFits die x0 y0 w h then some (.cset die x0 y0 w h) else none

/-- R344: make the object. -/
def State.make (s : State) (src : Nat) (k : MakeWhat) : Except Nat (Cap × State) :=
  match k with
  | .endpoint =>
    match s.takeObject src with
    | none => .error kNomem
    | some (pa, s) =>
      match s.newObj 3 (some src) with
      | none => .error kLimit
      | some (i, s) => .ok (s.capOf pIvCx i, { s with eps := s.eps.put i ⟨pa, [], [], [], [], 0⟩ })
  | .reserve n =>
    match s.takeUnits src (16 * n) 16 with
    | none => .error kNomem
    | some (pa, s) =>
      match s.newObj 6 (some src) with
      | none => .error kLimit
      | some (i, s) => .ok (s.capOf pIvRvCx i, { s with reserves := s.reserves.put i ⟨pa, 65536 * n, [], []⟩ })
  | .cset die x0 y0 w h =>
    match s.csets.look src with
    | none => .error kSubset
    | some c =>
      let cores := (rectCores die x0 y0 w h).filter c.holds
      if cores.isEmpty then .error kSubset
      else
        match s.newObj 7 (some src) with
        | none => .error kLimit
        | some (i, s) =>
          .ok (s.capOf pIvCx i,
            { s with csets := s.csets.put i ⟨cores.zipIdx.map fun p => (coreNo p.1, p.2), cores.length⟩ })

/-- R344: objmake. -/
def execObjmake (d r : CapSel) (x : Src) (s : State) : Host.Outcome State Fault Refusal :=
  kernelWord (.objmake d r x) s
    (fun i l t => do
      let c := i.cap t r
      let o ← i.obj c [6, 7] pIV
      let v ← liftE (i.src l t x)
      match makeWhat c.otype v with
      | none => .error (errOf cKernel)
      | some k => .ok (o, k))
    (fun i s l y => i.made s l d (s.make y.1 y.2))

/-! ### Contexts (R353-R357) -/

/-- R353: one core set lies within another. -/
def CoreSet.within (a b : CoreSet) : Bool := a.cores.all fun p => b.cores.any fun q => q.1 == p.1

/-- R353: the holdings of a new context. -/
structure Holdings where
  reserve : Nat
  cset : Nat
  sched : Nat
  space : Nat
  fault : Option Cap

/-- R353: build a child of a context. -/
def State.newCtx (s : State) (x : Nat) (h : Holdings) : Except Nat (Cap × State) :=
  match s.ctxs.look x, s.csets.look h.cset, s.scheds.look h.sched, s.spaces.look h.space with
  | some cx, some cs, some sc, some sp =>
    if ¬ cs.within (s.csetOf x) then .error kSubset
    else if sc.bound.isSome ∨ sc.parent ≠ some cx.sched then .error kSubset
    else if sp.born ≠ cx.creation then .error kSubset
    else if 7 ≤ cx.depth ∨ 4096 ≤ (s.ctxs.filter fun p => p.2.st != .dead).length then .error kLimit
    else
      match s.takeObject h.reserve with
      | none => .error kNomem
      | some (pa, s) =>
        match s.newObj 1 (some h.reserve) with
        | none => .error kLimit
        | some (i, s) =>
          let n := s.creation + 1
          let m := sha384 (List.replicate 48 0 ++ numBytes n 8 ++ numBytes cx.creation 8)
          let c : Ctx :=
            { creation := n, parent := some x, depth := cx.depth + 1, st := .created, ownStop := false, cut := false,
              cutFailed := false, cset := h.cset, sched := h.sched, space := h.space, fault := h.fault, ceil := 5,
              counters := List.replicate 8 0, reserve := h.reserve, slots := [], meas := m, events := 0, measured := [],
              pa := pa, cutStep := 0, cutRound := false }
          .ok (s.capOf pIvRvCx i,
            { s with creation := n, ctxs := s.ctxs.put i c,
                     scheds := s.scheds.upd h.sched fun y => { y with bound := some i } })
  | _, _, _, _ => .error kSubset

/-- R353: ctxnew. -/
def execCtxnew (d r : CapSel) (q : Fin 29) (s : State) : Host.Outcome State Fault Refusal :=
  kernelWord (.ctxnew d r q) s
    (fun i _ t => do
      let rv ← i.obj (i.cap t r) [6] pIV
      let cs ← i.obj (t.quad q.val) [7] pIV
      let sc ← i.obj (t.quad (q.val + 1)) [4] pIV
      let sp ← i.obj (t.quad (q.val + 2)) [2] pIV
      let f := t.quad (q.val + 3)
      if f.tag then let _ ← i.obj f [3] pIV
      .ok (⟨rv, cs, sc, sp, if f.tag then some f else none⟩ : Holdings))
    (fun i s l h => i.made s l d (s.newCtx i.t.ctx h))

/-- R354: what an item does. -/
inductive CfgDo where
  | ceil (n : Nat)
  | fault (c : Option Cap)
  | cset (o : Nat)
  | count (n : Nat)

/-- R354: change an item of a context; the status, or the counter's value. A ceiling changes as the status lands. -/
def State.configure (s : State) (x ctx : Nat) (k : CfgDo) : Nat × State :=
  match k with
  | .ceil _ => (kOk, s)
  | .fault f => (kOk, { s with ctxs := s.ctxs.upd ctx fun c => { c with fault := f } })
  | .cset o =>
    match s.csets.look o with
    | none => (kSubset, s)
    | some cs =>
      if ¬ cs.within (s.csetOf x) then (kSubset, s)
      else
        let s := { s with ctxs := s.ctxs.upd ctx fun c => { c with cset := o } }
        let out := s.teams.filter fun p =>
          p.2.ctx == ctx && (match p.2.core with | some c => !cs.holds c | none => false)
        (kOk, out.foldl (fun s p => s.deschedule p.1 false) s)
  | .count n =>
    (match s.ctxs.look ctx with | some c => c.counters.getD n 0 | none => 0, s)

/-- R354, R342: ctxcfg: the checks of every object that it names come before the others. -/
def execCtxcfg (d : Dst) (x : CapSel) (it : CtxItem) (s : State) : Host.Outcome State Fault Refusal :=
  kernelWord (.ctxcfg d x it) s
    (fun i l t => do
      let c ← i.obj (i.cap t x) [1] pIV
      let k ← (match it with
        | .ceil v => do
          let n ← liftE (i.src l t v)
          if n.toNat < 3 ∨ 5 < n.toNat then .error (errOf cKernel)
          .ok (.ceil n.toNat)
        | .fault f => do
          let f := i.cap t f
          if f.tag then
            let _ ← i.obj f [3] pIV
            .ok (.fault (some f))
          else .ok (.fault none)
        | .cset f => do .ok (.cset (← i.obj (i.cap t f) [7] pIV))
        | .cnt n => .ok (.count n.val)
        | .other _ _ => .error (errOf cKernel) : Except MErr CfgDo)
      if c = i.t.ctx ∨ ¬ i.s.inSubtree i.t.ctx c then .error (errOf cKernel)
      .ok (c, k, ← liftE (i.destOf t d)))
    (fun i s l y =>
      let (n, s) := s.configure i.t.ctx y.1 y.2.1
      match y.2.1, y.2.2 with
      | .count _, .v r => i.land s l (pairUpds r (BitVec.ofNat 64 n))
      | .ceil k, dst =>
        let us := (destUpd dst (BitVec.ofNat 32 n)).map fun u => (l, u)
        s.upTeam i.x.team (·.addOp (i.op [l] 0 (.ceil ((s.bornNo y.1).getD 0) k us)))
      | _, dst => i.status s l dst n)

/-- R352, R355: the contexts that an ancestor's run returns to Runnable: those below it that did not stop by themselves
and that no context between holds. -/
def State.heldBelow (s : State) (ctx : Nat) : Nat → Nat → Bool
  | 0, _ => false
  | fuel + 1, c =>
    c == ctx ||
      match s.ctxs.look c with
      | none => false
      | some x => !x.ownStop && (match x.parent with | some p => s.heldBelow ctx fuel p | none => false)

/-- R355: make a context Runnable; the status. -/
def State.runCtx (s : State) (ctx : Nat) : Nat × State :=
  match s.ctxs.look ctx with
  | none => (kState, s)
  | some c =>
    let met := match s.csets.look c.cset with | some k => decide (k.guaranteed ≤ k.cores.length) | none => false
    match c.st with
    | .runnable => (kOk, s)
    | .stopping => (kState, s)
    | .dead => (kState, s)
    | .degraded => if met then (kOk, { s with ctxs := s.ctxs.put ctx { c with st := .runnable, ownStop := false, cut := false, cutFailed := false } }) else (kState, s)
    | .created => (kOk, { s with ctxs := s.ctxs.put ctx { c with st := .runnable } })
    | .stopped =>
      let below := (s.ctxs.filter fun p => p.2.st == .stopped && s.heldBelow ctx (s.ctxs.length + 1) p.1).map (·.1)
      (kOk, { s with ctxs := s.ctxs.mapv fun k (x : Ctx) =>
        if k = ctx then { x with st := .runnable, ownStop := false, cut := false, cutFailed := false }
        else if below.contains k then { x with st := .runnable } else x })

/-- R348, R355: a record's capabilities under the tag rule, the issuer as poster. -/
def LaunchRec.under (s : State) (r : LaunchRec) (poster target : Nat) : LaunchRec :=
  { r with tags := r.tags.mapIdx fun j t => t && s.keepsFrom poster target (r.cap (16 * j)) }

/-- R355: ctxrun. -/
def execCtxrun (d : Dst) (x : CapSel) (r : Option CapSel) (s : State) : Host.Outcome State Fault Refusal :=
  kernelWord (.ctxrun d x r) s
    (fun i l t => do
      let c ← i.obj (i.cap t x) [1] pIV
      let rec_ ← (match r with
        | none => .ok none
        | some rs => do
          let k := i.cap t rs
          let y ← i.readRecord k k.addr.toNat
          .ok (some (← i.s.checkRecord c (i.visited.filter fun p => decide (p.1 < l)).length
            (y.under i.s i.t.ctx c))) : Except MErr (Option Launch))
      .ok (c, rec_, ← liftE (i.destOf t d)))
    (fun i s l y =>
      let (n, s) := s.runCtx y.1
      let s := if n = kOk then (match y.2.1 with | some k => (s.submit k).2 | none => s) else s
      i.status s l y.2.2 n)

/-- R356: the outcome word of a stop. -/
def stopWord (c : Ctx) (cut : Bool) : Nat :=
  if cut then (if c.cutFailed then 2 else 1) + 65536 * c.cutStep.toNat else 0

/-- R352, R356: a context of the subtree of `ctx` under a stop. -/
def Ctx.stopping (x : Ctx) (own cut : Bool) : Ctx :=
  let x := if x.st == .stopping && x.cut then x else { x with cutFailed := false, cutStep := 0, cutRound := false }
  let x := { x with st := if x.st == .runnable then .stopping else x.st }
  if own then { x with ownStop := true, cut := x.cut || cut } else x

/-- R356: a stop or a cut of a subtree begins. -/
def State.stopCtx (s : State) (ctx : Nat) (cut : Bool) : State :=
  let sub := s.subtree ctx
  let s := { s with ctxs := s.ctxs.mapv fun k (x : Ctx) => if sub.contains k then x.stopping (k == ctx) cut else x }
  (s.teamsOf sub).foldl (fun s id => match s.teams.look id with
    | some t => if t.core.isSome ∧ !t.dead then s.deschedule id cut else s
    | none => s) s

/-- R356: ctxstop. -/
def execCtxstop (d : Dst) (x : CapSel) (cut : Bool) (s : State) : Host.Outcome State Fault Refusal :=
  kernelWord (.ctxstop d x cut) s
    (fun i _ t => do
      let c ← i.obj (i.cap t x) [1] pIV
      if i.s.inSubtree c i.t.ctx then .error (errOf cKernel)
      .ok (c, ← liftE (i.destOf t d)))
    (fun i s l y =>
      match (s.ctxs.look y.1).map (fun (c : Ctx) => c.st) with
      | some .created => i.status s l y.2 (if cut then 1 else 0)
      | some .stopped => i.status s l y.2 0
      | some .stopping =>
        ((s.stopCtx y.1 cut).upTeam i.x.team (·.addOp (i.op [l] 0x309 (.kernel y.1 [(if cut then 1 else 0, 0)] [(l, y.2)]))))
      | some .dead => i.status s l y.2 3
      | _ => (s.stopCtx y.1 cut).upTeam i.x.team (·.addOp (i.op [l] 0x309 (.kernel y.1 [(if cut then 1 else 0, 0)] [(l, y.2)]))))

/-- R357: ctxkill. -/
def execCtxkill (d : Dst) (x : CapSel) (s : State) : Host.Outcome State Fault Refusal :=
  kernelWord (.ctxkill d x) s
    (fun i _ t => do
      let c ← i.obj (i.cap t x) [1] pRV
      if i.s.inSubtree c i.t.ctx then .error (errOf cKernel)
      .ok (c, ← liftE (i.destOf t d)))
    (fun i s l y =>
      (s.killContexts (s.subtree y.1) 3).upTeam i.x.team (·.addOp (i.op [l] 0x30A (.kernel y.1 [] [(l, y.2)]))))

/-! ### Scheduling contexts (R359, R360) -/

/-- R360: make a scheduling context under another. -/
def State.newSched (s : State) (p share prio : Nat) : Except Nat (Cap × State) :=
  match s.scheds.look p with
  | none => .error kState
  | some c =>
    if c.share < c.allocated + share then .error kShare
    else if prio < c.prio then .error kPrio
    else
      match s.newObj 4 none with
      | none => .error kLimit
      | some (i, s) =>
        let c : Sched := { c with allocated := c.allocated + share }
        let s := { s with scheds := (s.scheds.put p c).put i ⟨some p, share, 0, prio, 4096, none⟩ }
        .ok (s.capOf pIvCx i, s)

/-- R360: schnew. -/
def execSchnew (d r : CapSel) (x : Src) (s : State) : Host.Outcome State Fault Refusal :=
  kernelWord (.schnew d r x) s
    (fun i l t => do
      let o ← i.obj (i.cap t r) [4] pIV
      let v ← liftE (i.src l t x)
      if v.toNat / 2 ^ 22 ≠ 0 then .error (errOf cKernel)
      .ok (o, v.toNat % 2 ^ 17, v.toNat / 2 ^ 17 % 32))
    (fun i s l y => i.made s l d (s.newSched y.1 y.2.1 y.2.2))

/-- R360: a share changes: each core keeps the old one until its next window. -/
def State.setShare (s : State) (o old v : Nat) : State :=
  { s with
    cores := s.cores.mapv fun _ (k : Core) => if (k.shares.look o).isSome then k else { k with shares := k.shares.put o old },
    scheds := s.scheds.upd o fun x => { x with share := v } }

/-- R359: some child is more urgent than a priority. -/
def State.childAbove (s : State) (o v : Nat) : Bool := s.scheds.any fun p => p.2.parent == some o && decide (p.2.prio < v)

/-- R360: change the share, the priority or the yield limit. A priority less urgent than a child's is refused with PRIO, so that
no child is ever more urgent than its parent (R359): the model's choice of the status (log 154). -/
def State.setSched (s : State) (o item v : Nat) : Nat × State :=
  match s.scheds.look o with
  | none => (kState, s)
  | some c =>
    let par := c.parent.bind fun p => (s.scheds.look p).map fun x => (p, x)
    if item = 0 then
      match par with
      | none => if 65536 < v ∨ v < c.allocated then (kShare, s) else (kOk, s.setShare o c.share v)
      | some (p, x) =>
        if x.share + c.share < x.allocated + v ∨ v < c.allocated then (kShare, s)
        else
          let x : Sched := { x with allocated := x.allocated + v - c.share }
          (kOk, { s with scheds := s.scheds.put p x }.setShare o c.share v)
    else if item = 1 then
      if s.childAbove o v then (kPrio, s)
      else match par with
      | some (_, x) => if v < x.prio then (kPrio, s) else (kOk, { s with scheds := s.scheds.put o { c with prio := v } })
      | none => (kOk, { s with scheds := s.scheds.put o { c with prio := v } })
    else (kOk, { s with scheds := s.scheds.put o { c with ylim := v } })

/-- R360: schset. -/
def execSchset (item : Fin 3) (d : Dst) (r : CapSel) (x : Src) (s : State) : Host.Outcome State Fault Refusal :=
  kernelWord (.schset item d r x) s
    (fun i l t => do
      let o ← i.obj (i.cap t r) [4] pIV
      let v ← liftE (i.src l t x)
      if (item = 1 ∧ 32 ≤ v.toNat) ∨ (item = 2 ∧ (v = 0 ∨ 65536 < v.toNat)) then .error (errOf cKernel)
      .ok (o, v.toNat, ← liftE (i.destOf t d)))
    (fun i s l y => let (n, s) := s.setSched y.1 item.val y.2.1; i.status s l y.2.2 n)

/-! ### Address spaces (R363-R365, R448) -/

/-- R363: make an address space for a context. -/
def State.newSpace (s : State) (ctx r : Nat) : Except Nat (Cap × State) :=
  match s.takeObject r with
  | none => .error kNomem
  | some (pa, s) =>
    let used := s.spaces.map (·.2.asid)
    match (List.range 8192).find? fun a => !used.contains a with
    | none => .error kLimit
    | some a =>
      match s.newObj 2 (some r) with
      | none => .error kLimit
      | some (i, s) =>
        .ok (s.capOf pIvCx i,
          { s with spaces := s.spaces.put i ⟨ctx, (s.bornNo ctx).getD 0, some (s.spaceOf ctx), a, r, [pa], [], [], [], []⟩ })

/-- R363: asnew. -/
def execAsnew (d r : CapSel) (s : State) : Host.Outcome State Fault Refusal :=
  kernelWord (.asnew d r) s (fun i _ t => i.obj (i.cap t r) [6] pIV)
    (fun i s l o => i.made s l d (s.newSpace i.t.ctx o))

/-- R364: the bytes of a page of a size code. -/
def pageSize (code : Nat) : Nat := [2 ^ 12, 2 ^ 16, 2 ^ 21, 2 ^ 25, 2 ^ 29, 2 ^ 33].getD code 4096

/-- R448: the level that holds pages of a size code. -/
def pageLevel (code : Nat) : Nat := [0, 0, 1, 1, 1, 2].getD code 0

/-- R448: the table pages of levels 4 down to ℓ that [va, va + len) touches; a table of level k covers 2^(21 + 9k)
bytes. -/
def tablesFor (level va len : Nat) : List (Nat × Nat) :=
  (List.range (5 - level)).flatMap fun j =>
    let k := 4 - j
    let sz := 2 ^ (21 + 9 * k)
    (List.range' (va / sz) ((va + len - 1) / sz - va / sz + 1)).map fun x => (k, x)

/-- R364, R448 check 4: a page of the range is mapped, or a table stands where a page would. -/
def Space.overlaps (sp : Space) (level va len : Nat) : Bool :=
  sp.maps.any (fun m => decide (m.va < va + len) && decide (va < m.va + m.len))
    || sp.hostPages.any (fun h => decide (h.va < va + len) && decide (va < h.va + 4096))
    || sp.remote.any (fun h => decide (h.va < va + len) && decide (va < h.va + h.len))
    || (decide (1 ≤ level) && sp.tables.any fun t =>
          t.1 + 1 == level && decide (t.2 * 2 ^ (21 + 9 * t.1) < va + len) && decide (va < (t.2 + 1) * 2 ^ (21 + 9 * t.1)))

/-- Take single units one by one. -/
def State.takeOnes (s : State) (r : Nat) : Nat → Option (List Nat × State)
  | 0 => some ([], s)
  | n + 1 =>
    match s.takeObject r with
    | none => none
    | some (pa, s) => (s.takeOnes r n).map fun p => (pa :: p.1, p.2)

/-- R364: the request of an `asmap`. -/
structure MapReq where
  space : Nat
  va : Nat
  code : Nat
  count : Nat
  r : Bool
  w : Bool
  x : Bool
  t : Bool
  src : Cap

/-- R364: the permissions the source must hold. -/
def MapReq.perm (q : MapReq) : BitVec 16 :=
  (if q.r then pLD else 0) ||| (if q.w then pST else 0) ||| (if q.x then pEX else 0) ||| (if q.t then pLDC ||| pSTC else 0)

/-- R364: the capability in the inner space. -/
def MapReq.cap (q : MapReq) : Option Cap :=
  Cap.exact (q.perm ||| pGL ||| pCX ||| (q.src.perms &&& (pSY ||| pRV))) 0 q.va (q.count * pageSize q.code)

/-- R364: checks 3 to 6, and the mapping. -/
def State.asMap (s : State) (ctx : Nat) (q : MapReq) : Except Nat (Cap × State) :=
  match s.spaces.look q.space with
  | none => .error kSubset
  | some sp =>
    let len := q.count * pageSize q.code
    let level := pageLevel q.code
    if sp.outer ≠ some (s.spaceOf ctx) then .error kSubset
    else if sp.overlaps level q.va len then .error kOverlap
    else
      match q.cap with
      | none => .error kRep
      | some c =>
        let new := (tablesFor level q.va len).filter fun t => !sp.tables.contains t
        match s.takeOnes sp.reserve new.length with
        | none => .error kNomem
        | some (pas, s) =>
          let m : MapRange := ⟨q.va, len, pageSize q.code, q.src.addr.toNat, q.r, q.w, q.x, q.t⟩
          let sp : Space := { sp with maps := sp.maps ++ [m], tables := sp.tables ++ new, units := sp.units ++ pas }
          .ok (c, { s with spaces := s.spaces.put q.space sp })

/-- R364: asmap. -/
def execAsmap (d : Dst) (x : CapSel) (m : Fin 16) (s : State) : Host.Outcome State Fault Refusal :=
  kernelWord (.asmap d x m) s
    (fun i _ t => do
      let o ← i.obj (i.cap t x) [2] pIV
      let r := 8 * m.val
      let va := (t.pair r).toNat
      let w := (t.rdV (r + 2)).toNat
      let src := t.quad (2 * m.val + 1)
      let code := w % 8
      let count := w / 2 ^ 8 % 2 ^ 20
      if 6 ≤ code ∨ w / 2 ^ 7 % 2 ≠ 0 ∨ w / 2 ^ 28 ≠ 0 ∨ count = 0 ∨ t.rdV (r + 3) ≠ 0 then .error (errOf cKernel)
      let q : MapReq := ⟨o, va, code, count, w.testBit 3, w.testBit 4, w.testBit 5, w.testBit 6, src⟩
      let _ ← liftE (capCheck src q.perm src.addr.toNat (count * pageSize code) [0] false false true true)
      if va % pageSize code ≠ 0 ∨ src.addr.toNat % pageSize code ≠ 0 then .error (errOf cAlign)
      if i.s.covered i.t.ctx src then .error (errOf cRevoked)
      .ok (q, ← liftE (i.destOf t d)))
    (fun i s l y =>
      match s.asMap i.t.ctx y.1 with
      | .error n => i.status s l y.2 n
      | .ok (c, s) => i.land s l (.quad (2 * m.val + 1) c :: destUpd y.2 0))

/-- R365: the bytes of [va, va + len) that pages of one size map. -/
def Space.mapped (sp : Space) (page va len : Nat) : Nat :=
  ((sp.maps.filter (·.page == page)).map fun m => min (m.va + m.len) (va + len) - max m.va va).foldl (· + ·) 0

/-- R365: what remains of a run of pages without [va, va + len). -/
def MapRange.without (m : MapRange) (va len : Nat) : List MapRange :=
  (if m.va < va then [{ m with len := min m.len (va - m.va) }] else []) ++
    (if va + len < m.va + m.len then
      let a := max m.va (va + len)
      [{ m with va := a, len := m.va + m.len - a, target := m.target + (a - m.va) }]
    else [])

/-- R365: remove pages; the accesses in flight that their removal waits for. -/
def State.asUnmap (s : State) (o va page count : Nat) : Except Nat (List (Nat × Nat) × State) :=
  match s.spaces.look o with
  | none => .error kState
  | some sp =>
    let len := count * page
    if sp.mapped page va len ≠ len then .error kOverlap
    else
      let marks := (s.domainTeams o).filterMap fun id => (s.teams.look id).map fun t => (id, t.nextOp)
      .ok (marks, { s with spaces := s.spaces.put o { sp with maps := sp.maps.flatMap fun m => m.without va len } })

/-- R365: asunmap. -/
def execAsunmap (d : Dst) (x : CapSel) (m : Fin 16) (s : State) : Host.Outcome State Fault Refusal :=
  kernelWord (.asunmap d x m) s
    (fun i _ t => do
      let o ← i.obj (i.cap t x) [2] pIV
      let r := 8 * m.val
      let va := (t.pair r).toNat
      let w := (t.rdV (r + 2)).toNat
      let code := w % 8
      let count := w / 2 ^ 8 % 2 ^ 20
      if 6 ≤ code ∨ count = 0 then .error (errOf cKernel)
      if va % pageSize code ≠ 0 then .error (errOf cAlign)
      .ok (o, va, pageSize code, count, ← liftE (i.destOf t d)))
    (fun i s l y =>
      match s.asUnmap y.1 y.2.1 y.2.2.1 y.2.2.2.1 with
      | .error n => i.status s l y.2.2.2.2 n
      | .ok (marks, s) =>
        let (n, s) := s.nextSeq
        s.upTeam i.x.team (·.addOp (i.op [l] 0x30D (.kernel n marks [(l, y.2.2.2.2)]))))

/-! ### Interrupt lines (R370) -/

/-- R370: the message of a line. -/
def lineMsg (n : Nat) (status : Word) (i : Nat) : Msg :=
  { words := [4, BitVec.ofNat 32 n, status, 0, 0, 0, 0, 0], q0 := Cap.zero, q1 := Cap.zero, ans := none, prio := 0, seq := 0,
    ctx := 0, born := 0, space := 0, sgen := 0, kernel := true, kind := 4, src := i, pasid := 0, gates := [], slot := 0 }

/-- R370: send the message of a line, if its endpoint stands. -/
def State.signalLine (s : State) (i : Nat) : State :=
  match s.lines.look i with
  | some x => match x.ep with
    | some e => if s.genOf e = x.epGen then (s.sendMsg e (lineMsg x.number x.status i)).getD s else s
    | none => s
  | none => s

/-- R370: bind a line to an endpoint, or unbind it and withdraw its message. -/
def State.bindLine (s : State) (i : Nat) (e : Option Nat) : State :=
  match e with
  | some k => { s with lines := s.lines.upd i fun x => { x with st := .armed, ep := some k, epGen := s.genOf k } }
  | none =>
    let s := s.mapEps fun y => { y with kq := y.kq.filter fun m => !(m.kind == 4 && m.src == i) }
    { s with lines := s.lines.upd i fun x => { x with st := .unbound, ep := none } }

/-- R370: lnbind. -/
def execLnbind (d : Dst) (k : CapSel) (e : Option CapSel) (s : State) : Host.Outcome State Fault Refusal :=
  kernelWord (.lnbind d k e) s
    (fun i _ t => do
      let o ← i.obj (i.cap t k) [5] pIV
      let ep ← (match e with
        | some c => do .ok (some (← i.obj (i.cap t c) [3] pIV))
        | none => .ok none : Except MErr (Option Nat))
      .ok (o, ep, ← liftE (i.destOf t d)))
    (fun i s l y => i.status (s.bindLine y.1 y.2.1) l y.2.2 kOk)

/-- R370: acknowledge a line; the status. -/
def State.ackLine (s : State) (i : Nat) : Nat × State :=
  match s.lines.look i with
  | none => (kState, s)
  | some x =>
    match x.st with
    | .unbound => (kState, s)
    | .armed => (kState, s)
    | .awaiting false => (kOk, { s with lines := s.lines.put i { x with st := .armed } })
    | .awaiting true => (kOk, { s with lines := s.lines.put i { x with st := .awaiting false } }.signalLine i)

/-- R370: lnack. -/
def execLnack (d : Dst) (x : CapSel) (s : State) : Host.Outcome State Fault Refusal :=
  kernelWord (.lnack d x) s
    (fun i _ t => do .ok (← i.obj (i.cap t x) [5] pIV, ← liftE (i.destOf t d)))
    (fun i s l y => let (n, s) := s.ackLine y.1; i.status s l y.2 n)

/-! ### revoke (R372) -/

/-- R372: a context or an ancestor was made from a reserve. -/
def State.bornOf (s : State) (r : Nat) (ctx : Nat) : Bool :=
  s.ctxs.any fun p => s.inSubtree p.1 ctx && madeFrom s (s.objs.length + 1) p.1 r

/-- R372: revoke; the status lands when the filter entry is active. -/
def execRevoke (d : Dst) (r : CapSel) (n : Notify) (s : State) : Host.Outcome State Fault Refusal :=
  kernelWord (.revoke d r n) s
    (fun i _ t => do
      let c := i.cap t r
      let what ← (if c.tag ∧ c.space = 3 then do .ok (Region.reserve (← i.obj c [6] pRV))
        else do
          if !c.tag then .error (errOf cCaptag)
          if c.otype ≠ 0 then .error (errOf cCapseal)
          if c.space ≠ 0 ∨ ¬ c.has pRV then .error (errOf cCapperm)
          if i.s.covered i.t.ctx c then .error (errOf cRevoked)
          .ok (.range (i.s.spaceOf i.t.ctx) c.decode.1 c.decode.2) : Except MErr Region)
      let note ← (match n with
        | .none => .ok none
        | .event e => do
          let k := i.cap t e
          let _ ← liftE (capCheck k (pLD ||| pST) k.addr.toNat 8 [0] false true true true)
          if i.s.covered i.t.ctx k then .error (errOf cRevoked)
          .ok (some k)
        | .endpoint e => do
          let _ ← i.obj (i.cap t e) [3] pIV
          .ok (some (i.cap t e)) : Except MErr (Option Cap))
      .ok (what, note, ← liftE (i.destOf t d)))
    (fun i s l y =>
      if (match y.1 with | .reserve o => s.bornOf o i.t.ctx | .range _ _ _ => false) then i.status s l y.2.2 kState
      else if 64 ≤ s.revs.length then i.status s l y.2.2 kBusy
      else
        let rv : Revocation :=
          { seq := s.revSeq, what := y.1, issuer := i.t.ctx, notify := y.2.1, notifySpace := s.spaceOf i.t.ctx,
            notifyGen := s.genOf (s.spaceOf i.t.ctx), active := false,
            swept := false, pages := 0 }
        { s with revs := s.revs ++ [rv], revSeq := s.revSeq + 1 }.upTeam i.x.team
          (·.addOp (i.op [l] 0x30F (.kernel rv.seq [] [(l, y.2.2)]))))

end Sys2Proof.Machine
end

