-- ==== Sys2Proof/Machine/Fresh.lean ====
section
/-! DEFINITION. Threads, groups and teams as they stand when they start (R15, R31, R160, R161, R175, R222), before the
launch or a task gives them their registers. -/

namespace Sys2Proof.Machine

open Sys2Proof

/-- R15: a thread of `n` main registers at its start. -/
def Thread.fresh (n : Nat) (pc : DWord) (pccx : Nat) : Thread :=
  { st := .active, pc := pc, pccx := pccx, want := none, backed := none, v := List.replicate n 0,
    vtag := List.replicate (n / 4) false, o := List.replicate 16 0, oval := List.replicate 16 false,
    b := List.replicate 4 Latch.none, x := List.replicate 4 0, p := List.replicate 7 false, f := List.replicate 12 false,
    last := none, fps := 0, park := none, await := none, stopKind := 0, cause := 0, trap := 0, step := 0, block := none,
    words := 0, frame := 0, xfer := 0, fenced := [], fetchGates := [], half := false, gates := [], held := [] }

/-- R15, R251: a group with no thread. -/
def Group.fresh (age : Nat) : Group :=
  { threads := [], s := List.replicate 256 0, sw := 0, k := List.replicate 16 Cap.zero, g := List.replicate 8 Conv.idle,
    cause := 0, pcc := List.replicate 8 none, pct := List.replicate 16 none, queue := [], joining := [],
    houseDue := false, age := age, issued := 0,
    crowd := 0, engRec := ⟨0, 0, false, 0⟩, skid := 0, initiator := false, halted := false, exempt := false }

/-- R222: a closed bank. -/
def Bank.closed : Bank :=
  { openC := false, afmt := 0, bfmt := 0, ofmt := 0, mode := 0, ea := 0, count := 0, status := 0, grant := false, asked := 0,
    entries := [] }

/-- R228: the issue view of a closed bank. -/
def BankView.closed : BankView := { openC := false, afmt := 0, bfmt := 0, ofmt := 0, ea := 0, count := 0 }

/-- R218: the matrix engine with 8 empty macros and 16 closed banks. -/
def Matrix.fresh : Matrix :=
  { macros := List.replicate 8 ⟨none, [], [], false⟩, banks := List.replicate 16 Bank.closed,
    viewFmt := List.replicate 8 none, viewBank := List.replicate 16 BankView.closed, queue := [] }

/-- R160, R175: a team of `groups` groups and `n` registers on a core, with no thread yet. -/
def Team.fresh (core : CoreId) (ctx n mrf spad groups : Nat) : Team :=
  { core := some core, w := Config.width core.die, ctx := ctx, launch := 0, cluster := 0, idx := 0, cx := 0, cy := 0, gx := 1, gy := 1, cw := 1,
    ch := 1, sched := 0, world := 0, epoch := 0, mates := [], nreg := n, mrf := mrf, spad := spad, st := .running,
    faultStop := false, desched := false, cut := false, whole := false, cutStep := 0,
    groups := (List.range groups).map Group.fresh, sp := [], spTags := [], owner := [], named := [], ties := [], ops := [], nextOp := 0,
    pend := [], mx := Matrix.fresh, deque := [], ring := Cap.zero, ringBytes := 0, ringOld := 0, ringCount := 0,
    refill := false, spawns := 0, free := [], freed := [], steal := none, idleAt := none, searched := false, doneCap := none,
    slotPa := 0, lastG := none, run := 0, contended := false, ageCtr := groups, hold := none, slot := none, wrote := [], sfuBusy := 0,
    memBusy := 0, deschedAt := 0, placedAt := 0, message := none, faults := [], pageAsync := false, dead := false }

end Sys2Proof.Machine
end

