-- ==== Sys2Proof/Machine/Frames.lean ====
section
/-! DEFINITION. The trap frame (09_core_faults R254-R256, R258) and the words `tread`, `twrite`, `tclr` and `tresume`
(15_package_kernel R369). -/

namespace Sys2Proof.Machine

open Sys2Proof

/-! ### Selectors (R254, R255) -/

/-- R254: a selector. -/
structure FrameSel where
  item : Nat
  lane : Nat
  group : Nat
  area : Nat

/-- R254: the fields of a selector; none where a reserved bit is set, or a field that the area does not use. -/
def frameSel (x : Word) : Option FrameSel :=
  let n := x.toNat
  let y : FrameSel := ⟨n % 256, n / 2 ^ 8 % 128, n / 2 ^ 15 % 16, n / 2 ^ 19 % 8⟩
  if n / 2 ^ 22 ≠ 0 ∨ (y.area ≠ 2 ∧ y.lane ≠ 0) ∨ (y.area = 0 ∧ y.group ≠ 0) then none else some y

/-- R253: the code of a team state. -/
def tstateNo : TState → Nat
  | .running => 0
  | .yielding => 1
  | .halting => 2
  | .draining => 3
  | .stopped => 4
  | .saving => 5
  | .saved => 6
  | .restoring => 7

/-- A bit at a place. -/
def flagBit (b : Bool) (n : Nat) : Nat := if b then 2 ^ n else 0

/-- Bits of a list of Booleans, the first lowest. -/
def boolsNat (l : List Bool) : Nat := (l.zipIdx.map fun p => flagBit p.1 p.2).foldl (· + ·) 0

/-- The 32-bit word i of a 128-bit value. -/
def quadWord (b : BitVec 128) (i : Nat) : Nat := b.toNat / 2 ^ (32 * i) % 2 ^ 32

/-- The 32-bit half i of a 64-bit value. -/
def dWord (b : DWord) (i : Nat) : Nat := b.toNat / 2 ^ (32 * i) % 2 ^ 32

/-- R249: the groups that initiated the halt. -/
def Team.initiators (t : Team) : Nat := boolsNat (t.groups.map (·.initiator))

/-- R255 area 0. -/
def Team.item0 (t : Team) (n : Nat) : Option Nat :=
  if n = 0 then some (tstateNo t.st)
  else if n = 1 then
    some (flagBit t.faultStop 0 + flagBit t.desched 1 + flagBit t.cut 2 + flagBit t.whole 3 + 16 * t.initiators)
  else if n = 2 then some t.cutStep.toNat
  else none

/-- R255 area 1. -/
def Group.item1 (g : Group) (n : Nat) : Option Nat :=
  if n = 0 then some g.cause.toNat
  else if n = 1 then some g.issued
  else if n = 2 then some (g.skid % 32 + flagBit g.initiator 5)
  else if n = 3 then some g.sw.toNat
  else if n = 4 then some (g.engRec.op + 2 ^ 10 * g.engRec.lane + flagBit g.engRec.valid 31)
  else if n = 5 then some (dWord g.engRec.pc 0)
  else if n = 6 then some (dWord g.engRec.pc 1)
  else if 8 ≤ n ∧ n < 16 then
    let c := g.g.getD (n - 8) Conv.idle
    some (flagBit c.armed 0 + flagBit c.sign 1 + flagBit c.sig.isSome 2)
  else if 64 ≤ n ∧ n < 128 then
    let c := g.g.getD ((n - 64) / 8) Conv.idle
    some (quadWord (if n % 8 < 4 then c.expect else c.arrived) (n % 4))
  else none

/-- R255: the home selector of a latch (R65), 0xFE for none. -/
def homeNo : Option Home → Nat
  | some (.v n) => n
  | some (.o n) => 128 + n
  | none => 254

/-- R255 item 2 of a thread. -/
def Thread.item2 (t : Thread) : Nat :=
  (if t.backed.isSome then 0 else t.pccx)
    + 8 * (match t.st with | .active => 1 | .parked => 2 | .stopped => 3)
    + 64 * (if t.st == .parked then 3 else t.stopKind)
    + 256 * (match t.park with | some p => p.kind | none => 0) + flagBit t.backed.isSome 12

/-- R255 items 9 to 11: the parked condition. -/
def Thread.parkItem (t : Thread) (n : Nat) : Nat :=
  match t.park with
  | none => 0
  | some p =>
    let addressed := [1, 2, 3, 7, 8].contains p.kind
    if n = 9 then (if addressed then p.addr % 2 ^ 32 else 0)
    else if n = 10 then (if addressed then p.addr / 2 ^ 32 % 2 ^ 32 else 0)
    else if [1, 2, 3, 4, 5, 6, 8].contains p.kind then p.val.toNat
    else 0

/-- R255 area 2. -/
def Thread.item (t : Thread) (n : Nat) : Option Nat :=
  if n < 2 then some (dWord t.pc n)
  else if n = 2 then some t.item2
  else if n = 3 then some t.cause.toNat
  else if n = 4 then some (boolsNat t.p)
  else if n = 5 then some t.fps.toNat
  else if n < 8 then
    let k := 2 * (n - 6)
    some ((t.x.getD k 0).toNat + 2 ^ 16 * (t.x.getD (k + 1) 0).toNat)
  else if n = 8 then some (t.trap.toNat + 2 ^ 16 * t.step.toNat)
  else if n < 12 then some (t.parkItem n)
  else if n = 12 then some (boolsNat t.vtag)
  else if 16 ≤ n ∧ n < 20 then some (match t.backed with | some c => quadWord c.bits (n - 16) | none => 0)
  else if 32 ≤ n ∧ n < 48 then some ((t.o.getD (n - 32) 0).toNat)
  else if n = 48 then some (boolsNat t.oval)
  else if 56 ≤ n ∧ n < 60 then some ((t.b.getD (n - 56) Latch.none).val.toNat)
  else if 60 ≤ n ∧ n < 64 then
    let l := t.b.getD (n - 60) Latch.none
    some (homeNo l.home + flagBit l.lost 8)
  else if 128 ≤ n then some (t.rdV (n - 128)).toNat
  else none

/-- R255 area 4: the capability a word of it belongs to; the PCC table gives no address (R13). The bits `free` stand where
no capability is held, and its tag is clear there (R6). -/
def Group.frameCap (g : Group) (free : BitVec 128) (j : Nat) : Cap :=
  if j < 16 then g.k.getD j Cap.zero
  else if j < 24 then
    let c := (g.pcc.getD (j - 16) none).getD ⟨free, false⟩
    ⟨c.bits &&& ~~~(BitVec.ofNat 128 (2 ^ 64 - 1)), c.tag⟩
  else match (g.g.getD (j - 24) Conv.idle).sig with
    | some s => s.cap
    | none => ⟨free, false⟩

/-- R255 area 4. -/
def Group.item4 (g : Group) (free : BitVec 128) (n : Nat) : Option Nat :=
  if n < 128 then some (quadWord (g.frameCap free (n / 4)).bits (n % 4))
  else if n < 160 then some (flagBit (g.frameCap free (n - 128)).tag 0)
  else none

/-- R14, R255: an item of a Free slot. It is Free, unparked and not backed; what else it shows is the value `free`, as wide
as the item is. -/
def freeItem (free n : Nat) : Nat :=
  if n = 2 then free % 8 + 64 * (free / 64 % 4)
  else if n = 4 then free % 2 ^ 7
  else if 9 ≤ n ∧ n < 12 ∨ 16 ≤ n ∧ n < 20 then 0
  else if n = 48 then free % 2 ^ 16
  else if 60 ≤ n ∧ n < 64 then free % 2 ^ 9
  else free

/-- R255: the item a selector names; an item that the tables do not list is reserved and reads 0 (R5). None where the group or
the lane does not exist. `free` is what is read where nothing is held: in a Free slot, and of a register beyond the team's
registers. -/
def Team.frameItem (t : Team) (free : BitVec 128) (width : Nat) (y : FrameSel) : Option Word :=
  let n : Option Nat :=
    if y.area = 0 then some ((t.item0 y.item).getD 0)
    else
      match t.groups[y.group]? with
      | none => none
      | some g =>
        if y.area = 1 then some ((g.item1 y.item).getD 0)
        else if y.area = 2 then
          if width ≤ y.lane then none
          else match g.threads.look y.lane with
            | some th => if 128 + t.nreg ≤ y.item then some free.toNat else some ((th.item y.item).getD 0)
            | none => some (((Thread.fresh t.nreg 0 0).item y.item).elim 0 fun _ => freeItem (free.toNat % 2 ^ 32) y.item)
        else if y.area = 3 then some (g.s.getD y.item 0).toNat
        else if y.area = 4 then some ((g.item4 free y.item).getD 0)
        else some 0
  n.map (BitVec.ofNat 32)

/-- R369: the capability a selector names for `tread.cap`. -/
def Team.frameQuad (t : Team) (free : BitVec 128) (width : Nat) (y : FrameSel) : Option Cap :=
  match t.groups[y.group]? with
  | none => none
  | some g =>
    if y.area = 2 ∧ y.lane < width then
      let th := g.threads.look y.lane
      if 128 ≤ y.item ∧ y.item % 4 = 0 ∧ y.item - 128 + 3 < t.nreg then
        some (match th with | some th => th.quad ((y.item - 128) / 4) | none => ⟨free, false⟩)
      else if y.item = 16 then some (match th with | some th => th.backed.getD Cap.zero | none => Cap.zero)
      else none
    else if y.area = 4 ∧ y.item < 128 ∧ y.item % 4 = 0 then some (g.frameCap free (y.item / 4))
    else none

/-! ### Writing (R256) -/

/-- Bits as a list of Booleans. -/
def bitsList (n k : Nat) : List Bool := (List.range k).map fun j => n.testBit j

/-- R256: a write of an item of a thread; none where it is refused. Reserved bits of %fps (R32) and of the index registers
(R25) are ignored (R5). -/
def Thread.setItem (t : Thread) (n : Nat) (w : Word) : Option Thread :=
  if n = 0 then
    if w.toNat % 8 ≠ 0 then none else some { t with pc := t.pc.extractLsb' 32 32 ++ w, half := false }
  else if n = 1 then some { t with pc := w ++ t.pc.extractLsb' 0 32, half := false }
  else if n = 4 then some { t with p := bitsList w.toNat 7 }
  else if n = 5 then some (t.apply (.fps (w &&& 0x1F#32)))
  else if n = 6 ∨ n = 7 then
    let k := 2 * (n - 6)
    let lo := w.extractLsb' 0 16 &&& 0xFF7F#16
    let hi := w.extractLsb' 16 16 &&& 0xFF7F#16
    some { t with x := (t.x.set k lo).set (k + 1) hi, held := hi.zeroExtend 32 :: lo.zeroExtend 32 :: t.held }
  else if 32 ≤ n ∧ n < 48 then some { t with o := t.o.set (n - 32) w, held := w :: t.held }
  else if n = 48 then some { t with oval := bitsList w.toNat 16 }
  else if 128 ≤ n ∧ n - 128 < t.v.length then some (t.wrV (n - 128) w)
  else none

/-- A word of a k register: its tag clears (R256). -/
def Group.setKWord (g : Group) (n : Nat) (w : Word) : Group :=
  let c := g.k.getD (n / 4) Cap.zero
  let b := c.bits.toNat - quadWord c.bits (n % 4) * 2 ^ (32 * (n % 4)) + w.toNat * 2 ^ (32 * (n % 4))
  { g with k := g.k.set (n / 4) ⟨BitVec.ofNat 128 b, false⟩ }

/-- R256: a write of an item; none where it is refused. -/
def Team.setItem (t : Team) (width : Nat) (y : FrameSel) (w : Word) : Option Team :=
  match t.groups[y.group]? with
  | none => none
  | some g =>
    let put := fun (g : Group) => { t with groups := t.groups.set y.group g }
    if y.area = 1 then
      if y.item = 3 then some (put { g with sw := w.extractLsb' 0 2 }) else none
    else if y.area = 2 then
      if width ≤ y.lane then none
      else match g.threads.look y.lane with
        | none => none
        | some th => (th.setItem y.item w).map fun th => put { g with threads := g.threads.put y.lane th }
    else if y.area = 3 then some (put { g with s := g.s.set y.item w })
    else if y.area = 4 ∧ y.item < 64 then some (put (g.setKWord y.item w))
    else none

/-- R369: a capability written into a frame; none where it is refused. -/
def Team.setQuad (t : Team) (width : Nat) (y : FrameSel) (c : Cap) : Option Team :=
  match t.groups[y.group]? with
  | none => none
  | some g =>
    let put := fun (g : Group) => { t with groups := t.groups.set y.group g }
    if y.area = 2 ∧ y.lane < width ∧ 128 ≤ y.item ∧ y.item % 4 = 0 ∧ y.item - 128 + 3 < t.nreg then
      match g.threads.look y.lane with
      | none => none
      | some th => some (put { g with threads := g.threads.put y.lane (th.wrQuad ((y.item - 128) / 4) c) })
    else if y.area = 4 ∧ y.item < 64 ∧ y.item % 4 = 0 then some (put { g with k := g.k.set (y.item / 4) c })
    else none

/-! ### The words (R369) -/

/-- W of the core a team stands on. -/
def Team.width (t : Team) : Nat := match t.core with | some c => widthOf c | none => 64

/-- R369: the team a frame word names, which must be Stopped (R256). -/
def Issue.frame (i : Issue) (c : Cap) : Except MErr (Nat × Team) := do
  let o ← i.obj c [12] pIV
  match i.s.teams.look o with
  | none => .error (errOf cKernel)
  | some t => if t.st == .stopped then .ok (o, t) else .error (errOf cKernel)

/-- A refused frame access (R256). -/
def needItem {α : Type} (x : Option α) : Except MErr α :=
  match x with
  | some a => .ok a
  | none => .error (errOf cKernel)

/-- R369: tread and tread.cap. -/
def execTread (d : TDst) (tc : CapSel) (x : Src) (s : State) : Host.Outcome State Fault Refusal :=
  kernelWord (.tread d tc x) s
    (fun i l t => do
      let (_, tm) ← i.frame (i.cap t tc)
      let y ← needItem (frameSel (← liftE (i.src l t x)))
      match d with
      | .reg r => do
        let _ ← needItem (tm.frameItem 0 tm.width y)
        let e ← liftE (i.destOf t r)
        .ok fun free : BitVec 128 => destUpd e ((tm.frameItem free tm.width y).getD 0)
      | .cap c => do
        let _ ← needItem (tm.frameQuad 0 tm.width y)
        .ok fun free : BitVec 128 =>
          capDestUpd (capDest c) (i.s.settleCap i.t.ctx ((tm.frameQuad free tm.width y).getD Cap.zero)))
    (fun i s l f => i.land { s with draws := s.draws + 1 } l (f (Config.frameRest s.draws)))

/-- R348, R369: a capability that `twrite.cap` writes, the writer as poster. -/
def State.frameCapFor (s : State) (writer taker : Nat) (c : Cap) : Cap :=
  let c := s.settleCap writer c
  s.settleCap taker (if c.tag && !s.keepsFrom writer taker c then c.untag else c)

/-- What a `twrite` writes. -/
inductive FrameVal where
  | word (w : Word)
  | quad (c : Cap)

/-- R369: one write into a frame; none where it is refused. -/
def State.frameWrite (s : State) (writer o : Nat) (y : FrameSel) (v : FrameVal) : Option State :=
  match s.teams.look o with
  | none => none
  | some tm =>
    (match v with
      | .word w => tm.setItem tm.width y w
      | .quad c => tm.setQuad tm.width y (s.frameCapFor writer tm.ctx c)).map fun tm => s.upTeam o fun _ => tm

/-- R369: twrite and twrite.cap; the writes take effect at once. -/
def execTwrite (y : TSrc) (tc : CapSel) (x : Src) (s : State) : Host.Outcome State Fault Refusal :=
  kernelWord (.twrite y tc x) s
    (fun i l t => do
      let (o, _) ← i.frame (i.cap t tc)
      let k ← needItem (frameSel (← liftE (i.src l t x)))
      let v ← (match y with
        | .reg r => do .ok (.word (← liftE (i.src l t r)))
        | .cap c => .ok (.quad (i.cap t c)) : Except MErr FrameVal)
      let _ ← needItem (i.s.frameWrite i.t.ctx o k v)
      .ok (o, k, v))
    (fun i s l a => i.land ((s.frameWrite i.t.ctx a.1 a.2.1 a.2.2).getD s) l [])

/-- R369, R251: causes of a group clear; the engine record's valid bit clears with ENGINE and MATRIX. -/
def Group.clearCause (g : Group) (m : Word) : Group :=
  let c := g.cause &&& ~~~m
  { g with cause := c,
           engRec := if anyBit c (cEngine ||| cMatrix) then g.engRec else { g.engRec with valid := false } }

/-- R369: tclr. -/
def execTclr (m : Src) (tc : CapSel) (g : Src) (s : State) : Host.Outcome State Fault Refusal :=
  kernelWord (.tclr m tc g) s
    (fun i l t => do
      let (o, tm) ← i.frame (i.cap t tc)
      let w ← liftE (i.src l t m)
      let k ← liftE (i.src l t g)
      if tm.groups.length ≤ k.toNat then .error (errOf cKernel)
      .ok (o, k.toNat, w))
    (fun i s l a => i.land (s.upGroup a.1 a.2.1 (·.clearCause a.2.2)) l [])

/-- R258: a Stopped team whose causes are clear runs again. Answers held for it land and its waiters are served (R268). -/
def State.resumeTeam (s : State) (o : Nat) : State :=
  match s.teams.look o with
  | none => s
  | some t =>
    let u := t.resume t.width
    let u := { u with st := .running, idleAt := none, searched := false, whole := false }
    ((s.upTeam o fun _ => u).landHeld o).serveAll

/-- R369: tresume; a team with a deschedule pending is to be saved (R253, R266). -/
def execTresume (d : Dst) (x : CapSel) (s : State) : Host.Outcome State Fault Refusal :=
  kernelWord (.tresume d x) s
    (fun i _ t => do .ok (← i.obj (i.cap t x) [12] pIV, ← liftE (i.destOf t d)))
    (fun i s l y =>
      match s.teams.look y.1 with
      | some t =>
        if t.st == .stopped && !t.desched && t.groups.all (fun g => g.cause == 0) then i.status (s.resumeTeam y.1) l y.2 kOk
        else i.status s l y.2 kState
      | none => i.status s l y.2 kState)

end Sys2Proof.Machine
end

