-- ==== Sys2Proof/Machine/Events.lean ====
section
/-! DEFINITION. What the steps that are no instruction words share (95_what_each_step_holds): when they take place, the
team on a core, operations in flight, causes that engines detect, and requests to the host and to peers (R424, R428,
R430, R431). -/

namespace Sys2Proof.Machine

open Sys2Proof

/-- A step takes place; where its conditions do not hold it is no step, and the machine stays as it is (log 126). -/
def enabled (s : State) (o : Option State) : Host.Outcome State Fault Refusal := .next (o.getD s)

/-- A step takes place under a condition. -/
def when_ (c : Bool) (t : State) : Option State := if c then some t else none

/-- The team resident on a core. -/
def State.onCore (s : State) (c : CoreId) : Option (Nat × Team) :=
  (s.core c).team.bind fun id => (s.teams.look id).map fun t => (id, t)

/-- The team that a step names by its core. -/
def State.evTeam (s : State) : Option (Nat × Team) := s.onCore s.ev.core

/-- An operation in flight. -/
def Team.findOp (t : Team) (id : Nat) : Option Op := t.ops.find? fun o => o.id == id

/-- Replace an operation in flight. -/
def Team.putOp (t : Team) (o : Op) : Team := { t with ops := t.ops.map fun x => if x.id = o.id then o else x }

/-- R251: an engine or the kernel unit detects a cause for an operation of a team. -/
def State.async (s : State) (id g : Nat) (cause : Word) (r : Option EngineRecord) : State :=
  s.upTeam id fun t =>
    let t := t.asyncCause g cause r
    if anyBit cause (cPage ||| cProt) then { t with pageAsync := true } else t

/-- A cause for a team in a group that the manual does not name: a free choice among its groups. -/
def State.asyncTeam (s : State) (id : Nat) (t : Team) (cause : Word) : State :=
  { s with draws := s.draws + 1 }.async id ((Config.openWord s.draws).toNat % t.groups.length) cause none

/-- R251: the engine record of an operation. -/
def Op.record (o : Op) (lane : Nat) : EngineRecord := ⟨o.op10, lane, true, o.pc⟩

/-- R247, R249, R435: a thread of a word that has issued stands at that word again, unless it is Parked, stands at a yield, or has
entered another code capability since. -/
def Thread.backAt (th : Thread) (o : Op) : Thread :=
  if th.pccx = o.pccx ∧ (th.st = .active ∨ (th.st = .stopped ∧ th.stopKind = 1)) then
    { th with pc := o.pc, await := none, stopKind := 0 }
  else th

/-- R247: a cause that a lane's access meets after its word has issued is precise all the same: the threads of the word stop at the
word, though later words may have issued, which is the model's choice (log 68). -/
def Team.takeLate (t : Team) (o : Op) (lane : Nat) (cause : Word) : Team :=
  let t := t.upGroup o.g fun g => g.mapThreads fun l th => if o.lanes.contains l then th.backAt o else th
  let t := t.takeCause o.g o.lanes [(lane, cause)]
  if anyBit cause (cPage ||| cProt) then { t with pageAsync := true } else t

/-- An operation ends with a cause in a lane: it changes nothing more, and its flag clears (R252). -/
def State.failOp (s : State) (id : Nat) (o : Op) (lane : Nat) (cause : Word) : State :=
  s.upTeam id fun t => (t.takeLate o lane cause).endOp o

/-- R373: a register write of a team's context, a covered capability losing its tag. -/
def State.settleUpd (s : State) (ctx : Nat) (u : Upd) : Upd :=
  match u with
  | .quad m c => .quad m (s.settleCap ctx c)
  | .k n c => .k n (s.settleCap ctx c)
  | u => u

/-- Results land in the lanes of a group (R18, R23). -/
def State.landUpds (s : State) (id g : Nat) (us : List (Nat × Upd)) : State :=
  match s.teams.look id with
  | none => s
  | some t =>
    let us := us.map fun p => (p.1, s.settleUpd t.ctx p.2)
    s.upGroup id g fun gr => us.foldl (fun gr p => gr.applyLanding p.1 p.2) gr

/-! ### Messages to peers (R428, R430-R432) -/

/-- R431: units of reassembly space. -/
def unitsFor (n : Nat) : Nat := (n + 4095) / 4096

/-- R431: the units that a message needs: one for a read. -/
def unitsOf (isRead : Bool) (len : Nat) : Nat := if isRead then 1 else unitsFor len

/-- Bytes of a message of `len` bytes as packets carry it: in tag mode each granule is followed by its tag (R436). -/
def wireLen (len : Nat) (tagMode : Bool) : Nat := if tagMode then len / 16 * 17 else len

/-- R428: the packets of a message, each with its offset: at most 4,096 bytes of data. -/
def packetsOf (tagMode : Bool) (bs : List Byte) : List (Nat × List Byte) :=
  let n := wireLen 4096 tagMode
  (List.range ((bs.length + n - 1) / n)).map fun k => (n * k, (bs.drop (n * k)).take n)

/-- R432: a packet joins what has been reassembled; one whose range is held already is discarded. -/
def joinAt (got : List (Nat × List Byte)) (off : Nat) (bs : List Byte) : List (Nat × List Byte) :=
  if got.any fun p => decide (p.1 < off + bs.length) && decide (off < p.1 + p.2.length) then got else got ++ [(off, bs)]

/-- R432: the bytes counted. -/
def countOf (got : List (Nat × List Byte)) : Nat := (got.map fun p => p.2.length).foldl (· + ·) 0

/-- What has been reassembled, packets in the order of their offsets. -/
def bytesOf (got : List (Nat × List Byte)) : List Byte :=
  let sorted : NMap (List Byte) := got.foldl (fun (acc : NMap (List Byte)) p => acc.put p.1 p.2) []
  sorted.flatMap (·.2)

/-- R428, R430, R431: a message enters its connection, with its sequence number and credits, and leaves in packets; none when the
connection is down or has no credits for it. `bytes` are a write's. -/
def State.sendRemote (s : State) (conn handle off len team op lane own : Nat) (tagMode : Bool) (bytes : Option (List Byte)) : Option State :=
  match s.conns.look conn with
  | none => none
  | some k =>
    let units := unitsOf bytes.isNone len
    if !k.up || k.credits < units then none
    else
      let m : OutMsg :=
        { seq := k.sendSeq, team := team, op := op, lane := lane, off := own, len := len, units := units, tries := 0,
          wire := if bytes.isNone then wireLen len tagMode else 0, got := [] }
      let k' : Conn := { k with sendSeq := k.sendSeq + 1, credits := k.credits - units, outMsgs := k.outMsgs ++ [m] }
      let out : List Outbound := match bytes with
        | some bs => (packetsOf tagMode bs).map fun p => .fabricWrite conn k.sendSeq handle off tagMode bs.length p.1 p.2
        | none => [.fabricRead conn k.sendSeq handle off len tagMode]
      some { s with conns := s.conns.put conn k', outbox := s.outbox ++ out }

/-- A connection is up. -/
def State.connUp (s : State) (conn : Nat) : Bool := match s.conns.look conn with | some k => k.up | none => false

/-- A message of an operation's lane is under way. -/
def State.sent (s : State) (conn team op lane own : Nat) : Bool :=
  match s.conns.look conn with
  | some k => k.outMsgs.any fun m => m.team == team && m.op == op && m.lane == lane && m.off == own
  | none => false

end Sys2Proof.Machine
end

