-- ==== Sys2Proof/Machine/Pieces.lean ====
section
/-! DEFINITION. Where the pieces of a copy command lie (07 R211-R213; 20_fabric R428-R430): its segments page by page, and
the remote parts of it, each of which is one message. -/

namespace Sys2Proof.Machine

open Sys2Proof

/-! ### Where a piece lies -/

/-- R212: where byte `off` of a side lies, its tag permissions, or the cause that aborts the command; a command meets the
ceiling of its scope `sc` at its first access alone (R312). -/
def State.sideLoc (s : State) (id : Nat) (t : Team) (d : Side) (sc : Option Scope) (off n : Nat) (need : Need) :
    Except MErr (Loc × Bool) :=
  if s.covered t.ctx d.cap then .error (errOf cRevoked)
  else if d.space = 0 then
    match (do
        let r ← s.translate t.ctx (s.worldOf t) (d.addr + off) need
        let _ ← s.hostCheck (s.spaceOf t.ctx) (d.addr + off) need r.1
        .ok r : Except MErr (Loc × Bool)) with
    | .error e => .error e
    | .ok r =>
      if (match sc with | some k => decide (s.ceiling t.ctx < scopeNo k) | none => false) then .error (errOf cScope)
      else if !s.worldOk (s.worldOf t) then .error (errOf cWorld)
      else .ok r
  else
    match s.spadAt id t d.space (d.addr + off) n with
    | some (m, o) => .ok (.spad m o, true)
    | none => .error (errOf cCapbound)

/-- Bytes of a side from `off` on that lie in one page. -/
def pageLeft (d : Side) (off : Nat) : Nat := 4096 - (d.addr + off) % 4096

/-- A segment of a piece: one page on either side. -/
structure Seg where
  off : Nat
  len : Nat
  dst : Loc
  src : Option (Loc × Bool)

/-- What copy accesses ask of pages. -/
def needCopyR (c : Copy) : Need := { needR with cap := c.tagMode }
def needCopyW (c : Copy) : Need := { needW with nr := false, cap := c.tagMode }

/-- R312: the scope that a command's next access shows to the ceiling. -/
def Copy.shown (c : Copy) (sc : Scope) : Option Scope := if c.begun then none else some sc

/-- A place of another package. -/
def Loc.isRemote (l : Loc) : Bool := match l with | .remote _ _ _ => true | _ => false

/-- R211, R429: where `n` bytes of one page on either side lie. In tag mode a remote source must keep tags on loads, and a remote
destination on stores. -/
def State.segAt (s : State) (id : Nat) (t : Team) (c : Copy) (sc : Scope) (off n : Nat) : Except MErr Seg := do
  let src ← (match c.src with
    | some x => (s.sideLoc id t x (c.shown sc) off n (needCopyR c)).map some
    | none => .ok none : Except MErr (Option (Loc × Bool)))
  let dst ← s.sideLoc id t c.dst (c.shown sc) off n (needCopyW c)
  if c.tagMode && (match src with | some p => p.1.isRemote && !p.2 | none => false) then .error (errOf cProt)
  if c.tagMode && dst.1.isRemote then
    let _ ← s.sideLoc id t c.dst (c.shown sc) off n { needCopyW c with ts := true }
  .ok ⟨off, n, dst.1, src⟩

/-- The bytes from `off` on that lie in one page on either side. -/
def Copy.chunk (c : Copy) (off : Nat) : Nat :=
  min (pageLeft c.dst off) (match c.src with | some x => pageLeft x off | none => 4096)

/-- The segments of [off, off + n). -/
def State.segs (s : State) (id : Nat) (t : Team) (c : Copy) (sc : Scope) : Nat → Nat → Nat → Except MErr (List Seg)
  | 0, _, _ => .ok []
  | fuel + 1, off, n =>
    if n = 0 then .ok []
    else
      let k := min n (c.chunk off)
      match s.segAt id t c sc off k with
      | .error e => .error e
      | .ok g => (s.segs id t c sc fuel (off + k) (n - k)).map (g :: ·)

/-- The segments of [off, off + n) that meet no cause. -/
def State.okSegs (s : State) (id : Nat) (t : Team) (c : Copy) (sc : Scope) : Nat → Nat → Nat → List Seg
  | 0, _, _ => []
  | fuel + 1, off, n =>
    if n = 0 then []
    else
      let k := min n (c.chunk off)
      let rest := s.okSegs id t c sc fuel (off + k) (n - k)
      match s.segAt id t c sc off k with
      | .ok g => g :: rest
      | .error _ => rest

/-- The remote place of a segment, and whether the destination is the remote one. -/
def Seg.remote (g : Seg) : Option (Nat × Nat × Nat × Bool) :=
  match g.dst, g.src with
  | .remote c h o, _ => some (c, h, o, true)
  | _, some (.remote c h o, _) => some (c, h, o, false)
  | _, _ => none

/-! ### Remote parts (R428, R430) -/

/-- A part of a command that lies in remote pages: one message. -/
structure Run where
  off : Nat
  len : Nat
  conn : Nat
  handle : Nat
  at_ : Nat
  isW : Bool
  deriving DecidableEq

/-- A segment stands at the head of the runs behind it. -/
def Run.join (g : Seg) (rs : List Run) : List Run :=
  match g.remote with
  | none => rs
  | some (c, h, o, w) =>
    match rs with
    | r :: rest =>
      if r.off = g.off + g.len ∧ r.conn = c ∧ r.handle = h ∧ r.at_ = o + g.len ∧ r.isW = w then
        ⟨g.off, g.len + r.len, c, h, o, w⟩ :: rest
      else ⟨g.off, g.len, c, h, o, w⟩ :: rs
    | [] => [⟨g.off, g.len, c, h, o, w⟩]

/-- The remote parts of [off, off + n); bytes that meet a cause lie in none. -/
def State.runs (s : State) (id : Nat) (t : Team) (c : Copy) (sc : Scope) : Nat → Nat → Nat → List Run
  | 0, _, _ => []
  | fuel + 1, off, n =>
    if n = 0 then []
    else
      let k := min n (c.chunk off)
      let rest := s.runs id t c sc fuel (off + k) (n - k)
      match s.segAt id t c sc off k with
      | .ok g => Run.join g rest
      | .error _ => rest

/-- R428: the remote parts of a command, each the largest range that lies in one remote range. -/
def State.copyRuns (s : State) (id : Nat) (t : Team) (c : Copy) (sc : Scope) : List Run := s.runs id t c sc (c.len + 1) 0 c.len

/-- R430: a message of a command has still to enter its connection. -/
def State.owesMessage (s : State) (id : Nat) (t : Team) (o : Op) : Bool :=
  match o.kind with
  | .copy c => (s.copyRuns id t c o.scope).any fun r =>
      (c.left.any fun p => decide (p.1 ≤ r.off) && decide (r.off < p.1 + p.2)) && !s.sent r.conn id o.id c.lane r.off
  | _ => false

end Sys2Proof.Machine
end

