-- ==== Sys2Proof/Machine/Trust.lean ====
section
/-! DEFINITION. Attestation and Troy sessions at issue (16_package_memory_trust R388-R397): `attest`, `troy.open`,
`troy.abs` and `troy.close`. -/

namespace Sys2Proof.Machine

open Sys2Proof

/-! ### attest (R389, R390) -/

/-- R390: M of the root and of each context down to this one. -/
def State.measureChain (s : State) : Nat → Nat → List (List Byte)
  | 0, _ => []
  | fuel + 1, ctx =>
    match s.ctxs.look ctx with
    | none => []
    | some c =>
      (match c.parent with | some p => s.measureChain fuel p | none => []) ++ [c.meas]

/-- R389: a team of the context is resident. -/
def State.resident (s : State) (ctx : Nat) : Bool := s.teams.any fun p => p.2.ctx == ctx && p.2.core.isSome

/-- R389: the state byte of a record. -/
def State.attestState (s : State) (ctx : Nat) : Nat :=
  if s.resident ctx then 0
  else if (s.csetOf ctx).cores.all fun p => (s.core (coreOfNo p.1)).gated then 2 else 1

/-- R390: the evidence record of a context. The key of slot 64 stands for the evidence key (R387). -/
def State.evidence (s : State) (ctx world : Nat) (nonce : List Word) : List Byte :=
  let c := s.ctxs.look ctx
  let head := numBytes 1 4 ++ numBytes 3840 4 ++ (nonce.flatMap fun w => numBytes w.toNat 4)
    ++ numBytes ((c.map (·.creation)).getD 0) 8 ++ numBytes ((c.map (·.depth)).getD 0) 1
    ++ numBytes (s.attestState ctx) 1 ++ numBytes world 1 ++ numBytes 0 5
    ++ padTo 384 ((s.measureChain (s.ctxs.length + 1) ctx).flatMap (padTo 48))
    ++ numBytes ((c.map (·.events)).getD 0) 8 ++ sha384 (Config.publicKey 3) ++ numBytes 0 16
  head ++ padTo 3309 (Config.mlDsa65 (Config.slotKey 64 0) head) ++ numBytes 0 19

/-- R389, R393: the check of a record buffer of `n` bytes. -/
def Issue.recordBuffer (i : Issue) (c : Cap) (n : Nat) : Except MErr Unit := do
  let _ ← liftE (capCheck c pST c.addr.toNat n [0] false false true true)
  if c.addr.toNat % 64 ≠ 0 then .error (errOf cAlign)
  if i.s.covered i.t.ctx c then .error (errOf cRevoked)

/-- R389: attest. -/
def execAttest (m : Fin 16) (x : Option CapSel) (b : CapSel) (s : State) : Host.Outcome State Fault Refusal :=
  kernelWord (.attest m x b) s
    (fun i _ t => do
      let c ← (match x with
        | none => .ok i.t.ctx
        | some k => do
          let c ← i.obj (i.cap t k) [1] pIV
          if ¬ i.s.inSubtree i.t.ctx c then .error (errOf cKernel)
          .ok c : Except MErr Nat)
      i.recordBuffer (i.cap t b) 3840
      .ok (c, i.cap t b, (List.range 8).map fun j => t.rdV (8 * m.val + j)))
    (fun i s l y =>
      s.upTeam i.x.team (·.addOp (i.op [l] 0x318
        (.attest y.2.1 (s.evidence y.1 i.core.world y.2.2) (8 * m.val)))))

/-! ### Troy (R391-R395) -/

/-- R391: sessions that are Open or Closing. -/
def State.openSessions (s : State) : Nat :=
  (s.sessions.filter fun p => p.2.st == .opened || p.2.st == .closing).length

/-- R393: open a session on a slot. -/
def State.openSession (s : State) (ctx team slot : Nat) (buf : Cap) : Except Nat (Cap × State) :=
  let k := s.slotOf slot
  if k.st ≠ .armed then .error kState
  else if 256 ≤ s.openSessions then .error kLimit
  else
    match s.newObj 11 none with
    | none => .error kLimit
    | some (o, s) =>
      let n := (k.sessions + 1) % 2 ^ 64
      let x : Session :=
        { number := n, slot := slot, ctx := ctx, born := (s.bornNo ctx).getD 0, meas := [], team := team, st := .opened, buf := buf,
          total := 0, data := [] }
      .ok (s.capOf pIV o,
        { s with slots := s.slots.set slot { k with sessions := n }, sessions := s.sessions.put o x })

/-- R393: troy.open. -/
def execTroyOpen (d k b : CapSel) (s : State) : Host.Outcome State Fault Refusal :=
  kernelWord (.troyOpen d k b) s
    (fun i _ t => do
      let o ← i.obj (i.cap t k) [8] pIV
      i.recordBuffer (i.cap t b) 3520
      let w := (i.s.keys.look o).getD 64
      if w ≠ i.core.world then .error (errOf cKernel)
      .ok (w, i.cap t b))
    (fun i s l y => i.made s l d (s.openSession i.t.ctx i.x.team y.1 y.2))

/-- R394, R142: the space-0 pages of [addr, hi), each checked as an access of the word; `k` bounds their number. -/
def Issue.absorbPages (i : Issue) (hi : Nat) : Nat → Nat → Except MErr Unit
  | 0, _ => .ok ()
  | k + 1, addr =>
    if hi ≤ addr then .ok ()
    else do
      let r ← i.s.translate i.t.ctx i.core.world addr { needR with nr := true }
      i.s.hostCheck (i.s.spaceOf i.t.ctx) addr needR r.1
      i.absorbPages hi k ((addr / 4096 + 1) * 4096)

/-- R394: the checks of a lane's absorb, `len` its length operand or the cause of a failing read; `sum` counts the bytes that
earlier lanes of the word absorb into the session, `taken` the granules they name. The session, the length and the granules. -/
def Issue.absorbLane (i : Issue) (c data : Cap) (len : Except Word Nat) (sc : Scope) (sum : Nat → Nat) (taken : List (Nat × Nat)) :
    Except MErr (Nat × Nat × List (Nat × Nat)) := do
  let n ← liftE len
  let o ← i.obj c [11] pIV
  let x ← (match i.s.sessions.look o with
    | some x => .ok x
    | none => .error (errOf cKernel) : Except MErr Session)
  if x.st == .closing ∨ x.slot ≠ i.core.world then .error (errOf cKernel)
  if n = 0 ∨ 2 ^ 20 ≤ n ∨ 2 ^ 48 ≤ x.total + sum o + n then .error (errOf cEngine)
  let addr := data.addr.toNat
  let inShare := data.space == 0 || (i.s.spadAt i.x.team i.t data.space addr n).isSome
  let _ ← liftE (capCheck data pLD addr n [0, 1] (sc == .system) false true inShare)
  if i.s.covered i.t.ctx data then .error (errOf cRevoked)
  let gs := i.s.sideGranules i.x.team i.t data addr n
  if gs.any fun g => taken.contains g || i.s.granuleOwned g then .error (errOf cOwner)
  let _ ← (if data.space = 0 then do
      i.absorbPages (addr + n) (n / 4096 + 2) addr
      if i.s.ceiling i.t.ctx < scopeNo sc then .error (errOf cScope)
      if !i.s.worldOk i.core.world then .error (errOf cWorld)
    else .ok () : Except MErr Unit)
  .ok (o, n, gs)

/-- The result of the lanes of an absorb: causes; absorbs by lane: session, data, length, granules. -/
abbrev AbsorbAcc := List (Nat × MErr) × List (Nat × Nat × Cap × Nat × List (Nat × Nat))

/-- R394: the lanes of an absorb in order. -/
def Issue.absorbAll (i : Issue) (sc : Scope) (asks : List (Nat × Cap × Cap × Except Word Nat)) : AbsorbAcc :=
  asks.foldl (fun (acc : AbsorbAcc) q =>
    let sum := fun (o : Nat) => ((acc.2.filter (·.2.1 == o)).map (·.2.2.2.1)).foldl (· + ·) 0
    let taken := acc.2.flatMap (·.2.2.2.2)
    match i.absorbLane q.2.1 q.2.2.1 q.2.2.2 sc sum taken with
    | .error e => (acc.1 ++ [(q.1, e)], acc.2)
    | .ok (o, n, gs) => (acc.1, acc.2 ++ [(q.1, o, q.2.2.1, n, gs)])) ([], [])

/-- R394: troy.abs. -/
def execTroyAbs (sc b : CapSel) (x : Src) (scope : Scope) (s : State) : Host.Outcome State Fault Refusal :=
  wordDo (.troyAbs sc b x scope) s fun i =>
    match i.absorbAll scope (i.visited.map fun p => (p.1, i.cap p.2 sc, i.cap p.2 b, (i.src p.1 p.2 x).map BitVec.toNat)) with
    | (e :: es, _) => i.raiseM (e :: es)
    | ([], as_) =>
      let s := i.commit (wordLen (.troyAbs sc b x scope)) .alu 0 false (i.dead (.troyAbs sc b x scope))
        (as_.map fun p => (p.1, LaneOut.nil))
      as_.foldl (fun s p =>
        let (l, o, c, n, gs) := p
        let s := s.nameAll gs
        let s := { s with sessions := s.sessions.upd o fun y => { y with total := y.total + n } }
        s.upTeam i.x.team (·.addOp
          { i.op [l] 0x31A (.absorb o (s.genOf o) ⟨c.space, c.addr.toNat, c⟩ n gs) with scope := scope, rel := true })) s

/-- R395: troy.close. -/
def execTroyClose (d : Dst) (x : CapSel) (s : State) : Host.Outcome State Fault Refusal :=
  kernelWord (.troyClose d x) s
    (fun i _ t => do .ok (← i.obj (i.cap t x) [11] pIV, ← liftE (i.destOf t d)))
    (fun i s l y =>
      match s.sessions.look y.1 with
      | some z =>
        if z.st == .opened then
          let m := match s.ctxs.look z.ctx with | some c => c.meas | none => []
          { s with sessions := s.sessions.put y.1 { z with st := .closing, meas := m } }.upTeam i.x.team
            (·.addOp (i.op [l] 0x31B (.sealing y.1 [(l, y.2)])))
        else i.status s l y.2 kState
      | none => i.status s l y.2 kState)

end Sys2Proof.Machine
end

