-- ==== Sys2Proof/Machine/Perform.lean ====
section
/-! DEFINITION. Writes and accesses as they perform (01_thread_state R18, R24; 04 R92, R196; 05 R143-R157; 06 R165,
R166, R168; 11 R285, R289): the timed writes, the landing buffer, stores and atomics, and the steps of the PC table. -/

namespace Sys2Proof.Machine

open Sys2Proof

/-! ### Timed writes (R18, R92, R196) -/

/-- The first due write of a kind, and the others. -/
def takeDue (cycle : Nat) (k : PendKind) : List Pend → Option (Pend × List Pend)
  | [] => none
  | p :: r =>
    if p.due ≤ cycle ∧ p.kind = k then some (p, r)
    else (takeDue cycle k r).map fun q => (q.1, p :: q.2)

/-- A due write performs; the banks that an ALU write-back goes to count for the words chosen in its cycle (R173). -/
def State.writeback (s : State) (k : PendKind) : Option State :=
  match s.evTeam with
  | none => none
  | some (id, t) =>
    (takeDue (s.core s.ev.core).cycle k t.pend).map fun q =>
      let us := q.1.upds.map fun u => (u.1, s.settleUpd t.ctx u.2)
      let banks := if k = .alu then q.1.upds.flatMap fun u => u.2.banks else []
      (s.upTeam id fun t => { t with pend := q.2, wrote := t.wrote ++ banks }).upGroup id q.1.g fun g => us.foldl (fun g u => g.apply u.1 u.2) g

def execAluWriteback (s : State) : Host.Outcome State Fault Refusal := enabled s (s.writeback .alu)
def execPredicateWriteback (s : State) : Host.Outcome State Fault Refusal := enabled s (s.writeback .pred)
def execScalarWriteback (s : State) : Host.Outcome State Fault Refusal := enabled s (s.writeback .scalar)

/-! ### Loads and landing (R18, R143-R146) -/

/-- R144: the value a load of `size` bytes gives. -/
def loadWordOf (size n : Nat) (sext : Bool) : Word :=
  let v := BitVec.ofNat 32 n
  if !sext then v
  else if size = 1 then (v.extractLsb' 0 8).signExtend 32
  else if size = 2 then (v.extractLsb' 0 16).signExtend 32
  else v

/-- R144: the writes of a result at its destination. -/
def Dest.upds (d : Dest) (size : Nat) (b : BitVec 128) (tag sext : Bool) : List Upd :=
  match d with
  | .none => []
  | .v n => [.v n (loadWordOf size b.toNat sext)]
  | .o n => [.o n (loadWordOf size b.toNat sext)]
  | .pair n => [.v n (b.extractLsb' 0 32), .v (n + 1) (b.extractLsb' 32 32)]
  | .quad n => [.quad n ⟨b, false⟩]
  | .capW n => [.quad n ⟨b, tag⟩]
  | .capK n => [.k n ⟨b, tag⟩]

/-- The destination of a lane. -/
def destAt (dst : List (Nat × Dest)) (l : Nat) : Dest := match dst.find? (·.1 == l) with | some p => p.2 | none => .none

/-- Bytes as a value of up to 16 bytes. -/
def valOf (bs : List Byte) : BitVec 128 := BitVec.ofNat 128 (wordOfBytes bs)

/-- R428, R430: send the read message of an access, if it has not been sent and credits allow. -/
def State.sendRead (s : State) (id : Nat) (o : Op) (a : Access) (conn handle off : Nat) : Option State :=
  if s.sent conn id o.id a.lane 0 then none
  else s.sendRemote conn handle off a.size id o.id a.lane 0 false none

/-- Insert a result among those of other lanes, lanes ascending. -/
def insertGot (l : Nat) (us : List (Nat × Upd)) (got : List (Nat × Upd)) : List (Nat × Upd) :=
  (got.filter fun p => decide (p.1 < l)) ++ us ++ got.filter fun p => !decide (p.1 < l)

/-- R143, R145, R319, R323: the load of one lane performs: its value is fixed, whatever the other lanes have read so far; the
results of all lanes land at once with the last of them. A cause that memory raises in a lane suppresses every lane's
landing. -/
def State.landLoad (s : State) (id : Nat) (t : Team) (o : Op) (acc : List Access) (dst : List (Nat × Dest)) (sext isCap : Bool)
    (got : List (Nat × Upd)) : Option State :=
  match acc.find? (·.lane == s.ev.lane) with
  | none => none
  | some a =>
    let ts := [a.touch false]
    if !s.may id t o ts then none
    else
      match a.loc with
      | .remote c h off => if !s.connUp c then some (s.failOp id o a.lane cMemerr) else s.sendRead id o a c h off
      | _ =>
        let s' : State := { s with draws := s.draws + 2048 }
        match s.readFor t.die (s.worldOf t) a.loc a.size (16 * a.lane) with
        | .error c => some (s'.failOp id o a.lane c)
        | .ok bs =>
          let us := (destAt dst a.lane).upds a.size (valOf bs) (a.tag && s.tagFor t.die a.loc) sext
          let got := insertGot a.lane (us.map fun u => (a.lane, u)) got
          let left := acc.filter (·.lane != a.lane)
          let s' := ((s'.note id t o ts).fillLines t ts).askHost a.loc a.size
          some (if left.isEmpty then (s'.landUpds id o.g got).upTeam id (·.endOp o)
            else s'.upTeam id (·.putOp { o with kind := .load left dst sext isCap got }))

/-- R389: a record is written; the status lands. -/
def State.landAttest (s : State) (id : Nat) (t : Team) (o : Op) (c : Cap) (bs : List Byte) (m : Nat) : State :=
  let (s, ok) := match s.writeRecord t.ctx (s.worldOf t) c 60 0 bs with | .ok s => (s, true) | .error s => (s, false)
  let us := o.lanes.flatMap fun l => [(l, Upd.v m (if ok then 0 else 3)), (l, .v (m + 1) (if ok then 3840 else 0))]
  (s.landUpds id o.g us).upTeam id (·.endOp o)

/-- Two updates write one group-shared register. -/
def Upd.meets : Upd → Upd → Bool
  | .s i _, .s j _ => i == j
  | .k i _, .k j _ => i == j
  | .sw _, .sw _ => true
  | _, _ => false

/-- R11: results of lower lanes of the same word, still to land, write a group-shared register that these write. -/
def Team.landsLater (t : Team) (o : Op) (us : List (Nat × Upd)) : Bool :=
  (t.earlier o).any fun e => e.g == o.g && e.pc == o.pc && e.op10 == o.op10 &&
    match e.kind with
    | .land vs => vs.any fun v => us.any fun u => v.2.meets u.2
    | _ => false

/-- R18: a lane of a load reads, or an operation's results land, after the writes that fall due in this cycle; of results of one word for one
group-shared register that of the highest lane lands last (R11). -/
def execLandingWrite (s : State) : Host.Outcome State Fault Refusal :=
  enabled s <| match s.evTeam with
    | none => none
    | some (id, t) =>
      if t.pend.any fun p => decide (p.due ≤ (s.core s.ev.core).cycle) then none
      else
        match t.findOp s.ev.id with
        | none => none
        | some o =>
          match o.kind with
          | .land us => if t.landsLater o us then none else some ((s.landUpds id o.g us).upTeam id (·.endOp o))
          | .load acc dst sext isCap got => s.landLoad id t o acc dst sext isCap got
          | .ceil born n us => some ((({ s with ctxs := s.ctxs.mapv fun _ (c : Ctx) =>
              if c.creation = born then { c with ceil := n } else c }).landUpds id o.g us).upTeam id (·.endOp o))
          | .attest c bs m => some (match s.recordWaits t.ctx (s.worldOf t) c 60 0 with
              | some e => s.waitHost e
              | none => s.landAttest id t o c bs m)
          | _ => none

/-! ### Stores, atomics, fences and spawns (R147-R155, R214, R285, R289) -/

/-- R285: an event word after `n` units. -/
def eventAfter (word n : Nat) : Nat :=
  let t := max (arrTarget word) 1
  let c := arrCount word + n
  arrWord (arrGen word + c / t) (arrTarget word) (c % t)

/-- R151, R285: the value stored over `m`, none when a compare fails. -/
def Rmw.value (k : Rmw) (m x y : BitVec 128) : Option (BitVec 128) :=
  let a := m.extractLsb' 0 32
  let b := x.extractLsb' 0 32
  match k with
  | .add => some ((a + b).zeroExtend 128)
  | .minI => some ((if a.toInt ≤ b.toInt then a else b).zeroExtend 128)
  | .minN => some ((if a.toNat ≤ b.toNat then a else b).zeroExtend 128)
  | .maxI => some ((if a.toInt ≤ b.toInt then b else a).zeroExtend 128)
  | .maxN => some ((if a.toNat ≤ b.toNat then b else a).zeroExtend 128)
  | .and => some (m &&& x)
  | .or => some (m ||| x)
  | .xor => some (m ^^^ x)
  | .xchg => some x
  | .cas => if m = x then some y else none
  | .add64 => some ((m.extractLsb' 0 64 + x.extractLsb' 0 64).zeroExtend 128)
  | .cas64 => if m = x then some y else none
  | .cas128 => if m = x then some y else none
  | .fadd => some ((fadd32 .rne 0 a b).1.zeroExtend 128)
  | .evpub => some (BitVec.ofNat 128 (eventAfter m.toNat x.toNat))

/-- R425: an event word whose generation advances is the interrupt event word of interfaces: each sends its MSI-X
message. -/
def State.qiSignal (s : State) (l : Loc) : State :=
  s.qifs.foldl (fun s p =>
    match p.2.event with
    | none => s
    | some c =>
      match s.translate p.2.binder 0 c.addr.toNat needR with
      | .ok (k, _) => if p.2.bound && k == l then s.msix (p.1 / 8) (p.1 % 8) else s
      | .error _ => s) s

/-- R424: the kinds that are AtomicOps at a host page (R416). -/
def State.hostRmw (s : State) (k : Rmw) (a : Access) : State :=
  match a.loc with
  | .host fn pasid iova => { s with outbox := s.outbox ++ [.hostAtomic fn pasid iova a.size k a.x a.y] }
  | _ => s

/-- One read-modify-write: the old value, or a cause. A team's executes at its die's L2 or its core's port (R383), the
distributor's through the control die's L2; at a host page it is one AtomicOp, which the host executes (R424). -/
def State.modify (s : State) (by_ : Option Team) (w : Nat) (k : Rmw) (a : Access) : Except Word (BitVec 128 × State) :=
  match s.readFor (match by_ with | some t => t.die | none => 9) w a.loc a.size (16 * a.lane) with
  | .error c => .error c
  | .ok bs =>
    let m := valOf bs
    let s := { s with draws := s.draws + 2048 }
    match a.loc, k.value m a.x a.y with
    | .host _ _ _, _ => .ok (m, s.hostRmw k a)
    | _, none => .ok (m, s)
    | _, some v =>
      let bs := numBytes v.toNat a.size
      let s := match by_ with | some t => s.storeAt t true a.loc bs false | none => s.writeLoc w a.loc bs false
      .ok (m, if k = .evpub ∧ arrGen v.toNat ≠ arrGen m.toNat then s.qiSignal a.loc else s)

/-- An operation after the lane whose access has performed: it ends after its last lane. -/
def Team.nextLane (t : Team) (o : Op) (k : OpKind) (last : Bool) : Team := if last then t.endOp o else t.putOp { o with kind := k }

/-- R11: a lower lane of the word is still to store to a byte that this access stores to: it goes first, so that the highest lane's
value stands. -/
def lowerLane (acc : List Access) (a : Access) : Bool :=
  acc.any fun b => decide (b.lane < a.lane) && locMeet a.loc a.size b.loc b.size

/-- R150, R323: the store of one lane performs, in any order among the lanes of its word (but R11). The word ends with a cause that
the access meets now (R378, R424); lanes that have performed stand, of which R143 says nothing: the model's choice (log 169). -/
def State.performStore (s : State) (id : Nat) (t : Team) (o : Op) (isCap : Bool) (acc : List Access) (lane : Nat) : Option State :=
  match acc.find? (·.lane == lane) with
  | none => none
  | some a =>
    if lowerLane acc a || !s.may id t o [a.touch true] then none
    else
      let s' : State := { s with draws := s.draws + 1 }
      match s.storeErr a.loc a.size with
      | some c => some (s'.failOp id o lane c)
      | none =>
        let tag := isCap && a.tag && (s.settleCap t.ctx a.cap).tag
        let left := acc.filter (·.lane != lane)
        some ((((s'.note id t o [a.touch true]).storeAt t false a.loc (numBytes a.x.toNat a.size) tag)).upTeam id
          (·.nextLane o (.store left isCap) left.isEmpty))

/-- R153: the next lane of an atomic performs, in ascending order; after the last the old values land. The word ends with a cause
that a lane meets now; lanes that have performed stand (log 169). -/
def State.performRmw (s : State) (id : Nat) (t : Team) (o : Op) (k : Rmw) (dst : List (Nat × Dest))
    (got : List (Nat × BitVec 128)) : List Access → Option State
  | [] => some (s.upTeam id (·.endOp o))
  | a :: r =>
    if !s.may id t o [a.touch true] then none
    else
      match (s.note id t o [a.touch true]).modify (some t) (s.worldOf t) k a with
      | .error c => some ({ s with draws := s.draws + 2048 }.failOp id o a.lane c)
      | .ok (m, s) =>
        let got := got ++ [(a.lane, m)]
        let us := got.flatMap fun p => ((destAt dst p.1).upds a.size p.2 false false).map fun u => (p.1, u)
        let next : OpKind := if r.isEmpty then .land us else .rmw k r dst got
        some (s.upTeam id (·.nextLane o next (r.isEmpty && us.isEmpty)))

/-- R289: the next lane of a spawn: its counter is incremented and its frame pushed. A push waits for a refill that is to
bring frames to the deque, for which its place was counted (R295). -/
def State.performSpawn (s : State) (id : Nat) (t : Team) (o : Op) : List (Nat × Frame × Option Access) → Option State
  | [] => some (s.upTeam id (·.endOp o))
  | (l, f, a) :: r =>
    let ts := a.toList.map (·.touch true)
    if !(s.inOrder t o [l] && !s.gated t o l && s.may id t o ts) || t.refill then none
    else
      let w := s.worldOf t
      let s0 := s
      let s := s.note id t o ts
      let inc : Except Word State := match a with
        | none => .ok s
        | some a => match s.modify (some t) w .add a with | .ok p => .ok p.2 | .error c => .error c
      match inc with
      | .error c => some (s.failOp id o l (cDeque ||| c))
      | .ok s =>
        match s.pushFrame id w { f with code := s.settleCap t.ctx f.code, data := s.settleCap t.ctx f.data,
                                        join := s.settleCap t.ctx f.join } with
        | .ok s => some (s.upTeam id (·.nextLane o (.spawn r) r.isEmpty))
        | .error e => some (if e.waits then s0.waitHost e else (s.dropRefused e.host).failOp id o l e.cause)

/-- R430: earlier copies of a fence's threads whose messages it orders at system scope have still to enter their connections. -/
def State.fenceOwes (s : State) (id : Nat) (t : Team) (o : Op) : Bool :=
  (o.rel || o.seq) && o.lanes.any fun l => decide (5 ≤ o.actsAt (s.ceiling t.ctx) l) &&
    (t.earlier o).any fun e => e.g == o.g && e.lanes.contains l && s.owesMessage id t e

/-- R319: a fence performs once the accesses that it orders before it have; it is then an event of each of its threads. -/
def State.performFence (s : State) (id : Nat) (t : Team) (o : Op) : Option State :=
  when_ (s.inOrder t o o.lanes && !s.fenceOwes id t o)
    ((if s.record.isEmpty then s
      else o.lanes.foldl (fun s l => s.noteEv t.die false (o.event id (s.ceiling t.ctx) t.nextOp l [])) s).upTeam id (·.endOp o))

/-- R150: an access of a store word (that of the lane which the step names), an atomic, a fence or a spawn performs. -/
def execStorePerform (s : State) : Host.Outcome State Fault Refusal :=
  enabled s <| match s.evTeam with
    | none => none
    | some (id, t) =>
      match t.findOp s.ev.id with
      | none => none
      | some o =>
        match o.kind with
        | .store acc c => s.performStore id t o c acc s.ev.lane
        | .rmw k acc dst got => s.performRmw id t o k dst got acc
        | .fence => s.performFence id t o
        | .spawn items => s.performSpawn id t o items
        | _ => none

/-- R424: a request to host memory receives no completion in time: MEMERR. -/
def execCompletionTimeout (s : State) : Host.Outcome State Fault Refusal :=
  enabled s <| match s.evTeam with
    | none => none
    | some (id, t) =>
      match t.findOp s.ev.id with
      | none => none
      | some o => (o.accs.find? fun a => match a.loc with | .host _ _ _ => true | _ => false).map fun a =>
          s.failOp id o a.lane cMemerr

/-! ### Latches, affinity, the PC and PCC tables (R13, R24, R165, R166, R168) -/

/-- R24: the 8 cc of a hold have passed; the core may issue words of other groups, and the latches are lost. -/
def execLatchHoldExpiry (s : State) : Host.Outcome State Fault Refusal :=
  enabled s <| match s.evTeam with
    | none => none
    | some (id, t) =>
      match t.hold with
      | none => none
      | some h =>
        when_ (decide (h.last < (s.core s.ev.core).cycle))
          ((s.upTeam id fun t => { t with hold := none }).upGroup id h.g fun g => g.mapThreads fun _ th => th.lose)

/-- R168, R161: the group of the last word loses affinity after 32 words; its run ends and its stamp is renewed. Where it is
the only candidate after that, its next word begins a new run with affinity, though the words follow on one another: R168
does not say that its run goes on, and this is the model's choice (log 138). -/
def execAffinityRunLimit (s : State) : Host.Outcome State Fault Refusal :=
  enabled s <| match s.evTeam with
    | none => none
    | some (id, t) =>
      when_ (decide (32 ≤ t.run)) (s.upTeam id fun t =>
        { (match t.lastG with | some g => t.renew g | none => t) with lastG := none, run := 0, contended := false })

/-- The oldest entry of a section. -/
def Group.oldestEntry (g : Group) : Option (Nat × PcEntry) :=
  (g.pct.zipIdx.filterMap fun p => p.1.map fun e => (p.2, e)).find? fun p => p.2.order == 0

/-- R165 step 1: every eligible queued thread whose key a valid entry has joins that entry. -/
def Group.joinLine (g : Group) : Group :=
  g.line.foldl (fun g l =>
    match g.threads.look l with
    | some t => if t.wantsPcc.isNone && (g.entryOf t.pccx t.pc).isSome then (g.leaveLine l).house l t.pccx t.pc else g
    | none => g) g

/-- R165: house what can be housed: eligible threads whose key a valid entry has, then the first eligible one in the
lowest free entry with every other of its key. -/
def Group.houseQueue (g : Group) : Group :=
  let g := g.joinLine
  match g.eligible with
  | none => g
  | some l =>
    match g.threads.look l with
    | some t => if g.pct.any (·.isNone) then ((g.leaveLine l).house l t.pccx t.pc).joinLine else g
    | none => g

/-- R166, R163: the oldest entry is displaced; its threads go to the tail of the queue, and one is housed. -/
def Group.displace (g : Group) : Group :=
  match g.oldestEntry with
  | none => { g with crowd := 0 }
  | some (i, e) => ({ e.mask.foldl Group.enqueue (g.freeEntry i) with crowd := 0 }).houseQueue

def execSpanDisplacement (s : State) : Host.Outcome State Fault Refusal :=
  enabled s <| match s.evTeam with
    | none => none
    | some (id, t) =>
      match t.groups[s.ev.g]? with
      | none => none
      | some g => when_ (decide (1024 ≤ g.crowd)) (s.upGroup id s.ev.g Group.displace)

def execUnhousedHousing (s : State) : Host.Outcome State Fault Refusal :=
  enabled s <| match s.evTeam with
    | none => none
    | some (id, t) =>
      match t.groups[s.ev.g]? with
      | none => none
      | some g => when_ g.houseDue (s.upGroup id s.ev.g fun g => { g.houseQueue with houseDue := false })

/-- R13: a waiting thread obtains its PCC-table entry; in its place in the queue it becomes eligible. -/
def execPccEntryAcquire (s : State) : Host.Outcome State Fault Refusal :=
  enabled s <| match s.evTeam with
    | none => none
    | some (id, t) =>
      match t.groups[s.ev.g]? with
      | none => none
      | some g =>
        match g.threads.look s.ev.lane with
        | none => none
        | some th =>
          if !g.line.contains s.ev.lane then none
          else match th.wantsPcc with
            | none => none
            | some c => (g.pccTake s.ev.lane c).map fun g => s.upGroup id s.ev.g fun _ => g

end Sys2Proof.Machine
end

