-- ==== Sys2Proof/Machine/Wakes.lean ====
section
/-! DEFINITION. How waits end: monitored words, granules, generations and counters (05 R157; 07 R215, R216; 11 R286,
R292), barriers and the carve (07 R203, R204), convergence registers (R207), and the completion of `yield`, `exit` and
`tend` (R119, R217, R291). -/

namespace Sys2Proof.Machine

open Sys2Proof

/-! ### Parked threads (R14, R157, R215, R216, R286, R292) -/

/-- The parked thread that a step names, with a park kind; its team wakes threads. -/
def State.evParked (s : State) (kind : Nat) : Option (Nat × Team × Park) :=
  match s.evTeam with
  | none => none
  | some (id, t) =>
    if !t.st.wakes then none
    else
      match t.thread s.ev.g s.ev.lane with
      | none => none
      | some th =>
        match th.park with
        | none => none
        | some p => if th.st == .parked && p.kind == kind then some (id, t, p) else none

/-- The thread a step names wakes. -/
def State.evWake (s : State) (id : Nat) : State := s.upGroup id s.ev.g (·.wake s.ev.lane)

/-- R157, R216, R286, R292: the load that the part makes for a parked thread returns a value that ends its wait. A cause
that this load meets in its data (R150, R424), or in a page request that the host refused, is set in the group as an
asynchronous cause (R251), and the thread stays parked to be tested again: the model's choice (log 140). -/
def State.wakeOn (s : State) (kind size : Nat) (spaces : List Nat) (sc : Option Scope) (done : Nat → Park → Bool) :
    Option State :=
  match s.evParked kind with
  | none => none
  | some (id, t, p) =>
    let world := s.worldOf t
    match s.accessAt id t world p.cap pLD p.addr size spaces (sc.map fun _ => p.scope) true true { needR with nr := true } with
    | .error e =>
      if e.waits then some (s.waitHost e)
      else if e.host.isSome then some ((s.dropRefused e.host).async id s.ev.g e.cause none)
      else none
    | .ok (loc, _) =>
      match s.readFor t.die world loc size (16 * s.ev.lane) with
      | .error c => some ({ s with draws := s.draws + 2048 }.async id s.ev.g c none)
      | .ok bs =>
        let q := probe s.ev.g s.ev.lane p.cap.space loc size p.scope p.acq t.nextOp (t.gatesAt s.ev.g s.ev.lane)
        when_ (s.mayProbe id t q && done (wordOfBytes bs) p)
          (({ s with draws := s.draws + 2048 }.probed id t q).evWake id)

/-- R157: the word differs from the comparand. -/
def execWaitneWake (s : State) : Host.Outcome State Fault Refusal :=
  enabled s (s.wakeOn 1 4 [0, 1, 2] (some .system) fun m p => BitVec.ofNat 32 m != p.val)

/-- R216: the generation has completed. -/
def execWaitgenComplete (s : State) : Host.Outcome State Fault Refusal :=
  enabled s (s.wakeOn 3 8 [1, 2] none fun m p => genReached m p.val)

/-- R292: the counter reads 0. -/
def execJoinComplete (s : State) : Host.Outcome State Fault Refusal :=
  enabled s (s.wakeOn 7 4 [0] (some .system) fun m _ => m == 0)

/-- R286: the event word has reached the generation. -/
def execEvwaitComplete (s : State) : Host.Outcome State Fault Refusal :=
  enabled s (s.wakeOn 8 8 [0] (some .system) fun m p => genReached m p.val)

/-- R215: every granule of the range has returned. -/
def execWaitownComplete (s : State) : Host.Outcome State Fault Refusal :=
  enabled s <| match s.evParked 2 with
    | none => none
    | some (id, t, p) => when_ (s.returned id t p.cap p.addr p.val.toNat)
        ((s.sawReturn id t s.ev.g s.ev.lane p.cap p.addr p.val.toNat).evWake id)

/-! ### Barriers (R203, R204) -/

/-- The carve words of the threads that wait, none for a `tbar`. -/
def Team.carves (t : Team) : List (Option Word) :=
  t.allThreads.map fun p => match p.2.2.park with
    | some k => if k.kind = 6 then some (BitVec.ofNat 32 k.obj) else none
    | none => none

/-- R204: the carve that the arrived threads agree on. -/
def Team.agreed (t : Team) : Option Word :=
  match t.carves with
  | some w :: r => if r.all (· == some w) then some w else none
  | _ => none

/-- R203, R204: every arrived thread goes on; those of a `carve` get their predicate. Their later accesses follow what all of
them have issued. -/
def State.release (s : State) (id : Nat) (ok : Bool) : State :=
  s.upTeam id fun t =>
    let gs := t.groups.zipIdx.map fun p => Gate.ops id p.2 (p.1.threads.map (·.1)) t.nextOp 1
    { t with groups := t.groups.map fun g =>
        let g := g.mapThreads fun _ th =>
          let th := { th with gates := s.liveGates t.die (th.gates ++ gs) }
          match th.park with
          | some p => match p.pd with | some d => if p.kind = 6 then { th with p := th.p.set d.val ok } else th | none => th
          | none => th
        (g.threads.map (·.1)).foldl Group.wake g }

/-- R203: the barrier releases; R204, R176: a carve takes effect if it can. R184 has the L1 write back the dirty lines that it
gives up; here it gives up every line (log 149). -/
def State.releaseBarrier (s : State) (id : Nat) (t : Team) : State :=
  match t.agreed, t.core with
  | some w, some c =>
    let ok := carveOk c t.groups.length w && !s.granuleBusy id t (64 * (w.toNat / 4096 % 64))
    if ok then ((s.upCoh (·.emptyL1 c)).upTeam id (·.recarve w)).release id true else s.release id false
  | _, _ => s.release id false

def execTeamBarrierRelease (s : State) : Host.Outcome State Fault Refusal :=
  enabled s <| match s.evTeam with
    | none => none
    | some (id, t) => when_ (t.st.wakes && t.barrierReady == some s.ev.n) (s.releaseBarrier id t)

/-! ### Convergence registers (R206, R207) -/

/-- R206, R207: the lanes a register releases go on, their later accesses following what `gates` stands for; a complete register
is armed no more. -/
def Group.converge (g : Group) (k : Nat) (gates : List Nat → List Gate → List Gate) : Group :=
  let out := g.released k
  let g := { g with g := g.g.modify k fun (c : Conv) => if c.complete then { c with armed := false } else c }
  let g := g.mapThreads fun l th => if out.contains l then { th with gates := gates out th.gates } else th
  out.foldl Group.wake g

/-- R207: the release is acquire-release at group scope among the released threads. -/
def State.converge (s : State) (id g k : Nat) : State :=
  s.upTeam id fun t => t.upGroup g fun gr =>
    gr.converge k fun out gs => s.liveGates t.die (gs ++ [.ops id g out t.nextOp 0])

def execConvergenceRelease (s : State) : Host.Outcome State Fault Refusal :=
  enabled s <| match s.evTeam with
    | none => none
    | some (id, t) =>
      match t.groups[s.ev.g]? with
      | none => none
      | some g => when_ (t.st.wakes && t.convReady s.ev.g g == some s.ev.n) (s.converge id s.ev.g s.ev.n)

/-! ### yield, exit and tend (R119, R217, R291) -/

/-- A thread that a step names, all of whose flags are clear, with what it waits for. -/
def State.evAwait (s : State) : Option (Nat × Team × Thread × Await) :=
  match s.evTeam with
  | none => none
  | some (id, t) =>
    match t.thread s.ev.g s.ev.lane with
    | none => none
    | some th => match th.await with
      | some a => if th.f.all (!·) then some (id, t, th, a) else none
      | none => none

/-- R265: a step is at or past another, modulo 2^16. -/
def stepPast (a m : BitVec 16) : Bool := decide ((a - m).toNat < 2 ^ 15)

/-- R217, R260, R265: a thread stops at this yield: a deschedule is pending, and no round of a cut asks for a later step.
The team is Yielding, or its group is in a skid and the yield issued there; a yield under way when a halt began does not
stop its thread. One that issued in a skid and ends after its group has halted stops its thread as halted, without step or block: R217
speaks of no such yield, and this is the model's choice (log 175). -/
def State.stopsAt (s : State) (t : Team) (g : Group) (step : BitVec 16) (skid : Bool) : Bool :=
  t.desched && (t.st == .yielding || (skid && t.st == .halting && !g.halted)) &&
    (!t.cut || match s.ctxs.look t.ctx with | some c => !c.cutRound || stepPast step c.cutStep | none => true)

/-! ### What a yield and a save leave undefined (R6, R15, R262, R263) -/

/-- R6: an undefined value of a group's register: its prior value, zero, or a value that every thread of the group held,
so that no thread learns another's data. -/
def undefGroup (draw : Nat) (g : Group) (prior : Word) : Word :=
  let shared := match g.threads with
    | [] => []
    | p :: r => p.2.held.filter fun w => r.all fun q => q.2.held.contains w
  let cands := prior :: 0 :: shared
  cands.getD (Config.undefChoice draw % cands.length) prior

/-- R262: register n is live in a block. -/
def liveV (b : DWord × DWord × DWord) (n : Nat) : Bool := if n < 64 then b.1.getLsbD n else b.2.1.getLsbD (n - 64)

/-- R262: granule i is live in a block. -/
def liveGranule (b : DWord × DWord × DWord) (i : Nat) : Bool :=
  let w := b.2.2.toNat
  let r := fun (lo len : Nat) => decide (lo ≤ i) && decide (i < lo + len)
  r (w / 2 ^ 52 % 4096) (w / 2 ^ 40 % 4096) || r (w / 2 ^ 28 % 4096) (w / 2 ^ 16 % 4096)

/-- R15, R263: main registers that a block does not name live hold undefined values, and their quads are untagged. -/
def Thread.spend (t : Thread) (draw : Nat) (b : DWord × DWord × DWord) : Thread :=
  t.kill draw ((List.range t.v.length).filter fun n => !liveV b n)

/-- R15, R263: scalar blocks and capability quarters whose bit of a block's third word is not live hold undefined values,
the capabilities untagged. -/
def Group.spend (g : Group) (draw : Nat) (live : Nat → Bool) : Group :=
  let word := fun (i : Nat) (c : Cap) (j : Nat) => undefGroup (draw + 256 + 4 * i + j) g (c.bits.extractLsb' (32 * j) 32)
  { g with
    s := g.s.zipIdx.map fun p => if live (12 + p.2 / 64) then p.1 else undefGroup (draw + p.2) g p.1,
    k := g.k.zipIdx.map fun p =>
      if live (8 + p.2 / 4) then p.1 else ⟨word p.2 p.1 3 ++ word p.2 p.1 2 ++ word p.2 p.1 1 ++ word p.2 p.1 0, false⟩ }

/-- R15, R217: a yield completes: registers that its block does not name live are undefined, the operand-cache entries
invalid, the latches lost with no home, and the count restarts. -/
def Thread.yielded (th : Thread) (draw : Nat) (b : DWord × DWord × DWord) : Thread :=
  { (th.spend draw b).forget with oval := List.replicate 16 false, words := 0, await := none }

/-- The blocks recorded in a group (R262): those of its threads that stand at a yield, and those that the part has read for yields
that wait for their flags, which is the model's reading of "recorded" (log 167). -/
def Group.blocks (g : Group) : List (DWord × DWord × DWord) :=
  g.threads.filterMap fun p =>
    match p.2.await with
    | some (.yield _ w1 w2 w3 _) => some (w1, w2, w3)
    | _ => if p.2.st == .stopped && p.2.stopKind == 2 then p.2.block else none

/-- R15, R217: the group after a yield of one of its threads has completed. R15 gives the yield column whether or not the team
is descheduled, so the scalar blocks and capability quarters that neither its block nor one recorded in the group (R262) names are
undefined for the group. -/
def Group.yielded (g : Group) (lane draw : Nat) (b : DWord × DWord × DWord) : Group :=
  let bs := b :: g.blocks
  (g.upThread lane (·.yielded (draw + 1024) b)).spend draw fun n => bs.any fun x => x.2.2.getLsbD n

def execYieldComplete (s : State) : Host.Outcome State Fault Refusal :=
  enabled s <| match s.evAwait with
    | some (id, t, _, .yield step w1 w2 w3 skid) =>
      some ({ s with draws := s.draws + 2048 }.upGroup id s.ev.g fun g =>
        let h := g.yielded s.ev.lane s.draws (w1, w2, w3)
        if s.stopsAt t g step skid then
          (h.unhouse s.ev.lane).upThread s.ev.lane fun th =>
            { th with st := .stopped, stopKind := 2, pc := th.pc - 32, step := step, block := some (w1, w2, w3) }
        else if (t.st.wakes || (skid && t.st == TState.halting)) && !g.halted then h
        else (h.unhouse s.ev.lane).upThread s.ev.lane fun th => { th with st := .stopped, stopKind := 1 })
    | _ => none

/-- The width of the core a team is on. -/
def State.evWidth (s : State) : Nat := widthOf s.ev.core

def execExitCompletion (s : State) : Host.Outcome State Fault Refusal :=
  enabled s <| match s.evAwait with
    | some (id, _, _, .exit) => some (s.upTeam id fun t => t.freeThread s.ev.g s.ev.lane s.evWidth)
    | _ => none

/-- R291: a `tend` that fails its checks raises them precisely; its thread stands at the word, 8 bytes back. -/
def State.tendFails (s : State) (id : Nat) (e : MErr) : State :=
  let g := s.ev.g
  let l := s.ev.lane
  s.upTeam id fun t =>
    let t := t.upThread g l fun th => { th with await := none, pc := th.pc - 8 }
    let fs : List PageFault := match e.page with | some q => [⟨g, l, q.1, q.2.1, q.2.2.1, q.2.2.2⟩] | none => []
    let t := { t with faults := t.faults ++ fs }
    t.takeCause g [l] [(l, e.cause)]

/-- R291: after the thread's flags are clear and its accesses have performed, its counter is decremented and its slot
becomes Free. -/
def execTendCompletion (s : State) : Host.Outcome State Fault Refusal :=
  enabled s <| match s.evAwait with
    | some (id, t, _, .tend none _) => some (s.upTeam id fun _ => t.freeThread s.ev.g s.ev.lane s.evWidth)
    | some (id, t, _, .tend (some c) sc) =>
      if !t.quiet s.ev.g [s.ev.lane] then none
      else
        let w := s.worldOf t
        match s.accessAt id t w c (pLD ||| pST) c.addr.toNat 4 [0] (some sc) true true (needA .add) with
        | .error e => some (if e.waits then s.waitHost e else (s.dropRefused e.host).tendFails id e)
        | .ok (loc, _) =>
          let a : Access := ⟨s.ev.lane, loc, 4, c.addr.toNat, 0xFFFFFFFF, 0, false, Cap.zero, 0⟩
          let q : Op := { probe s.ev.g s.ev.lane 0 loc 4 sc true t.nextOp (t.gatesAt s.ev.g s.ev.lane) with rel := true, kind := .rmw .add [a] [] [] }
          if !s.may id t q [a.touch true] then none
          else
            match (s.note id t q [a.touch true]).modify (some t) w .add a with
            | .error k => some ({ s with draws := s.draws + 2048 }.tendFails id (errOf k))
            | .ok (_, s) => some (s.upTeam id fun t => t.freeThread s.ev.g s.ev.lane s.evWidth)
    | _ => none

end Sys2Proof.Machine
end

