-- ==== Sys2Proof/Machine/Deque.lean ====
section
/-! DEFINITION. Tasks as they start, refills and steals (11_cluster_grid_tasks R290, R294-R299). -/

namespace Sys2Proof.Machine

open Sys2Proof

/-! ### Task start (R290, R296) -/

/-- R290: the thread that a frame starts. -/
def Frame.thread (f : Frame) (n : Nat) : Thread :=
  let pc := f.code.addr + f.entry.zeroExtend 64
  let th := { Thread.fresh n pc 0 with want := some (f.code.move pc).code, frame := f.id }
  let th := f.args.zipIdx.foldl (fun th p => th.wrV p.2 p.1) th
  (th.wrQuad 30 f.data).wrQuad 31 f.join

/-- R295: a pop or a steal that leaves the deque empty while the ring holds frames asks for a refill. -/
def Team.wantRefill (t : Team) : Team := if t.deque.isEmpty && decide (0 < t.ringCount) then { t with refill := true } else t

/-- R296: the first Free slot takes the deque's newest frame. -/
def State.startTask (s : State) (id : Nat) (t : Team) : Option State :=
  match t.free, t.deque.getLast? with
  | sl :: rest, some f =>
    let w := t.width
    let f := { f with code := s.settleCap t.ctx f.code, data := s.settleCap t.ctx f.data, join := s.settleCap t.ctx f.join }
    let t := { t with free := rest, deque := t.deque.dropLast }.wantRefill
    some (s.upTeam id fun _ =>
      t.upGroup (sl / w) fun g => ({ g with threads := g.threads.put (sl % w) (f.thread t.nreg) }).place (sl % w))
  | _, _ => none

/-- R296: Free slots take frames while there are both; the slots that take frames in one step start as one span. -/
def State.startTasks (s : State) (id : Nat) : Nat → State
  | 0 => s
  | n + 1 =>
    match (s.teams.look id).bind (s.startTask id) with
    | some s => s.startTasks id n
    | none => s

def execTaskStart (s : State) : Host.Outcome State Fault Refusal :=
  enabled s <| match s.evTeam with
    | none => none
    | some (id, t) => when_ (t.st == .running && !t.free.isEmpty && !t.deque.isEmpty) (s.startTasks id t.free.length)

/-! ### Refill (R295) -/

/-- R295: the ring's newest frames return to the deque's oldest end, or the team gets DEQUE with the cause; a refill that began
before a halt ends in the drain (R252), and one that failed is asked for again as the team resumes. -/
def execRefill (s : State) : Host.Outcome State Fault Refusal :=
  enabled s <| match s.evTeam with
    | none => none
    | some (id, t) =>
      let n := min 16 t.ringCount
      if !t.refill || !(t.st.issues || t.st == .draining) || decide (32 < t.dequeCount + n) then none
      else
        match (List.range n).mapM fun j => s.readFrame id t (s.worldOf t) (t.ringCount - n + j) with
        | .error e => some (if e.waits then s.waitHost e
            else ((s.dropRefused e.host).asyncTeam id t (cDeque ||| e.cause)).upTeam id fun t => { t with refill := false })
        | .ok fs => some (s.upTeam id fun t =>
            { t with deque := fs ++ t.deque, ringCount := t.ringCount - n, refill := false })

/-! ### Stealing (R297-R299) -/

/-- R297: the cores of a tier that a team may ask. -/
def State.victims (s : State) (c : CoreId) (t : Team) (tier : Nat) : List CoreNo :=
  if tier = 0 then
    t.mates.filterMap fun m => match (s.teams.look m).bind (·.core) with
      | some k => if k = c then none else some (coreNo k)
      | none => none
  else
    (s.teams.filterMap fun p => match p.2.core with
      | some k => if k ≠ c ∧ k.die = c.die ∧ p.2.launch = t.launch ∧ p.2.ctx = t.ctx ∧ !t.mates.contains p.1 then some (coreNo k) else none
      | none => none)

/-- R297: the search as it goes on after an answer: the next tier, or its end, from which the time to the next one counts. -/
def State.searchOn (s : State) (id : Nat) (c : CoreId) (t : Team) (q : Steal) : State :=
  let left := fun (tier : Nat) => (s.victims c t tier).filter fun v => !q.done.contains v
  let over_ := s.upTeam id fun t => { t with steal := none, searched := q.fresh, idleAt := none }
  if q.tier = 0 ∧ (left 0).isEmpty then
    if (left 1).isEmpty then over_ else s.upTeam id fun t => { t with steal := some { q with tier := 1 } }
  else if q.tier = 1 ∧ (left 1).isEmpty then over_
  else s.upTeam id fun t => { t with steal := some q }

/-- R297: an idle core begins a search; one with no victim ends at once. -/
def execStealSearch (s : State) : Host.Outcome State Fault Refusal :=
  enabled s <| match s.evTeam with
    | none => none
    | some (id, t) => when_ t.idle (s.searchOn id s.ev.core t ⟨0, [], none, true⟩)

/-- R298: a frame is eligible in a tier. -/
def Frame.eligible (f : Frame) (tier : Nat) : Bool := f.stealable && decide ((if tier = 0 then 2 else 3) ≤ f.scope)

/-- R295, R298: the oldest frames of the ring that may be stolen: not those that a pending refill is to return. -/
def Team.ringOpen (t : Team) : Nat := if t.refill then t.ringCount - 16 else t.ringCount

/-- R298: the oldest eligible frame of the ring, from slot `k` on. -/
def State.ringEligible (s : State) (id : Nat) (t : Team) (world tier : Nat) : Nat → Nat → Except MErr (Option (Nat × Frame))
  | 0, _ => .ok none
  | n + 1, k =>
    match s.readFrame id t world k with
    | .error e => .error e
    | .ok f => if f.eligible tier then .ok (some (k, f)) else s.ringEligible id t world tier n (k + 1)

/-- R298: frames older than slot `k` move one slot toward the newest end. -/
def State.closeRing (s : State) (id : Nat) (t : Team) (world : Nat) : Nat → Except MErr State
  | 0 => .ok (s.upTeam id fun t => { t with ringOld := (t.ringOld + 1) % max 1 t.ringCap, ringCount := t.ringCount - 1 })
  | k + 1 =>
    match s.readFrame id t world k, s.ringSlot id t world (k + 1) (pST ||| pSTC) { needW with cap := true } with
    | .ok f, .ok locs => (s.writeFrame t.ctx world locs f).closeRing id t world k
    | .error e, _ => .error e
    | _, .error e => .error e

/-- R298: what a victim answers: its oldest eligible frame, which leaves it, or nothing; a ring read that fails gives the
victim DEQUE as in a refill. -/
def State.answerSteal (s : State) (id : Nat) (t : Team) (tier : Nat) : Option Frame × State :=
  if t.st != .running then (none, s)
  else
    let w := s.worldOf t
    match s.ringEligible id t w tier t.ringOpen 0 with
    | .error e => (none, s.asyncTeam id t (cDeque ||| e.cause))
    | .ok (some (k, f)) =>
      match s.closeRing id t w k with
      | .ok s => (some f, s)
      | .error e => (none, s.asyncTeam id t (cDeque ||| e.cause))
    | .ok none =>
      match t.deque.zipIdx.find? fun p => p.1.eligible tier with
      | none => (none, s)
      | some (f, k) => (some f, s.upTeam id fun t => { t with deque := t.deque.eraseIdx k }.wantRefill)

/-- R298: a victim of the search's tier answers. Where the tier's last victim is gone before it was asked, the search goes
on. -/
def execStealRequest (s : State) : Host.Outcome State Fault Refusal :=
  let n := coreNo s.ev.core2
  enabled s <| match s.evTeam with
    | none => none
    | some (id, t) =>
      match t.steal with
      | none => none
      | some q =>
        let left := (s.victims s.ev.core t q.tier).filter fun v => !q.done.contains v
        if t.st != .running || q.frame.isSome then none
        else if left.isEmpty then some (s.searchOn id s.ev.core t q)
        else if !left.contains n then none
        else
          (s.onCore s.ev.core2).map fun p =>
            match s.answerSteal p.1 p.2 q.tier with
            | (some f, s) => s.upTeam id fun t => { t with steal := some { q with frame := some f } }
            | (none, s) => s.searchOn id s.ev.core t { q with done := addNum q.done n }

/-- R298, R299: a stolen frame arrives at the oldest end of the thief's deque; in a Running team a Free slot takes a
frame. -/
def execStealFrameArrival (s : State) : Host.Outcome State Fault Refusal :=
  enabled s <| match s.evTeam with
    | none => none
    | some (id, t) =>
      match t.steal.bind (·.frame) with
      | none => none
      | some f =>
        let t := { t with deque := f :: t.deque, steal := none }
        let s := s.upTeam id fun _ => t
        some (if t.st == .running then (s.startTask id t).getD s else s)

end Sys2Proof.Machine
end

