-- ==== Sys2Proof/Machine/CopyRun.lean ====
section
/-! DEFINITION. Copy commands and absorbs as they run (06_core R178-R180; 07 R211-R213; 16 R394; 20_fabric R428-R435):
pieces that land, completion and abort, and the arrival word. -/

namespace Sys2Proof.Machine

open Sys2Proof

/-! ### Moving bytes (R178, R211, R213) -/

/-- R178: no thread access that was accepted before the flip is still to touch these granules. -/
def State.granulesQuiet (s : State) (gs : List (Nat × Nat)) : Bool :=
  s.teams.all fun p => p.2.ops.all fun o => o.accs.all fun a =>
    match a.loc with
    | .spad m off => !(granulesOf off a.size).any fun k => gs.contains (m, k)
    | _ => true

/-- R211: the pattern bytes of a fill at a segment. -/
def fillBytes (c : Copy) (off n : Nat) : List Byte :=
  (List.range n).map fun j => (c.pattern >>> (8 * ((c.dst.addr + off + j) % 4))).extractLsb' 0 8

/-- R213: the tag of a granule as it arrives. -/
def State.copyTag (s : State) (t : Team) (c : Copy) (src : Loc × Bool) (j : Nat) (q : Cap) : Bool :=
  let at_ : Loc := match src.1 with | .mem pa => .mem (pa + j) | .spad m o => .spad m (o + j) | l => l
  let sc := match c.src with | some x => x.cap | none => Cap.zero
  src.2 && s.tagFor t.die at_ && sc.has pLDC && !s.covered t.ctx { q with tag := true } && storeCapOk { q with tag := true } c.dst.cap

/-- R213: one granule after another with its tag; PROT where the page of the destination keeps no tags (R366). -/
def State.moveTagged (s : State) (id : Nat) (t : Team) (c : Copy) (sc : Scope) (g : Seg) (src : Loc × Bool) (bs : List Byte) :
    Nat → Except MErr State
  | 0 => .ok s
  | k + 1 =>
    match s.moveTagged id t c sc g src bs k with
    | .error e => .error e
    | .ok s =>
      let j := 16 * k
      let d := (bs.drop j).take 16
      let tag := s.copyTag t c src j (capOfBytes d true)
      match s.sideLoc id t c.dst (c.shown sc) (g.off + j) 16 { needCopyW c with ts := tag } with
      | .error e => .error e
      | .ok _ => .ok (s.storeAt t false (g.dst.plus j) d tag)

/-- R323: the bytes of [off, off + n) that have been read already, if all have. -/
def Copy.ahead (c : Copy) (off n : Nat) : Option (List Byte) := (List.range n).mapM fun k => c.got.look (off + k)

/-- The source bytes of a segment: read ahead, read now, or the pattern's. -/
def State.segBytes (s : State) (t : Team) (c : Copy) (g : Seg) : Except Word (List Byte) :=
  match c.ahead g.off g.len, g.src with
  | some bs, some _ => .ok bs
  | none, some p => s.readFor t.die (s.worldOf t) p.1 g.len 0
  | _, none => .ok (fillBytes c g.off g.len)

/-- Move one segment; its source bytes are read, or given by a peer's reply. -/
def State.moveSeg (s : State) (id : Nat) (t : Team) (c : Copy) (sc : Scope) (g : Seg) (given : Option (List Byte)) :
    Except MErr State :=
  match (match given with | some bs => .ok bs | none => s.segBytes t c g : Except Word (List Byte)), s.storeErr g.dst g.len with
  | .error k, _ => .error (errOf k)
  | _, some k => .error (errOf k)
  | .ok bs, none =>
    let s : State := { s with draws := s.draws + g.len }
    match c.tagMode, g.src with
    | true, some p => s.moveTagged id t c sc g p bs (g.len / 16)
    | _, _ => .ok (s.storeAt t false g.dst bs false)

/-- Move segments one after another. -/
def State.moveSegs (s : State) (id : Nat) (t : Team) (c : Copy) (sc : Scope) : List Seg → Except MErr State
  | [] => .ok s
  | g :: r =>
    match s.moveSeg id t c sc g none with
    | .error e => .error e
    | .ok s => s.moveSegs id t c sc r

/-- R424: the reads of a piece that go to the host. -/
def State.askSegs (s : State) (c : Copy) (gs : List Seg) : State :=
  gs.foldl (fun s g => match g.src with
    | some p => if (c.ahead g.off g.len).isSome then s else s.askHost p.1 g.len
    | none => s) s

/-! ### Landing, the arrival word, completion, abort (R179, R180, R212) -/

/-- The parts left after [off, off + n) has landed; none if it does not lie in one of them. -/
def cutLeft (off n : Nat) : List (Nat × Nat) → Option (List (Nat × Nat))
  | [] => none
  | (a, l) :: r =>
    if a ≤ off ∧ off + n ≤ a + l then
      some ((if off = a then [] else [(a, off - a)]) ++ (if off + n = a + l then [] else [(off + n, a + l - off - n)]) ++ r)
    else (cutLeft off n r).map ((a, l) :: ·)

/-- R180, R323: bytes land toward an arrival word, by an event of the command's; the overshoot raises ENGINE at the issuing
group. -/
def State.arrive (s : State) (id : Nat) (o : Op) (lane m off n : Nat) : State :=
  let w := s.spNum (.spad m off)
  let k := arrCount w + n
  let target := arrTarget w
  let s := match s.teams.look id with
    | some t => s.noteEv t.die false (o.event id (s.ceiling t.ctx) t.nextOp lane [⟨lane, .spad m off, 8, true⟩])
    | none => s
  if k < target then s.upTeam m (·.writeSp off (numBytes (arrWord (arrGen w) target k) 8) false)
  else
    let ties := match s.teams.look m with | some t => t.ties.filter fun (x : Tie) => x.word == off | none => []
    let s := s.disown (ties.map fun (x : Tie) => (x.team, x.granule))
    let s := s.upTeam m fun t =>
      { t.writeSp off (numBytes (arrWord (arrGen w + 1) target 0) 8) false with ties := t.ties.filter fun (x : Tie) => x.word != off }
    if target < k then s.async id o.g cEngine (some (o.record lane)) else s

/-- The bytes of parts that have still to be read. -/
def Copy.unread (c : Copy) (left : List (Nat × Nat)) : List (Nat × Nat) :=
  if c.got.isEmpty then left
  else left.flatMap fun p => ((List.range p.2).filter fun k => (c.got.look (p.1 + k)).isNone).map fun k => (p.1 + k, 1)

/-- R177, R212: the granules that the rest of a command is still to touch. -/
def State.copyNeeds (s : State) (id : Nat) (c : Copy) (left : List (Nat × Nat)) : List (Nat × Nat) :=
  match s.teams.look id with
  | none => []
  | some t =>
    (left.flatMap fun p => s.sideGranules id t c.dst.cap (c.dst.addr + p.1) p.2) ++
      (match c.src with
      | some d => (c.unread left).flatMap fun p => s.sideGranules id t d.cap (d.addr + p.1) p.2
      | none => [])

/-- R212: a piece has landed. Its bytes count toward the arrival word; an untied command returns the granules to which it
has made its last access. -/
def State.landed (s : State) (id : Nat) (o : Op) (c : Copy) (n : Nat) (left : List (Nat × Nat)) : State :=
  match c.arrival with
  | some (m, a) =>
    (s.upTeam id (·.putOp { o with kind := .copy { c with left := left, begun := true } })).arrive id o c.lane m a n
  | none =>
    let c := { c with got := c.got.filter fun p => left.any fun q => decide (q.1 ≤ p.1) && decide (p.1 < q.1 + q.2) }
    let need := s.copyNeeds id c left
    let c' : Copy := { c with left := left, begun := true, granules := c.granules.filter need.contains }
    (s.disown (c.granules.filter fun g => !need.contains g)).upTeam id (·.putOp { o with kind := .copy c' })

/-- R28, R212: a command leaves the flight; the word's flag clears with its last command. -/
def Team.endCopy (t : Team) (o : Op) (c : Copy) : Team :=
  let t := { t with ops := t.ops.filter (·.id != o.id) }
  if t.ops.any fun x => match x.kind with | .copy d => d.word == c.word | _ => false then t
  else t.clearOpFlag o.g o.lanes o.sf

/-- R179, R212: a command aborts with a cause: its granules return at once. -/
def State.abortCopy (s : State) (id : Nat) (o : Op) (c : Copy) (cause : Word) : State :=
  ((s.freeGranules c.granules).async id o.g (cEngine ||| cause) (some (o.record c.lane))).upTeam id (·.endCopy o c)

/-- R212, R424: an access of a command fails: the command aborts, or waits for a host page. -/
def State.copyFails (s : State) (id : Nat) (o : Op) (c : Copy) (e : MErr) : State :=
  if e.waits then s.waitHost e else (s.dropRefused e.host).abortCopy id o c e.cause

/-- The cause that the rest of a command meets, if any. -/
def State.copyErr (s : State) (id : Nat) (t : Team) (o : Op) (c : Copy) : Option Word :=
  c.left.findSome? fun p =>
    match s.segs id t c o.scope (p.2 + 1) p.1 p.2 with
    | .error e => if e.waits then none else some e.cause
    | .ok _ => none

/-! ### Remote pieces (R428, R430, R433) -/

/-- R213, R436: granules of a tag-mode message, each followed by a byte that holds its tag. -/
def State.withTags (s : State) (t : Team) (c : Copy) (src : Loc × Bool) (bs : List Byte) : Nat → List Byte
  | 0 => []
  | k + 1 =>
    let d := (bs.drop (16 * k)).take 16
    s.withTags t c src bs k ++ d ++ [if s.copyTag t c src (16 * k) (capOfBytes d true) then 1 else 0]

/-- The bytes that a segment touches: its destination is written, and its source read unless it was read ahead. -/
def Copy.touches (c : Copy) (g : Seg) : List Touch :=
  ⟨c.lane, g.dst, g.len, true⟩ ::
    (match g.src with | some p => if (c.ahead g.off g.len).isSome then [] else [⟨c.lane, p.1, g.len, false⟩] | none => [])

/-- A command has made an access. -/
def State.putCopy (s : State) (id : Nat) (o : Op) (c : Copy) : State :=
  s.upTeam id (·.putOp { o with kind := .copy { c with begun := true } })

/-- R428: a remote part is one message: a write with the source's bytes, or a read. -/
def State.sendPiece (s : State) (id : Nat) (t : Team) (o : Op) (c : Copy) (r : Run) (gs : List Seg) : Option State :=
  if s.sent r.conn id o.id c.lane r.off then none
  else if !s.connUp r.conn then some (s.abortCopy id o c cMemerr)
  else if !r.isW then (s.sendRemote r.conn r.handle r.at_ r.len id o.id c.lane r.off c.tagMode none).map (·.putCopy id o c)
  else
    match gs.mapM fun g => (match g.src with
        | some p => (s.segBytes t c g).map fun bs => if c.tagMode then s.withTags t c p bs (g.len / 16) else bs
        | none => .ok (fillBytes c g.off g.len) : Except Word (List Byte)) with
    | .error k => some (s.abortCopy id o c k)
    | .ok bs =>
      let s : State := { s.askSegs c gs with draws := s.draws + r.len }
      (s.sendRemote r.conn r.handle r.at_ r.len id o.id c.lane r.off c.tagMode (some bs.flatten)).map (·.putCopy id o c)

/-- R211, R323: the source bytes of a piece are read ahead of their landing; each granule of tag mode is one event instead. -/
def State.readPiece (s : State) (id : Nat) (t : Team) (o : Op) (c : Copy) (gs : List Seg) : Option State :=
  let ts : List Touch := gs.flatMap fun g => (c.touches g).filter (!·.write)
  if c.tagMode || c.src.isNone || gs.any (fun g => g.remote.isSome) || !s.may id t o ts then none
  else
    match gs.mapM (s.segBytes t c) with
    | .error k => some (s.abortCopy id o c k)
    | .ok bs =>
      let off := (gs.head?.map (·.off)).getD 0
      let got : NMap Byte := bs.flatten.zipIdx.foldl (fun (m : NMap Byte) p => m.put (off + p.2) p.1) c.got
      let s : State := { s with draws := s.draws + bs.flatten.length }
      let s := (((s.note id t o ts).fillLines t ts).askSegs c gs).putCopy id o { c with got := got }
      some (match c.arrival with
        | some _ => s
        | none =>
          let c := { c with got := got, begun := true }
          let need := s.copyNeeds id c c.left
          (s.disown (c.granules.filter fun g => !need.contains g)).putCopy id o { c with granules := c.granules.filter need.contains })

/-- R211, R323: a piece of a running command lands. -/
def State.landPiece (s : State) (id : Nat) (t : Team) (o : Op) (c : Copy) (n : Nat) (left : List (Nat × Nat)) (gs : List Seg) :
    Option State :=
  let ts := gs.flatMap c.touches
  if gs.any (fun g => g.remote.isSome) || !s.may id t o ts then none
  else
    match (((s.note id t o ts).fillLines t (ts.filter (!·.write))).askSegs c gs).moveSegs id t c o.scope gs with
    | .error e => some (s.copyFails id o c e)
    | .ok s => some (s.landed id o c n left)

/-- R178, R211, R212: a command may make an access to [off, off + n) of itself. -/
def State.copyMay (s : State) (c : Copy) (off n : Nat) : Bool :=
  n != 0 && c.grant && s.granulesQuiet c.granules && (!c.tagMode || (off % 16 == 0 && n % 16 == 0))

/-- R180, R211, R212, R428: a piece of a running command lands, its source is read, or the message of a remote part leaves. -/
def execArrivalWordUpdate (s : State) : Host.Outcome State Fault Refusal :=
  enabled s <| match s.evTeam with
    | none => none
    | some (id, t) =>
      match t.findOp s.ev.id with
      | none => none
      | some o =>
        match o.kind with
        | .copy c =>
          let off := s.ev.addr
          let n := s.ev.len
          match cutLeft off n c.left with
          | none => none
          | some left =>
            if !s.copyMay c off n then none
            else
              let s := s.ownAll c.granules
              match s.segs id t c o.scope (n + 1) off n with
              | .error e => some (s.copyFails id o c e)
              | .ok gs =>
                match (s.copyRuns id t c o.scope).find? fun r => r.off == off && r.len == n with
                | some r => if s.may id t o (gs.flatMap c.touches) then s.sendPiece id t o c r gs else none
                | none => if s.ev.flag then s.readPiece id t o c gs else s.landPiece id t o c n left gs
        | _ => none

/-- The part of a command's rest that writes a line. -/
def State.pieceOn (s : State) (id : Nat) (t : Team) (o : Op) (c : Copy) (line : Nat) : Option Seg :=
  c.left.findSome? fun p => (s.okSegs id t c o.scope (p.2 + 1) p.1 p.2).findSome? fun g =>
    match g.dst with
    | .mem pa =>
      let lo := max pa (64 * line)
      let hi := min (pa + g.len) (64 * line + 64)
      if lo < hi then some ⟨g.off + (lo - pa), hi - lo, .mem lo, g.src.map fun x => (x.1.plus (lo - pa), x.2)⟩ else none
    | _ => none

/-- R318: the part of a command that waits on a line lands, if it may. -/
def State.landOn (s : State) (id : Nat) (t : Team) (o : Op) (c : Copy) (line : Nat) : Option State :=
  match s.pieceOn id t o c line with
  | none => none
  | some g => match cutLeft g.off g.len c.left with
    | none => none
    | some left => if s.copyMay c g.off g.len then (s.ownAll c.granules).landPiece id t o c g.len left [g] else none

/-- R212: every byte has landed: an untied command's granules return, and the flag clears with the word's last
command. -/
def execCopyComplete (s : State) : Host.Outcome State Fault Refusal :=
  enabled s <| match s.evTeam with
    | none => none
    | some (id, t) =>
      match t.findOp s.ev.id with
      | none => none
      | some o =>
        match o.kind with
        | .copy c =>
          when_ c.left.isEmpty
            ((if c.arrival.isNone then s.freeGranules c.granules else s).upTeam id (·.endCopy o c))
        | _ => none

/-- R179, R212: a running command aborts with the cause that its rest meets. -/
def execCopyAbort (s : State) : Host.Outcome State Fault Refusal :=
  enabled s <| match s.evTeam with
    | none => none
    | some (id, t) =>
      match t.findOp s.ev.id with
      | none => none
      | some o =>
        match o.kind with
        | .copy c => when_ (s.copyErr id t o c == some s.ev.word) (s.abortCopy id o c s.ev.word)
        | _ => none

/-! ### Absorbs (R394, R396) -/

/-- R394, R312: the bytes of an absorb. -/
def State.absorbBytes (s : State) (id : Nat) (t : Team) (d : Side) (sc : Scope) (slot n : Nat) : Except MErr (List Byte) :=
  if s.covered t.ctx d.cap then .error (errOf cRevoked)
  else if d.space = 0 then
    if s.ceiling t.ctx < scopeNo sc then .error (errOf cScope)
    else if !s.worldOk slot then .error (errOf cWorld)
    else s.readPages t.ctx slot (n / 4096 + 2) d.addr (d.addr + n)
  else
    match s.spadAt id t d.space d.addr n with
    | none => .error (errOf cCapbound)
    | some (m, o) => liftE (s.readLoc slot (.spad m o) n 0)

/-- R394: Troy has read every byte of an absorb, in the order of the session; a failing read voids the session with
cause 5. A session that is void already takes no byte. -/
def execAbsorbComplete (s : State) : Host.Outcome State Fault Refusal :=
  enabled s <| match s.evTeam with
    | none => none
    | some (id, t) =>
      match t.findOp s.ev.id with
      | none => none
      | some o =>
        match o.kind with
        | .absorb k gen d n gs =>
          let first := (t.earlier o).all fun e => match e.kind with | .absorb j _ _ _ _ => j != k | _ => true
          if !first || !s.granulesQuiet gs || !s.inOrder t o o.lanes then none
          else
            match (if s.genOf k = gen then s.sessions.look k else none) with
            | none => some ((s.freeGranules gs).upTeam id (·.endOp o))
            | some x =>
              match s.absorbBytes id t d o.scope x.slot n with
              | .error e =>
                if e.waits then some (s.waitHost e)
                else
                  let c := e.cause
                  let s := ((s.freeGranules gs).async id o.g (cEngine ||| c) (some (o.record (o.lanes.headD 0)))).upTeam id (·.endOp o)
                  some (s.voidSession k 5 (cEngine ||| c).toNat)
              | .ok bs =>
                let s := if d.space = 0 then s.pagesRead t.ctx x.slot (n / 4096 + 2) d.addr (d.addr + n) else s
                some ({ s.freeGranules gs with sessions := s.sessions.put k { x with data := x.data ++ bs } }.upTeam id (·.endOp o))
        | _ => none

/-- R395: once every absorb of a Closing session has been read, its seal record is written and it is Closed; a write that
fails voids it with cause 6. -/
def execSealRecordWrite (s : State) : Host.Outcome State Fault Refusal :=
  enabled s <| match s.sessions.look s.ev.id with
    | none => none
    | some x =>
      let pending := s.teams.any fun p => p.2.ops.any fun o => match o.kind with
        | .absorb k gen _ _ _ => k == s.ev.id && s.genOf k == gen
        | _ => false
      if x.st != .closing || pending then none
      else
        match s.recordWaits x.ctx x.slot x.buf 55 0 with
        | some e => some (s.waitHost e)
        | none =>
          match s.writeRecord x.ctx x.slot x.buf 55 0 (s.sealRecord x 1 0 0) with
          | .error s => some (s.voidSession s.ev.id 6 0)
          | .ok s => some ((s.endSession s.ev.id x .closed).closeStatus s.ev.id kOk)

end Sys2Proof.Machine
end

