-- ==== Sys2Proof/Machine/Matrix.lean ====
section
/-! DEFINITION. The arithmetic of the matrix engine: images and their exact element values (02_number_formats R49-R57;
08_matrix_engine R219, R220), the residue count (R221), the terms of an `mma` (R223-R225) and the rounding of `mend`
(R227). -/

namespace Sys2Proof.Machine

open Sys2Proof

/-! ### The formats (R219, R220, R56) -/

/-- R56: the bits of an element code; for NB codes those of the stored code (R51). -/
def mBits (f : Nat) : Nat :=
  [16, 16, 8, 8, 6, 6, 4, 8, 8, 4, 4, 2, 8, 8, 6, 6, 4, 8, 8, 6, 4, 4, 4, 4, 8, 4, 8, 4, 8, 8, 4, 4].getD f 0

/-- R219: the aligned width w. -/
def mAligned (f : Nat) : Nat :=
  [16, 16, 12, 12, 10, 7, 5, 8, 9, 4, 5, 2, 12, 12, 10, 7, 5, 8, 9, 7, 5, 8, 8, 4, 8, 4, 12, 5, 12, 8, 5, 5].getD f 1

/-- R219: K_mac. -/
def mK (f : Nat) : Nat :=
  [64, 64, 64, 64, 64, 128, 128, 128, 64, 128, 128, 128, 64, 64, 64, 128, 128, 128, 64, 128, 128, 128, 128, 128,
   128, 128, 64, 128, 128, 256, 256, 256].getD f 0

/-- R219: the logical k-elements of a k-block. -/
def mBlock (f : Nat) : Nat := if 28 ≤ f then 32 else 16

/-- R220: the bytes of an image of K k-elements. -/
def imageLen (f k : Nat) : Nat :=
  if f < 12 then k * mBits f / 8
  else if f < 18 then k * mBits f / 8 + k / 32
  else if f < 21 then k / 16 * (2 * mBits f + 2)
  else if f = 22 then k / 64 * 36
  else if f < 24 then 136
  else if f < 26 then k * mBits f / 8 + 4
  else if f < 28 then k * mBits f / 8 + k / 16
  else if f < 31 then k / 2 * mBits f / 8 + k / 8
  else k / 16 * 8

/-! ### Element values -/

/-- Zero. -/
def Elem.zero : Elem := .fin 0 0

/-- A signed infinity. -/
def Elem.infOf (neg : Bool) : Elem := if neg then .negInf else .posInf

/-- The element of a floating-point value. -/
def elemOfNum : FNum → Elem
  | .nan => .nan
  | .inf s => Elem.infOf s
  | .num s m e => .fin (if s then -(m : Int) else m) e

/-- A value that is finite or special as a factor: its sign. -/
def Elem.negative : Elem → Bool
  | .fin m _ => decide (m < 0)
  | .negInf => true
  | _ => false

def Elem.isZero : Elem → Bool
  | .fin m _ => m == 0
  | _ => false

def Elem.special : Elem → Bool
  | .fin _ _ => false
  | _ => true

/-- R50, R224: the product of an element and a scale, or of two factors. -/
def Elem.mul : Elem → Elem → Elem
  | .fin m e, .fin n k => .fin (m * n) (e + k)
  | .nan, _ => .nan
  | _, .nan => .nan
  | x, y => if x.isZero || y.isZero then .nan else Elem.infOf (x.negative != y.negative)

/-- Two's complement of `n` bits. -/
def signedCode (n c : Nat) : Int := if 2 ^ (n - 1) ≤ c then (c : Int) - 2 ^ n else c

/-- The narrow format of the codes of a matrix format whose elements are scaled or plain ones. -/
def mNarrow (f : Nat) : NFmt :=
  [.bf16, .f16, .e4m3, .e5m2, .e3m2, .e2m3, .e2m1, .i8, .n8, .i4, .n4, .t2, .e4m3, .e5m2, .e3m2, .e2m3, .e2m1, .i8,
   .i8, .i8, .i8, .q16n, .q16n, .i4, .i8, .i4, .e4m3, .e2m1, .e4m3, .i8, .e2m1, .i4].getD f .i8

/-- R35, R37, R52: the value of a code of a narrow format. -/
def nfElem (f : NFmt) (c : Nat) : Elem :=
  match nfBinary f with
  | some b => elemOfNum (b.value c)
  | none =>
    match f with
    | .i8 => .fin (signedCode 8 c) 0
    | .i4 => .fin (signedCode 4 c) 0
    | .t2 => if c = 2 then .nan else .fin (if c = 1 then 1 else if c = 3 then -1 else 0) 0
    | .q16n => .fin (q16Levels.getD c 0) 0
    | _ => .fin c 0

/-- R49: an E8M0 scale. -/
def e8m0 (u : Nat) : Elem := if u = 255 then .nan else .fin 1 ((u : Int) - 127)

/-- R51: an element of an NB block: shared exponent, micro-exponent, significand width, code. -/
def nbElem (x mu p code : Nat) : Elem :=
  if x = 255 then .nan
  else
    let m : Int := (code % 2 ^ p : Nat)
    .fin (if code / 2 ^ p % 2 = 1 then -m else m) ((x : Int) - 127 - mu - (p - 1))

/-- A byte of an image. -/
def imgByte (img i : Nat) : Nat := img / 2 ^ (8 * i) % 256

/-- A code of `b` bits of a packed array that begins at bit `base` (R39). -/
def imgCode (img base b j : Nat) : Nat := img / 2 ^ (base + b * j) % 2 ^ b

/-- The FP32 value that begins at a byte. -/
def imgScale (img i : Nat) : Elem := elemOfNum (fp32.value (img / 2 ^ (8 * i) % 2 ^ 32))

/-- R55: the index among the two kept elements of a group of four, if the element is kept. -/
def keptAt (meta_ k : Nat) : Option Nat :=
  if meta_ % 4 = k % 4 then some 0 else if meta_ / 4 % 4 = k % 4 then some 1 else none

/-- R220: element k of an image of K k-elements: its unscaled value (R221) and its exact value (R57). `half` is the
super-block half of codes 21 and 23. -/
def imageElem (f kk half img k : Nat) : Elem × Elem :=
  let b := mBits f
  let raw := nfElem (mNarrow f) (imgCode img 0 b k)
  if f < 12 then (raw, raw)
  else if f < 18 then
    let e := if f = 17 then (match raw with | .fin m e => .fin m (e - 6) | x => x) else raw
    (e, e.mul (e8m0 (imgByte img (kk * b / 8 + k / 32))))
  else if f < 21 then
    let base := k / 16 * (2 * b + 2)
    let x := imgByte img base
    let mu := imgByte img (base + 1) / 2 ^ (k % 16 / 2) % 2
    let code := imgCode img (8 * (base + 2)) b (k % 16)
    (nbElem (127 + (b - 2)) mu (b - 1) code, nbElem x mu (b - 1) code)
  else if f = 22 then
    let base := 36 * (k / 64)
    let v := nfElem .q16n (imgCode img (8 * base) 4 (k % 64))
    (v, v.mul (imgScale img (base + 32)))
  else if f < 24 then
    let i := 128 * half + k
    let v := nfElem (mNarrow f) (imgCode img 0 4 i)
    let c := imgByte img (128 + i / 64)
    (v, if c = 0 then Elem.zero else (v.mul (imgScale img 132)).mul (.fin c (-7)))
  else if f < 26 then (raw, raw.mul (imgScale img (kk * b / 8)))
  else if f < 28 then (raw, raw.mul (e8m0 (imgByte img (kk * b / 8 + k / 16))))
  else if f < 31 then
    match keptAt (imgCode img (kk / 2 * b) 4 (k / 4)) k with
    | none => (Elem.zero, Elem.zero)
    | some j => let v := nfElem (mNarrow f) (imgCode img 0 b (2 * (k / 4) + j)); (v, v)
  else
    let base := 8 * (k / 16)
    let q := k % 16 / 4
    match keptAt (imgCode img (8 * (base + 6)) 4 q) k with
    | none => (Elem.zero, Elem.zero)
    | some j =>
      let mu := imgByte img (base + 1) / 2 ^ q % 2
      let code := imgCode img (8 * (base + 2)) 4 (2 * q + j)
      (nbElem 129 mu 3 code, nbElem (imgByte img base) mu 3 code)

/-- R55: an image whose metadata or reserved bits a load refuses. -/
def imageBad (f kk img : Nat) : Bool :=
  if f < 28 then false
  else if f < 31 then
    (List.range (kk / 4)).any fun q => let m := imgCode img (kk / 2 * mBits f) 4 q; decide (m / 4 ≤ m % 4)
  else
    (List.range (kk / 16)).any fun j =>
      imgByte img (8 * j + 1) / 16 != 0 ||
        (List.range 4).any fun q => let m := imgCode img (8 * (8 * j + 6)) 4 q; decide (m / 4 ≤ m % 4)

/-- The elements of an image. -/
def imageElems (f kk half img : Nat) : List (Elem × Elem) := (List.range kk).map (imageElem f kk half img)

/-! ### The residue store (R221) -/

/-- −2^(w−1) ≤ m·2^(e−X) ≤ 2^(w−1) − 1. -/
def fitsAt (w : Nat) (m e x : Int) : Bool :=
  let lo : Int := -(2 ^ (w - 1))
  let hi : Int := 2 ^ (w - 1) - 1
  if x ≤ e then decide (lo ≤ m * 2 ^ (e - x).toNat) && decide (m * 2 ^ (e - x).toNat ≤ hi)
  else decide (lo * 2 ^ (x - e).toNat ≤ m) && decide (m ≤ hi * 2 ^ (x - e).toNat)

/-- The least X at which one value fits. -/
def leastX (w : Nat) (m e : Int) : Int :=
  let x0 := e + bitLen m.natAbs - (w - 1 : Int)
  if fitsAt w m e (x0 - 1) then x0 - 1 else if fitsAt w m e x0 then x0 else x0 + 1

/-- R221: the finite non-zero values of a block, by index. -/
def blockVals (es : List (Elem × Nat)) : List (Int × Int × Nat) :=
  es.filterMap fun p => match p.1 with | .fin m e => if m = 0 then none else some (m, e, p.2) | _ => none

/-- R221: the indexes of a k-block whose elements are residues. -/
def blockResidues (w : Nat) (es : List (Elem × Nat)) : List Nat :=
  match blockVals es with
  | [] => []
  | v :: r =>
    let x := r.foldl (fun x (u : Int × Int × Nat) => max x (leastX w u.1 u.2.1)) (leastX w v.1 v.2.1)
    ((v :: r).filter fun u => decide (u.2.1 < x) && u.1 % 2 ^ (x - u.2.1).toNat != 0).map (·.2.2)

/-- Cut a list into runs of `n`. -/
def chunks {α : Type} (n : Nat) : Nat → List α → List (List α)
  | 0, _ => []
  | fuel + 1, l => if l.isEmpty then [] else l.take n :: chunks n fuel (l.drop n)

/-- R221: the residues of a column of unscaled values; those of a block whose scale is a NaN count by their codes, which is
the model's choice (log 147). -/
def columnResidues (f : Nat) (es : List Elem) : List Nat :=
  if [0, 1, 2, 3, 12, 13, 26, 28].contains f then
    (chunks (mBlock f) es.length es.zipIdx).flatMap (blockResidues (mAligned f))
  else []

/-! ### Terms (R223-R225) -/

/-- An exact sum m·2^e. -/
def addExact (a b : Int × Int) : Int × Int :=
  if a.1 = 0 then b
  else if b.1 = 0 then a
  else if a.2 ≤ b.2 then (a.1 + b.1 * 2 ^ (b.2 - a.2).toNat, a.2)
  else (a.1 * 2 ^ (a.2 - b.2).toNat + b.1, b.2)

/-- ⌊m·2^e / 2^q⌋, and whether it lost something. -/
def floorTo (m e q : Int) : Int × Bool :=
  if q ≤ e then (m * 2 ^ (e - q).toNat, false)
  else (m / 2 ^ (q - e).toNat, m % 2 ^ (q - e).toNat != 0)

/-- R224: comb. -/
def EState.comb : EState → EState → EState
  | .nan, _ => .nan
  | _, .nan => .nan
  | .posInf, .negInf => .nan
  | .negInf, .posInf => .nan
  | .fin, y => y
  | x, _ => x

/-- The state of an exact value. -/
def Elem.state : Elem → EState
  | .fin _ _ => .fin
  | .posInf => .posInf
  | .negInf => .negInf
  | .nan => .nan

/-- R222: the range of an entry, in units of the grid. -/
def outOfRange (v : Int) : Bool := decide (v < -(2 ^ 159)) || decide (2 ^ 159 ≤ v)

/-- R222: an entry at the start of a chain. -/
def Entry.zero : Entry := ⟨0, .fin, false⟩

/-- R222, R223: what one k-block adds: the sum of its finite products, the state of its special ones. -/
def blockTerm (ps : List (Elem × Elem)) : (Int × Int) × EState :=
  ps.foldl (fun acc p =>
    let x := p.1.mul p.2
    match p.1.special || p.2.special, x with
    | false, .fin m e => (addExact acc.1 (m, e), acc.2)
    | _, x => (acc.1, acc.2.comb x.state)) ((0, 0), .fin)

/-- R222: the status bits of `mstat`. -/
def sOvf : Word := bit 1
def sSpecial : Word := bit 2
def sOmitted : Word := bit 3
def sFloored : Word := bit 4
def sInexact : Word := bit 5
def sRovf : Word := bit 6
def sUnf : Word := bit 7

/-- R223: an entry and the status bits after one k-block. -/
def Entry.add (ea : Int) (acc : Entry × Word) (ps : List (Elem × Elem)) : Entry × Word :=
  let e := acc.1
  let ((m, x), st) := blockTerm ps
  let (t, lost) := floorTo m x (ea - 128)
  ({ value := e.value + t, st := e.st.comb st, ovf := e.ovf || outOfRange t },
   acc.2 ||| (if st = .fin then 0 else sSpecial) ||| (if lost then sFloored else 0))

/-- R225: an entry has overflowed: some term did, or the sum of its terms does. -/
def Entry.over (e : Entry) : Bool := e.ovf || outOfRange e.value

/-- The entry at an index. -/
def Bank.entry (b : Bank) (n : Nat) : Entry := (b.entries.look n).getD Entry.zero

/-- R244: the status word of a bank. -/
def Bank.word (b : Bank) : Word :=
  b.status ||| (if b.openC then 1 else 0) ||| (if b.entries.any (·.2.over) then sOvf else 0)
    ||| BitVec.ofNat 32 (b.afmt * 2 ^ 8 + b.bfmt * 2 ^ 13 + b.ofmt * 2 ^ 18 + b.mode * 2 ^ 20)
    ||| (BitVec.ofInt 10 b.ea ++ (0 : BitVec 22))

/-- R223: a stage row of one macro: every column's k-blocks. `row` holds the A elements of this macro. -/
def macroRow (ea : Int) (blk : Nat) (row : List Elem) (cols : List (List Elem)) (r : Nat) (b : Bank) : Bank :=
  (List.range 128).foldl (fun b n =>
    let col := cols.getD n []
    let col := if col.isEmpty then List.replicate row.length Elem.zero else col
    let old := b.entry (128 * r + n)
    let (e, st) := (chunks blk row.length (row.zip col)).foldl (Entry.add ea) (old, b.status)
    { b with entries := if e = Entry.zero then b.entries.del (128 * r + n) else b.entries.put (128 * r + n) e,
             status := st }) b

/-- R223: a stage row over the selected macros in ascending index. -/
def stageRow (row : List Elem) (sel : List Macro) (r : Nat) (b : Bank) : Bank :=
  (sel.foldl (fun (acc : Bank × Nat) mac =>
    let k := mK acc.1.bfmt
    if mac.poisoned then ({ acc.1 with status := acc.1.status ||| sOmitted }, acc.2 + k)
    else (macroRow acc.1.ea (mBlock acc.1.bfmt) ((row.drop acc.2).take k) mac.cols r acc.1, acc.2 + k)) (b, 0)).1

/-! ### mend (R227) -/

/-- The output formats of R222. -/
def outFmt (ofmt : Nat) : FFmt := if ofmt = 0 then fp32 else if ofmt = 1 then fmtBf16 else fmtF16

/-- The bytes of an output element. -/
def outBytes (ofmt : Nat) : Nat := if ofmt = 0 then 4 else 2

/-- The rounding modes of R222. -/
def outMode (mode : Nat) : RMode := if mode = 0 then .rne else if mode = 1 then .rz else if mode = 2 then .rd else .ru

/-- R227: one output element and the status bits it sets. -/
def outElem (b : Bank) (e : Entry) (c : Elem) : Nat × Word :=
  let f := outFmt b.ofmt
  match e.st.comb c.state with
  | .nan => (f.nanCode, 0)
  | .posInf => (f.infCode, 0)
  | .negInf => (f.signed true f.infCode, 0)
  | .fin =>
    let (cg, lost) := match c with | .fin m x => floorTo m x (b.ea - 128) | _ => (0, false)
    let fl : Word := if lost then sFloored else 0
    let v := cg + e.value
    if e.over || outOfRange v then (f.nanCode, fl ||| sOvf)
    else
      let (d, x) := roundF f (outMode b.mode) false 0 (if v = 0 then outMode b.mode == .rd else decide (v < 0)) v.natAbs
        (b.ea - 128) false
      (d, fl ||| (if anyBit x fInexact then sInexact else 0) ||| (if anyBit x fOverflow then sRovf else 0)
        ||| (if anyBit x fUnderflow then sUnf else 0))

end Sys2Proof.Machine
end

