-- ==== Sys2Proof/Machine/MatrixEngine.lean ====
section
/-! DEFINITION. The matrix words at issue: their checks, the issue view, signed issue and entry to the matrix queue
(08_matrix_engine R228-R244). -/

namespace Sys2Proof.Machine

open Sys2Proof

/-! ### Checks (R233) -/

/-- R233: a capability operand over a whole range of the team's own scratchpad. -/
def Issue.mxCap (i : Issue) (c : Cap) (perm : BitVec 16) (len : Nat) : Except Word Unit :=
  match capCheck c perm c.addr.toNat len [1] false false true (i.s.spadAt i.x.team i.t 1 c.addr.toNat len).isSome with
  | .error e => .error e
  | .ok _ =>
    if c.addr.toNat % 16 ≠ 0 then .error cAlign
    else if i.s.covered i.t.ctx c then .error cRevoked
    else .ok ()

/-- R233: a check of a config value. -/
def mxNeed (ok : Bool) : Except Word Unit := if ok then .ok () else .error cMatrix

/-- R230: an operation that names an engine-owned granule. -/
def Issue.mxOwner (i : Issue) (gs : List Nat) : Except Word Unit :=
  if gs.any i.t.holds then .error cOwner else .ok ()

/-- A field of a config value. -/
def cfg (x : Word) (lo n : Nat) : Nat := x.toNat / 2 ^ lo % 2 ^ n

/-- The chain a bank has in the issue view. -/
def Matrix.view (m : Matrix) (b : Nat) : BankView := m.viewBank.getD b BankView.closed

/-! ### Entry to the queue (R228, R230) -/

/-- R228, R230: an operation enters the queue and names its granules, which are the engine's once the accesses accepted
before have performed (R178). -/
def Team.enqueueM (t : Team) (o : MOp) : Team :=
  { t with named := o.granules.foldl addNum t.named, mx := { t.mx with queue := t.mx.queue ++ [{ o with id := t.nextOp }] },
           nextOp := t.nextOp + 1 }

/-- R228: change a bank of the issue view. -/
def Team.upView (t : Team) (b : Nat) (f : BankView → BankView) : Team :=
  { t with mx := { t.mx with viewBank := t.mx.viewBank.modify b f } }

/-- The flags a word's operation clears: those of every visited lane. -/
def Issue.mxFlags (i : Issue) : List (Nat × Fin 12) :=
  match i.x.ctl.sf with | none => [] | some n => i.visited.map fun p => (p.1, n)

/-- R178, R229, R328: the visited lanes release what they have accessed before this word, and what that follows, at team scope. -/
def Issue.mxGates (i : Issue) : List Gate := i.visited.flatMap fun p => .ops i.x.team i.x.g [p.1] i.t.nextOp 1 :: p.2.gates

/-- An operation of the word in issue. -/
def Issue.mop (i : Issue) (op10 lane : Nat) (gs : List Nat) (k : MKind) : MOp :=
  { id := 0, g := i.x.g, gates := i.mxGates, flags := i.mxFlags, granules := gs, op10 := op10, lane := lane, pc := i.x.pc,
    asked := i.s.asks, granted := false, kind := k }

/-- R443: a matrix word on a control core raises MATRIX at its span. -/
def matrixWord (ins : Instr) (s : State) (k : Issue → State) : Host.Outcome State Fault Refusal :=
  wordDo ins s fun i => if i.x.core.die = 9 then i.raise (i.x.lanes.map fun l => (l, cMatrix)) else k i

/-- R233: a word that acts once, with the operands of the lowest visited lane; it has its place in the order of the requests for
current (R236, R445). -/
def matrixOnce (ins : Instr) (s : State) (f : Issue → Nat → Thread → Except Word (Team → Team)) :
    Host.Outcome State Fault Refusal :=
  matrixWord ins s fun i =>
    let done := i.commit (wordLen ins) .alu 0 false (i.dead ins) (i.visited.map fun p => (p.1, LaneOut.nil))
    match i.visited with
    | [] => done
    | (l, t) :: _ =>
      match f i l t with
      | .error c => i.raise [(l, c)]
      | .ok k => { done with asks := done.asks + 1 }.upTeam i.x.team k

/-! ### The words that act once -/

/-- R234, R235: mldb. -/
def execMldb (bf : Fin 32) (b : CapSel) (x : Src) (s : State) : Host.Outcome State Fault Refusal :=
  matrixOnce (.mldb bf b x) s fun i l t => do
    let v ← i.src l t x
    let c := i.cap t b
    let half := cfg v 3 1
    let cols := cfg v 4 7 + 1
    let stride := 16 * cfg v 11 12
    mxNeed (cfg v 23 9 == 0 && (half == 0 || bf == 21 || bf == 23) && stride != 0
      && decide (imageLen bf.val (mK bf.val) ≤ stride))
    i.mxCap c pLD (cols * stride)
    let gs := granulesOf c.addr.toNat (cols * stride)
    i.mxOwner gs
    .ok fun u =>
      { u with mx := { u.mx with viewFmt := u.mx.viewFmt.set (cfg v 0 3) (some bf.val) } }.enqueueM
        (i.mop 0x200 l gs (.mldb bf.val (cfg v 0 3) half cols stride c.addr.toNat))

/-- R236, R237: mbeg. -/
def execMbeg (af bf : Fin 32) (ofm : Fin 3) (m : Fin 4) (x : Src) (s : State) : Host.Outcome State Fault Refusal :=
  matrixOnce (.mbeg af bf ofm m x) s fun i l t => do
    let v ← i.src l t x
    let k := cfg v 0 4
    mxNeed (cfg v 14 18 == 0 && !(i.t.mx.view k).openC)
    let ea := (v.extractLsb' 4 10).toInt
    .ok fun u =>
      (u.upView k fun _ => ⟨true, af.val, bf.val, ofm.val, ea, 0⟩).enqueueM
        (i.mop 0x201 l [] (.mbeg k af.val bf.val ofm.val m.val ea))

/-- R240, R241: mend. R240 gives the overlap of C and D no place among the checks of the capabilities and of OWNER: D is checked
first, then C, then their overlap, then OWNER, which is the model's choice (log 168). -/
def execMend (x : Src) (b : CapSel) (cc : Option CapSel) (s : State) : Host.Outcome State Fault Refusal :=
  matrixOnce (.mend x b cc) s fun i l t => do
    let v ← i.src l t x
    let k := cfg v 0 4
    let w := i.t.mx.view k
    let r0 := cfg v 4 3
    let rows := cfg v 7 3 + 1
    let stride := 16 * cfg v 10 12
    mxNeed (cfg v 22 10 == 0 && w.openC && decide (r0 + rows ≤ 8) && stride != 0
      && decide (128 * outBytes w.ofmt ≤ stride))
    let d := i.cap t b
    let c := cc.map (i.cap t)
    i.mxCap d pST (rows * stride)
    let gd := granulesOf d.addr.toNat (rows * stride)
    let gc ← (match c with
      | none => .ok []
      | some c => do
        i.mxCap c pLD (rows * stride)
        let gc := granulesOf c.addr.toNat (rows * stride)
        mxNeed (c.addr == d.addr || !gc.any (gd.contains ·))
        .ok gc : Except Word (List Nat))
    let gs := (gd ++ gc).dedup
    i.mxOwner gs
    .ok fun u =>
      (u.upView k fun w => { w with openC := false }).enqueueM
        (i.mop 0x203 l gs (.mend k r0 rows stride d.addr.toNat (c.map (·.addr.toNat))))

/-- R242: mzero. -/
def execMzero (x : Src) (s : State) : Host.Outcome State Fault Refusal :=
  matrixOnce (.mzero x) s fun i l t => do
    let v ← i.src l t x
    mxNeed (cfg v 4 28 == 0)
    .ok fun u => (u.upView (cfg v 0 4) fun w => { w with openC := false }).enqueueM (i.mop 0x204 l [] (.mzero (cfg v 0 4)))

/-! ### The words that act per lane -/

/-- R243: mrd. -/
def execMrd (d : Fin 16) (x : Src) (s : State) : Host.Outcome State Fault Refusal :=
  matrixWord (.mrd d x) s fun i =>
    match i.each (fun l t => do
        let v ← i.src l t x
        mxNeed (cfg v 14 18 == 0)
        .ok (cfg v 0 4, cfg v 4 10)) with
    | .error cs => i.raise cs
    | .ok rs =>
      let done := i.commit (wordLen (.mrd d x)) .alu 0 false (i.dead (.mrd d x)) (rs.map fun p => (p.1, LaneOut.nil))
      match rs with
      | [] => done
      | (l, _) :: _ => done.upTeam i.x.team (·.enqueueM (i.mop 0x205 l [] (.mrd (rs.map fun p => (p.1, p.2.1, p.2.2, 8 * d.val)))))

/-- R244: mstat. -/
def execMstat (d : Dst) (x : Src) (s : State) : Host.Outcome State Fault Refusal :=
  matrixWord (.mstat d x) s fun i =>
    match i.each (fun l t => do
        let v ← i.src l t x
        mxNeed (cfg v 4 28 == 0)
        .ok (← i.destOf t d, cfg v 0 4)) with
    | .error cs => i.raise cs
    | .ok rs =>
      let done := i.commit (wordLen (.mstat d x)) .alu 0 false (i.dead (.mstat d x)) (rs.map fun p => (p.1, LaneOut.nil))
      match rs with
      | [] => done
      | (l, _) :: _ => done.upTeam i.x.team (·.enqueueM (i.mop 0x206 l [] (.mstat rs)))

/-! ### mma (R229, R238, R239) -/

/-- The macros a mask selects, in ascending index. -/
def maskBits (m : Nat) : List Nat := (List.range 8).filter fun k => m.testBit k

/-- R239, R220: K of a stage row, from the issue view. -/
def Matrix.stageK (m : Matrix) (sel : List Nat) : Nat :=
  (sel.map fun k => match m.viewFmt.getD k none with | some f => mK f | none => 0).foldl (· + ·) 0

/-- R238, R239: the checks of one signature. For a bank with no open chain the stride check takes the formats that the issue
view last held, and K = 0 for a macro with no format, which is the model's choice (log 148). -/
def Issue.signCheck (i : Issue) (v : Word) (c : Cap) : Except Word Unit := do
  let rows := cfg v 15 3 + 1
  let stride := 16 * cfg v 18 12
  let sel := maskBits (cfg v 4 8)
  i.mxCap c pLD (rows * stride)
  mxNeed (cfg v 30 2 == 0 && !sel.isEmpty && decide (cfg v 12 3 + rows ≤ 8) && stride != 0
    && decide (imageLen (i.t.mx.view (cfg v 0 4)).afmt (i.t.mx.stageK sel) ≤ stride))

/-- R238, R230: the checks of the final signature; the granules of the stage. -/
def Issue.finalCheck (i : Issue) (v : Word) (c : Cap) : Except Word (List Nat) := do
  let w := i.t.mx.view (cfg v 0 4)
  mxNeed (w.openC && decide (w.count < 2 ^ 24)
    && (maskBits (cfg v 4 8)).all fun k => i.t.mx.viewFmt.getD k none == some w.bfmt)
  let gs := granulesOf c.addr.toNat ((cfg v 15 3 + 1) * (16 * cfg v 18 12))
  i.mxOwner gs
  .ok gs

/-- R229: the signatures of the visited lanes in ascending order: the record and the causes raised. -/
def Issue.signAll (i : Issue) (k : Nat) (b : CapSel) (x : Src) : Option (Word × Cap) × List (Nat × Word) :=
  let r := i.g.g.getD k Conv.idle
  i.visited.foldl (fun (acc : Option (Word × Cap) × List (Nat × Word)) p =>
    let res : Except Word (Word × Cap) := do
      let v ← i.src p.1 p.2 x
      let c := i.cap p.2 b
      mxNeed (r.armed && r.expect.getLsbD p.1 && (r.sign || !r.used))
      i.signCheck v c
      match acc.1 with
      | none => .ok (v, c)
      | some q => if q = (v, c) then .ok q else .error cMatrix
    match res with
    | .ok q => (some q, acc.2)
    | .error e => (acc.1, acc.2 ++ [(p.1, e)])) (r.sig.map fun g => (g.config, g.cap), [])

/-- R229: mma; a signature of every visited lane, and entry to the queue at the final one. -/
def execMma (g : Fin 8) (b : CapSel) (x : Src) (s : State) : Host.Outcome State Fault Refusal :=
  matrixWord (.mma g b x) s fun i =>
    let done := i.commit (wordLen (.mma g b x)) .alu 0 false (i.dead (.mma g b x)) (i.visited.map fun p => (p.1, LaneOut.nil))
    match i.signAll g.val b x, i.visited with
    | (_, e :: es), _ => i.raise (e :: es)
    | (none, []), _ => done
    | (_, []), [] => done
    | (some (v, c), []), (l, _) :: _ =>
      let r := i.g.g.getD g.val Conv.idle
      let arrived := r.arrived ||| laneMask (i.visited.map (·.1))
      let flags : List (Nat × Fin 12) := (match r.sig with | some q => q.sf | none => []) ++ i.mxFlags
      let gates : List Gate := (match r.sig with | some q => q.gates | none => []) ++ i.mxGates
      if (r.expect &&& ~~~arrived) ≠ 0 then
        let first := match r.sig with | some q => q.lane | none => l
        let r' : Conv := ⟨r.expect, arrived, r.armed, true, true, some ⟨v, c, first, flags, gates⟩⟩
        done.upTeam i.x.team (·.upGroup i.x.g fun (gr : Group) => { gr with g := gr.g.set g.val r' })
      else
        match i.finalCheck v c with
        | .error e => i.raise [(l, e)]
        | .ok gs =>
          let o : MOp := i.mop 0x202 l gs
            (.mma (cfg v 0 4) (cfg v 4 8) (cfg v 12 3) (cfg v 15 3 + 1) (16 * cfg v 18 12) c.addr.toNat)
          let r' : Conv := ⟨r.expect, arrived, false, true, true, none⟩
          done.upTeam i.x.team fun u =>
            let u := u.upGroup i.x.g fun (gr : Group) => { gr with g := gr.g.set g.val r' }
            let u := u.upView (cfg v 0 4) fun (w : BankView) => { w with count := w.count + 1 }
            u.enqueueM ({ o with flags := flags, gates := gates } : MOp)

end Sys2Proof.Machine
end

