-- ==== Sys2Proof/Machine/MatrixRun.lean ====
section
/-! DEFINITION. The operations of the matrix queue as they perform (08_matrix_engine R218-R232, R234, R236, R238,
R240-R244) and the current grants they wait for (21_device R445). -/

namespace Sys2Proof.Machine

open Sys2Proof

/-! ### Order in the queue (R226, R228) -/

/-- The macros an operation touches. -/
def MKind.macros : MKind → List Nat
  | .mldb _ m _ _ _ _ => [m]
  | .mma _ mask _ _ _ _ => maskBits mask
  | _ => []

/-- The banks an operation touches. -/
def MKind.banks : MKind → List Nat
  | .mldb _ _ _ _ _ _ => []
  | .mbeg b _ _ _ _ _ => [b]
  | .mma b _ _ _ _ _ => [b]
  | .mend b _ _ _ _ _ => [b]
  | .mzero b => [b]
  | .mrd items => items.map (·.2.1)
  | .mstat items => items.map (·.2.2)

def MKind.isMma : MKind → Bool
  | .mma _ _ _ _ _ _ => true
  | _ => false

/-- R228, R226: an operation acts after every earlier one that touches a macro or bank of its own; products of one chain
take any order. -/
def Matrix.free (m : Matrix) (o : MOp) : Bool :=
  m.queue.all fun e =>
    decide (o.id ≤ e.id) || (e.kind.isMma && o.kind.isMma) ||
      (!(e.kind.macros.any (o.kind.macros.contains ·)) && !(e.kind.banks.any (o.kind.banks.contains ·)))

/-- The bank at an index. -/
def Matrix.bank (m : Matrix) (b : Nat) : Bank := m.banks.getD b Bank.closed

/-- R223, R227, R234: the rows that an operation reads and writes in its team's share. -/
def Team.mxTouches (t : Team) (id : Nat) (o : MOp) : List Touch :=
  let rows := fun (n addr stride len : Nat) (w : Bool) => (List.range n).map fun i => (⟨0, .spad id (addr + i * stride), len, w⟩ : Touch)
  match o.kind with
  | .mldb bf _ _ cols stride addr => rows cols addr stride (imageLen bf (mK bf)) false
  | .mma b mask _ n stride addr =>
    let k := t.mx.bank b
    rows n addr stride (imageLen k.afmt ((maskBits mask).length * mK k.bfmt)) false
  | .mend b _ n stride d c =>
    let len := 128 * outBytes (t.mx.bank b).ofmt
    rows n d stride len true ++ (match c with | some a => rows n a stride len false | none => [])
  | _ => []

/-- R229, R230, R328: the operation as an event of the matrix engine: it follows what its issue, or its signatures, released, at
team scope. -/
def Team.mxEvent (t : Team) (id : Nat) (o : MOp) : Ev :=
  { (Agent.matrix id o.id).event (t.mxTouches id o) with
    op := { Op.none with g := o.g, gates := o.gates.map fun k => (0, k) }, scope := 1, next := t.nextOp }

/-- An operation of the matrix engine goes ahead of something that its issue released. -/
def State.mxEarly (s : State) (t : Team) (o : MOp) : Bool := o.gates.any fun k => !s.gateOpen t.die k

/-- The operation a step names, ready to perform: the granules are its own (R178), and what messages that its threads had taken stand
for at a wide scope has performed (R328, R329). -/
def State.evM (s : State) : Option (Nat × Team × MOp) :=
  match s.evTeam with
  | none => none
  | some (id, t) =>
    match t.mx.queue.find? fun o => o.id == s.ev.id with
    | none => none
    | some o =>
      if t.mx.free o && (o.gates.all fun k => !k.strict || s.gateOpen t.die k) && s.granulesQuiet (o.granules.map fun k => (id, k))
          && s.allowed t.die (s.mxEarly t o) (t.mxEvent id o) then some (id, t, o) else none

/-- R230, R28: an operation ends: its granules return and its flags clear. Its context counts it (R358); its event is recorded
(R323). -/
def State.endM (s : State) (id : Nat) (t : Team) (o : MOp) : State :=
  let s := (s.noteEv t.die (s.mxEarly t o) (t.mxEvent id o)).count t.ctx 6
  (s.disown (o.granules.map fun k => (id, k))).upTeam id fun t =>
    o.flags.foldl (fun t p => t.clearOpFlag o.g [p.1] (some p.2))
      { t with mx := { t.mx with queue := t.mx.queue.filter fun x => x.id != o.id } }

/-- Change the matrix engine of a team. -/
def State.upMx (s : State) (id : Nat) (f : Matrix → Matrix) : State := s.upTeam id fun t => { t with mx := f t.mx }

/-- Replace a bank. -/
def State.setBank (s : State) (id b : Nat) (k : Bank) : State := s.upMx id fun m => { m with banks := m.banks.set b k }

/-! ### mldb, mbeg, mma (R223, R234, R236) -/

/-- An image in a team's scratchpad. -/
def Team.image (t : Team) (addr len : Nat) : Nat := Memory.num t.sp addr len

/-- R234: the macro that a B load gives; none where the load is refused. -/
def Team.loadMacro (t : Team) (bf half cols stride addr : Nat) : Option Macro :=
  let kk := mK bf
  let imgs := (List.range cols).map fun n => t.image (addr + n * stride) (imageLen bf kk)
  if imgs.any (imageBad bf kk) then none
  else
    let es := imgs.map (imageElems bf kk half)
    let res := es.zipIdx.flatMap fun p => (columnResidues bf (p.1.map (·.1))).map fun k => (p.2, k)
    if 512 < res.length then none
    else some ⟨some bf, es.map fun c => c.map (·.2), res, false⟩

/-- R234, R251: a B load is refused: its macro is poisoned, and MATRIX is set in the group of its word. -/
def State.refuseLoad (s : State) (id : Nat) (t : Team) (o : MOp) : Option State :=
  match o.kind with
  | .mldb bf mac half cols stride addr =>
    match t.loadMacro bf half cols stride addr with
    | some _ => none
    | none =>
      let s := s.upMx id fun m => { m with macros := m.macros.modify mac fun (k : Macro) => { k with poisoned := true } }
      some ((s.async id o.g cMatrix (some ⟨o.op10, o.lane, true, o.pc⟩)).endM id t o)
  | _ => none

def execMldbPerform (s : State) : Host.Outcome State Fault Refusal :=
  enabled s <| match s.evM with
    | some (id, t, o) =>
      match o.kind with
      | .mldb bf mac half cols stride addr =>
        match t.loadMacro bf half cols stride addr with
        | some k => some ((s.upMx id fun m => { m with macros := m.macros.set mac k }).endM id t o)
        | none => s.refuseLoad id t o
      | _ => none
    | none => none

def execMbegPerform (s : State) : Host.Outcome State Fault Refusal :=
  enabled s <| match s.evM with
    | some (id, t, o) =>
      match o.kind with
      | .mbeg b af bf ofm mode ea =>
        when_ o.granted ((s.setBank id b ⟨true, af, bf, ofm, mode, ea, 0, 0, true, 0, []⟩).endM id t o)
      | _ => none
    | none => none

/-- R223: the stage of an `mma` on a bank. -/
def Team.stage (t : Team) (b : Bank) (mask r0 rows stride addr : Nat) : Bank :=
  let sel := (maskBits mask).map fun k => t.mx.macros.getD k ⟨none, [], [], false⟩
  let kk := sel.length * mK b.bfmt
  let b' := (List.range rows).foldl (fun b i =>
    let img := t.image (addr + i * stride) (imageLen b.afmt kk)
    stageRow ((imageElems b.afmt kk 0 img).map (·.2)) sel (r0 + i) b) b
  { b' with count := b'.count + 1 }

def execMmaPerform (s : State) : Host.Outcome State Fault Refusal :=
  enabled s <| match s.evM with
    | some (id, t, o) =>
      match o.kind with
      | .mma b mask r0 rows stride addr =>
        let k := t.mx.bank b
        when_ (k.grant && k.openC) ((s.setBank id b (t.stage k mask r0 rows stride addr)).endM id t o)
      | _ => none
    | none => none

/-! ### mend, mzero, mrd, mstat (R227, R242-R244) -/

/-- R227: one row of the output tile: its bytes and the status bits. -/
def Team.outRow (t : Team) (b : Bank) (r : Nat) (c : Option Nat) : List Byte × Word :=
  let w := outBytes b.ofmt
  (List.range 128).foldl (fun (acc : List Byte × Word) n =>
    let ce := match c with
      | some a => elemOfNum ((outFmt b.ofmt).value (t.image (a + w * n) w))
      | none => Elem.zero
    let (d, st) := outElem b (b.entry (128 * r + n)) ce
    (acc.1 ++ numBytes d w, acc.2 ||| st)) ([], 0)

/-- R227: the tile by rows, every C element read before any D element is written; the status bits. -/
def Team.outTile (t : Team) (b : Bank) (r0 rows stride d : Nat) (c : Option Nat) : Team × Word :=
  let rs := (List.range rows).map fun i => (d + i * stride, t.outRow b (r0 + i) (c.map (· + i * stride)))
  rs.foldl (fun (acc : Team × Word) p => (acc.1.writeSp p.1 p.2.1 false, acc.2 ||| p.2.2)) (t, 0)

def execMendPerform (s : State) : Host.Outcome State Fault Refusal :=
  enabled s <| match s.evM with
    | some (id, t, o) =>
      match o.kind with
      | .mend b r0 rows stride d c =>
        let k := t.mx.bank b
        let (u, st) := t.outTile k r0 rows stride d c
        let ov : Word := if k.entries.any (·.2.over) then sOvf else 0
        let k' : Bank := { k with openC := false, grant := false, entries := [], count := 0, status := k.status ||| st ||| ov }
        some (((s.upTeam id fun _ => u).setBank id b k').endM id t o)
      | _ => none
    | none => none

def execMzeroPerform (s : State) : Host.Outcome State Fault Refusal :=
  enabled s <| match s.evM with
    | some (id, t, o) =>
      match o.kind with
      | .mzero b => some ((s.setBank id b Bank.closed).endM id t o)
      | _ => none
    | none => none

/-- R243: the code of an entry's state. -/
def EState.code : EState → Nat
  | .fin => 0
  | .posInf => 1
  | .negInf => 2
  | .nan => 3

/-- R243: what `mrd` writes. -/
def Bank.readEntry (b : Bank) (n v : Nat) : List Upd :=
  let e := b.entry n
  let bits := BitVec.ofInt 160 e.value
  (List.range 5).map (fun j => Upd.v (v + j) (bits.extractLsb' (32 * j) 32)) ++
    [.v (v + 5) (BitVec.ofNat 32 (e.st.code + (if e.over then 4 else 0) + (if b.openC then 8 else 0)))]

def execMrdPerform (s : State) : Host.Outcome State Fault Refusal :=
  enabled s <| match s.evM with
    | some (id, t, o) =>
      match o.kind with
      | .mrd items =>
        let us := items.flatMap fun p => ((t.mx.bank p.2.1).readEntry p.2.2.1 p.2.2.2).map fun u => (p.1, u)
        some ((s.landUpds id o.g us).endM id t o)
      | _ => none
    | none => none

def execMstatPerform (s : State) : Host.Outcome State Fault Refusal :=
  enabled s <| match s.evM with
    | some (id, t, o) =>
      match o.kind with
      | .mstat items =>
        let us := items.flatMap fun p => (destUpd p.2.1 (t.mx.bank p.2.2).word).map fun u => (p.1, u)
        some ((s.landUpds id o.g us).endM id t o)
      | _ => none
    | none => none

/-! ### Current grants (R212, R231, R445) -/

/-- A request for a current grant. -/
inductive GrantReq where
  | chain (op : Nat)
  | bank (b : Nat)
  | copy (op : Nat)

/-- R231, R232, R212: the requests of a team with their places in the order of arrival: an `mbeg` in the queue, an open chain that was
restored, a command over 64 KiB. -/
def Team.grantReqs (t : Team) : List (Nat × GrantReq) :=
  (t.mx.queue.filterMap fun o => match o.kind with
      | .mbeg _ _ _ _ _ _ => if o.granted then none else some (o.asked, .chain o.id)
      | _ => none)
    ++ (t.mx.banks.zipIdx.filterMap fun p => if p.1.openC && !p.1.grant then some (p.1.asked, .bank p.2) else none)
    ++ t.ops.filterMap fun o => match o.kind with
      | .copy c => if c.grant then none else some (c.asked, .copy o.id)
      | _ => none

/-- R445: a request is granted. -/
def Team.giveGrant (t : Team) : GrantReq → Team
  | .chain i => { t with mx := { t.mx with queue := t.mx.queue.map fun (o : MOp) => if o.id = i then { o with granted := true } else o } }
  | .bank b => { t with mx := { t.mx with banks := t.mx.banks.modify b fun (k : Bank) => { k with grant := true } } }
  | .copy i => { t with ops := t.ops.map fun (o : Op) =>
      match o.kind with | .copy c => if o.id = i then { o with kind := .copy { c with grant := true } } else o | _ => o }

/-- R445: the request of a die's teams that arrived first. -/
def State.nextGrant (s : State) (die : Nat) : Option (Nat × GrantReq) :=
  let here := fun (p : Nat × Team) => match p.2.core with | some c => c.die == die | none => false
  let all := (s.teams.filter here).flatMap fun p => p.2.grantReqs.map fun r => (r.1, p.1, r.2)
  (all.foldl (fun (b : Option (Nat × Nat × GrantReq)) x =>
    match b with
    | none => some x
    | some y => if x.1 < y.1 then some x else some y) none).map (·.2)

/-- R445: the power controller of a die grants the request that arrived first; it may lower the core clock, down to 425 MHz. -/
def execCurrentGrant (s : State) : Host.Outcome State Fault Refusal :=
  enabled s <| (s.nextGrant s.ev.die).map fun q =>
    let s' := s.upTeam q.1 (·.giveGrant q.2)
    if s.ev.flag then
      { s' with draws := s.draws + 1,
                dies := s'.dies.modify s.ev.die fun (d : Die) => { d with clock := max 425 (min d.clock (Config.clockStep s.draws)) } }
    else s'

end Sys2Proof.Machine
end

