-- ==== Sys2Proof/Machine/TeamRun.lean ====
section
/-! DEFINITION. Teams that stop, are saved and come back (09_core_faults R249-R268): causes and halts from outside a word,
the end of the drain and its fault message (R252, R257, R367), deschedules, yield debt, cuts, the save engine and the
restore. -/

namespace Sys2Proof.Machine

open Sys2Proof

/-! ### Halts (R250, R251) -/

/-- R212, R251: a running command meets the causes that its rest, or its data, has: it aborts, in its own group, and its lane stands in
the engine record. -/
def State.detectCopy (s : State) (id : Nat) (t : Team) (o : Op) : Option State :=
  match o.kind with
  | .copy c => when_ (s.ev.word != 0 && (s.copyErr id t o c).any fun k => s.ev.word == (cEngine ||| k))
      (s.abortCopy id o c (s.ev.word &&& ~~~cEngine))
  | _ => none

/-- R251: an engine or the kernel unit detects a cause: a copy command what its rest meets, the matrix engine a B load that it refuses
(R234), the kernel unit a budget (R247), in the group that the step names. -/
def execAsyncCause (s : State) : Host.Outcome State Fault Refusal :=
  enabled s <| match s.evTeam with
    | none => none
    | some (id, t) =>
      if t.dead then none
      else if s.ev.word = cBudget then when_ (decide (s.ev.g < t.groups.length)) (s.async id s.ev.g cBudget none)
      else if s.ev.word = cMatrix then
        match s.evM with
        | some (_, _, o) => s.refuseLoad id t o
        | none => none
      else (t.findOp s.ev.id).bind fun o => s.detectCopy id t o

/-- R250: a halt request of the kernel unit: a broadcast with no initiator. -/
def execHaltRequest (s : State) : Host.Outcome State Fault Refusal :=
  enabled s <| match s.evTeam with
    | none => none
    | some (id, t) => when_ t.st.wakes (s.upTeam id fun t => { t.broadcast none [] with faultStop := true })

/-- R250: a group stops after one of 0 to 16 words of skid. -/
def execSkidLimit (s : State) : Host.Outcome State Fault Refusal :=
  enabled s <| match s.evTeam with
    | none => none
    | some (id, t) =>
      match t.groups[s.ev.g]? with
      | none => none
      | some g => when_ (t.st == .halting && !g.halted) (s.upTeam id (·.stopGroup s.ev.g))

/-! ### Cuts (R265) -/

/-- R265: the largest of some steps. -/
def maxStep : List (BitVec 16) → Option (BitVec 16)
  | [] => none
  | a :: r => match maxStep r with
    | none => some a
    | some b => some (if stepPast a b then a else b)

/-- A thread that stands at a yield (R263). -/
def Thread.atYield (t : Thread) : Bool := t.st == .stopped && t.stopKind == 2

/-- The steps at which threads of a team stand. -/
def Team.steps (t : Team) : List (BitVec 16) := (t.allThreads.filter (·.2.2.atYield)).map (·.2.2.step)

/-- The teams of a subtree that are not gone. -/
def State.cutTeams (s : State) (ctx : Nat) : List (Nat × Team) :=
  s.teams.filter fun p => s.inSubtree ctx p.2.ctx && !p.2.dead

/-- R265: the largest step found in a subtree. -/
def State.largestStep (s : State) (ctx : Nat) : Option (BitVec 16) := maxStep ((s.cutTeams ctx).flatMap fun p => p.2.steps)

/-- A cut of a context is pending. -/
def Ctx.cutting (c : Ctx) : Bool := (c.st == .stopping || c.st == .degraded) && c.cut && !c.cutFailed

/-- R265: the cut of a context ends unreached: its teams are saved as in an ordinary deschedule. -/
def State.failCut (s : State) (ctx : Nat) : State :=
  let m := (s.largestStep ctx).getD 0
  let s := { s with ctxs := s.ctxs.upd ctx fun c => { c with cutFailed := true, cutStep := m } }
  (s.cutTeams ctx).foldl (fun s p => s.upTeam p.1 fun t => { t with cut := false }) s

/-- R265: every cut that covers a team ends unreached. -/
def State.failCuts (s : State) (t : Team) : State :=
  let cs := (s.ctxs.filter fun p => p.2.cutting && s.inSubtree p.1 t.ctx).map (·.1)
  cs.foldl State.failCut s

/-- R265 step 2: threads at a step before M go on past their yield, their counts restarted. -/
def Team.goOn (t : Team) (m : BitVec 16) (cycle : Nat) : Team :=
  { t with
    deschedAt := cycle,
    groups := t.groups.map fun g =>
      let late := (g.threads.filter fun p => p.2.atYield && !stepPast p.2.step m).map (·.1)
      late.foldl (fun g l =>
        (g.upThread l fun th => { th with st := .active, stopKind := 0, pc := th.pc + 32, words := 0, block := none }).place l) g }

/-- R265: every thread of a team is Parked, or stands at a yield with a step. -/
def Team.standsAt (t : Team) (m : BitVec 16) : Bool :=
  t.allThreads.all fun q => q.2.2.st == .parked || (q.2.2.atYield && q.2.2.step == m)

/-- R265: the cut of a context is complete: its teams, the Saved ones too, hold M as their cut step, and those that still yield are to be
saved. -/
def State.cutDone (s : State) (ctx : Nat) (m : BitVec 16) : State :=
  (s.cutTeams ctx).foldl (fun s p => s.upTeam p.1 fun t =>
    let t := { t with cut := false, cutStep := m }
    if t.st == .yielding then { t with st := .draining, hold := none, slot := none } else t) s

/-- R265: the subtree's cut has had a round with a largest step. -/
def State.noteRound (s : State) (ctx : Nat) (m : BitVec 16) : State :=
  let sub := s.subtree ctx
  { s with ctxs := s.ctxs.mapv fun k (c : Ctx) => if sub.contains k then { c with cutStep := m, cutRound := true } else c }

/-- R265: one round of a cut. A team whose threads have all stopped for a deschedule counts with the step at which they stand; where that
is not M, they can go on no more. -/
def State.roundOf (s : State) (ctx : Nat) : State :=
  let all := s.cutTeams ctx
  let m := (s.largestStep ctx).getD 0
  let mine := all.filter fun p => p.2.cut && p.2.core.isSome
  let parked := fun (p : Nat × Team) => p.2.allThreads.any fun q => q.2.2.st == .parked
  if mine.all fun p => p.2.standsAt m then
    if all.any parked || !(all.all fun p => p.2.standsAt m) then s.failCut ctx
    else (s.noteRound ctx m).cutDone ctx m
  else if mine.any fun p => p.2.st != .yielding && !p.2.standsAt m then s.failCut ctx
  else
    (mine.filter fun p => p.2.st == .yielding).foldl (fun s p =>
      let cycle := match p.2.core with | some c => (s.core c).cycle | none => 0
      s.upTeam p.1 fun t => t.goOn m cycle) (s.noteRound ctx m)

/-- R265: the threads of a team have stopped, at yields or Parked, and it has not stopped for a cause (R266). -/
def Team.cutReady (t : Team) : Bool :=
  (t.st == .yielding && t.settled) || ((t.st == .draining || t.st == .saving) && !t.faultStop && !t.whole)

/-- R265: a round takes place when every thread of the cut's teams stands at a yield or is Parked or Free; a cut within a
wider one takes that one's rounds. A team that has stopped for a cause is to be saved whole (R266), and the cut is
unreached. -/
def execCutRound (s : State) : Host.Outcome State Fault Refusal :=
  let ctx := s.ev.id
  let here := (s.cutTeams ctx).filter fun p => p.2.cut && p.2.core.isSome
  let wider := s.ctxs.any fun p => p.1 != ctx && p.2.cutting && s.inSubtree p.1 ctx
  enabled s <| match s.ctxs.look ctx with
    | none => none
    | some c =>
      if !c.cutting || wider || here.isEmpty then none
      else if here.any fun p => p.2.st != .yielding && !p.2.cutReady then some (s.failCut ctx)
      else when_ (here.all fun p => p.2.cutReady) (s.roundOf ctx)

/-! ### Deschedules and yield debt (R260, R261) -/

/-- R260: the kernel unit requests a deschedule of a team's cluster. -/
def execDescheduleRequest (s : State) : Host.Outcome State Fault Refusal :=
  enabled s <| match s.evTeam with
    | none => none
    | some (id, t) => when_ (!t.dead) (s.deschedule id false)

/-- R261: the debt halt: no initiator and no HALT; YIELDDEBT where a thread has not reached a yield. One that has executed its `yield` and
waits for its flags counts as at it, which is the model's choice (log 176). -/
def Team.debt (t : Team) : Team :=
  let t := t.broadcast none (List.range t.groups.length)
  { t with
    whole := true, cut := false,
    groups := t.groups.map fun g =>
      let runs := g.threads.any fun p => p.2.st == .active && (match p.2.await with | some (.yield _ _ _ _ _) => false | _ => true)
      if runs then { g with cause := g.cause ||| cYieldDebt } else g }

def execYieldDebt (s : State) : Host.Outcome State Fault Refusal :=
  enabled s <| match s.evTeam with
    | none => none
    | some (id, t) => when_ (s.inDebt t (s.core s.ev.core).cycle) ((s.failCuts t).upTeam id Team.debt)

/-! ### The end of the drain (R252, R253, R257, R367) -/

/-- R252: nothing of the team is in flight. -/
def Team.drained (t : Team) : Bool :=
  t.ops.isEmpty && t.pend.isEmpty && t.mx.queue.isEmpty && !t.refill && (t.allThreads.all fun p => p.2.2.await.isNone)
    && (match t.steal with | some q => q.frame.isNone | none => true)

/-- The OR of %cause over the groups. -/
def Team.causes (t : Team) : Word := orAll (t.groups.map (·.cause))

/-- R257: a team fault's words from 1 to 3. -/
def Team.faultWords (t : Team) : List Word :=
  [t.causes, BitVec.ofNat 32 (boolsNat (t.groups.map fun g => anyBit g.cause stoppingMask)), BitVec.ofNat 32 t.initiators]

/-- R367: the precise PAGE or PROT that a kind-2 message tells: in the lowest initiator group that raised one, else in the
lowest group, its lowest lane. -/
def Team.firstFault (t : Team) : Option PageFault :=
  let byInit := t.faults.filter fun f => match t.groups[f.g]? with | some g => g.initiator | none => false
  let l := if byInit.isEmpty then t.faults else byInit
  l.foldl (fun (b : Option PageFault) f =>
    match b with
    | none => some f
    | some y => if f.g < y.g ∨ (f.g = y.g ∧ f.lane < y.lane) then some f else some y) none

/-- R367: the level that a kind-2 message names, when the stop is of that kind. -/
def Team.pageStop (t : Team) : Option PageFault :=
  let stops := t.causes &&& stoppingMask
  if anyBit stops (cPage ||| cProt) && (stops &&& ~~~(cPage ||| cProt ||| cHalt)) == 0 && !t.pageAsync then
    match t.firstFault with
    | none => none
    | some f => if t.faults.all fun y => y.level == f.level then some f else none
  else none

/-- R257, R367: the fault message of a stop, and the context it goes to. -/
def State.faultMsg (s : State) (id : Nat) (t : Team) : Msg × Nat :=
  let base : Msg :=
    { words := [], q0 := s.capOf pIV id, q1 := Cap.zero, ans := none, prio := s.prioOf t, seq := 0, ctx := t.ctx,
      born := 0, space := s.spaceOf t.ctx, sgen := 0, kernel := true, kind := 1, src := id, pasid := 0, gates := [], slot := 0 }
  match t.pageStop with
  | some f =>
    let owner := match s.spaces.look f.space with | some x => x.owner | none => t.ctx
    ({ base with
        kind := 2, q1 := s.capOf pIV f.space,
        words := [2] ++ t.faultWords ++ [BitVec.ofNat 32 f.addr, BitVec.ofNat 32 (f.addr / 2 ^ 32), 0,
          BitVec.ofNat 32 (f.kind + 16 * f.level)] }, owner)
  | none =>
    ({ base with words := [1] ++ t.faultWords ++ [BitVec.ofNat 32 t.idx, BitVec.ofNat 32 t.cluster, 0, 0] }, t.ctx)

/-- R368: a message still in its course ends, so that the team has one at most. -/
def State.withdrawCourse (s : State) (id : Nat) (t : Team) : State :=
  let s := s.mapEps fun e => { e with kq := e.kq.filter fun m => !((m.kind == 1 || m.kind == 2) && m.src == id) }
  match t.message with
  | none => s
  | some a => (s.dropAnswer a).upTeam id fun t => { t with message := none }

/-- R252, R396: the stop completes: with a stopping cause the team is Stopped, its Open sessions are Void and its fault
message goes out; without one its save begins. With a deschedule pending the Stopped team is at once to be saved whole (R253, R266). -/
def State.stopDone (s : State) (id : Nat) (t : Team) : State :=
  if t.hasStopping then
    let s := s.upTeam id fun t =>
      if t.desched then { t with st := .saving, whole := true, steal := none } else { t with st := .stopped, steal := none }
    let s := s.voidSessions (fun x => x.team == id && x.st == .opened) 1 t.causes.toNat
    let s := s.withdrawCourse id t
    let (m, ctx) := s.faultMsg id t
    s.sendFault (some id) m (s.ctxs.length + 1) ctx
  else s.upTeam id fun t => { t with st := .saving, steal := none }

def execStopComplete (s : State) : Host.Outcome State Fault Refusal :=
  enabled s <| match s.evTeam with
    | none => none
    | some (id, t) => when_ (t.st == .draining && t.drained && !t.dead) (s.stopDone id t)

/-! ### The save (R263, R264) -/

/-- R263: a thread as a yield-point save leaves it. -/
def Thread.saved (t : Thread) (draw : Nat) : Thread :=
  match t.atYield, t.block with
  | true, some b => t.spend draw b
  | _, _ => { t.lose with oval := List.replicate 16 false }

/-- Some thread of the group is saved whole. -/
def Group.anyWhole (g : Group) : Bool := g.threads.any fun p => !p.2.atYield

/-- R263: a group as a yield-point save leaves it. -/
def Group.saved (g : Group) (draw : Nat) : Group :=
  let bs := g.blocks
  let live := fun (bit : Nat) => g.anyWhole || bs.any fun b => b.2.2.getLsbD bit
  ((g.mapThreads fun l t => t.saved (draw + 1024 + 128 * l)).spend draw live)

/-- R232, R244: the matrix engine as a save keeps it: macros, open banks, and every bank's status word bit for bit, with the
formats, mode and anchor of a closed chain that it shows. The issue view, which R232 does not list, is built from what is kept: a poisoned
macro shows the format of its last load that was not refused, which is the model's choice (log 173). -/
def Matrix.saved (m : Matrix) : Matrix :=
  let banks := m.banks.map fun (b : Bank) =>
    if b.openC then { b with grant := false }
    else { b with grant := false, entries := [], count := 0 }
  { m with
    banks := banks, queue := [], viewFmt := m.macros.map (·.fmt),
    viewBank := banks.map fun (b : Bank) => ⟨b.openC, b.afmt, b.bfmt, b.ofmt, b.ea, b.count⟩ }

/-- R263, R264: a team as its save leaves it. -/
def Team.saved (t : Team) (draw : Nat) : Team :=
  let whole := t.whole || t.st == .stopped
  let all := whole || t.groups.any Group.anyWhole
  let bs := t.groups.flatMap Group.blocks
  let live := fun (i : Nat) => all || bs.any fun b => liveGranule b i
  { t with
    st := .saved, core := none, desched := false, cut := false, whole := whole, owner := [], named := [], ties := [], pend := [],
    mx := t.mx.saved, hold := none, slot := none, steal := none,
    sp := t.sp.filter fun c => live (c.1 / 1024), spTags := t.spTags.filter fun k => live (k / 64),
    groups := if whole then t.groups else t.groups.zipIdx.map fun p => p.1.saved (draw + 16384 * p.2) }

/-- R260: the team, or a team of its cluster, is ready to be saved or is saved. -/
def Team.saves (t : Team) : Bool := t.core.isNone || t.st == .saving || (t.st == .stopped && t.desched)

/-- R268: a thread that a save takes out of an endpoint's queue is to execute its word again. -/
def Thread.leavesLine (th : Thread) : Thread :=
  match th.park with
  | some p => if p.kind = 9 ∨ p.kind = 10 ∨ p.kind = 11 then { th with park := some { p with redo := true } } else th
  | none => th

/-- R263, R265, R266, R268: the save engine writes a team, whose threads leave the endpoints' queues; its core becomes free. -/
def State.save (s : State) (id : Nat) (t : Team) : State :=
  let s := if t.cut && (t.whole || t.faultStop || t.groups.any Group.anyWhole) then s.failCuts t else s
  let s := s.mapEps fun e => { e with takers := e.takers.filter (·.team != id), posters := e.posters.filter (·.team != id) }
  let s := s.upTeam id fun t => { t with groups := t.groups.map (·.mapThreads fun _ th => th.leavesLine) }
  let s := s.leaveCore t
  ({ s with draws := s.draws + 2 ^ 19 }.upTeam id fun t => t.saved s.draws).count t.ctx 7

/-- R260, R264: every team of the cluster has come to rest before one is saved. -/
def execTeamSave (s : State) : Host.Outcome State Fault Refusal :=
  enabled s <| match s.evTeam with
    | none => none
    | some (id, t) =>
      let rest := (t.cluster_ id).all fun m => match s.teams.look m with | some u => u.saves | none => true
      when_ ((t.st == .saving || (t.st == .stopped && t.desched)) && rest && !t.dead) (s.save id t)

/-! ### Capabilities of a team under a filter (R373, R374) -/

/-- A capability loses its tag where a filter covers it. -/
def Cap.clean (p : Cap → Bool) (c : Cap) : Cap := if c.tag && p c then c.untag else c

/-- The capabilities of a thread. -/
def Thread.clean (p : Cap → Bool) (t : Thread) : Thread :=
  { t with
    vtag := t.vtag.zipIdx.map fun q => q.1 && !p (t.quad q.2), want := t.want.map (Cap.clean p),
    backed := t.backed.map (Cap.clean p), park := t.park.map fun k => { k with cap := k.cap.clean p },
    await := t.await.map fun a => match a with | .tend c sc => .tend (c.map (Cap.clean p)) sc | a => a }

/-- The capabilities of a frame. -/
def Frame.clean (p : Cap → Bool) (f : Frame) : Frame := { f with code := f.code.clean p, data := f.data.clean p, join := f.join.clean p }

/-- The capabilities of a group. -/
def Group.clean (p : Cap → Bool) (g : Group) : Group :=
  { g with
    threads := g.threads.mapv fun _ t => t.clean p, k := g.k.map (Cap.clean p), pcc := g.pcc.map (Option.map (Cap.clean p)),
    g := g.g.map fun (c : Conv) => { c with sig := c.sig.map fun (y : Signature) => { y with cap := y.cap.clean p } } }

/-- The capability of a granule of a scratchpad. -/
def Team.spCap (t : Team) (k : Nat) : Cap := ⟨BitVec.ofNat 128 (Memory.num t.sp (16 * k) 16), true⟩

/-- R373, R374 step 2: the capabilities that a core holds for a team. -/
def Team.clean (p : Cap → Bool) (t : Team) : Team :=
  { t with
    groups := t.groups.map (Group.clean p), deque := t.deque.map (Frame.clean p), ring := t.ring.clean p,
    doneCap := t.doneCap.map (Cap.clean p), spTags := t.spTags.filter fun k => !p (t.spCap k),
    steal := t.steal.map fun (q : Steal) => { q with frame := q.frame.map (Frame.clean p) } }

/-! ### The restore (R267, R268, R282, R384) -/

/-- R282, R361, R444: a core that a team of a context may take. -/
def State.coreFree (s : State) (ctx sched : Nat) (groups : Nat) (carve : Word) (c : CoreId) : Bool :=
  let k := s.core c
  (s.csetOf ctx).holds c && k.team.isNone && !k.retiring && !k.gated && carveOk c groups carve
    && s.chainAllows k (s.scheds.length + 1) sched

/-- R282: a rectangle with its north-west core on a die, whose cores may all be taken. -/
def State.rectFree (s : State) (ctx sched groups : Nat) (carve : Word) (nw : CoreId) (w h : Nat) : Bool :=
  let x0 := nw.pos % meshW nw.die
  let y0 := nw.pos / meshW nw.die
  rectFits nw.die x0 y0 w h && (rectCores nw.die x0 y0 w h).all (s.coreFree ctx sched groups carve)

/-- Core i of a rectangle. -/
def rectCore (nw : CoreId) (w h i : Nat) : CoreId :=
  (rectCores nw.die (nw.pos % meshW nw.die) (nw.pos / meshW nw.die) w h).getD i nw

/-- R384, R184: a core takes a world and a team; its L1 gives up every line where the world changes. -/
def State.claim (s : State) (c : CoreId) (world id : Nat) : State :=
  let s := if (s.core c).world = world then s else s.upCoh (·.emptyL1 c)
  s.upCore c fun k => { k with world := world, team := some id }

/-- The carve word of a team (R205). -/
def Team.carve (t : Team) : Word := BitVec.ofNat 32 (t.nreg + 256 * t.mrf + 4096 * t.spad)

/-- R267: a thread as it comes back; one at a yield goes on past it. Its flags are clear; the flag that a signature it has given names
is cleared again as the `mma` ends, though a later word may have set it: the model's choice (log 174). -/
def Thread.restored (whole : Bool) (t : Thread) : Thread :=
  let t := { t with held := t.v ++ t.o ++ t.b.map (·.val) ++ t.x.map (·.zeroExtend 32) ++ [t.fps], last := none,
                    f := List.replicate 12 false, b := t.b.map fun (l : Latch) => { l with ready := 0 } }
  if t.atYield && !whole then { t with pc := t.pc + 32, stopKind := 1, block := none } else t

/-- R161, R267: a team as it stands on its new core, before its words run. -/
def Team.restored (t : Team) (c : CoreId) (cycle w : Nat) : Team :=
  let groups := t.groups.zipIdx.map fun p =>
    { (p.1.mapThreads fun _ th => th.restored t.whole) with age := p.2, cause := p.1.cause ||| cPreempt, crowd := 0 }
  let occupied := fun (sl : Nat) => match groups[sl / w]? with | some g => (g.threads.look (sl % w)).isSome | none => true
  { t with
    core := some c, groups := groups, ageCtr := groups.length, sfuBusy := 0, memBusy := 0, placedAt := cycle, idleAt := none, freed := [],
    searched := false, steal := none, lastG := none, run := 0, contended := false,
    free := (List.range (groups.length * w)).filter fun sl => !occupied sl,
    refill := t.deque.isEmpty && decide (0 < t.ringCount) }

/-- R253, R258, R267: the restored team runs, or stands Stopped while a stopping cause is set. -/
def Team.wakeUp (t : Team) (w : Nat) : Team :=
  if t.hasStopping then { t with st := .stopped } else { t.resume w with whole := false, free := t.free }

/-- A thread Parked in a message word whose endpoint is gone stands at that word again; while its team does not run it is
Stopped. -/
def State.wakeAtWord (s : State) (id g lane : Nat) : State :=
  match s.teams.look id with
  | none => s
  | some t => s.upGroup id g fun gr =>
      (gr.upThread lane fun th =>
        { th with st := if t.st.wakes then .active else .stopped, stopKind := 1, park := none,
                  half := (th.park.map (·.kind)) == some 9,
                  f := match th.park.bind (·.sf) with | some n => th.f.set n.val false | none => th.f }).place lane

/-- R267: the teams of a cluster that are to come back. -/
def State.clusterTeams (s : State) (ctx launch n : Nat) : List (Nat × Team) :=
  s.teams.filter fun p => p.2.ctx == ctx && p.2.launch == launch && p.2.cluster == n && !p.2.dead

/-- R232, R445: the open chains of a restored team ask for their grants again. -/
def Team.asksAgain (t : Team) (n : Nat) : Team :=
  { t with mx := { t.mx with banks := t.mx.banks.mapIdx fun j (b : Bank) => { b with asked := n + j } } }

/-- R267, R268: one team comes back on its core. -/
def State.restore (s : State) (id : Nat) (t : Team) (c : CoreId) : State :=
  let s := s.claim c t.world id
  let u := (((t.restored c (s.core c).cycle (widthOf c)).clean (s.covered t.ctx)).wakeUp (widthOf c)).asksAgain s.asks
  let s : State := { s with asks := s.asks + t.mx.banks.length }
  (s.upTeam id fun _ => u).count t.ctx 7

/-- R267, R282, R384: the saved teams of a cluster come back together, on cores of their W (R16); where the keys of their world have been
destroyed since they started they never do, though its slot be armed again (R386). On a die that the INV of an external write is still to
reach no team comes back, so that none reads older bytes than it has read (R325). -/
def execTeamRestore (s : State) : Host.Outcome State Fault Refusal :=
  let ts := s.clusterTeams s.ev.id s.ev.m s.ev.n
  let nw := s.ev.core2
  enabled s <| match ts.head? with
    | none => none
    | some (_, t) =>
      let runs := match s.ctxs.look t.ctx with | some c => c.st == .runnable | none => false
      if !runs || !s.worldOk t.world || (s.slotOf t.world).epoch != t.epoch || !(ts.all fun p => p.2.st == .saved)
          || !(ts.all fun p => p.2.w == widthOf nw) || (s.coh.stale.any fun p => p.1 % 10 == nw.die)
          || !s.rectFree t.ctx t.sched t.groups.length t.carve nw t.cw t.ch
          || !(ts.all fun p => carveOk (rectCore nw t.cw t.ch p.2.idx) p.2.groups.length p.2.carve) then none
      else
        let s := ts.foldl (fun s p => s.restore p.1 p.2 (rectCore nw t.cw t.ch p.2.idx)) s
        let s := ts.foldl (fun s p => match s.teams.look p.1 with
          | some u => if u.st == .running then s.landHeld p.1 else s
          | none => s) s
        some s.serveAll

end Sys2Proof.Machine
end

