-- ==== Sys2Proof/Machine/LaunchRun.lean ====
section
/-! DEFINITION. The distributor (11_cluster_grid_tasks R278-R284; 15_package_kernel R343, R361, R362; 16 R384, R388):
launches accepted, ready and placed, teams that complete, budgets and claims. -/

namespace Sys2Proof.Machine

open Sys2Proof

/-! ### Acceptance and readiness (R280, R281, R388) -/

/-- R280: where a launch's done word lies, when its update passes R142. -/
def State.doneLoc (s : State) (l : Launch) : Option Loc :=
  match l.done with
  | none => none
  | some c => match s.partAccess l.ctx 0 c (pLD ||| pST) 8 (needA .evpub) with | .error _ => none | .ok loc => some loc

/-- R280: the done word gets the target and a count of 0, its generation unchanged. -/
def State.armDone (s : State) (l : Launch) : State :=
  match s.doneLoc l with
  | none => s
  | some loc =>
    match s.readLoc 0 loc 8 0 with
    | .error _ => s
    | .ok bs => s.writeLoc 0 loc (numBytes (arrWord (arrGen (wordOfBytes bs)) l.doneTarget 0) 8) false

/-- R326: an update of the done word may perform now. -/
def State.doneMay (s : State) (l : Option Loc) : Bool := match l with | some loc => s.partMay loc 8 | none => true

/-- R388: a launch whose code was measured before in the context changes nothing; another extends M. -/
def Ctx.measure (c : Ctx) (l : Launch) : Ctx :=
  match l.digest with
  | none => c
  | some e =>
    if c.measured.contains l.code.code.bits then c
    else { c with meas := sha384 (c.meas ++ e), events := c.events + 1, measured := l.code.code.bits :: c.measured }

/-- R280: the `launch` that submitted an accepted record ends in its lane. -/
def State.endLaunch (s : State) (id : Nat) : State :=
  s.teams.foldl (fun s p =>
    match p.2.ops.find? fun o => match o.kind with | .launch ids => ids.contains id | _ => false with
    | some o => s.upTeam p.1 (·.endOp o)
    | none => s) s

/-- R280: a checked and measured launch is accepted, and its done word set. -/
def execLaunchAcceptance (s : State) : Host.Outcome State Fault Refusal :=
  enabled s <| match s.launches.look s.ev.id with
    | none => none
    | some l =>
      if l.accepted || !s.doneMay (s.doneLoc l) then none
      else
        let s := s.armDone l
        let s := { s with ctxs := s.ctxs.upd l.ctx fun c => c.measure l,
                          launches := s.launches.put s.ev.id { l with accepted := true, turn := s.accepted },
                          accepted := s.accepted + 1 }
        some (s.endLaunch s.ev.id)

/-- R281: where a wait slot's word lies, if its generation is reached there now; or what its read meets. -/
def State.waitAt (s : State) (l : Launch) (w : (Cap × Nat) × Nat) : Except MErr (Option Loc) :=
  match s.partAccess l.ctx 0 w.1.1 pLD 8 { needR with nr := true } with
  | .error e => .error e
  | .ok loc => match s.readLoc 0 loc 8 (16 * w.2) with
    | .error e => .error (errOf e)
    | .ok bs => .ok (if genReached (wordOfBytes bs) (BitVec.ofNat 32 w.1.2) then some loc else none)

/-- R281, R328: the distributor's read of the words that a launch waited for, with acquire at system scope. -/
def launchEvent (id : Nat) (locs : List Loc) : Ev :=
  { Agent.part.event (locs.map fun k => ⟨0, k, 8, false⟩) with op := { Op.none with acq := true }, launch := some id }

/-- R281, R322, R327: the distributor has found every generation reached. Its reads are acquires: they wait for the INVs of
the earlier writes of the connections that they read, and the accesses of the launch's teams follow those writes. -/
def State.readyLaunch (s : State) (id : Nat) (l : Launch) (locs : List Loc) : Option State :=
  let x := launchEvent id locs
  let reads := (s.extReads 9 x).dedup
  if reads.any (fun r => s.coh.invPending 9 r.1 r.2) || !s.allowed 9 false x then none
  else
    let s := locs.foldl (fun s k => (s.partRead k 8).askHost k 8) (s.noteEv 9 false x)
    some { s with draws := s.draws + 2048,
                  launches := s.launches.put id { l with ready := true, gates := reads.map fun r => .ext r.1 r.2 } }

/-- R281: the distributor reads the awaited words, and finds every generation reached; a launch that has become ready stays ready.
A read that fails leaves its slot unmet; one of a host page waits for its translation (R424). -/
def execLaunchReady (s : State) : Host.Outcome State Fault Refusal :=
  enabled s <| match s.launches.look s.ev.id with
    | none => none
    | some l =>
      if !l.accepted || l.ready then none
      else
        match l.waits.zipIdx.mapM (s.waitAt l) with
        | .error e => if e.waits then some (s.waitHost e) else e.host.map fun k => s.dropRefused (some k)
        | .ok locs => (locs.mapM id).bind (s.readyLaunch s.ev.id l)

/-! ### Save slots (R343, R384) -/

/-- R384: memory that a save slot of a world may take. -/
def State.slotMode (s : State) (world pa size : Nat) : Bool :=
  world == 0 || (List.range' (pa / 65536) ((pa + size - 1) / 65536 - pa / 65536 + 1)).all fun b => s.modeOf (65536 * b) != 0

/-- R343: a save slot from the context's pool, or a new one from its reserve. -/
def State.takeSlot (s : State) (ctx world size : Nat) : Option (Nat × State) :=
  match s.ctxs.look ctx with
  | none => none
  | some c =>
    match c.slots.find? fun (x : SaveSlot) => !x.busy && decide (size ≤ x.size) && s.slotMode world x.pa x.size with
    | some y =>
      let used : Ctx := { c with slots := c.slots.map fun (x : SaveSlot) => if x.pa = y.pa then { x with busy := true } else x }
      some (y.pa, { s with ctxs := s.ctxs.put ctx used })
    | none =>
      match s.takeUnits c.reserve (size / 4096) 1 with
      | none => none
      | some (pa, s) =>
        if s.slotMode world pa size then
          let more : Ctx := { c with slots := c.slots ++ [⟨pa, size, true⟩] }
          some (pa, { s with ctxs := s.ctxs.put ctx more })
        else none

/-- Save slots for the teams of a cluster. -/
def State.takeSlots (s : State) (ctx world size : Nat) : Nat → Option (List Nat × State)
  | 0 => some ([], s)
  | n + 1 =>
    match s.takeSlot ctx world size with
    | none => none
    | some (pa, s) => (s.takeSlots ctx world size n).map fun p => (pa :: p.1, p.2)

/-- Team objects for a cluster (R341). -/
def State.newTeams (s : State) : Nat → Option (List Nat × State)
  | 0 => some ([], s)
  | n + 1 =>
    match s.newObj 12 none with
    | none => none
    | some (i, s) => (s.newTeams n).map fun p => (i :: p.1, p.2)

/-- R343: the bytes of a save slot under a carve. -/
def slotSize (carve : Word) : Nat := 65536 * (carve.toNat / 256 % 16 + carve.toNat / 4096 % 64 + 1)

/-- What the teams of a cluster need before they start: their objects and save slots. -/
def State.provide (s : State) (l : Launch) : Option (List Nat × List Nat × State) :=
  match s.newTeams (l.cw * l.ch) with
  | none => none
  | some (ids, s) => (s.takeSlots l.ctx l.world (slotSize l.carve) (l.cw * l.ch)).map fun p => (ids, p.1, p.2)

/-! ### Team start (R278, R175) -/

/-- R278: the permissions of a scratchpad capability. -/
def pSpad : BitVec 16 := pLD ||| pST ||| pLDC ||| pSTC ||| pSTL

/-- R278: the registers of a group at team start, and its threads at the entry point. -/
def Launch.group (l : Launch) (n i w g : Nat) : Group :=
  let pc := l.code.addr + BitVec.ofNat 64 l.entry
  let code := l.code.move pc
  let k0 := (Cap.exact pSpad 1 0 (65536 * (l.carve.toNat / 4096 % 64))).getD Cap.zero
  let k2 := ((Cap.exact pSpad 2 0 (l.cw * l.ch * 2 ^ 22)).getD Cap.zero).move (BitVec.ofNat 64 (i * 2 ^ 22))
  let b : Group := Group.fresh g
  { b with
    threads := (List.range w).map fun lane => (lane, { Thread.fresh (l.carve.toNat % 256) pc 0 with gates := l.gates }),
    k := (((b.k.set 0 k0).set 1 l.arg).set 2 k2).set 3 code,
    s := (((b.s.set 0 (BitVec.ofNat 32 i)).set 1 (BitVec.ofNat 32 (n % l.gx + 65536 * (n / l.gx)))).set 2
      (BitVec.ofNat 32 n)).set 3 (BitVec.ofNat 32 (l.gx + 65536 * l.gy)),
    pcc := b.pcc.set 0 (some code.code),
    pct := b.pct.set 0 (some ⟨0, pc, List.range w, 0⟩) }

/-- R278: team i of cluster n, on a core. -/
def Launch.team (l : Launch) (n i : Nat) (ids : List Nat) (c : CoreId) (cycle slot : Nat) : Team :=
  { Team.fresh c l.ctx (l.carve.toNat % 256) (l.carve.toNat / 256 % 16) (l.carve.toNat / 4096 % 64) l.groups with
    launch := l.id, cluster := n, idx := i, cx := n % l.gx, cy := n / l.gx, gx := l.gx, gy := l.gy, cw := l.cw, ch := l.ch,
    sched := l.sched, world := l.world, mates := ids, ring := l.ring, ringBytes := l.ringBytes, doneCap := l.done,
    slotPa := slot, placedAt := cycle, groups := (List.range l.groups).map (l.group n i (widthOf c)) }

/-- R278, R373, R384: the teams of a cluster start on the cores of a rectangle. -/
def State.startTeams (s : State) (l : Launch) (nw : CoreId) (ids pas : List Nat) : State :=
  (ids.zip pas).zipIdx.foldl (fun s p =>
    let c := rectCore nw l.cw l.ch p.2
    let s := s.claim c l.world p.1.1
    let t := (l.team l.placed p.2 ids c (s.core c).cycle p.1.2).clean (s.covered l.ctx)
    { s with teams := s.teams.put p.1.1 { t with epoch := (s.slotOf l.world).epoch } }) s

/-! ### Placement (R282, R283) -/

/-- The launch has clusters to place, and its context runs. -/
def State.waiting (s : State) (l : Launch) : Bool :=
  l.ready && decide (l.placed < l.gx * l.gy) && (match s.ctxs.look l.ctx with | some c => c.st == .runnable | none => false)

/-- R282: a rectangle for the launch's next cluster. -/
def State.fitsAt (s : State) (l : Launch) (nw : CoreId) : Bool := s.rectFree l.ctx l.sched l.groups l.carve nw l.cw l.ch

/-- R282, R343, R384: the launch's next cluster can be placed now. -/
def State.placeable (s : State) (l : Launch) : Bool :=
  s.waiting l && s.worldOk l.world && (s.provide l).isSome &&
    (List.range 10).any fun d => (List.range (meshW d * meshH d)).any fun p => s.fitsAt l ⟨d, p⟩

/-- The priority of a launch (R283). -/
def State.launchPrio (s : State) (l : Launch) : Nat := match s.scheds.look l.sched with | some x => x.prio | none => 0

/-- R283: whose turn comes first: of launches of one priority, taken in their order of acceptance, the next after the one that
last had its turn; 0 for those behind it and 1 for the others. -/
def State.lap (s : State) (l : Launch) : Nat :=
  match s.turns.look (s.launchPrio l) with
  | some n => if n < l.turn then 0 else 1
  | none => 0

/-- R283: launch `a` is served before launch `b`. -/
def State.servedFirst (s : State) (a b : Launch) : Bool :=
  let p := s.launchPrio a
  let q := s.launchPrio b
  decide (p < q) || (p == q && (decide (s.lap a < s.lap b) || (s.lap a == s.lap b && decide (a.turn < b.turn))))

/-- R282, R283, R384: a cluster is placed on a rectangle; launches before it that find none pass their turns; a launch whose key
slot is not Armed has its unplaced clusters dropped. -/
def execClusterPlacement (s : State) : Host.Outcome State Fault Refusal :=
  enabled s <| match s.launches.look s.ev.id with
    | none => none
    | some l =>
      if !s.waiting l then none
      else if !s.worldOk l.world then some { s with launches := s.launches.del s.ev.id }
      else if !s.fitsAt l s.ev.core2 || s.launches.any fun p => s.servedFirst p.2 l && s.placeable p.2 then none
      else
        match s.provide l with
        | none => none
        | some (ids, pas, s') =>
          let turns := s.turns.put (s.launchPrio l) l.turn
          let s := s'.startTeams l s.ev.core2 ids pas
          let l' : Launch := { l with placed := l.placed + 1 }
          some { s with turns := turns, launches := if l.placed + 1 = l.gx * l.gy then s.launches.del l.id else s.launches.put l.id l' }

/-! ### Completion (R284) -/

/-- R284: a team has nothing left to run or to wait for. -/
def State.completes (s : State) (t : Team) : Bool :=
  t.st == .running && t.allThreads.isEmpty && t.deque.isEmpty && t.ringCount == 0 && !t.refill && t.steal.isNone
    && t.ops.isEmpty && t.pend.isEmpty && t.mx.queue.isEmpty && t.searched
    && !(s.teams.any fun p => p.2.launch == t.launch && (match p.2.steal with | some q => q.frame.isSome | none => false))

/-- R284: the part adds 1 to an event word of an address space; an update that fails a step of R142 is not made. -/
def State.publishIn (s : State) (space : Nat) (hit : Bool) (c : Cap) : State :=
  match s.partAccessIn space 0 hit c (pLD ||| pST) 8 (needA .evpub) with
  | .error _ => s
  | .ok loc =>
    match s.modify none 0 .evpub ⟨0, loc, 8, c.addr.toNat, 1, 0, false, Cap.zero, 0⟩ with
    | .error _ => s
    | .ok (_, s) => s

/-- R326: the part's update of an event word of an address space may perform now, or it is not made. -/
def State.publishMay (s : State) (space : Nat) (hit : Bool) (c : Cap) : Bool :=
  match s.partAccessIn space 0 hit c (pLD ||| pST) 8 (needA .evpub) with | .error _ => true | .ok loc => s.partMay loc 8

/-- R284: the done word of a context's launch. -/
def State.publish (s : State) (ctx : Nat) (c : Cap) : State := s.publishIn (s.spaceOf ctx) (s.covered ctx c) c

/-- R351: the answer capabilities that a completed team's threads held count for their context. -/
def State.passHolders (s : State) (id ctx : Nat) : State :=
  { s with answers := s.answers.mapv fun _ (a : Answer) =>
      match a.holder with
      | some (t, _, _) => if t = id then { a with holder := some (pastTeam ctx, 0, 0) } else a
      | none => a }

/-- R284, R343, R396: a team completes and its core becomes free. -/
def State.completeTeam (s : State) (id : Nat) (t : Team) : State :=
  let s := match t.doneCap with | some c => s.publish t.ctx c | none => s
  let s := s.voidSessions (fun x => x.team == id && x.st == .opened) 2 0
  let s := (s.withdrawCourse id t).passHolders id t.ctx
  let s := (s.freeSlot t.ctx t.slotPa).leaveCore t
  ({ s with teams := s.teams.del id }.dropObj id).dropMate id

def execTeamCompletion (s : State) : Host.Outcome State Fault Refusal :=
  enabled s <| match s.evTeam with
    | none => none
    | some (id, t) =>
      let may := match t.doneCap with | some c => s.publishMay (s.spaceOf t.ctx) (s.covered t.ctx c) c | none => true
      when_ (s.completes t && !t.dead && may) (s.completeTeam id t)

/-! ### Budgets and claims (R361, R362) -/

/-- R360, R361: a core begins a new window, with the shares as they then stand; what was charged past an allowance reduces the
next. -/
def execBudgetWindow (s : State) : Host.Outcome State Fault Refusal :=
  let k := s.core s.ev.core
  let n := k.cycle / windowCycles
  let over_ := fun (x : Nat) (y : Sched) => s.charge k x (s.scheds.length + 1) + (k.debt.look x).getD 0 - 16 * (k.shares.look x).getD y.share
  let debt := (s.scheds.map fun p => (p.1, over_ p.1 p.2)).filter fun p => p.2 != 0
  enabled s (when_ (decide (k.window < n)) (s.upCore s.ev.core fun k => { k with window := n, charged := [], debt := debt, shares := [] }))

/-- R361: a scheduling context of the resident team's chain has reached its allowance. -/
def execAllowanceReached (s : State) : Host.Outcome State Fault Refusal :=
  enabled s <| match s.evTeam with
    | none => none
    | some (id, t) => when_ (s.spentSched (s.core s.ev.core) t == some s.ev.id) (s.deschedule id false)

/-- What claims a core (R362): a ready cluster of a launch, or a saved one. -/
structure Claimant where
  ctx : Nat
  sched : Nat
  launch : Nat
  groups : Nat
  carve : Word
  placeable : Bool

/-- R362: the claimant that a step names: a launch, or with `flag` the cluster of a saved team. -/
def State.claimant (s : State) : Option Claimant :=
  if s.ev.flag then
    match s.teams.look s.ev.id with
    | some t =>
      let runs := match s.ctxs.look t.ctx with | some c => c.st == .runnable | none => false
      let free := (List.range 10).any fun d =>
        (List.range (meshW d * meshH d)).any fun p => s.rectFree t.ctx t.sched t.groups.length t.carve ⟨d, p⟩ t.cw t.ch
      if t.st == .saved && !t.dead && runs && s.worldOk t.world && (s.slotOf t.world).epoch == t.epoch then
        some ⟨t.ctx, t.sched, t.launch, t.groups.length, t.carve, free⟩
      else none
    | none => none
  else
    match s.launches.look s.ev.id with
    | some l => if s.waiting l && s.worldOk l.world then some ⟨l.ctx, l.sched, l.id, l.groups, l.carve, s.placeable l⟩ else none
    | none => none

/-- The priority of a scheduling context. -/
def State.schedPrio (s : State) (x : Nat) : Nat := match s.scheds.look x with | some y => y.prio | none => 0

/-- R362: a claimant may take a core but for the team on it. -/
def State.canTake (s : State) (k : Claimant) (c : CoreId) : Bool :=
  (s.csetOf k.ctx).holds c && !(s.core c).retiring && carveOk c k.groups k.carve
    && s.chainAllows (s.core c) (s.scheds.length + 1) k.sched

/-- R362: a more urgent claimant takes the core of a team of numerically greater priority, or of one descheduled for its
budget. -/
def execPriorityClaim (s : State) : Host.Outcome State Fault Refusal :=
  enabled s <| match s.evTeam, s.claimant with
    | some (id, t), some k =>
      let spent := t.desched && !s.chainAllows (s.core s.ev.core) (s.scheds.length + 1) t.sched
      when_ (s.canTake k s.ev.core && !t.dead && (decide (s.schedPrio k.sched < s.prioOf t) || spent)) (s.deschedule id false)
    | _, _ => none

/-- R362: a team has held a core for 2^17 cycles while a ready cluster of another launch of its priority needs it. -/
def execEqualPriorityHoldLimit (s : State) : Host.Outcome State Fault Refusal :=
  enabled s <| match s.evTeam, s.claimant with
    | some (id, t), some k =>
      when_ (s.canTake k s.ev.core && !t.dead && k.launch != t.launch && s.schedPrio k.sched == s.prioOf t && !k.placeable
          && decide (t.placedAt + 2 ^ 17 ≤ (s.core s.ev.core).cycle))
        (s.deschedule id false)
    | _, _ => none

end Sys2Proof.Machine
end

