-- ==== Sys2Proof/Machine/KernelRun.lean ====
section
/-! DEFINITION. The kernel unit as it runs (15_package_kernel R352-R375; 21_device R444): interrupt signals, revocations
(filter, pass and completion), the end of stops, kills and unmaps, and cores and channels that retire. -/

namespace Sys2Proof.Machine

open Sys2Proof

/-! ### Interrupt lines (R370) -/

/-- R370: a source signals a line of a number. -/
def State.signal (s : State) (number : Nat) (status : Word) : State :=
  match s.lines.find? fun p => p.2.number == number with
  | none => s
  | some (i, x) =>
    match x.st with
    | .unbound => s
    | .armed => { s with lines := s.lines.put i { x with st := .awaiting false, status := status } }.signalLine i
    | .awaiting _ => { s with lines := s.lines.put i { x with st := .awaiting true, status := status } }

def execInterruptSignal (s : State) : Host.Outcome State Fault Refusal :=
  enabled s (when_ (s.lines.any fun p => p.2.number == s.ev.id) (s.signal s.ev.id s.ev.word))

/-! ### Kernel words that wait (R346) -/

/-- The outcome of waiting kernel words of an opcode and an object lands: of those whose marks meet `ready`. -/
def State.landKernelIf (s : State) (op10 obj : Nat) (ready : List (Nat × Nat) → Bool) (w : Nat → Nat) : State :=
  { s with teams := s.teams.mapv fun _ (t : Team) =>
      { t with ops := t.ops.map fun (o : Op) =>
          match o.kind with
          | .kernel k marks dst =>
            if o.op10 = op10 ∧ k = obj ∧ ready marks then
              { o with kind := .land (dst.flatMap fun p => (destUpd p.2 (BitVec.ofNat 32 (w ((marks.headD (0, 0)).1)))).map fun u => (p.1, u)) }
            else o
          | _ => o } }

/-- The outcome of the waiting kernel words of an opcode and an object lands. -/
def State.landKernel (s : State) (op10 obj : Nat) (w : Nat → Nat) : State := s.landKernelIf op10 obj (fun _ => true) w

/-! ### Stops and kills (R352, R356, R357) -/

/-- R265, R356: a pending cut as the saved teams of the subtree show it. -/
def State.settleCut (s : State) (ctx : Nat) (c : Ctx) : Ctx :=
  if !c.cut || c.cutFailed then c
  else
    let m := (s.largestStep ctx).getD 0
    let same := (s.cutTeams ctx).all fun p => p.2.allThreads.all fun q => q.2.2.atYield && q.2.2.step == m
    { c with cutStep := m, cutFailed := !same }

/-- A kernel word of an opcode waits on an object. -/
def State.awaited (s : State) (op10 obj : Nat) : Bool :=
  s.teams.any fun p => p.2.ops.any fun (o : Op) => match o.kind with
    | .kernel k _ _ => o.op10 == op10 && k == obj
    | _ => false

/-- R352, R356: a stop of the context is to end: it is Stopping, or it is Degraded and a `ctxstop` waits on it. R352 lets only
`ctxrun` leave Degraded, so that it stays so (log 57). -/
def State.stopDue (s : State) (k : Nat) (c : Ctx) : Bool :=
  c.st == .stopping || (c.st == .degraded && (c.cut || s.awaited 0x309 k))

/-- R265: a cut that the stop of its context finds reached is complete in its teams. -/
def State.reachCut (s : State) (ctx : Nat) (c : Ctx) : State := if c.cut && !c.cutFailed then s.cutDone ctx c.cutStep else s

/-- R352, R356: every context of a subtree that was Stopping is Stopped, and the outcomes land. -/
def State.stopped (s : State) (ctx : Nat) : State :=
  (s.subtree ctx).foldl (fun s k =>
    match s.ctxs.look k with
    | none => s
    | some c =>
      if !s.stopDue k c then s
      else
        let c := s.settleCut k c
        let done : Ctx := if c.st == .stopping then { c with st := .stopped } else { c with cut := false }
        let s := { s.reachCut k c with ctxs := s.ctxs.put k done }
        s.landKernel 0x309 k fun cut => stopWord c (cut == 1)) s

/-- R356: no team of the subtree is resident. -/
def execCtxstopComplete (s : State) : Host.Outcome State Fault Refusal :=
  enabled s <| match s.ctxs.look s.ev.id with
    | none => none
    | some c =>
      let idle := (s.teamsOf (s.subtree s.ev.id)).all fun i => match s.teams.look i with | some t => t.core.isNone || t.dead | none => true
      when_ (s.stopDue s.ev.id c && idle) (s.stopped s.ev.id)

/-- R357: nothing of the subtree remains in flight: the statuses land, and the memory of its contexts returns. -/
def execCtxkillComplete (s : State) : Host.Outcome State Fault Refusal :=
  enabled s <| match s.ctxs.look s.ev.id with
    | none => none
    | some c =>
      let cs := s.subtree s.ev.id
      let s' := cs.foldl (fun s k => (s.landKernel 0x309 k fun _ => 3).landKernel 0x30A k fun _ => kOk) s
      when_ (c.st == .dead && s.killed cs) (s'.bury cs)

/-- R365: every access translated before the pages went has performed: the operations before each team's mark have none left, and
no message of theirs awaits its reply. -/
def State.marksDone (s : State) (marks : List (Nat × Nat)) : Bool :=
  marks.all fun m =>
    (match s.teams.look m.1 with
    | some t => t.ops.all fun o => decide (m.2 ≤ o.id) || o.accs.isEmpty
    | none => true) &&
    s.conns.all fun k => k.2.outMsgs.all fun x => !(x.team == m.1 && decide (x.op < m.2))

/-- R365: an `asunmap` completes. -/
def execAsunmapComplete (s : State) : Host.Outcome State Fault Refusal :=
  let ready := fun (o : Op) => match o.kind with
    | .kernel k marks _ => o.op10 == 0x30D && k == s.ev.id && s.marksDone marks
    | _ => false
  enabled s (when_ (s.teams.any fun p => p.2.ops.any ready) (s.landKernelIf 0x30D s.ev.id s.marksDone fun _ => kOk))

/-! ### Revocation (R372-R375) -/

/-- The revocation of a sequence number. -/
def State.rev (s : State) (n : Nat) : Option Revocation := s.revs.find? fun r => r.seq == n

/-- Replace a revocation. -/
def State.putRev (s : State) (r : Revocation) : State := { s with revs := s.revs.map fun x => if x.seq = r.seq then r else x }

/-- R372: a filter entry is active on every die, and the status of its `revoke` lands. -/
def execFilterActivation (s : State) : Host.Outcome State Fault Refusal :=
  enabled s <| match s.rev s.ev.n with
    | none => none
    | some r => when_ (!r.active) ((s.putRev { r with active := true }).landKernel 0x30F r.seq fun _ => kOk)

/-- R373: a filter covers a capability that stands in an address space. -/
def State.coveredFrom (s : State) (rv : Revocation) (space : Nat) (c : Cap) : Bool :=
  match rv.what with
  | .reserve _ => s.coveredBy rv 0 c
  | .range sp lo hi =>
    c.space == 0 && chainHas s (s.spaces.length + 1) space sp &&
      match outward s (s.spaces.length + 1) space sp c.decode.1 with
      | none => true
      | some a => decide (lo ≤ a) && decide (a < hi)

/-- Addresses of a space that its own pages, those with tag permission when `tagged`, map to a physical address. -/
def State.preimages (s : State) (pa : Nat) : Nat → Nat → Bool → List Nat
  | 0, _, _ => []
  | n + 1, sp, tagged =>
    match s.spaces.look sp with
    | none => []
    | some x =>
      let outs := match x.outer with | some o => s.preimages pa n o false | none => [pa]
      outs.flatMap fun a => x.maps.filterMap fun m =>
        if (!tagged || m.t) && decide (m.target ≤ a) && decide (a < m.target + m.len) then some (m.va + (a - m.target)) else none

/-- The address spaces of a region's domain (R373). -/
def State.domainSpaces (s : State) (sp : Nat) : List Nat :=
  (s.spaces.filter fun p => chainHas s (s.spaces.length + 1) p.1 sp).map (·.1)

/-- The times that the pass reads a page (R374, R381). An endpoint's buffer is read though no space maps it. -/
def State.readings (s : State) (rv : Revocation) (page : Nat) : Nat :=
  let worlds := match s.summary.look page with
    | some y => if y.mixed then (s.slots.filter fun k => k.st == .armed).length else 1
    | none => 0
  let maps := match rv.what with
    | .reserve _ => 1
    | .range sp _ _ =>
      if s.eps.any fun p => p.2.pa / 4096 == page then 1
      else ((s.domainSpaces sp).map fun k => (s.preimages (4096 * page) (s.spaces.length + 1) k true).length).foldl (· + ·) 0
  worlds * maps

/-- R374: the pages of save slots that the pass reads: of those in use by a context of the domain some number, which the image's
layout decides. -/
def State.slotPages (s : State) (rv : Revocation) : Nat :=
  let mine := s.ctxs.filter fun p => match rv.what with | .reserve _ => true | .range sp _ _ => s.inDomain p.1 sp
  ((mine.flatMap fun p => p.2.slots.filter (·.busy)).map fun (x : SaveSlot) =>
    min (Config.savePages x.pa s.draws) (x.size / 4096)).foldl (· + ·) 0

/-- R381: a tagged line decodes: under the page's recorded world, or where the page is mixed under an Armed slot or the
package-internal key. -/
def State.decodes (s : State) (gran : Nat) : Bool :=
  match s.summary.look (gran / 256) with
  | none => true
  | some y =>
    if y.mixed then (List.range 65).any fun w => (w == 64 || s.worldOk w) && (s.lineErr w (gran / 4)).isNone
    else (s.lineErr y.world (gran / 4)).isNone

/-- R374 step 1: the pass clears the tag of a granule of memory that shows a capability. -/
def State.sweepsCap (s : State) (rv : Revocation) (gran : Nat) (c : Cap) : Bool :=
  let seen := (s.readings rv (gran / 256)) != 0
  seen && (!s.decodes gran ||
    match rv.what with
    | .reserve _ => s.coveredBy rv 0 c
    | .range sp _ _ => (s.domainSpaces sp).any fun k =>
        !(s.preimages (16 * gran) (s.spaces.length + 1) k true).isEmpty && s.coveredFrom rv k c)

/-- R374 step 1: it clears the tag of a granule as the order of R156 has it. -/
def State.sweeps (s : State) (rv : Revocation) (gran : Nat) : Bool :=
  s.sweepsCap rv gran ⟨BitVec.ofNat 128 (Memory.num s.mem (16 * gran) 16), true⟩

/-- R374: it clears the tags of a copy that differs from that order (R316: the pass reads and writes through the homes). -/
def State.sweepLine (s : State) (rv : Revocation) (line : Nat) (d : LineData) : LineData :=
  { d with tags := d.tags.zipIdx.map fun p =>
      p.1 && !s.sweepsCap rv (4 * line + p.2) (capOfBytes ((d.bytes.drop (16 * p.2)).take 16) true) }

/-- R374 step 1, R375, R381: memory, and the copies in caches that differ from it. -/
def State.sweepMemory (s : State) (rv : Revocation) : State :=
  let pages := (s.summary.map fun p => s.readings rv p.1).foldl (· + ·) (s.slotPages rv)
  let tags := s.tags.filter fun g => !s.sweeps rv g
  let keep := fun (p : Nat × Summary) => s.readings rv p.1 == 0 || tags.any fun g => g / 256 == p.1
  let coh := { s.coh with stale := s.coh.stale.mapv fun k (d : LineData) => s.sweepLine rv (k / 10) d,
                          behind := s.coh.behind.mapv fun k (d : LineData) => s.sweepLine rv k d }
  { s with tags := tags, coh := coh, summary := s.summary.filter keep, draws := s.draws + 1,
           revs := s.revs.map fun x => if x.seq = rv.seq then { x with swept := true, pages := pages } else x }

/-- R347, R374: the tags of the messages that wait in endpoints, as their buffers show them. -/
def State.showSlots (s : State) : State :=
  s.eps.foldl (fun s p => p.2.slots.foldl (fun s m =>
    let g := (p.2.pa + 64 * m.slot) / 16
    let tags := (granules16 (16 * g) 64).foldl delNum s.tags
    let tags := if m.q0.tag then addNum tags (g + 2) else tags
    { s with tags := if m.q1.tag then addNum tags (g + 3) else tags }) s) s

/-- R374: a capability write in flight. -/
def Upd.clean (p : Cap → Bool) : Upd → Upd
  | .quad m c => .quad m (c.clean p)
  | .k n c => .k n (c.clean p)
  | u => u

/-- R374: capabilities that operations in flight would still write. -/
def Op.clean (p : Cap → Bool) (o : Op) : Op :=
  match o.kind with
  | .land us => { o with kind := .land (us.map fun u => (u.1, u.2.clean p)) }
  | .store acc c => { o with kind := .store (acc.map fun a => { a with cap := a.cap.clean p, tag := a.tag && !p a.cap }) c }
  | .spawn items => { o with kind := .spawn (items.map fun x => (x.1, x.2.1.clean p, x.2.2)) }
  | .attest c r m => { o with kind := .attest (c.clean p) r m }
  | _ => o

/-- R374 steps 2 and 3: what cores and units hold for a team. -/
def Team.sweep (p : Cap → Bool) (t : Team) : Team :=
  { t.clean p with
    ops := t.ops.map (Op.clean p),
    pend := t.pend.map fun (k : Pend) => { k with upds := k.upds.map fun u => (u.1, u.2.clean p) } }

/-- R374 step 3: an operation whose capabilities are covered. -/
def Op.hit (p : Cap → Bool) (o : Op) : Bool :=
  let on := fun (c : Cap) => c.tag && p c
  match o.kind with
  | .copy c => on c.dst.cap || (match c.src with | some d => on d.cap | .none => false)
  | .absorb _ _ d _ _ => on d.cap
  | _ => false

/-- R374 step 3: it aborts with ENGINE and REVOKED. -/
def State.abortOp (s : State) (id : Nat) (o : Op) : State :=
  match o.kind with
  | .copy c => s.abortCopy id o c cRevoked
  | .absorb k gen _ _ gs =>
    let s := ((s.freeGranules gs).async id o.g (cEngine ||| cRevoked) (some (o.record (o.lanes.headD 0)))).upTeam id (·.endOp o)
    s.voidAbsorbed k gen (cEngine ||| cRevoked).toNat
  | _ => s

/-- R374: teams, resident and saved. -/
def State.sweepTeams (s : State) (rv : Revocation) : State :=
  s.teams.foldl (fun s q =>
    let p := fun (c : Cap) => s.coveredBy rv q.2.ctx c
    let s := (q.2.ops.filter (Op.hit p)).foldl (fun s o => s.abortOp q.1 o) s
    s.upTeam q.1 (Team.sweep p)) s

/-- R374: the capabilities that the kernel unit and the other units hold. -/
def State.sweepKernel (s : State) (rv : Revocation) : State :=
  let at_ := fun (ctx : Nat) (c : Cap) => s.coveredBy rv ctx c
  let msg := fun (m : Msg) =>
    let p := fun (c : Cap) => s.coveredFrom rv m.space c
    { m with q0 := m.q0.clean p, q1 := m.q1.clean p }
  let wait := fun (w : Waiter) => { w with msg := w.msg.map msg }
  { s with
    ctxs := s.ctxs.mapv fun k (c : Ctx) => { c with fault := c.fault.map (Cap.clean (at_ k)) },
    eps := s.eps.mapv fun _ (e : Endpoint) =>
      { e with slots := e.slots.map msg, kq := e.kq.map msg, posters := e.posters.map wait },
    answers := s.answers.mapv fun _ (a : Answer) => { a with held := a.held.map msg, note := a.note.map msg },
    launches := s.launches.mapv fun _ (l : Launch) =>
      let p := at_ l.ctx
      { l with code := l.code.clean p, arg := l.arg.clean p, ring := l.ring.clean p, done := l.done.map (Cap.clean p),
               waits := l.waits.map fun (w : Cap × Nat) => (w.1.clean p, w.2) },
    sessions := s.sessions.mapv fun _ (x : Session) => { x with buf := x.buf.clean (at_ x.ctx) },
    qifs := s.qifs.mapv fun _ (q : QueueIf) => { q with event := q.event.map (Cap.clean (at_ q.binder)) },
    revs := s.revs.map fun r => { r with notify := r.notify.map (Cap.clean (s.coveredFrom rv r.notifySpace)) } }

/-- R374 step 4: a registration under the filter. -/
def State.regHit (s : State) (rv : Revocation) (x : Registration) : Bool :=
  match rv.what with
  | .reserve _ => false
  | .range sp lo hi =>
    chainHas s (s.spaces.length + 1) x.space sp &&
      match outward s (s.spaces.length + 1) x.space sp x.base with
      | none => true
      | some a => decide (lo ≤ a) && decide (a < hi)

/-- R374 step 4. -/
def State.sweepRegs (s : State) (rv : Revocation) : State :=
  let hit : Registration → Bool := s.regHit rv
  { s with regs := s.regs.mapv fun _ (x : Registration) => if hit x then { x with withdrawing := true } else x }

/-- R350, R374: an endpoint is destroyed: waiting threads stand at their words again, and its messages are discarded. -/
def State.killEndpoint (s : State) (e : Nat) : State :=
  let s := s.qifs.foldl (fun s q => if q.2.bound && q.2.ep == e then s.unbindQi q.1 1 else s) s
  match s.eps.look e with
  | none => s
  | some x =>
    let s := { s with eps := s.eps.del e }.dropObj e
    let s := (x.takers ++ x.posters).foldl (fun s w => s.wakeAtWord w.team w.g w.lane) s
    (x.slots ++ x.kq).foldl (fun s m => match m.ans with | some a => s.killAnswer a | none => s) s

/-- R374: the objects made from a reserve, directly or through sub-reserves. -/
def State.offspring (s : State) (r : Nat) : List (Nat × ObjEntry) :=
  s.objs.filter fun p => p.2.otype != 0 && p.2.otype != 63 && madeFrom s (s.objs.length + 1) p.1 r

/-- R363, R374: an address space is gone: what named it as its space, or as its outer level, has none there, so that accesses
through it are PAGE (R366) whatever object takes its entry of the table. -/
def State.forgetSpace (s : State) (k : Nat) : State :=
  let f := fun (x : Nat) => if x = k then noTeam else x
  let msg := fun (m : Msg) => { m with space := f m.space }
  let wait := fun (w : Waiter) => { w with msg := w.msg.map msg }
  let what := fun (r : Region) => match r with | .range sp lo hi => Region.range (f sp) lo hi | r => r
  { s with
    spaces := (s.spaces.del k).mapv fun _ (x : Space) => { x with outer := x.outer.map f },
    ctxs := s.ctxs.mapv fun _ (c : Ctx) => { c with space := f c.space },
    regs := s.regs.mapv fun _ (x : Registration) => { x with space := f x.space },
    eps := s.eps.mapv fun _ (e : Endpoint) =>
      { e with slots := e.slots.map msg, kq := e.kq.map msg, posters := e.posters.map wait },
    answers := s.answers.mapv fun _ (a : Answer) => { a with held := a.held.map msg, note := a.note.map msg },
    revs := s.revs.map fun r => { r with what := what r.what, notifySpace := f r.notifySpace } }

/-- R343, R374: a reserve is emptied: contexts as by `ctxkill`, endpoints under R350, everything else by its generation. -/
def State.emptyReserve (s : State) (r : Nat) : State :=
  let kids := s.offspring r
  let within := fun (x : Nat) => x == r || kids.any fun p => p.1 == x
  let cs := (s.ctxs.filter fun p => p.2.st != .dead && s.ctxs.any fun q =>
    (kids.any fun k => k.1 == q.1) && s.inSubtree q.1 p.1).map (·.1)
  let s := s.killContexts cs 4
  let s := { s with ctxs := s.ctxs.mapv fun _ (c : Ctx) => if c.st == CtxSt.dead && within c.reserve then { c with reserve := noTeam } else c }
  let s := kids.foldl (fun s p =>
    if p.2.otype = 1 then s
    else if p.2.otype = 3 then s.killEndpoint p.1
    else if p.2.otype = 2 then (s.dropObj p.1).forgetSpace p.1
    else { s.dropObj p.1 with reserves := s.reserves.del p.1 }) s
  { s with reserves := s.reserves.upd r fun x => { x with used := [], more := x.more.map fun y => { y with used := [] } } }

/-- R374, R375: the Furlong's one pass for the oldest revocation. -/
def execFurlongPass (s : State) : Host.Outcome State Fault Refusal :=
  enabled s <| match s.revs with
    | [] => none
    | r :: _ =>
      if r.seq ≠ s.ev.n ∨ !r.active ∨ r.swept then none
      else
        let s := (((s.sweepKernel r).showSlots.sweepMemory r).sweepTeams r).sweepRegs r
        some (match r.what with | .reserve o => s.emptyReserve o | .range _ _ _ => s)

/-- R372: the kind-5 message of a revocation. -/
def doneMsg (r : Revocation) : Msg :=
  { words := [5, BitVec.ofNat 32 r.seq, BitVec.ofNat 32 (4096 * r.pages), BitVec.ofNat 32 (4096 * r.pages / 2 ^ 32), 0, 0, 0, 0],
    q0 := Cap.zero, q1 := Cap.zero, ans := none, prio := 0, seq := 0, ctx := 0, born := 0, space := 0, sgen := 0, kernel := true,
    kind := 5, src := r.seq, pasid := 0, gates := [], slot := 0 }

/-- R372: the notification: a message, or an update of an event word in the issuer's address space while that stands. -/
def State.notify (s : State) (r : Revocation) : State :=
  match r.notify with
  | none => s
  | some c =>
    if c.space = 3 then (if c.tag && s.live c then (s.sendMsg c.objIndex (doneMsg r)).getD s else s)
    else if (s.spaces.look r.notifySpace).isSome && s.genOf r.notifySpace == r.notifyGen then
      s.publishIn r.notifySpace (s.revs.any fun y => y.active && s.coveredFrom y r.notifySpace c) c
    else s

/-- R326: the notification may be made now. -/
def State.notifyMay (s : State) (r : Revocation) : Bool :=
  match r.notify with
  | some c => c.space == 3 || s.publishMay r.notifySpace (s.revs.any fun y => y.active && s.coveredFrom y r.notifySpace c) c
  | none => true

/-- R375: a revocation completes: its entry is freed and the notification made. -/
def execRevocationComplete (s : State) : Host.Outcome State Fault Refusal :=
  enabled s <| match s.revs with
    | [] => none
    | r :: rest =>
      let out := s.regs.all fun p => !p.2.withdrawing || !s.regHit r p.2
      let quiet := s.teams.all fun p => !p.2.dead || p.2.ops.isEmpty
      when_ (r.seq == s.ev.n && r.swept && out && quiet && s.notifyMay r) ({ s with revs := rest }.notify r)

/-! ### Retirement (R371, R444) -/

/-- R442, R443: a position that a team may take. -/
def State.present (s : State) (c : CoreId) : Bool :=
  match s.dies[c.die]? with
  | none => false
  | some d => !d.absent.contains c.pos && (if c.die = 9 then decide (4 ≤ c.pos) && decide (c.pos < 16) else decide (c.pos < 120))

/-- R444: the firmware reads a core's monitors: below the threshold it raises the voltage step, or retires the core. -/
def execAgeingMonitorRead (s : State) : Host.Outcome State Fault Refusal :=
  let c := s.ev.core
  enabled s <|
    if !s.present c || (s.core c).retiring then none
    else if !s.ev.flag then some s
    else if s.ev.flag2 then some { s with dies := s.dies.modify c.die fun (d : Die) => { d with volt := d.volt + 1 } }
    else
      let s := s.upCore c fun k => { k with retiring := true }
      some (match (s.core c).team with | some id => s.deschedule id false | none => s)

/-- The root's core set. -/
def State.rootSet (s : State) : Option Nat := (s.root.bind (s.ctxs.look ·)).map (·.cset)

/-- R371: a core of the root's set that lies in no core set which still counts. -/
def State.slack (s : State) (lost : Nat) (counts : Nat → Bool) : Option Nat :=
  match s.rootSet with
  | none => none
  | some r =>
    match s.csets.look r with
    | none => none
    | some cs => (cs.cores.find? fun p => p.1 != lost &&
        s.csets.all fun q => q.1 == r || !counts q.1 || !q.2.holds (coreOfNo p.1)).map (·.1)

/-- R449, R371: a core takes a lost core's number in every set that held it; its own number in the root set falls unused,
and it leaves every set that no longer counts. -/
def CoreSet.replace (c : CoreSet) (lost new : Nat) : CoreSet :=
  match c.cores.find? fun p => p.1 == lost with
  | none => { c with cores := c.cores.filter fun p => p.1 != new }
  | some (_, n) => { c with cores := (NMap.del (c.cores.filter fun p => p.1 != new) lost).put new n }

/-- A core leaves every core set. -/
def State.dropCore (s : State) (lost : Nat) : State :=
  { s with csets := s.csets.mapv fun _ (c : CoreSet) => { c with cores := c.cores.filter fun p => p.1 != lost } }

/-- R371: the kind-3 message of a shed context. -/
def State.shedMsg (s : State) (ctx : Nat) (c : Ctx) : Msg :=
  { words := [3, BitVec.ofNat 32 c.creation, BitVec.ofNat 32 (c.creation / 2 ^ 32), 0, 0, 0, 0, 0], q0 := s.capOf pIV ctx,
    q1 := Cap.zero, ans := none, prio := 0, seq := 0, ctx := ctx, born := 0, space := s.spaceOf ctx, sgen := 0, kernel := true,
    kind := 3, src := ctx, pasid := 0, gates := [], slot := 0 }

/-- R371: a context is shed: Degraded, its teams with BUDGET and saved whole. -/
def State.shed (s : State) (ctx : Nat) : State :=
  match s.ctxs.look ctx with
  | none => s
  | some c =>
    let s := { s with ctxs := s.ctxs.put ctx { c with st := .degraded } }
    let s := (s.teamsOf [ctx]).foldl (fun s id => match s.teams.look id with
      | some t =>
        if t.core.isSome then (s.asyncTeam id t cBudget).deschedule id false
        else { s with draws := s.draws + 1 }.upGroup id ((Config.openWord s.draws).toNat % t.groups.length)
          fun g => { g with cause := g.cause ||| cBudget }
      | none => s) s
    s.sendFault none (s.shedMsg ctx c) (s.ctxs.length + 1) ctx

/-- R371: the context shed next: the deepest, and of those the one made last. -/
def State.nextShed (s : State) : Option Nat :=
  let l := s.ctxs.filter fun p => p.2.parent.isSome && (p.2.st == .created || p.2.st == .runnable || p.2.st == .stopped)
  (l.foldl (fun (b : Option (Nat × Ctx)) p =>
    match b with
    | none => some p
    | some y => if y.2.depth < p.2.depth ∨ (y.2.depth = p.2.depth ∧ y.2.creation < p.2.creation) then some p else some y) none).map (·.1)

/-- R371: a core set that a remaining context holds. -/
def State.setCounts (s : State) (o : Nat) : Bool :=
  s.ctxs.any fun p => p.2.cset == o && p.2.st != .dead && p.2.st != .degraded

/-- R371: a core set that a shed context held. -/
def State.setShed (s : State) (o : Nat) : Bool := s.ctxs.any fun p => p.2.cset == o && p.2.st == .degraded

/-- R371: shed contexts until a core can stand for the lost one: a core that lies in core sets of shed contexts alone, and that no
other remaining context holds. -/
def State.shedFor (s : State) (lost : Nat) : Nat → State
  | 0 => s.dropCore lost
  | n + 1 =>
    match s.nextShed with
    | none => s.dropCore lost
    | some ctx =>
      let s := s.shed ctx
      match s.slack lost fun o => s.setCounts o || !s.setShed o with
      | some new => { s with csets := s.csets.mapv fun _ (c : CoreSet) => c.replace lost new }
      | none => s.shedFor lost n

/-- R371: a lost core is absorbed by slack, or contexts are shed. -/
def State.loseCore (s : State) (lost : Nat) : State :=
  match s.slack lost fun _ => true with
  | some new => { s with csets := s.csets.mapv fun _ (c : CoreSet) => c.replace lost new }
  | none => s.shedFor lost (s.ctxs.length + 1)

/-- R444: a retired position whose team is saved takes a spare of its die, or is lost. -/
def execSpareRemap (s : State) : Host.Outcome State Fault Refusal :=
  let c := s.ev.core
  let k := s.core c
  let spare := match s.dies[c.die]? with | some d => decide (0 < d.spares) && c.die != 9 | none => false
  enabled s <|
    if !k.retiring || k.team.isSome then none
    else
      let s := s.logEvent 2 [BitVec.ofNat 32 c.die, BitVec.ofNat 32 c.pos]
      let s := { s with remap := s.remap ++ [(c.die, c.pos)] }
      if spare then
        some { s with dies := s.dies.modify c.die fun (d : Die) => { d with spares := d.spares - 1 },
                      cores := s.cores.put (coreNo c) Core.fresh }
      else
        let s := { s with dies := s.dies.modify c.die fun (d : Die) => { d with absent := addNum d.absent c.pos },
                          cores := s.cores.del (coreNo c) }
        some (s.loseCore (coreNo c))

/-- The 4 KiB units of [a, a + n) that [b, b + m) touches. -/
def unitsIn (a n b m : Nat) : Nat := (min (a + n) (b + m) + 4095) / 4096 - max a b / 4096

/-- R371: the units of [b, b + m) that a reserve itself has lost, its sub-reserves' apart. -/
def State.short (s : State) (r : Nat) (x : Reserve) (b m : Nat) : Nat :=
  let kids := s.reserves.filter fun p => (s.objs.look p.1).bind (·.made) == some r
  let count := fun (l : List (Nat × Nat)) => (l.map fun y => unitsIn y.1 y.2 b m).foldl (· + ·) 0
  count (x.ranges.map fun y => (y.pa, y.len)) - count (kids.map fun p => (p.2.pa, p.2.len))

/-- R371: units of the root reserve's free memory go to a reserve: as one run, or where none is that long as runs that together are. -/
def State.giveRuns (s : State) (root r : Nat) : Nat → Nat → Option State
  | 0, _ => none
  | fuel + 1, n =>
    match s.takeUnits root n 1 with
    | some (pa, s) => some { s with reserves := s.reserves.upd r fun x => { x with more := x.more ++ [⟨pa, 4096 * n, []⟩] } }
    | none =>
      if n ≤ 1 then none
      else match s.giveRuns root r fuel (n / 2) with
        | none => none
        | some s => s.giveRuns root r fuel (n - n / 2)

/-- R371: units that a reserve has lost are replaced from the root reserve's free memory, wherever it lies. -/
def State.replaceUnits (s : State) (root r n : Nat) : Option State := s.giveRuns root r 64 n

/-- R371: the reserves that lack units, after what the root reserve can replace. -/
def State.coverLoss (s : State) (root : Nat) : List (Nat × Nat) → List (Nat × Nat) × State
  | [] => ([], s)
  | (r, n) :: rest =>
    match s.replaceUnits root r n with
    | some s => s.coverLoss root rest
    | none => let (left, s) := s.coverLoss root rest; ((r, n) :: left, s)

/-- R371: a reserve that a remaining context has. -/
def State.reserveCounts (s : State) (r : Nat) : Bool :=
  s.ctxs.any fun p => p.2.reserve == r && p.2.st != .dead && p.2.st != .degraded

/-- R371: contexts are shed until no remaining context's reserve lacks units. Shedding frees no memory of the root reserve; that a
shed context's reserve then needs none is read from what the rule says of cores (log 157). -/
def State.shedMemory (s : State) (root : Nat) : Nat → List (Nat × Nat) → State
  | 0, _ => s
  | k + 1, lack =>
    let (lack, s) := s.coverLoss root (lack.filter fun p => s.reserveCounts p.1)
    if lack.isEmpty then s
    else match s.nextShed with
      | none => s
      | some ctx => (s.shed ctx).shedMemory root k lack

/-- R371: lost bytes of reserves are absorbed by the root reserve's free memory, or contexts are shed. -/
def State.loseMemory (s : State) (b m : Nat) : State :=
  match s.root.bind (s.ctxs.look ·) with
  | none => s
  | some c =>
    let need := (s.reserves.filterMap fun p =>
      let n := s.short p.1 p.2 b m
      if p.1 = c.reserve ∨ n = 0 then none else some (p.1, n))
    let (lack, s) := s.coverLoss c.reserve need
    s.shedMemory c.reserve (s.ctxs.length + 1) lack

/-- R371, R444: a channel past its limit enters the remap table; it is copied to spare rows, which changes no byte; with none left its pages raise
MEMERR, no reserve hands out its units again, and the reserves that held them are made good. -/
def execChannelRetirement (s : State) : Host.Outcome State Fault Refusal :=
  let s' := s.logEvent 2 [BitVec.ofNat 32 s.ev.addr, BitVec.ofNat 32 (s.ev.addr / 2 ^ 32), BitVec.ofNat 32 s.ev.len]
  enabled s <|
    if s.ev.len = 0 ∨ !s.available s.ev.addr then none
    else if s.ev.flag then some { s' with rows := s'.rows ++ [(s.ev.addr, s.ev.len, true)] }
    else some ({ s' with rows := s'.rows ++ [(s.ev.addr, s.ev.len, false)], lost := s'.lost ++ [(s.ev.addr, s.ev.len)] }.loseMemory s.ev.addr s.ev.len)

end Sys2Proof.Machine
end

