-- ==== Sys2Proof/Machine/Coherent.lean ====
section
/-! DEFINITION. The coherence protocol between the dies' L2s and the homes (13_die_memory_model R313-R318), and external
reads and writes (R310, R322). A line's bytes stand in `State.mem`, as the single order of R156 has them; the protocol moves
the right to read and to write them, says whether memory is current, and keeps what a die still reads that the INV of an
external write has not reached. -/

namespace Sys2Proof.Machine

open Sys2Proof

/-! ### Messages in flight (R315, R316) -/

/-- The kinds of message a home sends to a die. -/
def CohFlight.fromHome (x : CohFlight) : Bool :=
  match x.kind with
  | .inv => true
  | .fwdS => true
  | .fwdX => true
  | .data => decide (x.arg < 2)
  | .grant => true
  | .ack => x.arg == 1
  | .stale => true
  | _ => false

/-- R316, R318, R322: a message still to arrive at a die goes before another: of one home in the order in which it made
them; DATA and GRANT before a forward or INV on the line that was sent later; the INVs of one connection in its order. -/
def CohFlight.first (y x : CohFlight) : Bool :=
  y.die == x.die &&
    ((y.fromHome && x.fromHome && homeDie y.line == homeDie x.line)
      || (y.brings && y.line == x.line && (x.kind == .inv || x.kind == .fwdS || x.kind == .fwdX))
      || (match y.ext, x.ext with | some a, some b => a.1 == b.1 | _, _ => false))

/-- A message arrives if none of those before it goes first. -/
def arrivesIn (kind : CohKind) (die line : Nat) : List CohFlight → List CohFlight → Option CohFlight
  | _, [] => none
  | pre, x :: r =>
    if x.kind = kind ∧ x.die = die ∧ x.line = line then (if pre.any (·.first x) then none else some x)
    else arrivesIn kind die line (x :: pre) r

/-- R316: the message of a kind that may arrive at a die, or at the home from it, for a line. -/
def Coherence.arrives (c : Coherence) (kind : CohKind) (die line : Nat) : Option CohFlight := arrivesIn kind die line [] c.flight

/-- A message leaves the flight. -/
def Coherence.land (c : Coherence) (x : CohFlight) : Coherence := { c with flight := c.flight.erase x }

/-- A message enters the flight. -/
def Coherence.send (c : Coherence) (kind : CohKind) (die line arg : Nat) : Coherence :=
  { c with flight := c.flight ++ [⟨kind, die, line, arg, none⟩] }

/-- Messages to several dies. -/
def Coherence.sendAll (c : Coherence) (kind : CohKind) (dies : List Nat) (line arg : Nat) : Coherence :=
  dies.foldl (fun c d => c.send kind d line arg) c

/-- The INV of an external write is on its way to a die that still holds the line. -/
def Coherence.doomed (c : Coherence) (die line : Nat) : Bool :=
  c.flight.any fun x => x.kind == .inv && x.die == die && x.line == line && x.ext.isSome

/-! ### A home's transactions (R314-R317) -/

/-- R315: ownership goes to a die once every copy is gone: with the data, or as a permission. -/
def Coherence.give (c : Coherence) (die line : Nat) (grant : Bool) : Coherence :=
  { (if grant then c.send .grant die line 0 else c.send .data die line 1) with dir := c.dir.put line (.exclusive die) }

/-- R315: the copies of other dies go; ownership then goes to a die. -/
def Coherence.collect (c : Coherence) (die line : Nat) (mask : List Nat) (grant : Bool) : Coherence :=
  let others := delNum mask die
  if others.isEmpty then c.give die line grant
  else { c.sendAll .inv others line 0 with dir := c.dir.put line (.busy die (if grant then 2 else 1) others none) }

/-- R315: the owner is asked for its line, and other copies go. -/
def Coherence.forward (c : Coherence) (die line owner : Nat) (mask : List Nat) : Coherence :=
  let others := delNum mask die
  { (c.send .fwdX owner line die).sendAll .inv others line 0 with
    dir := c.dir.put line (.busy die 3 (owner :: others) (some owner)) }

/-- R315: the owner is asked to share its line; the kind of the transaction names the dies that share it already. -/
def Coherence.shareOut (c : Coherence) (die line owner : Nat) (mask : List Nat) : Coherence :=
  { c.send .fwdS owner line die with
    dir := c.dir.put line (.busy die (16 * (mask.map fun d => 2 ^ d).foldl (· + ·) 0) [owner] (some owner)) }

/-- R317: a write-back of the owner is accepted: memory is current. -/
def Coherence.writtenBack (c : Coherence) (die line : Nat) (mask : List Nat) : Coherence :=
  { c.send .ack die line 1 with
    dir := if mask.isEmpty then c.dir.del line else c.dir.put line (.shared mask), behind := c.behind.del line }

/-- R315, R316, R317: a home takes a request for a line that is not Busy. An UPG from a die that shares the line no more is an
RDX; so is one from a die that the INV of an external write is still to reach. -/
def Coherence.take (c : Coherence) (kind : CohKind) (die line : Nat) : Coherence :=
  match kind, c.dir.look line with
  | .rds, none => { c.send .data die line 0 with dir := c.dir.put line (.shared [die]) }
  | .rds, some (.shared mask) => { c.send .data die line 0 with dir := c.dir.put line (.shared (addNum mask die)) }
  | .rds, some (.exclusive o) => c.shareOut die line o []
  | .rds, some (.owned o mask) => c.shareOut die line o mask
  | .rdx, none => c.give die line false
  | .rdx, some (.shared mask) => c.collect die line mask false
  | .rdx, some (.exclusive o) => c.forward die line o []
  | .rdx, some (.owned o mask) => c.forward die line o mask
  | .upg, none => c.give die line false
  | .upg, some (.shared mask) => c.collect die line mask (mask.contains die && !c.doomed die line)
  | .upg, some (.exclusive o) => c.forward die line o []
  | .upg, some (.owned o mask) =>
    if mask.contains die ∨ o = die then c.collect die line (addNum mask o) true else c.forward die line o mask
  | .wb, some (.exclusive o) => if o = die then c.writtenBack die line [] else c.send .stale die line 0
  | .wb, some (.owned o mask) => if o = die then c.writtenBack die line mask else c.send .stale die line 0
  | .wb, _ => c.send .stale die line 0
  | _, _ => c

/-- R316: a request reaches a home: it is taken, or waits in arrival order while the line is Busy. -/
def Coherence.reach (c : Coherence) (kind : CohKind) (line die : Nat) : Coherence :=
  if c.busy line then { c with waiting := c.waiting ++ [⟨kind, die, line, 0, none⟩] } else c.take kind die line

/-- R316: waiting requests of a line are taken while it is not Busy. -/
def Coherence.serve (c : Coherence) (line : Nat) : Nat → Coherence
  | 0 => c
  | n + 1 =>
    if c.busy line then c
    else
      match c.waiting.find? fun x => x.line == line with
      | none => c
      | some x => ({ c with waiting := c.waiting.erase x }.take x.kind x.die line).serve line n

/-- R315: a transaction whose every ACK is in closes. Of a kind that is 0 modulo 16, for sharing, the rest names the dies
that shared the line before; with the owner's ACK came the copy that memory takes. -/
def Coherence.close (c : Coherence) (line req kind : Nat) (prev : Option Nat) : Coherence :=
  if kind % 16 = 0 then
    let old := (List.range 10).filter fun d => (kind / 16).testBit d || prev == some d
    { c with dir := c.dir.put line (.shared (addNum old req)), behind := c.behind.del line }
  else if kind = 3 then { c with dir := c.dir.put line (.exclusive req) }
  else c.give req line (kind == 2)

/-- R315, R317: an ACK from a die reaches the home; an owner that answered from its write-back buffer holds no copy. -/
def Coherence.acked (c : Coherence) (die line : Nat) (buffer : Bool) : Coherence :=
  match c.dir.look line with
  | some (.busy req kind acks prev) =>
    let left := delNum acks die
    let prev := if buffer && prev == some die then none else prev
    if !acks.contains die then c
    else if left.isEmpty then (c.close line req kind prev).serve line (c.waiting.length + 1)
    else { c with dir := c.dir.put line (.busy req kind left prev) }
  | _ => c

/-- R322: the ACK of an external write's INV reaches the home. -/
def Coherence.ackedExt (c : Coherence) (die line : Nat) : Coherence :=
  match c.dir.look line with
  | some (.shared mask) =>
    let left := delNum mask die
    { c with dir := if left.isEmpty then c.dir.del line else c.dir.put line (.shared left) }
  | _ => c

/-! ### Stores that wait on a line (R318) -/

/-- An access touches a line. -/
def Access.onLine (a : Access) (line : Nat) : Bool := match a.loc with | .mem pa => (linesOf pa a.size).contains line | _ => false

/-- An access of an operation that waits on a line and may perform now: of a store word any lane, of an atomic or a spawn the next,
of a command the bytes that it writes there. -/
def State.performNext (s : State) (id : Nat) (t : Team) (o : Op) (line : Nat) : Option State :=
  match o.kind with
  | .store acc c => (acc.filter (·.onLine line)).findSome? fun a => s.performStore id t o c acc a.lane
  | .rmw k acc dst got => if acc.head?.any (·.onLine line) then s.performRmw id t o k dst got acc else none
  | .spawn items => if (items.head?.bind (·.2.2)).any (·.onLine line) then s.performSpawn id t o items else none
  | .copy c => s.landOn id t o c line
  | _ => none

/-- A store of the die that waits on the line performs. -/
def State.runOne (s : State) (die line : Nat) : Option State :=
  s.teams.findSome? fun p =>
    if p.2.core.isNone || p.2.die != die then none
    else p.2.ops.findSome? fun o => s.performNext p.1 p.2 o line

/-- R318: every store of the die that waits on the line performs. -/
def State.runStores (s : State) (die line : Nat) : Nat → State
  | 0 => s
  | n + 1 => match s.runOne die line with
    | some s => s.runStores die line n
    | none => s

/-- The accesses and bytes of commands in flight: so many at most wait on a line. -/
def State.flying (s : State) : Nat :=
  ((s.teams.flatMap fun p => p.2.ops).map fun (o : Op) => o.accs.length + match o.kind with
    | .copy c => (c.left.map (·.2)).foldl (· + ·) 0
    | _ => 0).foldl (· + ·) 0

/-- The line is the die's: in its L2, under the key id of what it holds (R383). Memory is not current of a line that came from
another die's write. It waits while the L2 has no room (R313). -/
def State.install (s : State) (die line : Nat) (mine : Bool) (due : Nat) : Option State :=
  let old := s.coh.l2.look (lineKey line die)
  (if old.isSome then some s.coh else s.coh.room die).map fun c =>
    let st : Moesi := if !mine then .shared else if (c.behind.look line).isSome then .modified else .exclusive
    let due := match old with | some x => x.due | none => due
    { s with coh := { c with l2 := c.l2.put (lineKey line die) ⟨st, s.keyOf line, due⟩ } }

/-- R318: ownership has come to a die: the stores that wait on the line perform before anything else of that line. -/
def State.own (s : State) (die line due : Nat) : Option State :=
  (s.install die line true due).map fun s => s.runStores die line s.flying

/-! ### The steps -/

/-- R378, R380: memory supplies a line: without an error, corrected and counted, or not at all; a CXL device or link stops
answering. What memory cannot supply is met only while no L2 holds the line: the model's choice (log 151). -/
def State.supply (s : State) (line : Nat) : State × Bool :=
  let s' : State := { s with draws := s.draws + 1 }
  let unit := if 64 * line < cxlBase then stackOf (64 * line) else 12 + cxlPort s.cxl (64 * line - cxlBase)
  match Config.eccOf s.draws % 4, s.coh.dir.look line with
  | 1, none => ({ s' with corrected := s'.corrected.put unit ((s'.corrected.look unit).getD 0 + 1) }, true)
  | 1, some (.shared _) => ({ s' with corrected := s'.corrected.put unit ((s'.corrected.look unit).getD 0 + 1) }, true)
  | 2, none => ({ s' with poison := addNum s'.poison line }, false)
  | 3, none => if 12 ≤ unit then ({ s' with dead := addNum s'.dead (unit - 12) }, false) else (s', true)
  | _, _ => (s', true)

/-- R315, R316, R380: requests that reach the home of a line in one mesh cycle, unless no access is delivered its bytes: of the die that the record names and of those in its
mask that may make them, in ascending order. -/
def State.request (s : State) (kind : CohKind) (may : Coherence → Nat → Nat → Bool) : Option State :=
  let line := s.ev.addr
  let ok := fun (d : Nat) => may s.coh d line && !s.coh.asking d line
  let dies := (List.range 10).filter fun d => (d == s.ev.die || s.ev.n.testBit d) && ok d
  if !dies.contains s.ev.die || (s.lineErr (s.keyOf line) line).isSome || !s.available (64 * line) then none
  else
    let (s, good) := s.supply line
    some (if good then s.upCoh fun c => dies.foldl (fun c d => c.reach kind line d) c else s)

/-- R315: a die that does not hold the line may ask for it. -/
def Coherence.lacks (c : Coherence) (die line : Nat) : Bool :=
  (c.l2.look (lineKey line die)).isNone && (c.wb.look (lineKey line die)).isNone

def execRds (s : State) : Host.Outcome State Fault Refusal := enabled s (s.request .rds Coherence.lacks)
def execRdx (s : State) : Host.Outcome State Fault Refusal := enabled s (s.request .rdx Coherence.lacks)

/-- R315, R316: an upgrade from a die that holds the line as Shared or Owned. -/
def execUpg (s : State) : Host.Outcome State Fault Refusal :=
  enabled s (s.request .upg fun c die line => c.canRead line die && !c.canWrite line die)

/-- A step of the protocol for the die and line that the record names. -/
def State.cohStep (s : State) (f : Coherence → Nat → Nat → Option Coherence) : Host.Outcome State Fault Refusal :=
  enabled s (if 9 < s.ev.die then none else (f s.coh s.ev.die s.ev.addr).map fun c => { s with coh := c }.paid s.coh)

/-- R317: a die evicts a dirty line, which stays in its write-back buffer; so does it with a clean line that it owns, of which the
manual says nothing (log 149). -/
def execWb (s : State) : Host.Outcome State Fault Refusal :=
  s.cohStep fun c die line =>
    match c.l2.look (lineKey line die) with
    | some x =>
      if x.st ≠ .shared then
        some (({ c.dropLine line die with wb := c.wb.put (lineKey line die) x.key }).reach .wb line die)
      else none
    | none => none

/-- R315, R322: an INV arrives: the die drops the line and answers. -/
def execInv (s : State) : Host.Outcome State Fault Refusal :=
  s.cohStep fun c die line => (c.arrives .inv die line).map fun x =>
    ((c.land x).dropLine line die).send .ack die line (if x.ext.isSome then 2 else 0)

/-- R315, R317: the owner, or its write-back buffer, answers a request for sharing. -/
def execFwdS (s : State) : Host.Outcome State Fault Refusal :=
  s.cohStep fun c die line => (c.arrives .fwdS die line).map fun x =>
    let here := c.canRead line die
    (((c.land x).shareLine line die).send .data x.arg line 2).send .ack die line (if here then 0 else 3)

/-- R315, R317: the owner, or its write-back buffer, gives the line up. -/
def execFwdX (s : State) : Host.Outcome State Fault Refusal :=
  s.cohStep fun c die line => (c.arrives .fwdX die line).map fun x =>
    (((c.land x).dropLine line die).send .data x.arg line 3).send .ack die line 0

/-- R320: other copies of a line that its requester is to own are still to go. -/
def Coherence.collecting (c : Coherence) (die line : Nat) : Bool :=
  match c.dir.look line with
  | some (.busy req 3 acks prev) => req == die && acks.any fun d => prev != some d
  | _ => false

/-- R315, R318: the line arrives; with ownership the stores that wait on it perform. -/
def execData (s : State) : Host.Outcome State Fault Refusal :=
  let die := s.ev.die
  let line := s.ev.addr
  enabled s <| match s.coh.arrives .data die line with
    | none => none
    | some x =>
      let s' := s.upCoh (·.land x)
      let due := if x.arg < 2 then 2 else 1
      if x.arg % 2 = 0 then s'.install die line false due
      else if s.coh.collecting die line then none else s'.own die line due

/-- R318: permission arrives, and the waiting stores perform. -/
def execGrant (s : State) : Host.Outcome State Fault Refusal :=
  enabled s ((s.coh.arrives .grant s.ev.die s.ev.addr).bind fun x => (s.upCoh (·.land x)).own s.ev.die s.ev.addr 0)

/-- R315, R317, R322: an ACK closes a step at the home, or frees a write-back buffer's entry. -/
def execAck (s : State) : Host.Outcome State Fault Refusal :=
  s.cohStep fun c die line => (c.arrives .ack die line).map fun x =>
    if x.arg = 1 then { c.land x with wb := c.wb.del (lineKey line die) }
    else if x.arg = 2 then (c.land x).ackedExt die line
    else (c.land x).acked die line (x.arg == 3)

/-- R317: a STALE frees the buffer's entry. -/
def execStale (s : State) : Host.Outcome State Fault Refusal :=
  s.cohStep fun c die line => (c.arrives .stale die line).map fun x =>
    { c.land x with wb := c.wb.del (lineKey line die) }

/-! ### Keys (R386) -/

/-- A die's L2 holds a line no more: what the home knows of it. -/
def DirSt.without (d : DirSt) (die : Nat) : Option DirSt :=
  match d with
  | .shared mask => let left := delNum mask die; if left.isEmpty then none else some (.shared left)
  | .exclusive o => if o = die then none else some d
  | .owned o mask => if o = die then (if mask.isEmpty then none else some (.shared mask)) else some (.owned o (delNum mask die))
  | .busy _ _ _ _ => some d

/-- A line under a key id is on its way between a die and its home, or asked for. -/
def State.keyEngaged (s : State) (key : Nat) : Bool :=
  let on := fun (line : Nat) => s.coh.busy line || (s.coh.flight.any (·.line == line)) || s.coh.waiting.any (·.line == line)
  (s.coh.wb.any fun p => p.2 == key) || (s.coh.l2.any fun p => p.2.key == key && on (p.1 / 10))
    || (s.coh.flight.any fun x => s.keyOf x.line == key) || (s.coh.waiting.any fun x => s.keyOf x.line == key)
    || s.coh.dir.any fun p => s.keyOf p.1 == key && s.coh.busy p.1

/-- R386 step 3: every L2 writes back its dirty lines under a key id, and gives up every line under it. -/
def Coherence.flushKey (c : Coherence) (key : Nat) : Coherence :=
  (c.l2.filter fun p => p.2.key == key).foldl (fun (c : Coherence) p =>
    let line := p.1 / 10
    let die := p.1 % 10
    let c := c.dropLine line die
    { c with
      dir := match (c.dir.look line).bind (·.without die) with | some d => c.dir.put line d | none => c.dir.del line,
      behind := if p.2.st = .modified ∨ p.2.st = .owned then c.behind.del line else c.behind }) c

/-! ### External agents (R310, R322) -/

/-- The dies whose L2s hold a line, as its home knows them. -/
def DirSt.holders : DirSt → List Nat
  | .shared mask => mask
  | .exclusive o => [o]
  | .owned o mask => addNum mask o
  | .busy _ _ _ _ => []

/-- R322: the home of a line has applied an external write: each die that holds the line reads what it held until the INV
reaches it, and none may write it. -/
def State.sendInvs (s : State) (conn seq line : Nat) : State :=
  let old := s.lineData line
  match s.coh.dir.look line with
  | none => s.cohPaid fun c => { c with behind := c.behind.del line }
  | some d =>
    if s.coh.engaged line then s
    else
      s.cohPaid fun c =>
        let c := d.holders.foldl (fun (c : Coherence) k =>
          let c := c.shareLine line k
          { c with stale := if (c.stale.look (lineKey line k)).isSome then c.stale else c.stale.put (lineKey line k) old,
                   flight := c.flight ++ [⟨.inv, k, line, 0, some (conn, seq)⟩] }) c
        { c with dir := c.dir.put line (.shared d.holders), behind := c.behind.del line }

/-- R322: a connection's next place in its order of writes. -/
def State.extNext (s : State) (conn : Nat) : Nat := (s.coh.extSeq.look conn).getD 0

/-- R322: a connection has made a write. -/
def State.extCount (s : State) (conn : Nat) : State := s.upCoh fun c => { c with extSeq := c.extSeq.put conn (s.extNext conn + 1) }

/-- Bytes that an external write puts at an address of memory, and whether they are a tagged capability (R436). -/
structure ExtPut where
  pa : Nat
  bytes : List Byte
  tag : Bool

/-- The lines that an external write touches. -/
def putLines (ws : List ExtPut) : List Nat := (ws.flatMap fun w => linesOf w.pa w.bytes.length).dedup

/-- R310, R322: an external write of a connection as an event. -/
def State.extEvent (s : State) (conn : Nat) (ws : List ExtPut) (reads : Bool) : Ev :=
  let at_ := fun (isW : Bool) => ws.map fun w => (⟨0, .mem w.pa, w.bytes.length, isW⟩ : Touch)
  { Agent.event (.external conn) ((if reads then at_ false else []) ++ at_ true) with ext := some (conn, s.extNext conn) }

/-- R316, R322, R326: an external write may be applied now: no home of its lines is engaged, and no recorded event forbids it. -/
def State.extMay (s : State) (conn : Nat) (ws : List ExtPut) (reads : Bool) : Bool :=
  (putLines ws).all (fun l => !s.coh.engaged l) && s.allowed 10 false (s.extEvent conn ws reads)

/-- Bytes of an external write stand in memory, under world 0 (R382); granules it touches lose their tags (R148). -/
def State.putExt (s : State) (conn n : Nat) (w : ExtPut) : State :=
  (s.writeRaw 0 w.pa w.bytes w.tag).upCoh fun c =>
    { c with extBy := (List.range w.bytes.length).foldl (fun m k => NMap.put m (w.pa + k) (conn, n)) c.extBy }

/-- R322, R432: an external write of a connection is applied at its homes, all its bytes together. From then on, until every INV
has arrived, events are recorded. -/
def State.externalWrite (s : State) (conn : Nat) (ws : List ExtPut) (reads : Bool) : State :=
  let n := s.extNext conn
  let x := s.extEvent conn ws reads
  let s : State := { s with events := s.record }
  let s' := (putLines ws).foldl (fun s l => s.sendInvs conn n l) s
  let s := (s'.noteEv 10 (s'.coh.flight.length != s.coh.flight.length) x).extCount conn
  ws.foldl (fun s w => s.putExt conn n w) s

/-- The range lies in memory that reserves may hold (R376). -/
def State.inMemory (s : State) (pa n : Nat) : Bool := decide (0 < n) && s.available pa && s.available (pa + n - 1)

/-- R416: the AtomicOps that the part completes: FetchAdd of 32 and 64 bits, Swap of 32, CAS of 32 and 64. -/
def hostAtomicOp (op size : Nat) : Option Rmw :=
  match op, size with
  | 0, 4 => some .add
  | 0, 8 => some .add64
  | 1, 4 => some .xchg
  | 2, 4 => some .cas
  | 2, 8 => some .cas64
  | _, _ => none

/-- R416: an AtomicOp of the host at device memory is one step: the old bytes go to the host, and the new value is an external
write of its function. `bs` are its operands, of a CAS the compare value and then the swap value. -/
def State.hostAtomic (s : State) (fn pa op : Nat) (bs : List Byte) : Option State :=
  let size := if op = 2 then bs.length / 2 else bs.length
  match hostAtomicOp op size with
  | none => none
  | some k =>
    if pa % size ≠ 0 ∨ !s.inMemory pa size ∨ !s.extMay fn [⟨pa, List.replicate size 0, false⟩] true then none
    else
      match s.readMem 0 pa size with
      | .error _ => some { s with outbox := s.outbox ++ [.readData []] }
      | .ok old =>
        let s' : State := { s with outbox := s.outbox ++ [.readData old] }
        match k.value (valOf old) (valOf (bs.take size)) (valOf (bs.drop size)) with
        | none => some s'
        | some v => some (s'.externalWrite fn [⟨pa, numBytes v.toNat size, false⟩] true)

/-- R322: a write of a PCI Express function, whose posted writes are a connection, or its AtomicOp, waits at a home that is
engaged. -/
def execExternalWrite (s : State) : Host.Outcome State Fault Refusal :=
  let e := s.ev
  enabled s (if 64 ≤ e.id then none
    else if e.flag then s.hostAtomic e.id e.addr e.n e.bytes
    else
      let ws : List ExtPut := [⟨e.addr, e.bytes, false⟩]
      when_ (s.inMemory e.addr e.bytes.length && s.extMay e.id ws false) (s.externalWrite e.id ws false))

/-- R427: the connection of a fabric connection's writes, beside those of the functions. -/
def fabricOrder (conn : Nat) : Nat := 64 + conn

/-- R310, R382: an external agent reads device memory under world 0, by an event of its own at the home; a line that cannot be
read delivers no byte. -/
def State.externalRead (s : State) (conn pa n : Nat) : Option State :=
  let x := Agent.event (.external conn) [⟨0, .mem pa, n, false⟩]
  when_ (s.inMemory pa n && s.allowed 10 false x)
    { s.noteEv 10 false x with
      outbox := s.outbox ++ [.readData (match s.readMem 0 pa n with | .ok bs => bs | .error _ => [])] }

end Sys2Proof.Machine
end

