-- ==== Sys2Proof/Machine/Control.lean ====
section
/-! DEFINITION. Control transfer, `exit`, `nop`, `trap` and `bkpt` (04_thread_instructions R116-R120;
09_core_faults R259). -/

namespace Sys2Proof.Machine

open Sys2Proof

/-- A control word: per visited lane its effects, the register write of `call` 4 cc later. -/
def controlWord (ins : Instr) (s : State) (f : Issue → Nat → Thread → Except Word LaneOut) :
    Host.Outcome State Fault Refusal := laneWord ins .alu aluLatency s f

/-- R116: the target of a B word. -/
def branchTarget (pc : DWord) (off : BitVec 32) : DWord := pc + 8 * off.signExtend 64

/-- R116: bra. -/
def execBra (off : BitVec 32) (h : Fin 3) (s : State) : Host.Outcome State Fault Refusal :=
  controlWord (.bra off h) s fun i _ _ => .ok { LaneOut.nil with next := some (branchTarget i.x.pc off) }

/-- R117: the link of a call: the PCC with the address of the next word, untagged where that is not representable. -/
def Issue.link (i : Issue) (t : Thread) : Cap := pccAt (i.g.pccOf t) (i.x.pc + 8)

/-- R117: call. -/
def execCall (off : BitVec 32) (h : Fin 3) (s : State) : Host.Outcome State Fault Refusal :=
  controlWord (.call off h) s fun i _ t =>
    .ok { LaneOut.nil with upds := [.quad 1 (i.link t)], next := some (branchTarget i.x.pc off) }

/-- R118: the checks on a target capability, and what the PCC becomes. -/
def jumpTarget (c : Cap) : Except Word Cap :=
  if !c.tag then .error cCaptag
  else if c.otype ≠ 0 ∧ (c.otype < 64 ∨ ¬ c.has pEN) then .error cCapseal
  else if ¬ c.has pEX ∨ c.space ≠ 0 then .error cCapperm
  else if c.addr.toNat % 8 ≠ 0 then .error cAlign
  else .ok (c.withOtype 0)

/-- R118: jmpc and ret. -/
def jumpWord (ins : Instr) (b : CapSel) (s : State) : Host.Outcome State Fault Refusal :=
  controlWord ins s fun i _ t => do
    let c ← jumpTarget (i.cap t b)
    .ok { LaneOut.nil with next := some c.addr, moved := some c.code }

def execJmpc (b : CapSel) (s : State) := jumpWord (.jmpc b) b s
def execRet (b : CapSel) (s : State) := jumpWord (.ret b) b s

/-- R118: callc; the target is read before w1 takes the link. -/
def execCallc (b : CapSel) (s : State) : Host.Outcome State Fault Refusal :=
  controlWord (.callc b) s fun i _ t => do
    let c ← jumpTarget (i.cap t b)
    .ok { LaneOut.nil with upds := [.quad 1 (i.link t)], next := some c.addr, moved := some c.code }

/-- R119: exit; the thread stays Active until its flags are clear, which EXIT_COMPLETION ends. -/
def execExit (s : State) : Host.Outcome State Fault Refusal :=
  controlWord .exit s fun _ _ _ => .ok { LaneOut.nil with await := some .exit }

/-- R120: nop; a named flag is set for 1 cc. -/
def execNop (s : State) : Host.Outcome State Fault Refusal :=
  laneWord .nop .alu 1 s fun _ _ _ => .ok LaneOut.nil

/-- R259: record a trap code in the visited lanes and raise the cause in them. -/
def trapWord (ins : Instr) (code : BitVec 16) (cause : Word) (s : State) : Host.Outcome State Fault Refusal :=
  wordDo ins s fun i =>
    let lanes := i.visited.map (·.1)
    if lanes.isEmpty then i.commit 8 .alu 0 false (i.dead ins) []
    else
      { i with s := i.s.upTeam i.x.team (·.upGroup i.x.g fun g =>
          lanes.foldl (fun g l => g.upThread l fun t => { t with trap := code }) g) }.raise (lanes.map fun l => (l, cause))

def execTrap (code : BitVec 16) (s : State) := trapWord (.trap code) code cSwtrap s
def execBkpt (s : State) := trapWord .bkpt 0 cBkpt s

end Sys2Proof.Machine
end

