-- ==== Sys2Proof/Machine/CrossLane.lean ====
section
/-! DEFINITION. The cross-lane words (07_group_team_instructions R185-R193). -/

namespace Sys2Proof.Machine

open Sys2Proof

/-! ### Shapes -/

/-- How a lane's result becomes register writes, its destination resolved (R26). -/
def Issue.writerOf (i : Issue) (t : Thread) (d : Dst) : Except Word (Word → List Upd) :=
  match d with
  | .v n => .ok fun w => [.v n.val w]
  | .o n => .ok fun w => [.o n.val w]
  | .vx k e => do
    let r ← indexed i.t.nreg t k e
    .ok fun w => [.v r w]
  | .latch => .ok fun _ => []

/-- R185: the participants of a lane's segment, by position. -/
def segment {α : Type} (size lane : Nat) (ps : List (Nat × α)) : List (Nat × α) :=
  let base := lane - lane % size
  ps.filterMap fun p => if base ≤ p.1 ∧ p.1 < base + size then some (p.1 - base, p.2) else none

/-- R185, R187: a cross-lane word: `read` gives each participant's operands and writer, `res` its result and status
from its position and its segment. -/
def crossWord {α : Type} (ins : Instr) (seg : Fin 7) (s : State)
    (read : Issue → Nat → Thread → Except Word (α × (Word → List Upd)))
    (res : Nat → List (Nat × α) → Nat → α → (Word → List Upd) → List Upd × Word) : Host.Outcome State Fault Refusal :=
  wordDo ins s fun i =>
    match i.each (read i) with
    | .error cs => i.raise cs
    | .ok ps =>
      let size := segSize i.w seg
      let vals := ps.map fun p => (p.1, p.2.1)
      let out := ps.map fun p => (p.1, res size (segment size p.1 vals) (p.1 % size) p.2.1 p.2.2)
      i.commitOp ins (out.map fun p => (p.1, { LaneOut.nil with fps := p.2.2 }))
        (i.op (out.map (·.1)) 0 (.land (out.flatMap fun p => p.2.1.map fun u => (p.1, u))))

/-- A result of one 32-bit value per lane. -/
def crossVal (ins : Instr) (seg : Fin 7) (d : Dst) (a : SrcD) (s : State)
    (f : Nat → List (Nat × Word) → Nat → Word → Word × Word) : Host.Outcome State Fault Refusal :=
  crossWord ins seg s (fun i l t => do .ok (← i.src l t a.sel, ← i.writerOf t d))
    fun size ps p v wr => let r := f size ps p v; (wr r.1, r.2)

/-- The value at a position, if a participant stands there. -/
def valAt {α : Type} (ps : List (Nat × α)) (q : Nat) : Option α := (ps.find? (·.1 == q)).map (·.2)

/-! ### Exchanges (R188, R189) -/

/-- R188: `pos S p j` names the position read; none is outside the segment. -/
def exchange (ins : Instr) (d : Dst) (a j : SrcD) (seg : Fin 7) (pos : Nat → Nat → Word → Int) (s : State) :
    Host.Outcome State Fault Refusal :=
  crossWord ins seg s (fun i l t => do .ok ((← i.src l t a.sel, ← i.src l t j.sel), ← i.writerOf t d))
    fun size ps p v wr =>
      let q := pos size p v.2
      let r := if 0 ≤ q ∧ q < size then (match valAt ps q.toNat with | some w => w.1 | none => v.1) else v.1
      (wr r, 0)

def execLxAt (d : Dst) (a j : SrcD) (g : Fin 7) (s : State) :=
  exchange (.lxAt d a j g) d a j g (fun n _ j => (j.toNat % n : Nat)) s
def execLxShift (d : Dst) (a j : SrcD) (g : Fin 7) (s : State) :=
  exchange (.lxShift d a j g) d a j g (fun _ p j => (p : Int) - j.toInt) s
def execLxRot (d : Dst) (a j : SrcD) (g : Fin 7) (s : State) :=
  exchange (.lxRot d a j g) d a j g (fun n p j => ((p : Int) - (j.toNat : Int)) % n) s
def execLxFlip (d : Dst) (a j : SrcD) (g : Fin 7) (s : State) :=
  exchange (.lxFlip d a j g) d a j g (fun n p j => (p ^^^ (j.toNat % n) : Nat)) s

/-- A predicate result from a Boolean per participant. -/
def crossPred (ins : Instr) (p : Fin 7) (seg : Fin 7) (s : State) (q : Thread → Bool)
    (f : List (Nat × Bool) → Nat → Bool) : Host.Outcome State Fault Refusal :=
  crossWord ins seg s (fun _ _ t => .ok (q t, fun _ => [])) fun _ ps pos _ _ => ([.p p (f ps pos)], 0)

def execPollAny (p : Fin 7) (q : PCode) (g : Fin 7) (s : State) :=
  crossPred (.pollAny p q g) p g s (fun t => pcode t q) (fun ps _ => ps.any (·.2))
def execPollAll (p : Fin 7) (q : PCode) (g : Fin 7) (s : State) :=
  crossPred (.pollAll p q g) p g s (fun t => pcode t q) (fun ps _ => ps.all (·.2))

/-- The lowest participant's position; participants stand in ascending order. -/
def lowest {α : Type} (ps : List (Nat × α)) : Nat := match ps with | p :: _ => p.1 | [] => 0

def execElect (p : Fin 7) (g : Fin 7) (s : State) :=
  crossPred (.elect p g) p g s (fun _ => true) (fun ps pos => lowest ps == pos)

def execBcast (d : Dst) (a : SrcD) (g : Fin 7) (s : State) :=
  crossVal (.bcast d a g) g d a s (fun _ ps _ v => ((valAt ps (lowest ps)).getD v, 0))

/-! ### Masks (R190) -/

/-- R190: the writes of a mask. -/
def maskUpds (size : Nat) (d : Dst) (wr : Word → List Upd) (m : Nat) : List Upd :=
  if size ≤ 32 then wr (BitVec.ofNat 32 m)
  else match d with
    | .v n => pairUpds n.val (BitVec.ofNat 64 m)
    | _ => []

/-- The mask of the positions at which a test holds. -/
def maskOf {α : Type} (ps : List (Nat × α)) (f : α → Bool) : Nat :=
  ps.foldl (fun m p => if f p.2 then m + 2 ^ p.1 else m) 0

def execPollMask (d : Dst) (q : PCode) (g : Fin 7) (s : State) : Host.Outcome State Fault Refusal :=
  crossWord (.pollMask d q g) g s (fun i _ t => do .ok (pcode t q, ← i.writerOf t d))
    fun size ps _ _ wr => (maskUpds size d wr (maskOf ps id), 0)

def execPeers (d : Dst) (a : SrcD) (g : Fin 7) (s : State) : Host.Outcome State Fault Refusal :=
  crossWord (.peers d a g) g s (fun i l t => do .ok (← i.src l t a.sel, ← i.writerOf t d))
    fun size ps _ v wr => (maskUpds size d wr (maskOf ps (· == v)), 0)

/-! ### Reductions and scans (R191, R192) -/

/-- R191: comb with absence. -/
def combOpt {α : Type} (comb : α → α → α) : Option α → Option α → Option α
  | none, y => y
  | some x, none => some x
  | some x, some y => some (comb x y)

/-- R191: one step of the tree. -/
def treeStep {α : Type} (comb : α → α → α) : List (Option α) → List (Option α)
  | a :: b :: r => combOpt comb a b :: treeStep comb r
  | r => r

/-- The positions of a segment of a size. -/
def slotsOf {α : Type} (size : Nat) (ps : List (Nat × α)) : List (Option α) := (List.range size).map (valAt ps)

/-- R191: the reduction of a segment of at most 128 positions. -/
def reduce {α : Type} (comb : α → α → α) (size : Nat) (ps : List (Nat × α)) : Option α :=
  (((List.range 7).foldl (fun l _ => treeStep comb l) (slotsOf size ps)).head?).join

/-- R192: one step of the scan, at distance `n`. -/
def scanStep {α : Type} (comb : α → α → α) (n : Nat) (l : List (Option α)) : List (Option α) :=
  List.zipWith (combOpt comb) (List.replicate n none ++ l) l

/-- R192: the inclusive scan of a segment. -/
def scan {α : Type} (comb : α → α → α) (size : Nat) (ps : List (Nat × α)) : List (Option α) :=
  (List.range 7).foldl (fun l k => if 2 ^ k < size then scanStep comb (2 ^ k) l else l) (slotsOf size ps)

/-- A value with the status gathered in making it. -/
abbrev WithFps := Word × Word

/-- An FP operation on values with status. -/
def combF (op : Word → Word → Word × Word) (x y : WithFps) : WithFps :=
  let r := op x.1 y.1
  (r.1, x.2 ||| y.2 ||| r.2)

def redWord (ins : Instr) (d : Dst) (a : SrcD) (g : Fin 7) (op : Word → Word → Word × Word) (s : State) :
    Host.Outcome State Fault Refusal :=
  crossVal ins g d a s fun size ps _ v =>
    (reduce (combF op) size (ps.map fun p => (p.1, (p.2, (0 : Word))))).getD (v, 0)

/-- An integer operation as one that sets no status. -/
def noFps (op : Word → Word → Word) (x y : Word) : Word × Word := (op x y, 0)

def wMinS (a b : Word) : Word := if a.toInt ≤ b.toInt then a else b
def wMaxS (a b : Word) : Word := if a.toInt ≤ b.toInt then b else a

def execRedAddI32 (d : Dst) (a : SrcD) (g : Fin 7) (s : State) := redWord (.redAddI32 d a g) d a g (noFps (· + ·)) s
def execRedMinI32 (d : Dst) (a : SrcD) (g : Fin 7) (s : State) := redWord (.redMinI32 d a g) d a g (noFps wMinS) s
def execRedMaxI32 (d : Dst) (a : SrcD) (g : Fin 7) (s : State) := redWord (.redMaxI32 d a g) d a g (noFps wMaxS) s
def execRedAnd (d : Dst) (a : SrcD) (g : Fin 7) (s : State) := redWord (.redAnd d a g) d a g (noFps (· &&& ·)) s
def execRedOr (d : Dst) (a : SrcD) (g : Fin 7) (s : State) := redWord (.redOr d a g) d a g (noFps (· ||| ·)) s
def execRedXor (d : Dst) (a : SrcD) (g : Fin 7) (s : State) := redWord (.redXor d a g) d a g (noFps (· ^^^ ·)) s
def execRedAddF32 (d : Dst) (a : SrcD) (g : Fin 7) (s : State) :=
  redWord (.redAddF32 d a g) d a g (fadd32 .rne 0) s
def execRedMinF32 (d : Dst) (a : SrcD) (g : Fin 7) (s : State) :=
  redWord (.redMinF32 d a g) d a g (fun x y => fw (fp32.minNum false x.toNat y.toNat)) s
def execRedMaxF32 (d : Dst) (a : SrcD) (g : Fin 7) (s : State) :=
  redWord (.redMaxF32 d a g) d a g (fun x y => fw (fp32.minNum true x.toNat y.toNat)) s

/-- The value and the segment's status at a position of a scan of FP values: every comb's status counts (R192). -/
def scanF (size : Nat) (ps : List (Nat × Word)) : List (Option Word) × Word :=
  let l := (List.range 7).foldl (fun (acc : List (Option Word) × Word) k =>
    if 2 ^ k < size then
      let pairs := List.zip (List.replicate (2 ^ k) none ++ acc.1) acc.1
      let st := orAll (pairs.map fun p => match p with | (some x, some y) => (fadd32 .rne 0 x y).2 | _ => 0)
      (scanStep (fun x y => (fadd32 .rne 0 x y).1) (2 ^ k) acc.1, acc.2 ||| st)
    else acc) (slotsOf size ps, 0)
  l

def execScanAddI32 (d : Dst) (a : SrcD) (g : Fin 7) (s : State) :=
  crossVal (.scanAddI32 d a g) g d a s fun size ps p v => (((scan (· + ·) size ps).getD p none).getD v, 0)
def execScanAddI32X (d : Dst) (a : SrcD) (g : Fin 7) (s : State) :=
  crossVal (.scanAddI32X d a g) g d a s fun _ ps p _ => ((ps.filter fun q => decide (q.1 < p)).foldl (fun t q => t + q.2) 0, 0)
def execScanAddF32 (d : Dst) (a : SrcD) (g : Fin 7) (s : State) :=
  crossVal (.scanAddF32 d a g) g d a s fun size ps p v =>
    let r := scanF size ps
    ((r.1.getD p none).getD v, r.2)

/-! ### Sampling (R193) -/

/-- R193: a weight made usable, and its status. -/
def sampleWeight (x : Word) : Word × Word :=
  let n := x.toNat
  if fp32.isNan n || n == 0x7F800000 || (fp32.sign n && n != 0x80000000) then (0, fInvalid)
  else if n == 0x80000000 then (0, 0)
  else (x, 0)

/-- R193: the drawn position and the status of the draw, that of its rounding included (R12). -/
def samplePick (prefixes : List (Nat × Word)) (u : Word) : Word × Word :=
  let m := u.toNat / 256
  match prefixes.getLast? with
  | none => (0xFFFFFFFF, 0)
  | some (_, total) =>
    if total == 0 then (0xFFFFFFFF#32, 0)
    else if total == 0x7F800000#32 then
      (BitVec.ofNat 32 (((prefixes.find? fun p => p.2 == 0x7F800000#32).map (·.1)).getD 0), fOverflow)
    else
      match fp32.value total.toNat with
      | .num _ k e =>
        let (t, st) := roundF fp32 .rne false 0 false (k * m) (e - 24) false
        (BitVec.ofNat 32 (((prefixes.find? fun p =>
          cmpNum (fp32.value p.2.toNat) (fp32.value t) == .gt).map (·.1)).getD 0), st)
      | _ => (0, 0)

def execSample (d : Dst) (a j : SrcD) (g : Fin 7) (s : State) : Host.Outcome State Fault Refusal :=
  crossWord (.sample d a j g) g s (fun i l t => do .ok ((← i.src l t a.sel, ← i.src l t j.sel), ← i.writerOf t d))
    fun size ps _ v wr =>
      let r := scanF size (ps.map fun p => (p.1, (sampleWeight p.2.1).1))
      let prefixes : List (Nat × Word) := ps.map fun p => (p.1, (r.1.getD p.1 none).getD 0)
      let out := samplePick prefixes v.2
      (wr out.1, (sampleWeight v.1).2 ||| r.2 ||| out.2)

end Sys2Proof.Machine
end

