-- ==== Sys2Proof/Machine/HostRun.lean ====
section
/-! DEFINITION. What the host and the peers do (19_package_host R418-R425; 20_fabric R427-R436): packets and PASIDs,
host translations, MSI-X, and the arrival and acknowledgement of fabric messages. -/

namespace Sys2Proof.Machine

open Sys2Proof

/-! ### Base addresses (R417) -/

/-- R417: the bytes of a function's base address register; 0 where it has none of that number. -/
def barSize (fn bar : Nat) : Nat :=
  if fn = 0 then (if bar = 0 then 2 ^ 20 else if bar = 2 then 32768 else 0) else if bar = 0 then 32768 else 0

/-- R417: the function, the register and the offset that a bus address of the host reaches. -/
def State.barAt (s : State) (addr : Nat) : Option (Nat × Nat × Nat) :=
  s.bars.findSome? fun p =>
    if p.2 ≤ addr ∧ addr < p.2 + barSize (p.1 / 8) (p.1 % 8) then some (p.1 / 8, p.1 % 8, addr - p.2) else none

/-- R417: the queue interface of the notify page at a bus address, and the offset in the page: page i of function f is that of
interface 8 f + i. -/
def State.notifyAt (s : State) (addr : Nat) : Option (Nat × Nat) :=
  match s.barAt addr with
  | some (fn, bar, o) => if fn = 0 ∧ bar = 0 then none else some (8 * fn + o / 4096, o % 4096)
  | none => none

/-! ### Queue interfaces and packets (R418-R423) -/

/-- R418: the interfaces of a function that accept writes. -/
def State.fnEnabled (s : State) (fn : Nat) : Bool := fn == 0 || decide (fn ≤ s.vfs)

/-- R421: a packet refused or withdrawn. -/
def QueueIf.refuse (x : QueueIf) (n code : Nat) : QueueIf :=
  if n = 0 then x else { x with refused := x.refused + BitVec.ofNat 16 n, code := code }

/-- The packets of an interface in its endpoint's kernel queue. -/
def isPacket (q : Nat) (m : Msg) : Bool := m.kind == 6 && m.src == q

/-- Packets that wait for delivery. -/
def State.queued (s : State) (q : Nat) (x : QueueIf) : Nat :=
  match s.eps.look x.ep with | some e => (e.kq.filter (isPacket q)).length | none => 0

/-- R422: the message of a packet. -/
def packetMsg (q prio pasid : Nat) (gate : Gate) (bs : List Byte) : Msg :=
  let part := fun (o n : Nat) => wordOfBytes ((bs.drop o).take n)
  { words := BitVec.ofNat 32 (pasid + 2 ^ 20 * q) :: (List.range 7).map fun j => BitVec.ofNat 32 (part (4 + 4 * j) 4),
    q0 := ⟨BitVec.ofNat 128 (part 32 16), false⟩, q1 := ⟨BitVec.ofNat 128 (part 48 16), false⟩, ans := none, prio := prio,
    seq := 0, ctx := 0, born := 0, space := 0, sgen := 0, kernel := true, kind := 6, src := q, pasid := pasid, gates := [gate],
    slot := 0 }

/-- R422: why a packet is refused, in the order of the checks. -/
def State.packetCode (s : State) (q : Nat) (x : QueueIf) (w : Nat) : Option Nat :=
  if !x.bound then some 1
  else if w / 2 ^ 20 ≠ 0 then some 3
  else if !s.pasids.contains (q / 8, w % 2 ^ 20) then some 2
  else if 32 ≤ s.queued q x then some 4
  else none

/-- R420, R422: a write to the notify page of interface `q`; it is a write of its function's connection (R329). -/
def State.packet (s : State) (q off : Nat) (bs : List Byte) : State :=
  match s.qifs.look q with
  | none => s
  | some x =>
    if !s.fnEnabled (q / 8) || decide (0x40 ≤ off) then s
    else
      let w := wordOfBytes (bs.take 4)
      match (if off ≠ 0 ∨ bs.length ≠ 64 then some 3 else s.packetCode q x w) with
      | some c => { s with qifs := s.qifs.put q (x.refuse 1 c) }
      | none =>
        let fn := q / 8
        ((s.extCount fn).sendMsg x.ep (packetMsg q x.prio (w % 2 ^ 20) (.ext fn (s.extNext fn)) bs)).getD s

/-- R417, R420: a posted write of the host to a notify page. -/
def execHostPacket (s : State) : Host.Outcome State Fault Refusal :=
  let n := s.ev.bytes.length
  enabled s <| match s.notifyAt s.ev.addr with
    | none => none
    | some (q, off) => when_ (decide (0 < n) && decide (off + n ≤ 4096)) (s.packet q off s.ev.bytes)

/-- R421: the status word of an interface. -/
def QueueIf.statusWord (x : QueueIf) : Nat :=
  x.delivered.toNat + 2 ^ 32 * x.refused.toNat + 2 ^ 48 * (x.code % 256) + 2 ^ 56 * (if x.bound then 1 else 0)

/-- R420: the byte that the host reads in a notify page: the status word at 0x080, and zero in the packet slot and elsewhere. -/
def QueueIf.pageByte (x : QueueIf) (off : Nat) : Byte :=
  if 0x80 ≤ off ∧ off < 0x88 then BitVec.ofNat 8 (x.statusWord / 2 ^ (8 * (off - 0x80))) else 0

/-- R423: the point of a revocation on every interface of a function: packets of the PASIDs that `p` names are withdrawn
with code 2. -/
def State.withdrawPackets (s : State) (fn : Nat) (p : Nat → Bool) : State :=
  let hit := fun (q : Nat) (m : Msg) => isPacket q m && p m.pasid
  let count := fun (q : Nat) (x : QueueIf) =>
    match s.eps.look x.ep with | some e => (e.kq.filter (hit q)).length | none => 0
  let qifs : NMap QueueIf := s.qifs.mapv fun q (x : QueueIf) => if q / 8 = fn then x.refuse (count q x) 2 else x
  { s.mapEps (fun e => { e with kq := e.kq.filter fun m => !(m.kind == 6 && m.src / 8 == fn && p m.pasid) }) with qifs := qifs }

/-- R423: PASIDs of a function are Live no more: packets are withdrawn and cached translations dropped. -/
def State.revokePasids (s : State) (fn : Nat) (p : Nat → Bool) : State :=
  let s := s.withdrawPackets fn p
  { s with
    pasids := s.pasids.filter fun x => !(x.1 == fn && p x.2),
    ats := s.ats.filter fun x => !(x.1 == fn && p x.2.1),
    pageReqs := s.pageReqs.filter fun (r : PageReq) => !(r.fn == fn && p r.pasid) }

/-- An access in flight to host memory that meets a condition. -/
def State.hostBusy (s : State) (p : Nat → Nat → Nat → Bool) : Bool :=
  s.teams.any fun t => t.2.ops.any fun o => o.accs.any fun a =>
    match a.loc with | .host f q i => p f q i | _ => false

/-- R423: a Function Level Reset of a virtual function revokes its PASIDs; once none of its requests is in flight, it unbinds its
interfaces, and is over. -/
def execFunctionLevelReset (s : State) : Host.Outcome State Fault Refusal :=
  let fn := s.ev.id
  enabled s <|
    if fn = 0 ∨ s.vfs < fn then none
    else if !s.flr.contains fn then some { s.revokePasids fn (fun _ => true) with flr := addNum s.flr fn }
    else when_ (!s.hostBusy fun f _ _ => f == fn)
      { s.qifs.foldl (fun s p => if p.1 / 8 = fn ∧ p.2.bound then s.unbindQi p.1 2 else s) s with flr := delNum s.flr fn }

/-- R416, R417, R418, R424: the host writes the part's configuration: it enables virtual functions 1 to n, programs a base address
register, or enables ATS or PRI on a function (log 178). -/
def execVfEnable (s : State) : Host.Outcome State Fault Refusal :=
  let fn := s.ev.id
  let put := fun (l : List Nat) => if s.ev.flag then addNum l fn else delNum l fn
  enabled s <| match s.ev.m with
    | 0 => when_ (decide (s.ev.n ≤ 63)) { s with vfs := s.ev.n }
    | 1 =>
      let size := barSize fn s.ev.n
      when_ (s.fnEnabled fn && size != 0) { s with bars := s.bars.put (8 * fn + s.ev.n) (s.ev.addr / size * size) }
    | 2 => when_ (s.fnEnabled fn) { s with atsOn := put s.atsOn, ats := if s.ev.flag then s.ats else s.ats.filter (·.1 != fn) }
    | 3 => when_ (s.fnEnabled fn)
        { s with
          priOn := put s.priOn,
          pageReqs := if s.ev.flag then s.pageReqs
            else s.pageReqs.map fun r => if r.fn = fn then { r with answer := some (r.answer.getD false) } else r }
    | _ => none

/-- R424: the host invalidates a cached translation; the part answers once every use of it has completed. -/
def execAtsInvalidation (s : State) : Host.Outcome State Fault Refusal :=
  let key := (s.ev.id, s.ev.n, s.ev.addr / 4096)
  enabled s (when_ (!s.hostBusy fun f p i => (f, p, i / 4096) == key) { s with ats := s.ats.filter (· != key) })

/-- R424: the host answers a page request. -/
def execPriResponse (s : State) : Host.Outcome State Fault Refusal :=
  let open_ := fun (r : PageReq) => r.id == s.ev.id && r.answer.isNone
  let mine := s.pageReqs.filter open_
  enabled s (when_ (!mine.isEmpty)
    (if s.ev.flag then
      { s with
        pageReqs := s.pageReqs.filter fun r => !open_ r,
        ats := mine.map (fun r => (r.fn, r.pasid, r.iova)) ++ s.ats }
    else { s with pageReqs := s.pageReqs.map fun (r : PageReq) => if open_ r then { r with answer := some false } else r }))

/-- R425: the host writes a vector's entry: its address, its data and its mask; a message that the Pending Bit of an unmasked one
holds is sent. -/
def execMsixVectorUnmask (s : State) : Host.Outcome State Fault Refusal :=
  let fn := s.ev.id
  let vec := s.ev.n
  let v := s.vector fn vec
  let send := v.pending && !s.ev.flag
  let s' : State := { s with vectors := s.vectors.put (16 * fn + vec) ⟨s.ev.addr, s.ev.word, s.ev.flag, v.pending && s.ev.flag⟩ }
  enabled s (when_ (s.fnEnabled fn && decide (vec < if fn = 0 then 16 else 8))
    (if send then { s' with outbox := s'.outbox ++ [.msix fn vec s.ev.addr s.ev.word] } else s'))

/-! ### Registrations at the receiver (R434-R436) -/

/-- R434: the handle of a registration: the address field of its capability. -/
def State.handleOf (s : State) (i : Nat) : Nat := i + 2 ^ 20 * (s.genOf i).toNat

/-- R434: the live registration that a handle names on a connection. -/
def State.regAt (s : State) (conn handle : Nat) : Option (Nat × Registration) :=
  match s.regs.look (handle % 2 ^ 20) with
  | some r => if r.conn = conn ∧ s.handleOf (handle % 2 ^ 20) = handle then some (handle % 2 ^ 20, r) else none
  | none => none

/-- R434: a registration ends; an owed answer is given. -/
def State.endReg (s : State) (i : Nat) : State :=
  match s.regs.look i with
  | none => s
  | some r =>
    let s := { s with regs := s.regs.del i }.dropObj i
    match r.reply with
    | none => s
    | some a => s.giveAnswer a { goneMsg with words := List.replicate 8 0, kind := 0 }

/-- R436: a capability that crosses a connection, at its receiving end. -/
def State.foreign (s : State) (conn : Nat) (c : Cap) : Cap :=
  let f := 16320 + conn
  let home := s.regs.any fun p => p.2.conn == conn && !p.2.withdrawing && decide (p.2.base ≤ c.decode.1)
    && decide (c.decode.2 ≤ p.2.base + p.2.len)
  if !c.tag then c
  else if c.otype = 0 ∧ c.space = 0 ∧ c.has pCX then c.withOtype f
  else if c.otype = f ∧ home then c.withOtype 0
  else c.untag

/-- Data and tags of a tag-mode message: 16 bytes and a byte for each granule. -/
def unTag (bs : List Byte) : Nat → List Byte × List Bool
  | 0 => ([], [])
  | n + 1 =>
    let (d, t) := unTag (bs.drop 17) n
    (bs.take 16 ++ d, ((bs.drop 16).headD 0 != 0) :: t)

/-- The places of [va, stop) of an address space, page by page, with whether tags are kept. -/
def State.places (s : State) (space : Nat) (n : Need) : Nat → Nat → Nat → Except MErr (List (Loc × Nat × Bool))
  | 0, _, _ => .ok []
  | k + 1, va, stop =>
    let e := min stop ((va / 4096 + 1) * 4096)
    if stop ≤ va then .ok []
    else
      match (do
          let r ← s.translateFrom space 0 va n
          let _ ← s.hostCheck space va n r.1
          .ok r : Except MErr (Loc × Bool)) with
      | .error x => .error x
      | .ok (loc, keep) => (s.places space n k e stop).map fun r => (loc, e - va, keep) :: r

/-- R373: a capability under an active filter, where it stands in an address space. -/
def State.coveredIn (s : State) (space : Nat) (c : Cap) : Bool := s.revs.any fun rv => rv.active && s.coveredFrom rv space c

/-- R436: the granules of `n` bytes that a peer sent, each with the tag that it keeps here. -/
def State.granulesIn (s : State) (conn space : Nat) (bs : List Byte) (tags : List Bool) (keep : Bool) (n : Nat) : List (List Byte × Bool) :=
  (List.range (n / 16)).map fun k =>
    let c := s.foreign conn (capOfBytes ((bs.drop (16 * k)).take 16) (flagAt tags k))
    if c.tag && keep && !s.coveredIn space c then (c.bytes, true) else ((bs.drop (16 * k)).take 16, false)

/-- R432, R436: the bytes that a peer sent, as the external write that they are in memory; `tags` are those of a tag-mode
message. -/
def State.putsAt (s : State) (conn space : Nat) (bs : List Byte) (tags : List Bool) : List (Loc × Nat × Bool) → List ExtPut
  | [] => []
  | (loc, n, keep) :: r =>
    let here : List ExtPut := match loc with
      | .mem pa =>
        if tags.isEmpty then [⟨pa, bs.take n, false⟩]
        else (s.granulesIn conn space bs tags keep n).zipIdx.map fun p => ⟨pa + 16 * p.2, p.1.1, p.1.2⟩
      | _ => []
    here ++ s.putsAt conn space (bs.drop n) (tags.drop (n / 16)) r

/-- R432: bytes that a peer sent to host pages. -/
def State.putHost (s : State) (bs : List Byte) : List (Loc × Nat × Bool) → State
  | [] => s
  | (loc, n, _) :: r =>
    (match loc with | .host _ _ _ => s.writeLoc 0 loc (bs.take n) false | _ => s).putHost (bs.drop n) r

/-- The bytes at places that a peer reads at their homes; in tag mode each granule with its tag. -/
def State.getPlaces (s : State) (space : Nat) (tagMode : Bool) : List (Loc × Nat × Bool) → Except Word (List Byte)
  | [] => .ok []
  | (loc, n, keep) :: r =>
    match s.readFor 10 0 loc n 0 with
    | .error c => .error c
    | .ok bs =>
      let granule := fun (k : Nat) =>
        let d := (bs.drop (16 * k)).take 16
        let tag := keep && s.tagFor 10 (loc.plus (16 * k)) && !s.coveredIn space (capOfBytes d true)
        d ++ [if tag then 1 else 0]
      (s.getPlaces space tagMode r).map fun t => (if tagMode then (List.range (n / 16)).flatMap granule else bs) ++ t

/-! ### Messages at the receiver (R432, R435) -/

/-- R432: every byte of the message has been counted. -/
def InMsg.complete (m : InMsg) : Bool := m.isRead || countOf m.got == wireLen m.len m.tagMode

/-- R435: a message is accepted when its first packet finds the registration live, with the right and within the range. -/
def State.accepts (s : State) (conn : Nat) (m : InMsg) : Bool :=
  match s.regAt conn m.handle with
  | none => false
  | some (_, r) =>
    !r.withdrawing && decide (m.off + m.len ≤ r.len) && (if m.isRead then r.ld else r.st)

/-- R428: the reply of a message leaves in packets; an acknowledgement carries no byte. -/
def State.fabricReply (s : State) (conn seq : Nat) (cause : Word) (tagMode : Bool) (bs : List Byte) : State :=
  let ps := if bs.isEmpty then [(0, [])] else packetsOf tagMode bs
  { s with outbox := s.outbox ++ ps.map fun p => .fabricReply conn seq cause bs.length p.1 p.2 }

/-- R432, R433: a read message is served, as an external read of its connection. -/
def State.serveRead (s : State) (conn : Nat) (m : InMsg) (r : Registration) (ps : List (Loc × Nat × Bool)) : Except State State :=
  let x := Agent.event (.external (fabricOrder conn)) (ps.map fun p => ⟨0, p.1, p.2.1, false⟩)
  if !s.allowed 10 false x then .error s
  else
    match s.getPlaces r.space (m.tagMode && r.ldc) ps with
    | .error c => .ok (s.fabricReply conn m.seq c false [])
    | .ok bs =>
      let bs := if m.tagMode && !r.ldc then (List.range (m.len / 16)).flatMap fun k => (bs.drop (16 * k)).take 16 ++ [0] else bs
      let s := ps.foldl (fun s p => s.askHost p.1 p.2.1) (s.noteEv 10 false x)
      .ok ({ s with draws := s.draws + m.len }.fabricReply conn m.seq 0 m.tagMode bs)

/-- R432, R433: a write message is applied, as the external write of its connection: all of its bytes together. -/
def State.serveWrite (s : State) (conn : Nat) (m : InMsg) (r : Registration) (ps : List (Loc × Nat × Bool)) : Except State State :=
  let (bs, tags) := if m.tagMode then unTag (bytesOf m.got) (m.len / 16) else (bytesOf m.got, [])
  let ws := s.putsAt conn r.space bs (if m.tagMode then tags.map (· && r.stc) else []) ps
  let order := fabricOrder conn
  if !s.extMay order ws false then .error s
  else .ok (((if ws.isEmpty then s else s.externalWrite order ws false).putHost bs ps).fabricReply conn m.seq 0 false [])

/-- R432: a message is applied, or refused; or it waits: for a home that is engaged (R316), or for the host (R424). -/
def State.applyMsg (s : State) (conn : Nat) (m : InMsg) : Except State State :=
  match s.regAt conn m.handle with
  | none => .ok (s.fabricReply conn m.seq cRevoked false [])
  | some (_, r) =>
    if m.refused then .ok (s.fabricReply conn m.seq cRevoked false [])
    else
      let va := r.base + m.off
      let need : Need := { (if m.isRead then needR else needW) with nr := true, cap := m.tagMode }
      match s.places r.space need (m.len / 4096 + 2) va (va + m.len) with
      | .error e => if e.waits then .error (s.waitHost e) else .ok ((s.dropRefused e.host).fabricReply conn m.seq e.cause false [])
      | .ok ps => if m.isRead then s.serveRead conn m r ps else s.serveWrite conn m r ps

/-- R431, R432: a message has been applied or refused: it is over, and its units of reassembly space return to the peer. -/
def State.doneMsgIn (s : State) (conn : Nat) (m : InMsg) : State :=
  let n := unitsOf m.isRead m.len
  { s with
    conns := s.conns.upd conn fun k =>
      { k with recvSeq := k.recvSeq + 1, inMsgs := k.inMsgs.filter fun x => x.seq != m.seq, given := k.given + n },
    outbox := s.outbox ++ [.credit conn n] }

/-- R432: messages are applied in the order of their sequence numbers. -/
def State.applyReady (s : State) (conn : Nat) : Nat → State
  | 0 => s
  | n + 1 =>
    match s.conns.look conn with
    | none => s
    | some k =>
      match k.inMsgs.find? fun m => m.seq == k.recvSeq && (m.refused || m.complete) with
      | none => s
      | some m =>
        match s.applyMsg conn m with
        | .error s => s
        | .ok s => (s.doneMsgIn conn m).applyReady conn n

/-- R432: a packet joins its message. -/
def InMsg.join (m : InMsg) (off : Nat) (bs : List Byte) : InMsg := { m with got := joinAt m.got off bs }

/-- R428, R431, R432, R435: a packet of a peer arrives; the first of a message takes its units from those that the peer
holds. -/
def State.packetIn (s : State) (conn : Nat) (k : Conn) (first : InMsg) (off : Nat) (bs : List Byte) : Option State :=
  let units := unitsOf first.isRead first.len
  if first.seq < k.recvSeq then some s
  else
    match k.inMsgs.find? fun m => m.seq == first.seq with
    | some _ =>
      let ms := k.inMsgs.map fun (m : InMsg) => if m.seq = first.seq then m.join off bs else m
      some ({ s with conns := s.conns.put conn { k with inMsgs := ms } }.applyReady conn (ms.length + 1))
    | none =>
      if k.given < units then none
      else
        let ms := k.inMsgs ++ [{ first with refused := !s.accepts conn first }.join off bs]
        some ({ s with conns := s.conns.put conn { k with inMsgs := ms, given := k.given - units } }.applyReady conn (ms.length + 1))

/-- R432: a packet of a peer arrives; or, where the record names no length, a complete message that waited is applied. -/
def execFabricPacketArrival (s : State) : Host.Outcome State Fault Refusal :=
  let e := s.ev
  let m : InMsg :=
    { seq := e.n, isRead := e.flag, handle := e.m, off := e.g, len := e.len, got := [], refused := false, tagMode := e.flag2 }
  let shape := decide (1 ≤ e.len) && decide (e.len < 2 ^ 20) && decide (e.bytes.length ≤ wireLen 4096 e.flag2)
    && (!e.flag2 || e.len % 16 == 0) && decide (e.addr + e.bytes.length ≤ wireLen e.len e.flag2)
    && (if e.flag then e.bytes.isEmpty else !e.bytes.isEmpty)
  enabled s <| match s.conns.look e.id with
    | none => none
    | some k =>
      if !k.up then none
      else if e.len = 0 then some (s.applyReady e.id (k.inMsgs.length + 1))
      else if shape then s.packetIn e.id k m e.addr e.bytes else none

/-- R435: the withdrawal of a registration completes once every accepted message of it has been applied or discarded. -/
def execWithdrawalComplete (s : State) : Host.Outcome State Fault Refusal :=
  enabled s <| match s.regs.look s.ev.id with
    | none => none
    | some r =>
      let open_ := match s.conns.look r.conn with
        | some k => k.inMsgs.any fun m => !m.refused && m.handle == s.handleOf s.ev.id
        | none => false
      when_ (r.withdrawing && !open_) (s.endReg s.ev.id)

/-! ### Messages at the sender (R427, R428, R431, R433) -/

/-- R431: the peer grants credits. -/
def execCreditGrant (s : State) : Host.Outcome State Fault Refusal :=
  enabled s <| match s.conns.look s.ev.id with
    | none => none
    | some k => when_ k.up { s with conns := s.conns.put s.ev.id { k with credits := k.credits + s.ev.n } }

/-- R213, R436: granules that a peer sent for a tag-mode copy land one after another. -/
def State.landTagged (s : State) (id : Nat) (t : Team) (o : Op) (c : Copy) (conn off : Nat) (keep : Bool) (d : List Byte) :
    List Bool → Except MErr State
  | [] => .ok s
  | tg :: r =>
    let q := capOfBytes (d.take 16) true
    let ldc := match c.src with | some x => x.cap.has pLDC | none => false
    let q' := if tg && keep && ldc && storeCapOk q c.dst.cap then s.foreign conn q else q.untag
    let q' := s.settleCap t.ctx q'
    match s.sideLoc id t c.dst (c.shown o.scope) off 16 { needCopyW c with ts := q'.tag } with
    | .error e => .error e
    | .ok (loc, _) =>
      match s.storeErr loc 16 with
      | some k => .error (errOf k)
      | none => (s.storeAt t false loc q'.bytes q'.tag).landTagged id t o c conn (off + 16) keep (d.drop 16) r

/-- Bytes of a peer's reply move into the segments of a piece. -/
def State.landSegs (s : State) (id : Nat) (t : Team) (o : Op) (c : Copy) (conn : Nat) (d : List Byte) (tags : List Bool) :
    List Seg → Except MErr State
  | [] => .ok s
  | g :: r =>
    let moved := if c.tagMode then
        s.landTagged id t o c conn g.off (match g.src with | some p => p.2 | none => false) (d.take g.len) (tags.take (g.len / 16))
      else s.moveSeg id t c o.scope g (some (d.take g.len))
    match moved with
    | .error e => .error e
    | .ok s => s.landSegs id t o c conn (d.drop g.len) (tags.drop (g.len / 16)) r

/-- R319, R433: what lands with the peer's reply to a copy command's message: the bytes that its destination takes; none of an
acknowledged write, which has performed at the peer. -/
def State.replyTouches (s : State) (id : Nat) (t : Team) (o : Op) (c : Copy) (m : OutMsg) : List Touch :=
  if m.wire = 0 then []
  else (s.okSegs id t c o.scope (m.len + 1) m.off m.len).map fun g => ⟨c.lane, g.dst, g.len, true⟩

/-- R433: the peer's reply reaches a copy command: its piece has landed. -/
def State.copyReply (s : State) (id : Nat) (t : Team) (o : Op) (c : Copy) (conn : Nat) (m : OutMsg) (bs : List Byte) : State :=
  match cutLeft m.off m.len c.left with
  | none => s
  | some left =>
    if m.wire = 0 then s.landed id o c m.len left
    else
      match s.segs id t c o.scope (m.len + 1) m.off m.len with
      | .error e => s.copyFails id o c e
      | .ok gs =>
        let (d, tags) := if c.tagMode then unTag bs (m.len / 16) else (bs, [])
        match (s.note id t o (s.replyTouches id t o c m)).landSegs id t o c conn d tags gs with
        | .error e => s.copyFails id o c e
        | .ok s => s.landed id o c m.len left

/-- R433, R435: the peer acknowledges a message, answers it or refuses it. -/
def State.remoteReply (s : State) (conn : Nat) (m : OutMsg) (cause : Word) (bs : List Byte) : State :=
  match s.teams.look m.team with
  | none => s
  | some t =>
    match t.findOp m.op with
    | none => s
    | some o =>
      match o.kind with
      | .load acc dst sx cp got =>
        if cause ≠ 0 then s.failOp m.team o m.lane cause
        else
          let acc := acc.map fun (a : Access) => if a.lane = m.lane then { a with loc := .reply (BitVec.ofNat 128 (wordOfBytes bs)) } else a
          s.upTeam m.team (·.putOp { o with kind := .load acc dst sx cp got })
      | .copy c => if cause ≠ 0 then s.abortCopy m.team o c cause else s.copyReply m.team t o c conn m bs
      | _ => s

/-- R433: the message of a sequence number that awaits its reply. -/
def Conn.awaits (k : Conn) (seq : Nat) : Option OutMsg := k.outMsgs.find? fun m => m.seq == seq

/-- R319: what the reply to a message lands may perform now. -/
def State.replyMay (s : State) (m : OutMsg) : Bool :=
  match s.teams.look m.team with
  | none => true
  | some t => match t.findOp m.op with
    | none => true
    | some o => match o.kind with
      | .copy c => s.may m.team t o (s.replyTouches m.team t o c m)
      | _ => true

/-- R427, R431: a message has its whole reply: its credits return. -/
def State.answered (s : State) (conn : Nat) (m : OutMsg) (cause : Word) (bs : List Byte) : State :=
  { s with conns := s.conns.upd conn fun k =>
      { k with credits := k.credits + m.units, outMsgs := k.outMsgs.filter fun x => x.seq != m.seq } }.remoteReply conn m cause bs

/-- R432, R433, R435: the peer acknowledges a message, refuses it, or a packet of its reply arrives; the reply is whole when every
byte of it has been counted. -/
def execRemoteAck (s : State) : Host.Outcome State Fault Refusal :=
  let e := s.ev
  enabled s <| match s.conns.look e.id with
    | none => none
    | some k =>
      match k.awaits e.n with
      | none => none
      | some m =>
        if !k.up then none
        else if e.flag then some (s.answered e.id m (if e.word = 0 then cRevoked else e.word) [])
        else if m.wire < e.addr + e.bytes.length then none
        else
          let got := joinAt m.got e.addr e.bytes
          if countOf got < m.wire then
            some { s with conns := s.conns.put e.id { k with outMsgs := k.outMsgs.map fun x => if x.seq = m.seq then { x with got := got } else x } }
          else when_ (s.replyMay m) (s.answered e.id m 0 (bytesOf got))

/-- R427: a connection goes down: messages that have not been applied are discarded, and what waits for them fails. -/
def State.connFails (s : State) (conn : Nat) : State :=
  match s.conns.look conn with
  | none => s
  | some k =>
    let k' : Conn := { k with up := false, inMsgs := [], outMsgs := [] }
    k.outMsgs.foldl (fun s m => s.remoteReply conn m cMemerr []) { s with conns := s.conns.put conn k' }

def execConnectionDown (s : State) : Host.Outcome State Fault Refusal :=
  enabled s <| match s.conns.look s.ev.id with
    | none => none
    | some k => when_ k.up (s.connFails s.ev.id)

/-- A packet as it left: of a message, or of a reply. -/
def Outbound.isPacket (o : Outbound) (reply : Bool) (conn seq pos : Nat) : Bool :=
  match o with
  | .fabricWrite c n _ _ _ _ p _ => !reply && c == conn && n == seq && p == pos
  | .fabricRead c n _ _ _ _ => !reply && c == conn && n == seq && pos == 0
  | .fabricReply c n _ _ p _ => reply && c == conn && n == seq && p == pos
  | _ => false

/-- R427, R428: a packet of a message is sent again; past the firmware's retry limit its connection is down. A packet of a reply
(`flag`) may be sent again too. -/
def execPacketRetransmission (s : State) : Host.Outcome State Fault Refusal :=
  let e := s.ev
  let sent := (s.outbox.find? fun o => o.isPacket e.flag e.id e.n e.addr).toList
  enabled s <| match s.conns.look e.id with
    | none => none
    | some k =>
      if !k.up then none
      else if e.flag then some { s with outbox := s.outbox ++ sent }
      else
        match k.awaits e.n with
        | none => none
        | some m =>
          if Config.retryLimit < m.tries + 1 then some (s.connFails e.id)
          else
            let again := fun (x : OutMsg) => if x.seq = m.seq then { x with tries := x.tries + 1 } else x
            some { s with conns := s.conns.put e.id { k with outMsgs := k.outMsgs.map again }, outbox := s.outbox ++ sent }

end Sys2Proof.Machine
end

