-- ==== Sys2Proof/Machine/Firmware.lean ====
section
/-! DEFINITION. The ROM firmware as it answers the host and programs (21_device R437-R440; 16 R379, R385-R387, R396;
19_package_host R419, R423, R424; 20_fabric R427, R434): BAR0, its commands, and the key, host and fabric endpoints. -/

namespace Sys2Proof.Machine

open Sys2Proof

/-! ### Commands (R437-R439) -/

def kNotready : Nat := 10
def kBadcmd : Nat := 11

/-- R438: a request word that the write to CMD read. -/
def State.arg (s : State) (j : Nat) : Nat := (s.fw.args.getD j 0).toNat

/-- Two request words. -/
def State.arg2 (s : State) (j : Nat) : Nat := s.arg j + 2 ^ 32 * s.arg (j + 1)

/-- R438: a command completes: the response, then STAT. Of the firmware's vector R425 gives the number alone: whether it is sent
now is a free choice (log 179). -/
def State.complete (s : State) (tag status : Nat) (resp : Option (List Byte)) : State :=
  let s' : State :=
    { s with fw := { s.fw with cmd := none, statTag := tag, status := status,
                               resp := match resp with | some r => padTo 256 r | none => s.fw.resp },
             draws := s.draws + 1 }
  if Config.firmwareSignals s.draws % 2 = 1 then s'.msix 0 8 else s'

/-- R439: the opcodes. -/
def fwListed (op : Nat) : Bool := decide (1 ≤ op) && decide (op ≤ 0x11)

/-- R439, R441: the commands that the ROM state performs. -/
def fwInRom (op : Nat) : Bool := op == 0x01 || op == 0x0A || op == 0x0B || op == 0x11

/-- What a command gives: a status, a response if it has one, and the state. -/
abbrev CmdRes := Nat × Option (List Byte) × State

/-- R438, R439: the running command of an opcode is performed; `f` gives none while it has still to wait. -/
def fwCommand (op : Nat) (f : State → Option CmdRes) (s : State) : Host.Outcome State Fault Refusal :=
  enabled s <| match s.fw.cmd with
    | none => none
    | some (o, tag) =>
      if o ≠ op then none
      else if s.state = 0 ∧ !fwInRom op then some (s.complete tag kNotready none)
      else (f s).map fun r => r.2.2.complete tag r.1 r.2.1

/-- A refusal. -/
def refuse (s : State) (status : Nat) : Option CmdRes := some (status, none, s)

/-- R346, R439: a free status, where no rule names one. -/
def State.openStatus (s : State) : Nat := (Config.openWord s.draws).toNat % 12

/-- The state after a free status was drawn. -/
def State.drawn (s : State) : State := { s with draws := s.draws + 1 }

/-- A command ends with a status that no rule names, and changes nothing else. -/
def openEnd (s : State) : Option CmdRes := some (s.openStatus, none, s.drawn)

/-- R439: a request word outside its range. -/
def ranged (ok : Bool) (s : State) (r : Option CmdRes) : Option CmdRes := if ok then r else refuse s kBadcmd

/-- R438: a command whose completion waits goes on under opcode 0x100 and above. -/
def State.goesOn (s : State) (op : Nat) : State :=
  { s with fw := { s.fw with cmd := s.fw.cmd.map fun c => (op, c.2) } }

/-- The second part of a command. -/
def fwSecond (op : Nat) (done : State → Bool) (f : State → State) (s : State) : Option State :=
  match s.fw.cmd with
  | some (o, tag) => if o = op ∧ done s then some ((f s).complete tag kOk none) else none
  | none => none

/-- R437, R438: a write of 4 bytes at an offset of BAR0 of the physical function. Writes to reserved offsets and to CMD while a
command runs are discarded. -/
def State.writeBar0 (s : State) (off : Nat) (v : Word) : State :=
  let op := v.toNat % 65536
  let tag := v.toNat / 65536
  if off < 0x100 ∧ off % 4 = 0 then { s with fw := { s.fw with req := s.fw.req.set (off / 4) v } }
  else if off ≠ 0x100 ∨ s.fw.cmd.isSome then s
  else
    let s : State := { s with fw := { s.fw with args := s.fw.req, cmd := some (op, tag) } }
    if fwListed op then s else s.complete tag kBadcmd none

/-- R417, R437: the host writes 4 bytes of BAR0. -/
def execReservedRegisterWrite (s : State) : Host.Outcome State Fault Refusal :=
  enabled s <| match s.barAt s.ev.addr with
    | some (0, 0, off) => some (s.writeBar0 off s.ev.word)
    | _ => none

/-! ### Reports (R439, R441) -/

/-- Bits of a word, one for each of dies 0 to 8. -/
def State.dieBits (s : State) (p : Die → Bool) : Nat :=
  ((List.range 9).map fun d => match s.dies[d]? with | some x => if p x then 2 ^ d else 0 | none => 0).foldl (· + ·) 0

/-- R441: SERVICE. -/
def State.service (s : State) : Nat :=
  s.state + 4 * (if s.state = 0 then 0 else s.dieBits (·.coresOk)) + 2 ^ 11 * s.dieBits (·.full) + 2 ^ 20 * s.dieBits (·.failed)

/-- R442: the present positions of a compute die. -/
def Die.presentCount (d : Die) : Nat := 120 - (d.absent.filter (· < 120)).length

/-- R438: STAT. -/
def CommandSet.stat (x : CommandSet) : Nat :=
  x.statTag % 65536 + 2 ^ 16 * (x.status % 256) + 2 ^ 31 * (if x.cmd.isSome then 1 else 0)

/-- R437: the byte that the host reads in BAR0: of STAT, of the response and of SERVICE; zero at reserved offsets. What a read of the
write-only registers returns is open (log 180). -/
def State.bar0Byte (s : State) (off : Nat) : Byte :=
  if off < 0x104 then (Config.openWord (s.draws + off)).extractLsb' 0 8
  else if 0x108 ≤ off ∧ off < 0x10C then BitVec.ofNat 8 (s.fw.stat / 2 ^ (8 * (off - 0x108)))
  else if 0x200 ≤ off ∧ off < 0x300 then s.fw.resp.getD (off - 0x200) 0
  else if 0x1000 ≤ off ∧ off < 0x1004 then BitVec.ofNat 8 (s.service / 2 ^ (8 * (off - 0x1000)))
  else 0

/-- R417, R420, R437: a byte of a base address register's range, as the host reads it at a bus address; none where no function
answers. -/
def State.barByte (s : State) (addr : Nat) : Option Byte :=
  match s.barAt addr with
  | none => none
  | some (fn, bar, off) =>
    if fn = 0 ∧ bar = 0 then some (s.bar0Byte off)
    else if !s.fnEnabled fn then none
    else (s.qifs.look (8 * fn + off / 4096)).map fun x => x.pageByte (off % 4096)

/-- R310, R417, R421, R438: an external agent reads device memory; or (`flag2`) the host reads a base address register's range, all
of whose bytes it reads at one point of the interface's order. -/
def execExternalRead (s : State) : Host.Outcome State Fault Refusal :=
  let e := s.ev
  enabled s <|
    if e.flag2 then
      if e.len = 0 ∨ 4096 < e.addr % 4096 + e.len then none
      else ((List.range e.len).mapM fun k => s.barByte (e.addr + k)).map fun bs =>
        { s with outbox := s.outbox ++ [.readData bs], draws := s.draws + 0x104 }
    else s.externalRead e.id e.addr e.len

/-- Response words. -/
def wordBytes (l : List Nat) : List Byte := l.flatMap fun n => numBytes n 4

/-- R439: QUERY. -/
def execQuery (s : State) : Host.Outcome State Fault Refusal :=
  fwCommand 0x01 (fun s =>
    some (kOk, some (wordBytes ([s.service] ++ (s.dies.take 9).map Die.presentCount ++ [(s.corrected.map (·.2)).foldl (· + ·) 0])), s)) s

/-- A response window. -/
def window (l : List Byte) (off : Nat) : Option (List Byte) := some ((l.drop off).take 256)

/-- R387, R439: CERT-READ. -/
def execCertRead (s : State) : Host.Outcome State Fault Refusal :=
  fwCommand 0x0A (fun s =>
    let n := s.arg 0
    ranged (decide (n < 68)) s <|
      if n < 4 then some (kOk, window (Config.certificate n) (s.arg 1), s)
      else
        let k := s.slotOf (n - 4)
        if k.st = .empty then refuse s kState else some (kOk, window (sealCert (n - 4) k.epoch) (s.arg 1), s)) s

/-- R396, R439: VOID-READ. -/
def execVoidRead (s : State) : Host.Outcome State Fault Refusal :=
  fwCommand 0x0B (fun s =>
    ranged (decide (s.arg 0 < 64) && decide (s.arg 1 < 64)) s <|
      match (s.slotOf (s.arg 0)).voids[s.arg 1]? with
      | some r => some (kOk, window r (s.arg 2), s)
      | none => openEnd s) s

/-- R439: ERRLOG-READ. -/
def execErrlogRead (s : State) : Host.Outcome State Fault Refusal :=
  fwCommand 0x0F (fun s =>
    ranged (decide (s.arg 0 < 64)) s <|
      match s.errlog[s.arg 0]? with
      | some e => some (kOk, some (Config.errorEntry e.kind e.arg), s)
      | none => openEnd s) s

/-- R370, R439: SIGNAL; no rule gives the status of the line's source. -/
def execSignal (s : State) : Host.Outcome State Fault Refusal :=
  fwCommand 0x0E (fun s => ranged (decide (s.arg 0 < 16)) s (some (kOk, none, s.drawn.signal (s.arg 0) (Config.openWord s.draws)))) s

/-! ### The root (R439, R440) -/

/-- The bounds of an image: its length rounded up to what a capability can name. -/
def imageCap (base len : Nat) : Option Cap :=
  (List.range 16).findSome? fun e => Cap.exact (pLD ||| pEX) 0 base (ceilDiv len (2 ^ e) * 2 ^ e)

/-- R440: the argument capability of a root launch, over the root bundle. -/
def bundleCap (pa : Nat) : Cap := (Cap.exact (pLD ||| pLDC) 0 pa 9600).getD Cap.zero

/-- The launch record of LOAD-ROOT (R279): a 1 × 1 cluster. -/
def rootRecord (code arg sched : Cap) (entry groups : Nat) (carve : Nat) : LaunchRec :=
  { bytes := code.bytes ++ arg.bytes ++ List.replicate 16 0 ++ sched.bytes ++ List.replicate 112 0 ++ numBytes entry 4
      ++ numBytes 1 2 ++ numBytes 1 2 ++ numBytes 1 1 ++ numBytes 1 1 ++ numBytes groups 1 ++ numBytes 0 1
      ++ numBytes carve 4 ++ List.replicate 64 0,
    tags := [true, true, false, true] ++ List.replicate 12 false }

/-- R440: the root bundle takes the sixth to eighth units of the root reserve. -/
def bundlePa : Nat := 0x5000

/-- R439: LOAD-ROOT over an image that host memory returned. -/
def State.loadRoot (s : State) (img : List Byte) : Option CmdRes :=
  let len := s.arg 3
  let pasid := s.arg 2
  ranged (decide (pasid < 2 ^ 20) && decide (len % 8 = 0) && decide (len ≤ 2 ^ 24) && decide (s.arg 5 < 256)) s <|
    if !s.pasids.contains (0, pasid) then openEnd s
    else if img.length ≠ len then none
    else
      match s.root with
      | none => refuse s kState
      | some root =>
        let gr := 2 ^ leastE 0 len
        match s.takeUnits 0 ((ceilDiv len gr * gr + 4095) / 4096) (max 1 (gr / 4096)) with
        | none => refuse s kNomem
        | some (pa, s1) =>
          match imageCap pa len with
          | none => refuse s kState
          | some code =>
            let s1 : State := { s1 with outbox := s1.outbox ++ [.hostRead 0 pasid (s.arg2 0) len] }
            let s1 := s1.writeMem 0 pa img false
            let r := rootRecord code (bundleCap bundlePa) (s1.capOf pIvCx 2) (s.arg 4) (s.arg 5) (s.arg 6)
            match s1.checkRecord root 0 r with
            | .error _ => refuse s kState
            | .ok l => some (kOk, none, (s1.submit l).2)

def execLoadRoot (s : State) : Host.Outcome State Fault Refusal := fwCommand 0x02 (fun s => s.loadRoot s.ev.bytes) s

/-- R439: ROOT-CLEAR: every team of the root ends as `ctxkill` ends teams; it completes when nothing of them is in
flight, and their save slots join the root's pool (R343). -/
def execRootClear (s : State) : Host.Outcome State Fault Refusal :=
  let root := s.root.getD 0
  let gone := fun (s : State) => s.teams.all fun p => p.2.ctx != root || (p.2.dead && p.2.ops.isEmpty)
  let bury := fun (s : State) => (s.teamsOf [root]).foldl (fun s id => match s.teams.look id with
    | some t => (({ s.leaveCore t with teams := (s.leaveCore t).teams.del id }.freeSlot root t.slotPa).freeObj id).dropMate id
    | none => s) s
  match fwSecond 0x110 gone bury s with
  | some s => .next s
  | none =>
    enabled s <| match s.fw.cmd with
      | none => none
      | some (o, tag) =>
        if o ≠ 0x10 then none
        else if s.state = 0 then some (s.complete tag kNotready none)
        else
          let ts := s.teamsOf [root]
          let s := s.voidSessions (fun x => x.ctx == root) 3 0
          let s := s.killAnswers ts
          some ((ts.foldl State.killTeam s).goesOn 0x110)

/-! ### PASIDs and host pages (R423, R424) -/

/-- R423, R439: PASID-LIVE; it waits while a Function Level Reset of the function is under way. -/
def execPasidLive (s : State) : Host.Outcome State Fault Refusal :=
  fwCommand 0x03 (fun s =>
    let k := (s.arg 0, s.arg 1)
    ranged (decide (k.1 < 64) && decide (k.2 < 2 ^ 20)) s <|
      if s.flr.contains k.1 then none
      else if s.pasids.contains k then some (kOk, none, s)
      else if 1024 ≤ (s.pasids.filter fun p => p.1 == k.1).length then refuse s kLimit
      else some (kOk, none, { s with pasids := s.pasids ++ [k] })) s

/-- R423, R439: PASID-REVOKE takes its point in the order of every interface of the function; PASID_REVOCATION_COMPLETE
ends it. -/
def execPasidRevoke (s : State) : Host.Outcome State Fault Refusal :=
  enabled s <| match s.fw.cmd with
    | none => none
    | some (o, tag) =>
      if o ≠ 0x04 then none
      else if s.state = 0 then some (s.complete tag kNotready none)
      else if 64 ≤ s.arg 0 ∨ 2 ^ 20 ≤ s.arg 1 then some (s.complete tag kBadcmd none)
      else some ((s.revokePasids (s.arg 0) (· == s.arg 1)).goesOn 0x104)

/-- R423: the revocation completes when no device request under the PASID is in flight. -/
def execPasidRevocationComplete (s : State) : Host.Outcome State Fault Refusal :=
  enabled s (fwSecond 0x104 (fun s => !s.hostBusy fun f p _ => f == s.arg 0 && p == s.arg 1) id s)

/-- The least root VA of host pages and imports (R440). -/
def hostBase : Nat := 0x100000000000

/-- R439: the request words of HOST-MAP and HOST-UNMAP in their ranges. -/
def State.hostArgs (s : State) : Bool :=
  decide (s.arg 0 < 64) && decide (s.arg 1 < 2 ^ 20) && decide (s.arg2 2 % 4096 = 0) && decide (s.arg2 4 % 4096 = 0)
    && decide (hostBase ≤ s.arg2 4) && decide (s.arg2 4 + 4096 * s.arg 6 ≤ 2 ^ 64) && decide (s.arg 7 < 4)

/-- The root's address space. -/
def State.rootSpace (s : State) : Nat := s.spaceOf (s.root.getD 0)

/-- R424, R439: HOST-MAP. -/
def execHostMap (s : State) : Host.Outcome State Fault Refusal :=
  fwCommand 0x05 (fun s =>
    ranged s.hostArgs s <|
      match s.spaces.look s.rootSpace with
      | none => refuse s kState
      | some sp =>
        let va := s.arg2 4
        let n := s.arg 6
        if n ≠ 0 ∧ sp.overlaps 0 va (4096 * n) then refuse s kOverlap
        else
          let page := fun (j : Nat) =>
            (⟨va + 4096 * j, s.arg 0, s.arg 1, s.arg2 2 + 4096 * j, (s.arg 7).testBit 0, (s.arg 7).testBit 1⟩ : HostPage)
          let sp : Space := { sp with hostPages := sp.hostPages ++ (List.range n).map page }
          some (kOk, none, { s with spaces := s.spaces.put s.rootSpace sp })) s

/-- R365, R439: HOST-UNMAP removes the pages; it completes when every access translated through them has performed. -/
def execHostUnmap (s : State) : Host.Outcome State Fault Refusal :=
  let quiet := fun (s : State) => !s.hostBusy fun f p i =>
    f == s.arg 0 && p == s.arg 1 && decide (s.arg2 2 ≤ i) && decide (i < s.arg2 2 + 4096 * s.arg 6)
  match fwSecond 0x106 quiet id s with
  | some s => .next s
  | none =>
    enabled s <| match s.fw.cmd with
      | none => none
      | some (o, tag) =>
        if o ≠ 0x06 then none
        else if s.state = 0 then some (s.complete tag kNotready none)
        else if !s.hostArgs then some (s.complete tag kBadcmd none)
        else
          match s.spaces.look s.rootSpace with
          | none => some (s.complete tag kState none)
          | some sp =>
            let va := s.arg2 4
            let mine := fun (h : HostPage) => decide (va ≤ h.va) && decide (h.va < va + 4096 * s.arg 6) && h.fn == s.arg 0
              && h.pasid == s.arg 1 && h.iova == s.arg2 2 + (h.va - va)
            if (sp.hostPages.filter mine).length ≠ s.arg 6 then some (s.complete tag kOverlap none)
            else
              let sp : Space := { sp with hostPages := sp.hostPages.filter fun h => !mine h }
              some ({ s with spaces := s.spaces.put s.rootSpace sp }.goesOn 0x106)

/-! ### Memory (R378, R379) -/

/-- The units [a, a + n) of the root reserve are free. -/
def State.unitsFree (s : State) (a n : Nat) : Bool :=
  match s.reserves.look 0 with
  | none => false
  | some x => decide (a + n ≤ x.len / 4096) && x.used.all fun u => decide (u.1 + u.2 ≤ a) || decide (a + n ≤ u.1)

/-- Physical memory that meets a condition is cleared: bytes, tags and side-band. -/
def State.wipe (s : State) (p : Nat → Bool) : State :=
  { s with mem := s.mem.filter fun c => !p c.1, tags := s.tags.filter fun g => !p (16 * g),
           poison := s.poison.filter fun l => !p (64 * l), stamps := s.stamps.filter fun l => !p (64 * l.1) }

/-- R379, R439: MODE-SET; the 64 KiB it touches are cleared. -/
def execModeSet (s : State) : Host.Outcome State Fault Refusal :=
  fwCommand 0x07 (fun s =>
    let pa := s.arg2 0
    let n := s.arg 2
    ranged (decide (pa % 65536 = 0) && decide (s.arg 3 < 3)) s <|
      if !s.unitsFree (pa / 4096) (16 * n) then refuse s kSubset
      else
        let s := s.wipe fun a => decide (pa ≤ a) && decide (a < pa + 65536 * n)
        let set := fun (m : NMap Nat) (j : Nat) => if s.arg 3 = 0 then m.del (pa / 65536 + j) else m.put (pa / 65536 + j) (s.arg 3)
        some (kOk, none, { s with modes := (List.range n).foldl set s.modes })) s

/-- R378: the greatest capacity installed. -/
def cxlMost : Nat := 8192 * 10 ^ 9

/-- R376, R440: the root reserve and the root's identity map follow the CXL tier. -/
def State.sizeRoot (s : State) : State :=
  let n := s.cxlBytes / 4096 * 4096
  let cxl : List MapRange := if n = 0 then [] else [⟨cxlBase, n, 4096, cxlBase, true, true, true, true⟩]
  { s with reserves := s.reserves.upd 0 fun x => { x with len := cxlBase + n },
           spaces := s.spaces.upd s.rootSpace fun x => { x with maps := (x.maps.filter fun m => decide (m.va < cxlBase)) ++ cxl } }

/-- R378, R439: CXL-ADD of a device of `n` bytes. -/
def execCxlAdd (s : State) : Host.Outcome State Fault Refusal :=
  fwCommand 0x0C (fun s =>
    let p := s.arg 0
    let n := s.ev.n
    ranged (decide (p < 4)) s <|
      if s.cxl.getD p 0 ≠ 0 ∨ cxlMost < s.cxl.foldl (· + ·) 0 + n then openEnd s
      else some (kOk, none, { s with cxl := s.cxl.set p n, dead := delNum s.dead p }.sizeRoot)) s

/-- R439: some page of the CXL tier that meets a condition is in use: by the reserve, or mapped by a child. -/
def State.cxlUsed (s : State) (p : Nat → Bool) : Bool :=
  let hit := fun (a n : Nat) => (List.range ((n + 4095) / 4096)).any fun j => 
    decide (cxlBase ≤ a + 4096 * j) && decide (a + 4096 * j < cxlBase + s.cxlBytes) && p (a + 4096 * j - cxlBase)
  (match s.reserves.look 0 with | some x => x.used.any fun u => decide (cxlBase ≤ 4096 * u.1) && hit (4096 * u.1) (4096 * u.2) | none => false)
    || s.spaces.any fun q => q.2.outer == some s.rootSpace && q.2.maps.any fun m => hit m.target m.len

/-- R378, R439: CXL-REMOVE; STATE while a page of the port, or one whose address goes with it, is in use. -/
def execCxlRemove (s : State) : Host.Outcome State Fault Refusal :=
  fwCommand 0x0D (fun s =>
    let p := s.arg 0
    ranged (decide (p < 4)) s <|
      let cxl := s.cxl.set p 0
      let left := cxl.foldl (· + ·) 0 * 7 / 8
      let goes := fun (off : Nat) => cxlPort s.cxl off == p || decide (left ≤ off)
      if s.cxl.getD p 0 = 0 then openEnd s
      else if s.cxlUsed goes then refuse s kState
      else
        let s := s.wipe fun a => decide (cxlBase ≤ a) && goes (a - cxlBase)
        some (kOk, none, { s with cxl := cxl, dead := delNum s.dead p }.sizeRoot)) s

/-! ### Connections (R427) -/

/-- R427, R431, R439: CONN-UP. The peer gets its first units of reassembly space. -/
def execConnUp (s : State) : Host.Outcome State Fault Refusal :=
  fwCommand 0x08 (fun s =>
    let c := s.arg 0
    ranged (decide (c < 64) && decide (s.arg 1 < 2 ^ 18)) s <|
      if s.connUp c then refuse s kState
      else
        let k : Conn :=
          { up := s.arg 1 != 0, paths := s.arg 1, peer := (s.fw.args.drop 2).take 4, sendSeq := 0, recvSeq := 0,
            credits := Config.initialCredits, given := Config.initialGrants, inMsgs := [], outMsgs := [] }
        some (kOk, none, { s with conns := s.conns.put c k, outbox := s.outbox ++ [.credit c Config.initialGrants] })) s

/-- R427, R434, R439: CONN-DOWN ends a connection and its registrations. -/
def execConnDown (s : State) : Host.Outcome State Fault Refusal :=
  fwCommand 0x09 (fun s =>
    let c := s.arg 0
    ranged (decide (c < 64)) s <| if (s.conns.look c).isNone then openEnd s else
      let s := s.connFails c
      let s := (s.regs.filter fun p => p.2.conn == c).foldl (fun s p => s.endReg p.1) s
      some (kOk, none, { s with conns := s.conns.del c })) s

/-! ### The firmware's endpoints -/

/-- R351, R421: the firmware has a message: it is to answer it, and a packet among them is delivered. -/
def State.fwTakes (s : State) (m : Msg) : State :=
  let s := if m.kind = 6 then { s with qifs := s.qifs.upd m.src fun (x : QueueIf) => { x with delivered := x.delivered + 1 } } else s
  match m.ans with
  | none => s
  | some a => { s with answers := s.answers.upd a fun x => { x with taken := true } }

/-- The first message of a firmware endpoint, when its operation meets a condition. -/
def State.fwTake (s : State) (kind : Nat) (op : Nat → Bool) : Option (Msg × State) :=
  match s.eps.find? fun p => p.2.firmware == kind with
  | none => none
  | some (e, _) =>
    match s.takeFirst e with
    | none => none
    | some (m, s) => if op (m.words.getD 0 0).toNat then some (m, (s.fwTakes m).serveEp e 2) else none

/-- A reply of the firmware; a message that is no `ask` has none. -/
def State.fwReply (s : State) (ans : Option Nat) (ws : List Nat) (q0 : Cap) : State :=
  match ans with
  | none => s
  | some a => s.giveAnswer a
    { goneMsg with words := (List.range 8).map fun j => BitVec.ofNat 32 (ws.getD j 0), q0 := q0, kind := 0 }

/-- A request of the firmware that is answered at once: the reply's words and quad 0. -/
def fwRequest (kind : Nat) (op : Nat → Bool) (f : State → Msg → List Nat × Cap × State) (s : State) :
    Host.Outcome State Fault Refusal :=
  enabled s ((s.fwTake kind op).map fun p =>
    let r := f p.2 p.1
    r.2.2.fwReply p.1.ans r.1 r.2.1)

/-- Every word from `n` on is 0. -/
def Msg.zeroFrom (m : Msg) (n : Nat) : Bool := (m.words.drop n).all (· == 0)

/-- A quad that holds zero. -/
def Cap.isZero (c : Cap) : Bool := c.bits == 0 && !c.tag

/-- The object that a quad of a request names, with a right. -/
def State.reqObj (s : State) (m : Msg) (c : Cap) (types : List Nat) (right : BitVec 16) : Option Nat :=
  match s.objCheck m.ctx c types right with | .ok _ => some c.objIndex | .error _ => none

/-! ### Key slots (R385, R386) -/

/-- R385: the state of a slot as its reply gives it. -/
def SlotSt.no : SlotSt → Nat
  | .empty => 0
  | .armed => 1
  | .destroying => 2

/-- R385: the reply about a slot. -/
def State.slotWords (s : State) (w status : Nat) : List Nat := [status, (s.slotOf w).st.no, (s.slotOf w).sessions]

/-- R385: the slot that quad 0 of a request names. -/
def State.namedSlot (s : State) (m : Msg) : Option Nat := (s.reqObj m m.q0 [8] pIV).bind (s.keys.look ·)

/-- R385: the slot that a well-formed request names. -/
def State.reqSlot (s : State) (m : Msg) : Option Nat := if m.zeroFrom 1 && m.q1.isZero then s.namedSlot m else none

/-- R385: STATE, with the slot's state and count where the request names one. -/
def State.badKeyWords (s : State) (m : Msg) : List Nat :=
  match s.namedSlot m with | some w => s.slotWords w kState | none => [kState, 0, 0]

/-- Change a slot. -/
def State.upSlot (s : State) (w : Nat) (f : KeySlot → KeySlot) : State := { s with slots := s.slots.modify w f }

/-- R385: arm. -/
def execKeyArm (s : State) : Host.Outcome State Fault Refusal :=
  fwRequest 1 (· == 1) (fun s m =>
    match s.reqSlot m with
    | none => (s.badKeyWords m, Cap.zero, s)
    | some w =>
      if w = 0 ∨ (s.slotOf w).st ≠ .empty then (s.slotWords w kState, Cap.zero, s)
      else
        let s := s.upSlot w fun k => { k with st := .armed, sessions := 0 }
        (s.slotWords w kOk, Cap.zero, s)) s

/-- R386 step 1: destroy; the reply comes when the destruction ends. -/
def execKeyDestroy (s : State) : Host.Outcome State Fault Refusal :=
  enabled s ((s.fwTake 1 (· == 2)).map fun p =>
    let (m, s) := p
    match s.reqSlot m with
    | none => s.fwReply m.ans (s.badKeyWords m) Cap.zero
    | some w =>
      if w = 0 ∨ (s.slotOf w).st ≠ .armed then s.fwReply m.ans (s.slotWords w kState) Cap.zero
      else
        let s := s.voidSessions (fun x => x.slot == w) 7 0
        s.upSlot w fun k => { k with st := .destroying, reply := m.ans })

/-- R386 steps 2 to 5: once what passed the WORLD check has performed, the caches give up every line under the key, the keys
go, the slot is Empty and the reply is sent. -/
def execKeyDestruction (s : State) : Host.Outcome State Fault Refusal :=
  let w := s.ev.id
  let busy := s.teams.any fun p => s.worldOf p.2 == w && p.2.ops.any fun o => o.accs.any fun a =>
    match a.loc with | .mem _ => true | _ => false
  enabled s <| if (s.slotOf w).st ≠ .destroying ∨ busy ∨ s.keyEngaged w then none
    else
      let ans := (s.slotOf w).reply
      let s := (s.cores.filter fun p => p.2.world == w).foldl (fun (s : State) p => s.upCoh (·.emptyL1 (coreOfNo p.1))) s
      let s := s.cohPaid (·.flushKey w)
      let s := s.upSlot w fun k => { k with st := .empty, epoch := k.epoch + 1, reply := none }
      some (s.fwReply ans (s.slotWords w kOk) Cap.zero)

/-- R385: query; a malformed request is answered with STATE. -/
def execKeyQuery (s : State) : Host.Outcome State Fault Refusal :=
  fwRequest 1 (fun n => n != 1 && n != 2) (fun s m =>
    match s.reqSlot m with
    | none => (s.badKeyWords m, Cap.zero, s)
    | some w => (s.slotWords w (if m.words.getD 0 0 = 3 then kOk else kState), Cap.zero, s)) s

/-! ### Queue interfaces (R419) -/

/-- The first queue interface's object: those of interface q follow (R440). -/
def qiObj (q : Nat) : Nat := 72 + q

/-- R419: the interface that a request names. -/
def State.reqQi (s : State) (m : Msg) : Option (Nat × QueueIf) :=
  (s.reqObj m m.q0 [10] pIV).bind fun o => (s.qifs.look (o - qiObj 0)).map fun x => (o - qiObj 0, x)

/-- R419: the reply about an interface. -/
def State.qiWords (s : State) (q status : Nat) : List Nat :=
  [status, match s.qifs.look q with | some x => if x.bound then 1 else 0 | none => 0]

/-- R419: an operation on an interface; `ok` tells whether the words of the request are well formed, and no rule names the status of
one whose words are not. A capability that fails a check gives STATE. -/
def qiRequest (op : Nat → Bool) (ok : Msg → Bool) (f : State → Msg → Nat → QueueIf → Option State) (s : State) :
    Host.Outcome State Fault Refusal :=
  fwRequest 2 op (fun s m =>
    match s.reqQi m with
    | none => ([kState, 0], Cap.zero, s)
    | some (q, x) =>
      if !ok m then (s.qiWords q s.openStatus, Cap.zero, s.drawn)
      else
        match f s m q x with
        | none => (s.qiWords q kState, Cap.zero, s)
        | some s => (s.qiWords q kOk, Cap.zero, s)) s

/-- R419: bind. -/
def execQiBind (s : State) : Host.Outcome State Fault Refusal :=
  qiRequest (· == 1) (fun m => decide ((m.words.getD 1 0).toNat < 32) && m.zeroFrom 2)
    (fun s m q x =>
      if x.bound || (s.reqObj m m.q1 [3] pIV).isNone then none
      else
        let x : QueueIf :=
          { x with bound := true, ep := m.q1.objIndex, prio := (m.words.getD 1 0).toNat, binder := m.ctx, event := none }
        some { s with qifs := s.qifs.put q x }) s

/-- R419: unbind. -/
def execQiUnbind (s : State) : Host.Outcome State Fault Refusal :=
  qiRequest (· == 2) (fun m => m.zeroFrom 1)
    (fun s m q x => if x.bound && m.q1.isZero then some (s.unbindQi q 1) else none) s

/-- R419: query, and the operations that the table does not list. -/
def execQiQuery (s : State) : Host.Outcome State Fault Refusal :=
  qiRequest (fun n => n == 0 || decide (4 < n) || n == 3)
    (fun m => m.words.getD 0 0 == 3 && m.zeroFrom 1) (fun s m _ _ => if m.q1.isZero then some s else none) s

/-- R419, R425: interrupt. -/
def execQiInterrupt (s : State) : Host.Outcome State Fault Refusal :=
  qiRequest (· == 4) (fun m => m.zeroFrom 1)
    (fun s m q x =>
      if x.bound && (m.q1.isZero || (eventCap m.q1 (pLD ||| pST) && !s.coveredIn m.space m.q1)) then
        some { s with qifs := s.qifs.put q { x with event := if m.q1.isZero then none else some m.q1 } } else none) s

/-! ### Registrations (R434) -/

/-- The handle in words 2 and 3 of a request. -/
def Msg.handle (m : Msg) : Nat := (m.words.getD 2 0).toNat + 2 ^ 32 * (m.words.getD 3 0).toNat

/-- R434: export. -/
def State.exportReg (s : State) (m : Msg) : List Nat × Cap × State :=
  let conn := (m.words.getD 1 0).toNat
  let c := m.q0
  if !m.zeroFrom 2 || !m.q1.isZero then ([s.openStatus], Cap.zero, s.drawn)
  else if !s.connUp conn then ([kState], Cap.zero, s)
  else if !c.tag || c.otype ≠ 0 || c.space ≠ 0 || !c.has pCX || s.coveredIn m.space c then ([kSubset], Cap.zero, s)
  else
    match s.newObj 9 none with
    | none => ([kLimit], Cap.zero, s)
    | some (i, s) =>
      let (lo, hi) := c.decode
      let r : Registration :=
        { conn := conn, space := m.space, base := lo, len := hi - lo, ld := c.has pLD, st := c.has pST, ldc := c.has pLDC,
          stc := c.has pSTC, withdrawing := false, reply := none }
      let h := s.handleOf i
      ([kOk, 0, h % 2 ^ 32, h / 2 ^ 32], s.capOf pIvRvCx i, { s with regs := s.regs.put i r })

/-- R434: operation 1, and the operations that the table does not list. -/
def execRegExport (s : State) : Host.Outcome State Fault Refusal :=
  fwRequest 3 (fun n => n == 0 || n == 1 || decide (4 < n)) (fun s m =>
    if m.words.getD 0 0 = 1 then s.exportReg m else ([s.openStatus], Cap.zero, s.drawn)) s

/-- R440: the least page above everything that host pages and imports use. -/
def Space.importBase (sp : Space) : Nat :=
  ((sp.hostPages.map fun (h : HostPage) => h.va + 4096) ++ sp.remote.map fun (h : RemotePages) => h.va + h.len).foldl max hostBase

/-- R434: import. -/
def State.importReg (s : State) (m : Msg) : List Nat × Cap × State :=
  let conn := (m.words.getD 1 0).toNat
  let mask := (m.words.getD 4 0).toNat
  let rs := s.rootSpace
  let s' : State := { s with draws := s.draws + 1 }
  let no := ([kState], Cap.zero, s')
  match s.spaces.look rs, Config.peerRights conn m.handle s.draws with
  | some sp, some rights =>
    if s.root ≠ some m.ctx ∨ !s.connUp conn then no
    else if 16 ≤ mask ∨ !m.zeroFrom 5 ∨ !m.q0.isZero ∨ !m.q1.isZero then ([s.openStatus], Cap.zero, s')
    else
      let len := Config.peerLength conn m.handle s.draws
      let unit := 2 ^ max 12 (leastE 0 len)
      let va := (sp.importBase + unit - 1) / unit * unit + unit * (Config.importGap s.draws % 2 ^ 16)
      let k := mask &&& rights
      let perms := (if k.testBit 0 then pLD else 0) ||| (if k.testBit 1 then pST else 0) ||| (if k.testBit 2 then pLDC else 0)
        ||| (if k.testBit 3 then pSTC else 0)
      match Cap.exact (perms ||| pGL ||| pCX ||| pSY) 0 va len with
      | none => ([kRep], Cap.zero, s')
      | some c =>
        let p : RemotePages :=
          { va := va, len := len, conn := conn, handle := m.handle, ld := k.testBit 0, st := k.testBit 1, ldc := k.testBit 2,
            stc := k.testBit 3 }
        ([kOk], c, { s' with spaces := s'.spaces.put rs { sp with remote := sp.remote ++ [p] } })
  | _, _ => no

def execRegImport (s : State) : Host.Outcome State Fault Refusal := fwRequest 3 (· == 2) (fun s m => s.importReg m) s

/-- R434, R435: a withdrawal starts; the reply comes when it completes. -/
def execRegWithdraw (s : State) : Host.Outcome State Fault Refusal :=
  enabled s ((s.fwTake 3 (· == 3)).map fun p =>
    let (m, s) := p
    match (if m.zeroFrom 1 && m.q1.isZero then s.reqObj m m.q0 [9] pRV else none).bind fun o => (s.regs.look o).map fun r => (o, r) with
    | none => s.drawn.fwReply m.ans [s.openStatus] Cap.zero
    | some (o, r) =>
      if r.withdrawing then s.fwReply m.ans [kState] Cap.zero
      else { s with regs := s.regs.put o { r with withdrawing := true, reply := m.ans } })

/-- R365, R434: accesses that were translated through remote pages and have still to perform. -/
def State.remoteBusy (s : State) (conn handle : Nat) : Bool :=
  (s.teams.any fun t => t.2.ops.any fun o => o.accs.any fun a => match a.loc with | .remote c h _ => c == conn && h == handle | _ => false)
    || (match s.conns.look conn with
      | none => false
      | some k => k.outMsgs.any fun m => match (s.teams.look m.team).bind (·.findOp m.op) with
        | some o => (match o.kind with | .copy _ => true | _ => false)
        | none => false)

/-- R434: unimport removes the remote pages as `asunmap` does; it reports when every access through them has performed. -/
def execRegUnimport (s : State) : Host.Outcome State Fault Refusal :=
  match s.leaving.find? fun l => !s.remoteBusy l.conn l.handle with
  | some l => .next ({ s with leaving := s.leaving.erase l }.fwReply l.reply [kOk] Cap.zero)
  | none =>
    enabled s ((s.fwTake 3 (· == 4)).map fun p =>
      let (m, s) := p
      let rs := s.rootSpace
      let c := m.q0
      let ok := m.zeroFrom 1 && m.q1.isZero && c.tag && c.otype == 0 && c.space == 0 && s.spaceOf m.ctx == rs
      let hit := fun (r : RemotePages) => r.va == c.decode.1 && r.va + r.len == c.decode.2
      match (if ok then (s.spaces.look rs).bind fun sp => (sp.remote.find? hit).map fun r => (sp, r) else none) with
      | none => if ok then s.fwReply m.ans [kOverlap] Cap.zero else s.drawn.fwReply m.ans [s.openStatus] Cap.zero
      | some (sp, r) =>
        { s with spaces := s.spaces.put rs { sp with remote := sp.remote.filter fun x => !hit x },
                 leaving := s.leaving ++ [⟨r.conn, r.handle, m.ans⟩] })

end Sys2Proof.Machine
end

