-- ==== Sys2Proof/Machine/Device.lean ====
section
/-! DEFINITION. The device as a whole (21_device R440-R447; 16 R387; 03_encoding R76): the root context as the firmware
makes it, bring-up, gating, resets, SPDM, and words of a reserved opcode. -/

namespace Sys2Proof.Machine

open Sys2Proof

/-! ### The root (R440, R385, R418, R449) -/

/-- R440: the objects that the firmware makes stand in the table in the order of the root bundle; the eighth is the root
context. -/
def rootType (j : Nat) : Nat :=
  if j = 0 then 6 else if j = 1 then 7 else if j = 2 then 4 else if j = 3 then 2 else if j < 7 then 3
  else if j = 7 then 1 else if j < 72 then 8 else if j < 584 then 10 else 5

/-- R440: the permissions of the bundle's capabilities. -/
def rootPerms (j : Nat) : BitVec 16 :=
  if j = 0 then pIvRvCx else if 4 ≤ j ∧ j < 7 then pIV else pIvCx

/-- The root context. -/
def rootCtx : Ctx :=
  { creation := 0, parent := none, depth := 0, st := .runnable, ownStop := false, cut := false, cutFailed := false, cset := 1,
    sched := 2, space := 3, fault := none, ceil := 5, counters := List.replicate 8 0, reserve := 0, slots := [],
    meas := Config.firmwareMeasurement 0, events := 0, measured := [], pa := 0, cutStep := 0, cutRound := false }

/-- R376, R440: the root address space over the HBM4E tier. -/
def rootMap : Space :=
  { owner := 7, born := 0, outer := none, asid := 0, reserve := 0, units := [0x1000], tables := [],
    maps := [⟨0, 0x00B2C05E0000, 4096, 0, true, true, true, true⟩], hostPages := [], remote := [] }

/-- R376: the units of the root reserve that are used from the start: the firmware's objects and the bundle, and what
lies between the tiers. -/
def rootUsed : List (Nat × Nat) := [(0, 8), (0xB2C05E0, 0x10000000 - 0xB2C05E0)]

/-- R418: a queue interface that is Unbound. -/
def QueueIf.unbound : QueueIf :=
  { bound := false, ep := 0, prio := 0, binder := 0, event := none, delivered := 0, refused := 0, code := 0 }

/-- R440: the root bundle in memory. -/
def State.writeBundle (s : State) : State :=
  (List.range 600).foldl (fun (s : State) j =>
    if j = 7 then s else s.writeMem 0 (bundlePa + 16 * j) (s.capOf (rootPerms j) j).bytes true) s

/-- R443: a core joins the root core set under its number. -/
def State.joinCore (s : State) (c : CoreId) (n : Nat) : State :=
  let set := fun (x : CoreSet) => { x with cores := NMap.put x.cores (coreNo c) n }
  { s with csets := s.csets.upd 1 set, cores := s.cores.put (coreNo c) Core.fresh }

/-- R440: the firmware makes the root's objects; the assignable control cores join its core set. -/
def State.makeRoot (s : State) : State :=
  let ep := fun (j : Nat) => (⟨4096 * (j - 2), [], [], [], [], j - 3⟩ : Endpoint)
  let obj := fun (j : Nat) => (j, (⟨rootType j, 0, if 3 ≤ j ∧ j ≤ 7 then some 0 else none⟩ : ObjEntry))
  let s : State :=
    { s with
      objs := (List.range 600).map obj, root := some 7, ctxs := [(7, rootCtx)], spaces := [(3, rootMap)],
      scheds := [(2, ⟨none, 65536, 0, 0, 4096, some 7⟩)], csets := [(1, ⟨[], 0⟩)], eps := [(4, ep 4), (5, ep 5), (6, ep 6)],
      reserves := [(0, ⟨0, cxlBase, rootUsed, []⟩)], keys := (List.range 64).map fun w => (8 + w, w),
      qifs := (List.range 512).map fun q => (q, QueueIf.unbound),
      lines := (List.range 16).map fun n => (584 + n, ⟨n, .unbound, none, 0, 0⟩) }
  ((List.range' 4 12).foldl (fun (s : State) p => s.joinCore ⟨9, p⟩ (1076 + p)) s.sizeRoot).writeBundle

/-- R441, R449: the present cores of a die join the root core set. -/
def State.joinDie (s : State) (d : Nat) : State :=
  match s.dies[d]? with
  | none => s
  | some x => (List.range 120).foldl (fun (s : State) p => if x.absent.contains p then s else s.joinCore ⟨d, p⟩ (120 * d + p)) s

/-- Change a die. -/
def State.upDie (s : State) (d : Nat) (f : Die → Die) : State := { s with dies := s.dies.modify d f }

/-- R441: the state becomes Partial when every home part has passed, and Full when every die runs at 850 MHz or has
failed. -/
def State.advance (s : State) : State :=
  let dies := s.dies.take 9
  let s := if s.state = 0 ∧ dies.all (·.homeOk) then
      ((List.range 9).foldl (fun (s : State) d => match s.dies[d]? with
        | some x => if x.coresOk then s.joinDie d else s
        | none => s) { s with state := 1 }.makeRoot)
    else s
  if s.state = 1 ∧ dies.all (fun d => d.full || d.failed) then { s with state := 2 } else s

/-- R439: a die test failure is logged. -/
def State.dieFails (s : State) (d : Nat) : State := (s.upDie d fun x => { x with failed := true }).logEvent 3 [BitVec.ofNat 32 d]

/-- R441: a die ends the test of its home part, then that of its cores; it then moves to the full clock. -/
def execDieTestComplete (s : State) : Host.Outcome State Fault Refusal :=
  let d := s.ev.die
  let pass := s.ev.flag2
  enabled s <| match (if d < 9 then s.dies[d]? else none) with
    | none => none
    | some x =>
      if x.failed then none
      else if !x.homeOk then
        if !s.ev.flag then none
        else some (if pass then (s.upDie d fun x => { x with homeOk := true }).advance else s.dieFails d)
      else if s.ev.flag then none
      else if !x.coresOk then
        if pass then
          let s := s.upDie d fun x => { x with coresOk := true }
          some (if s.state = 0 then s else s.joinDie d)
        else some (s.dieFails d).advance
      else if s.state = 0 ∨ x.full then none
      else some (s.upDie d fun x => { x with full := true, clock := 850 }).advance

/-! ### Gating (R446) -/

/-- R446: a core lies in a rectangle of a die that meets a condition. -/
def onRect (c : CoreId) (w h : Nat) (fits : CoreId → Bool) : Bool :=
  (List.range (meshW c.die * meshH c.die)).any fun k =>
    fits ⟨c.die, k⟩ && (rectCores c.die (k % meshW c.die) (k / meshW c.die) w h).contains c

/-- R267, R446: the saved cluster of a team could come back now, but for the core it takes. -/
def State.couldReturn (s : State) (t : Team) : Bool :=
  let runs := match s.ctxs.look t.ctx with | some c => c.st == .runnable | none => false
  runs && s.worldOk t.world && (s.slotOf t.world).epoch == t.epoch
    && t.mates.all fun m => match s.teams.look m with | some u => u.st == .saved && !u.dead | none => true

/-- R446: a cluster of a Runnable context, of a launch or saved, could be placed on a core. -/
def State.couldTake (s : State) (c : CoreId) : Bool :=
  (s.launches.any fun p => s.waiting p.2 && onRect c p.2.cw p.2.ch (s.fitsAt p.2))
    || s.teams.any fun p =>
      let t := p.2
      t.st == .saved && s.couldReturn t && t.w == widthOf c
        && onRect c t.cw t.ch fun nw => s.rectFree t.ctx t.sched t.groups.length t.carve nw t.cw t.ch

/-- R446: an idle core is gated: its array, macros and banks are cleared, and %world is 0. -/
def execPowerGate (s : State) : Host.Outcome State Fault Refusal :=
  let c := s.ev.core
  let k := s.core c
  enabled s (when_ ((s.cores.look (coreNo c)).isSome && k.team.isNone && !k.gated && !k.retiring && !s.couldTake c)
    ((s.upCoh (·.emptyL1 c)).upCore c fun k => { k with gated := true, world := 0 }))

/-- R33, R446: a gated core wakes; its cycle count restarts. -/
def execCoreWake (s : State) : Host.Outcome State Fault Refusal :=
  let c := s.ev.core
  enabled s (when_ ((s.cores.look (coreNo c)).isSome && (s.core c).gated)
    (s.upCore c fun k => { k with gated := false, cycle := 0, window := 0, charged := [], shares := [] }))

/-! ### Resets (R447) -/

/-- R447: what a die keeps: the fuses and the non-volatile remap table. -/
def Die.again (d fresh : Die) : Die := { fresh with spares := d.spares, absent := d.absent }

/-- R447: key slots after a reset: the keys are new. -/
def resetSlots (keepVoids : Bool) (l : List KeySlot) : List KeySlot :=
  l.mapIdx fun w k =>
    { st := if w = 0 then .armed else .empty, epoch := k.epoch + 1, sessions := 0, voids := if keepVoids then k.voids else [],
      reply := none }

/-- R447: a reset. What is installed, what has left the part and the model's own fields stay. -/
def State.restart (s : State) (warm : Bool) : State :=
  { State.reset with
    dies := s.dies.zipWith Die.again Die.all, slots := resetSlots warm s.slots, errlog := if warm then s.errlog else [], remap := s.remap, rows := s.rows,
    cxl := s.cxl, lost := s.lost, outbox := s.outbox, inputs := s.inputs, draws := s.draws }

def execColdReset (s : State) : Host.Outcome State Fault Refusal := .next (s.restart false)
def execHotReset (s : State) : Host.Outcome State Fault Refusal := .next (s.restart true)

/-- R439, R447: the firmware command RESET; STAT is not written. -/
def execReset (s : State) : Host.Outcome State Fault Refusal :=
  enabled s <| match s.fw.cmd with
    | none => none
    | some (o, tag) =>
      if o ≠ 0x11 then none
      else some (if s.arg 0 = 1 then s.restart true else s.complete tag kBadcmd none)

/-! ### SPDM (R387) -/

/-- The responder answers a request; one that its stage does not allow has the error response (code 0). `next` is the stage
after it. -/
def spdmStep (code need next : Nat) (req : List Byte) (s : State) : Host.Outcome State Fault Refusal :=
  let ok := decide (need ≤ s.spdm.stage)
  let bytes := Config.spdmBytes (if ok then code else 0) (8 * s.spdm.version + s.spdm.stage) req
  .next { s with outbox := s.outbox ++ [.spdm bytes], spdm := if ok then { s.spdm with stage := next } else s.spdm }

/-- GET_VERSION starts the exchange anew. -/
def execGetVersion (s : State) : Host.Outcome State Fault Refusal :=
  spdmStep 0x84 0 1 [] { s with spdm := { version := 0, stage := 0 } }

/-- GET_CAPABILITIES under version 1.2 (0x12) or 1.3 (0x13); another version has the error response. -/
def execGetCapabilities (s : State) : Host.Outcome State Fault Refusal :=
  let v := s.ev.n
  if v = 0x12 ∨ v = 0x13 then
    spdmStep 0xE1 1 2 [] (if s.spdm.stage = 0 then s else { s with spdm := { s.spdm with version := v } })
  else spdmStep 0xE1 4 4 [] s

def execNegotiateAlgorithms (s : State) : Host.Outcome State Fault Refusal := spdmStep 0xE3 2 3 [] s

/-- R387: the digest of the certificate chain. -/
def execGetDigests (s : State) : Host.Outcome State Fault Refusal := spdmStep 0x81 3 3 (sha384 (Config.certificate 2)) s

/-- R387: a window of the certificate chain. -/
def execGetCertificate (s : State) : Host.Outcome State Fault Refusal :=
  spdmStep 0x82 3 3 ((((Config.certificate 2).drop s.ev.addr).take s.ev.len)) s

/-- R387: a signature over the nonce. -/
def execChallenge (s : State) : Host.Outcome State Fault Refusal := spdmStep 0x83 3 3 s.ev.bytes s

/-- R387, R444: the remap table as bytes: the cores and the rows that have retired. Its form is the model's choice. -/
def State.remapBytes (s : State) : List Byte :=
  (s.remap.flatMap fun p => numBytes p.1 1 ++ numBytes p.2 1)
    ++ s.rows.flatMap fun r => numBytes r.1 8 ++ numBytes r.2.1 8 ++ numBytes (if r.2.2 then 1 else 0) 1

/-- R387: measurement block 1 is the ROM firmware, block 2 the fuses and the remap table, block 3 the mode table. -/
def State.measureBlock (s : State) (n : Nat) : List Byte :=
  if n = 1 then Config.firmwareMeasurement 1
  else if n = 2 then sha384 (Config.fuses ++ s.remapBytes)
  else if n = 3 then sha384 (s.modes.flatMap fun p => numBytes p.1 4 ++ numBytes p.2 1)
  else []

def execGetMeasurements (s : State) : Host.Outcome State Fault Refusal := spdmStep 0xE0 3 3 (s.measureBlock s.ev.n) s

/-! ### Reserved encodings (R59, R76) -/

/-- R59, R76: a word with a reserved opcode, field or suffix raises ILLEGAL at its span. -/
def execReservedOpcode (s : State) : Host.Outcome State Fault Refusal := onIssue s Issue.illegal

end Sys2Proof.Machine
end

