-- ==== Sys2Proof/Machine/Scalar.lean ====
section
/-! DEFINITION. The scalar block, the scalar window, special and index registers, `rndc`, and the operand cache's fill
and spill (07_group_team_instructions R194-R202; 01_thread_state R33). -/

namespace Sys2Proof.Machine

open Sys2Proof

/-- The lowest visited lane and its thread (R194). -/
def Issue.first (i : Issue) : Option (Nat × Thread) := i.visited.head?

/-- R194: a word that computes once, in the lowest visited lane: `f` gives the writes; every visited lane's flag clears
with them. -/
def onceWord (ins : Instr) (kind : PendKind) (lat : Nat) (s : State)
    (f : Issue → Nat → Thread → Except Word (List Upd)) : Host.Outcome State Fault Refusal :=
  wordDo ins s fun i =>
    match i.first with
    | none => i.commit (wordLen ins) kind lat true (i.dead ins) []
    | some (l, t) =>
      match f i l t with
      | .error c => i.raise [(l, c)]
      | .ok us =>
        i.commit (wordLen ins) kind lat true (i.dead ins)
          (i.visited.map fun p => (p.1, { LaneOut.nil with upds := if p.1 = l then us else [] }))

/-- The index of a scalar selector through SW (R67). -/
def Issue.sIdx (i : Issue) (d : Nat) : Nat := 64 * i.g.sw.toNat + d

/-- R195: a scalar result of two sources. -/
def scalar2 (ins : Instr) (d : Fin 64) (x y : Src) (f : Word → Word → Word) (s : State) :
    Host.Outcome State Fault Refusal :=
  onceWord ins .scalar aluLatency s fun i l t => do
    let a ← i.src l t x
    let b ← i.src l t y
    .ok [.s (i.sIdx d.val) (f a b)]

def execSadd (d : Fin 64) (x y : Src) (s : State) := scalar2 (.sadd d x y) d x y (· + ·) s
def execSsub (d : Fin 64) (x y : Src) (s : State) := scalar2 (.ssub d x y) d x y (· - ·) s
def execSmul (d : Fin 64) (x y : Src) (s : State) := scalar2 (.smul d x y) d x y (· * ·) s
def execSand (d : Fin 64) (x y : Src) (s : State) := scalar2 (.sand d x y) d x y (· &&& ·) s
def execSor (d : Fin 64) (x y : Src) (s : State) := scalar2 (.sor d x y) d x y (· ||| ·) s
def execSxor (d : Fin 64) (x y : Src) (s : State) := scalar2 (.sxor d x y) d x y (· ^^^ ·) s
def execSshl (d : Fin 64) (x y : Src) (s : State) := scalar2 (.sshl d x y) d x y shlW s
def execSshr (d : Fin 64) (x y : Src) (s : State) := scalar2 (.sshr d x y) d x y shrW s
def execSsar (d : Fin 64) (x y : Src) (s : State) := scalar2 (.ssar d x y) d x y sarW s
def execSminI32 (d : Fin 64) (x y : Src) (s : State) := scalar2 (.sminI32 d x y) d x y minS s
def execSmaxI32 (d : Fin 64) (x y : Src) (s : State) := scalar2 (.smaxI32 d x y) d x y maxS s

/-- R195: setps writes the predicate in every visited lane, 2 cc after issue. -/
def execSetps (p : Fin 7) (x y : Src) (q : Cond) (un : Bool) (s : State) : Host.Outcome State Fault Refusal :=
  let ins : Instr := .setps p x y q un
  wordDo ins s fun i =>
    match i.first with
    | none => i.commit (wordLen ins) .pred predLatency true (i.dead ins) []
    | some (l, t) =>
      match (do .ok (← i.src l t x, ← i.src l t y) : Except Word (Word × Word)) with
      | .error c => i.raise [(l, c)]
      | .ok (a, b) =>
        let v := if un then condHolds q (asUnsigned a) (asUnsigned b) else condHolds q (asSigned a) (asSigned b)
        i.commit (wordLen ins) .pred predLatency true (i.dead ins)
          (i.visited.map fun r => (r.1, { LaneOut.nil with upds := [.p p v] }))

def execV2s (d : Fin 64) (x : Src) (s : State) : Host.Outcome State Fault Refusal :=
  onceWord (.v2s d x) .scalar aluLatency s fun i l t => do .ok [.s (i.sIdx d.val) (← i.src l t x)]

/-- R197: swin; SW changes 2 cc after issue. -/
def execSwin (x : Src) (s : State) : Host.Outcome State Fault Refusal :=
  onceWord (.swin x) .scalar predLatency s fun i l t => do .ok [.sw ((← i.src l t x).extractLsb' 0 2)]

/-! ### Special registers (R33, R198) -/

/-- R449: the number of a core in a context's core set. -/
def State.coreNumber (s : State) (ctx : Nat) (c : CoreId) : Nat :=
  match (s.ctxs.look ctx).bind fun x => s.csets.look x.cset with
  | none => 0
  | some cs => ((cs.cores.find? (·.1 == coreNo c)).map (·.2)).getD 0

/-- R33: the special register `n` as a lane reads it. -/
def Issue.special (i : Issue) (lane : Nat) (t : Thread) (n : Fin 16) : Word :=
  match n.val with
  | 0 => BitVec.ofNat 32 i.w
  | 1 => BitVec.ofNat 32 lane
  | 2 => BitVec.ofNat 32 (i.x.g * i.w + lane)
  | 3 => BitVec.ofNat 32 i.x.g
  | 4 => BitVec.ofNat 32 i.t.idx
  | 5 => BitVec.ofNat 32 (i.s.coreNumber i.t.ctx i.x.core)
  | 6 => BitVec.ofNat 32 i.t.cluster
  | 7 => BitVec.ofNat 32 i.x.core.die
  | 8 => t.fps
  | 9 => i.g.cause
  | 10 => BitVec.ofNat 32 i.t.nreg
  | 11 => BitVec.ofNat 32 i.core.cycle
  | 12 => BitVec.ofNat 32 (i.core.cycle / 2 ^ 32)
  | 13 => BitVec.ofNat 32 i.g.issued
  | 14 => i.g.sw.zeroExtend 32
  | _ => BitVec.ofNat 32 i.core.world

/-- R198: sread. Its write to a v register is no ALU write-back and meets no collision (R173): R202 says so of `ocspill` alone, so
this is the model's choice (log 172). -/
def execSread (d : SDst) (n : Fin 16) (s : State) : Host.Outcome State Fault Refusal :=
  match d with
  | .reg r =>
    laneWord (.sread d n) .scalar aluLatency s fun i l t => do
      let (us, _) ← i.dst t r (i.special l t n)
      .ok { LaneOut.nil with upds := us }
  | .s k => onceWord (.sread d n) .scalar aluLatency s fun i l t => .ok [.s (i.sIdx k.val) (i.special l t n)]

/-- R198: swrite %fps; the status of later words is ORed in after it. -/
def execSwrite (x : Src) (s : State) : Host.Outcome State Fault Refusal :=
  laneWord (.swrite x) .scalar aluLatency s fun i l t => do
    .ok { LaneOut.nil with now := [.fps ((← i.src l t x) &&& 0x1F#32)] }

/-- R199: xset; bits 31-16 and bit 7 are ignored. -/
def execXset (k : Fin 4) (x : Src) (s : State) : Host.Outcome State Fault Refusal :=
  laneWord (.xset k x) .scalar aluLatency s fun i l t => do
    .ok { LaneOut.nil with upds := [.x k ((← i.src l t x).extractLsb' 0 16 &&& 0xFF7F#16)] }

/-- R200: rndc; the bits are free values. -/
def execRndc (d : Dst) (s : State) : Host.Outcome State Fault Refusal :=
  longLand (.rndc d) s fun i l t => do .ok (← i.dst t d (Config.entropy (i.s.draws + l))).1

/-! ### Operand cache (R201, R202) -/

def execOcfill (o : Fin 16) (v : Fin 128) (n : Fin 17) (s : State) : Host.Outcome State Fault Refusal :=
  laneWord (.ocfill o v n) .scalar aluLatency s fun _ _ t =>
    .ok { LaneOut.nil with upds := (List.range n.val).map fun j => .o (o.val + j) (t.rdV (v.val + j)) }

def execOcspill (v : Fin 128) (o : Fin 16) (n : Fin 17) (s : State) : Host.Outcome State Fault Refusal :=
  laneWord (.ocspill v o n) .alu aluLatency s fun _ _ t => do
    let ws ← (List.range n.val).mapM fun j => rdO t (o.val + j)
    .ok { LaneOut.nil with upds := ws.zipIdx.map fun p => .v (v.val + p.2) p.1 }

end Sys2Proof.Machine
end

