-- ==== Sys2Proof/Machine/Dispatch.lean ====
section
/-! DEFINITION. One arm per constructor of `Instr`: the meaning of every instruction and step. -/

namespace Sys2Proof.Machine

open Sys2Proof

/-- The meaning of an instruction or step: an instruction word acts on the span in issue (`State.sel`), a step on the
arguments in `State.ev`. -/
def exec (i : Instr) (s : State) : Host.Outcome State Fault Refusal :=
  match i with
  | .add d a b => Sys2Proof.Machine.execAdd d a b s
  | .sub d a b => Sys2Proof.Machine.execSub d a b s
  | .addSatI32 d a b => Sys2Proof.Machine.execAddSatI32 d a b s
  | .subSatI32 d a b => Sys2Proof.Machine.execSubSatI32 d a b s
  | .mul d a b => Sys2Proof.Machine.execMul d a b s
  | .mulhiI32 d a b => Sys2Proof.Machine.execMulhiI32 d a b s
  | .mulhiN32 d a b => Sys2Proof.Machine.execMulhiN32 d a b s
  | .mad d a b x => Sys2Proof.Machine.execMad d a b x s
  | .minI32 d a b => Sys2Proof.Machine.execMinI32 d a b s
  | .minN32 d a b => Sys2Proof.Machine.execMinN32 d a b s
  | .maxI32 d a b => Sys2Proof.Machine.execMaxI32 d a b s
  | .maxN32 d a b => Sys2Proof.Machine.execMaxN32 d a b s
  | .absI32 d a => Sys2Proof.Machine.execAbsI32 d a s
  | .neg d a => Sys2Proof.Machine.execNeg d a s
  | .and d a b => Sys2Proof.Machine.execAnd d a b s
  | .or d a b => Sys2Proof.Machine.execOr d a b s
  | .xor d a b => Sys2Proof.Machine.execXor d a b s
  | .andn d a b => Sys2Proof.Machine.execAndn d a b s
  | .not d a => Sys2Proof.Machine.execNot d a s
  | .shl d a b => Sys2Proof.Machine.execShl d a b s
  | .shr d a b => Sys2Proof.Machine.execShr d a b s
  | .sar d a b => Sys2Proof.Machine.execSar d a b s
  | .rotl d a b => Sys2Proof.Machine.execRotl d a b s
  | .popc d a => Sys2Proof.Machine.execPopc d a s
  | .clz d a => Sys2Proof.Machine.execClz d a s
  | .brev d a => Sys2Proof.Machine.execBrev d a s
  | .bfeN32 d a b => Sys2Proof.Machine.execBfeN32 d a b s
  | .bfeI32 d a b => Sys2Proof.Machine.execBfeI32 d a b s
  | .bfi d a b x => Sys2Proof.Machine.execBfi d a b x s
  | .bsel d a b x => Sys2Proof.Machine.execBsel d a b x s
  | .sel d a b q => Sys2Proof.Machine.execSel d a b q s
  | .mov d a => Sys2Proof.Machine.execMov d a s
  | .add64 d a b => Sys2Proof.Machine.execAdd64 d a b s
  | .sub64 d a b => Sys2Proof.Machine.execSub64 d a b s
  | .mul64 d a b => Sys2Proof.Machine.execMul64 d a b s
  | .shl64 d a n => Sys2Proof.Machine.execShl64 d a n s
  | .srl64 d a n => Sys2Proof.Machine.execSrl64 d a n s
  | .sra64 d a n => Sys2Proof.Machine.execSra64 d a n s
  | .divI32 d a b => Sys2Proof.Machine.execDivI32 d a b s
  | .divN32 d a b => Sys2Proof.Machine.execDivN32 d a b s
  | .remI32 d a b => Sys2Proof.Machine.execRemI32 d a b s
  | .remN32 d a b => Sys2Proof.Machine.execRemN32 d a b s
  | .fadd d a b m => Sys2Proof.Machine.execFadd d a b m s
  | .fsub d a b m => Sys2Proof.Machine.execFsub d a b m s
  | .fmul d a b m => Sys2Proof.Machine.execFmul d a b m s
  | .ffma d a b x => Sys2Proof.Machine.execFfma d a b x s
  | .fmin d a b => Sys2Proof.Machine.execFmin d a b s
  | .fmax d a b => Sys2Proof.Machine.execFmax d a b s
  | .fminp d a b => Sys2Proof.Machine.execFminp d a b s
  | .fmaxp d a b => Sys2Proof.Machine.execFmaxp d a b s
  | .fabs d a => Sys2Proof.Machine.execFabs d a s
  | .fneg d a => Sys2Proof.Machine.execFneg d a s
  | .fcopysign d a b => Sys2Proof.Machine.execFcopysign d a b s
  | .frnd d a m => Sys2Proof.Machine.execFrnd d a m s
  | .fscale d a b m => Sys2Proof.Machine.execFscale d a b m s
  | .fgetexp d a => Sys2Proof.Machine.execFgetexp d a s
  | .fgetman d a => Sys2Proof.Machine.execFgetman d a s
  | .fdiv d a b => Sys2Proof.Machine.execFdiv d a b s
  | .frcp d a => Sys2Proof.Machine.execFrcp d a s
  | .frsq d a => Sys2Proof.Machine.execFrsq d a s
  | .fsqrt d a => Sys2Proof.Machine.execFsqrt d a s
  | .fexp2 d a => Sys2Proof.Machine.execFexp2 d a s
  | .flog2 d a => Sys2Proof.Machine.execFlog2 d a s
  | .fsin d a => Sys2Proof.Machine.execFsin d a s
  | .fcos d a => Sys2Proof.Machine.execFcos d a s
  | .hadd2Bf16 d a b => Sys2Proof.Machine.execHadd2Bf16 d a b s
  | .hmul2Bf16 d a b => Sys2Proof.Machine.execHmul2Bf16 d a b s
  | .hfma2Bf16 d a b x => Sys2Proof.Machine.execHfma2Bf16 d a b x s
  | .hadd2F16 d a b => Sys2Proof.Machine.execHadd2F16 d a b s
  | .hmul2F16 d a b => Sys2Proof.Machine.execHmul2F16 d a b s
  | .hfma2F16 d a b x => Sys2Proof.Machine.execHfma2F16 d a b x s
  | .hdot2Bf16 d a b x => Sys2Proof.Machine.execHdot2Bf16 d a b x s
  | .hdot2F16 d a b x => Sys2Proof.Machine.execHdot2F16 d a b x s
  | .pk d a f slot sat m => Sys2Proof.Machine.execPk d a f slot sat m s
  | .upk d a f slot => Sys2Proof.Machine.execUpk d a f slot s
  | .cvtF32I32 d a m => Sys2Proof.Machine.execCvtF32I32 d a m s
  | .cvtF32N32 d a m => Sys2Proof.Machine.execCvtF32N32 d a m s
  | .cvtI32F32 d a sat m => Sys2Proof.Machine.execCvtI32F32 d a sat m s
  | .cvtN32F32 d a sat m => Sys2Proof.Machine.execCvtN32F32 d a sat m s
  | .setpI32 p a b q => Sys2Proof.Machine.execSetpI32 p a b q s
  | .setpN32 p a b q => Sys2Proof.Machine.execSetpN32 p a b q s
  | .setpF32 p a b q => Sys2Proof.Machine.execSetpF32 p a b q s
  | .setpI64 p a b q => Sys2Proof.Machine.execSetpI64 p a b q s
  | .setpN64 p a b q => Sys2Proof.Machine.execSetpN64 p a b q s
  | .pand p q1 q2 => Sys2Proof.Machine.execPand p q1 q2 s
  | .por p q1 q2 => Sys2Proof.Machine.execPor p q1 q2 s
  | .pxor p q1 q2 => Sys2Proof.Machine.execPxor p q1 q2 s
  | .pnot p q1 => Sys2Proof.Machine.execPnot p q1 s
  | .v2p m a => Sys2Proof.Machine.execV2p m a s
  | .p2v d => Sys2Proof.Machine.execP2v d s
  | .lxAt d a j g => Sys2Proof.Machine.execLxAt d a j g s
  | .lxShift d a j g => Sys2Proof.Machine.execLxShift d a j g s
  | .lxRot d a j g => Sys2Proof.Machine.execLxRot d a j g s
  | .lxFlip d a j g => Sys2Proof.Machine.execLxFlip d a j g s
  | .pollAny p q g => Sys2Proof.Machine.execPollAny p q g s
  | .pollAll p q g => Sys2Proof.Machine.execPollAll p q g s
  | .pollMask d q g => Sys2Proof.Machine.execPollMask d q g s
  | .peers d a g => Sys2Proof.Machine.execPeers d a g s
  | .redAddI32 d a g => Sys2Proof.Machine.execRedAddI32 d a g s
  | .redAddF32 d a g => Sys2Proof.Machine.execRedAddF32 d a g s
  | .redMinI32 d a g => Sys2Proof.Machine.execRedMinI32 d a g s
  | .redMaxI32 d a g => Sys2Proof.Machine.execRedMaxI32 d a g s
  | .redMinF32 d a g => Sys2Proof.Machine.execRedMinF32 d a g s
  | .redMaxF32 d a g => Sys2Proof.Machine.execRedMaxF32 d a g s
  | .redAnd d a g => Sys2Proof.Machine.execRedAnd d a g s
  | .redOr d a g => Sys2Proof.Machine.execRedOr d a g s
  | .redXor d a g => Sys2Proof.Machine.execRedXor d a g s
  | .scanAddI32 d a g => Sys2Proof.Machine.execScanAddI32 d a g s
  | .scanAddI32X d a g => Sys2Proof.Machine.execScanAddI32X d a g s
  | .scanAddF32 d a g => Sys2Proof.Machine.execScanAddF32 d a g s
  | .bcast d a g => Sys2Proof.Machine.execBcast d a g s
  | .elect p g => Sys2Proof.Machine.execElect p g s
  | .sample d a j g => Sys2Proof.Machine.execSample d a j g s
  | .pairedWord fp h1 h2 => Sys2Proof.Machine.execPairedWord fp h1 h2 s
  | .bra off h => Sys2Proof.Machine.execBra off h s
  | .call off h => Sys2Proof.Machine.execCall off h s
  | .ldB8 d b off m => Sys2Proof.Machine.execLdB8 d b off m s
  | .ldB16 d b off m => Sys2Proof.Machine.execLdB16 d b off m s
  | .ldB32 d b off m => Sys2Proof.Machine.execLdB32 d b off m s
  | .ldB64 d b off m => Sys2Proof.Machine.execLdB64 d b off m s
  | .ldB128 d b off m => Sys2Proof.Machine.execLdB128 d b off m s
  | .ldc d b off m => Sys2Proof.Machine.execLdc d b off m s
  | .stB8 a b off sc o => Sys2Proof.Machine.execStB8 a b off sc o s
  | .stB16 a b off sc o => Sys2Proof.Machine.execStB16 a b off sc o s
  | .stB32 a b off sc o => Sys2Proof.Machine.execStB32 a b off sc o s
  | .stB64 a b off sc o => Sys2Proof.Machine.execStB64 a b off sc o s
  | .stB128 a b off sc o => Sys2Proof.Machine.execStB128 a b off sc o s
  | .stc a b off sc o => Sys2Proof.Machine.execStc a b off sc o s
  | .atomAdd d b x sc o => Sys2Proof.Machine.execAtomAdd d b x sc o s
  | .atomMinI32 d b x sc o => Sys2Proof.Machine.execAtomMinI32 d b x sc o s
  | .atomMinN32 d b x sc o => Sys2Proof.Machine.execAtomMinN32 d b x sc o s
  | .atomMaxI32 d b x sc o => Sys2Proof.Machine.execAtomMaxI32 d b x sc o s
  | .atomMaxN32 d b x sc o => Sys2Proof.Machine.execAtomMaxN32 d b x sc o s
  | .atomAnd d b x sc o => Sys2Proof.Machine.execAtomAnd d b x sc o s
  | .atomOr d b x sc o => Sys2Proof.Machine.execAtomOr d b x sc o s
  | .atomXor d b x sc o => Sys2Proof.Machine.execAtomXor d b x sc o s
  | .atomXchg d b x sc o => Sys2Proof.Machine.execAtomXchg d b x sc o s
  | .atomCas d b x sc o => Sys2Proof.Machine.execAtomCas d b x sc o s
  | .atomAdd64 d b x sc o => Sys2Proof.Machine.execAtomAdd64 d b x sc o s
  | .atomCas64 d b x sc o => Sys2Proof.Machine.execAtomCas64 d b x sc o s
  | .atomCas128 d b x sc o => Sys2Proof.Machine.execAtomCas128 d b x sc o s
  | .atomFaddF32 d b x sc o => Sys2Proof.Machine.execAtomFaddF32 d b x sc o s
  | .fence sc o => Sys2Proof.Machine.execFence sc o s
  | .waitne a b off sc acq => Sys2Proof.Machine.execWaitne a b off sc acq s
  | .prefetch b off h => Sys2Proof.Machine.execPrefetch b off h s
  | .capAddr d b => Sys2Proof.Machine.execCapAddr d b s
  | .capBase d b => Sys2Proof.Machine.execCapBase d b s
  | .capLen d b => Sys2Proof.Machine.execCapLen d b s
  | .capPerm d b => Sys2Proof.Machine.execCapPerm d b s
  | .capType d b => Sys2Proof.Machine.execCapType d b s
  | .capTag d b => Sys2Proof.Machine.execCapTag d b s
  | .capSeta d b x => Sys2Proof.Machine.execCapSeta d b x s
  | .capAdd d b x => Sys2Proof.Machine.execCapAdd d b x s
  | .capBound d b x => Sys2Proof.Machine.execCapBound d b x s
  | .capBoundx d b x => Sys2Proof.Machine.execCapBoundx d b x s
  | .capMask d b m => Sys2Proof.Machine.execCapMask d b m s
  | .capSeal d b x => Sys2Proof.Machine.execCapSeal d b x s
  | .capUnseal d b x => Sys2Proof.Machine.execCapUnseal d b x s
  | .capUntag d b => Sys2Proof.Machine.execCapUntag d b s
  | .capMov d b => Sys2Proof.Machine.execCapMov d b s
  | .capDiff d b x => Sys2Proof.Machine.execCapDiff d b x s
  | .capWithin p b x => Sys2Proof.Machine.execCapWithin p b x s
  | .capRlen d x => Sys2Proof.Machine.execCapRlen d x s
  | .capAmask d x => Sys2Proof.Machine.execCapAmask d x s
  | .capMint d b x => Sys2Proof.Machine.execCapMint d b x s
  | .capSame p b x => Sys2Proof.Machine.execCapSame p b x s
  | .cpin a b x sc tm => Sys2Proof.Machine.execCpin a b x sc tm s
  | .cpout a b x sc tm => Sys2Proof.Machine.execCpout a b x sc tm s
  | .cpx a b x sc tm => Sys2Proof.Machine.execCpx a b x sc tm s
  | .cpfill a v x sc => Sys2Proof.Machine.execCpfill a v x sc s
  | .waitown a b off => Sys2Proof.Machine.execWaitown a b off s
  | .waitgen a b off => Sys2Proof.Machine.execWaitgen a b off s
  | .arrset a b off => Sys2Proof.Machine.execArrset a b off s
  | .ocfill o v n => Sys2Proof.Machine.execOcfill o v n s
  | .ocspill v o n => Sys2Proof.Machine.execOcspill v o n s
  | .carve p x n => Sys2Proof.Machine.execCarve p x n s
  | .tbar n => Sys2Proof.Machine.execTbar n s
  | .rbarInit n => Sys2Proof.Machine.execRbarInit n s
  | .rbarWait n => Sys2Proof.Machine.execRbarWait n s
  | .swin x => Sys2Proof.Machine.execSwin x s
  | .sread d n => Sys2Proof.Machine.execSread d n s
  | .swrite x => Sys2Proof.Machine.execSwrite x s
  | .rndc d => Sys2Proof.Machine.execRndc d s
  | .yield step => Sys2Proof.Machine.execYield step s
  | .xset k x => Sys2Proof.Machine.execXset k x s
  | .sadd d x y => Sys2Proof.Machine.execSadd d x y s
  | .ssub d x y => Sys2Proof.Machine.execSsub d x y s
  | .smul d x y => Sys2Proof.Machine.execSmul d x y s
  | .sand d x y => Sys2Proof.Machine.execSand d x y s
  | .sor d x y => Sys2Proof.Machine.execSor d x y s
  | .sxor d x y => Sys2Proof.Machine.execSxor d x y s
  | .sshl d x y => Sys2Proof.Machine.execSshl d x y s
  | .sshr d x y => Sys2Proof.Machine.execSshr d x y s
  | .ssar d x y => Sys2Proof.Machine.execSsar d x y s
  | .sminI32 d x y => Sys2Proof.Machine.execSminI32 d x y s
  | .smaxI32 d x y => Sys2Proof.Machine.execSmaxI32 d x y s
  | .setps p x y q un => Sys2Proof.Machine.execSetps p x y q un s
  | .v2s d x => Sys2Proof.Machine.execV2s d x s
  | .mldb bf b x => Sys2Proof.Machine.execMldb bf b x s
  | .mbeg af bf ofm m x => Sys2Proof.Machine.execMbeg af bf ofm m x s
  | .mma g b x => Sys2Proof.Machine.execMma g b x s
  | .mend x b cc => Sys2Proof.Machine.execMend x b cc s
  | .mzero x => Sys2Proof.Machine.execMzero x s
  | .mrd d x => Sys2Proof.Machine.execMrd d x s
  | .mstat d x => Sys2Proof.Machine.execMstat d x s
  | .spawn v => Sys2Proof.Machine.execSpawn v s
  | .tend b sc => Sys2Proof.Machine.execTend b sc s
  | .join b off sc => Sys2Proof.Machine.execJoin b off sc s
  | .launch b off => Sys2Proof.Machine.execLaunch b off s
  | .evwait g b off sc => Sys2Proof.Machine.execEvwait g b off sc s
  | .evpub g b off sc => Sys2Proof.Machine.execEvpub g b off sc s
  | .dqinfo d item => Sys2Proof.Machine.execDqinfo d item s
  | .post m e q => Sys2Proof.Machine.execPost m e q s
  | .take m e q => Sys2Proof.Machine.execTake m e q s
  | .ask p m e q qs => Sys2Proof.Machine.execAsk p m e q qs s
  | .answer m e q => Sys2Proof.Machine.execAnswer m e q s
  | .settle m r e q qs => Sys2Proof.Machine.execSettle m r e q qs s
  | .postTry p m e q => Sys2Proof.Machine.execPostTry p m e q s
  | .ctxnew d r q => Sys2Proof.Machine.execCtxnew d r q s
  | .ctxcfg d x it => Sys2Proof.Machine.execCtxcfg d x it s
  | .ctxrun d x r => Sys2Proof.Machine.execCtxrun d x r s
  | .ctxstop d x cut => Sys2Proof.Machine.execCtxstop d x cut s
  | .ctxkill d x => Sys2Proof.Machine.execCtxkill d x s
  | .asnew d r => Sys2Proof.Machine.execAsnew d r s
  | .asmap d x m => Sys2Proof.Machine.execAsmap d x m s
  | .asunmap d x m => Sys2Proof.Machine.execAsunmap d x m s
  | .objmake d r x => Sys2Proof.Machine.execObjmake d r x s
  | .revoke d r n => Sys2Proof.Machine.execRevoke d r n s
  | .schnew d r x => Sys2Proof.Machine.execSchnew d r x s
  | .schset item d r x => Sys2Proof.Machine.execSchset item d r x s
  | .lnbind d ln e => Sys2Proof.Machine.execLnbind d ln e s
  | .lnack d x => Sys2Proof.Machine.execLnack d x s
  | .tread d t x => Sys2Proof.Machine.execTread d t x s
  | .twrite y t x => Sys2Proof.Machine.execTwrite y t x s
  | .tclr m t g => Sys2Proof.Machine.execTclr m t g s
  | .tresume d x => Sys2Proof.Machine.execTresume d x s
  | .attest m x b => Sys2Proof.Machine.execAttest m x b s
  | .troyOpen d k b => Sys2Proof.Machine.execTroyOpen d k b s
  | .troyAbs sv b x sc => Sys2Proof.Machine.execTroyAbs sv b x sc s
  | .troyClose d x => Sys2Proof.Machine.execTroyClose d x s
  | .trap code => Sys2Proof.Machine.execTrap code s
  | .callc b => Sys2Proof.Machine.execCallc b s
  | .jmpc b => Sys2Proof.Machine.execJmpc b s
  | .ret b => Sys2Proof.Machine.execRet b s
  | .exit => Sys2Proof.Machine.execExit s
  | .bkpt => Sys2Proof.Machine.execBkpt s
  | .nop => Sys2Proof.Machine.execNop s
  | .aluWriteback => Sys2Proof.Machine.execAluWriteback s
  | .predicateWriteback => Sys2Proof.Machine.execPredicateWriteback s
  | .scalarWriteback => Sys2Proof.Machine.execScalarWriteback s
  | .landingWrite => Sys2Proof.Machine.execLandingWrite s
  | .storePerform => Sys2Proof.Machine.execStorePerform s
  | .latchHoldExpiry => Sys2Proof.Machine.execLatchHoldExpiry s
  | .affinityRunLimit => Sys2Proof.Machine.execAffinityRunLimit s
  | .spanDisplacement => Sys2Proof.Machine.execSpanDisplacement s
  | .unhousedHousing => Sys2Proof.Machine.execUnhousedHousing s
  | .pccEntryAcquire => Sys2Proof.Machine.execPccEntryAcquire s
  | .waitneWake => Sys2Proof.Machine.execWaitneWake s
  | .waitownComplete => Sys2Proof.Machine.execWaitownComplete s
  | .waitgenComplete => Sys2Proof.Machine.execWaitgenComplete s
  | .teamBarrierRelease => Sys2Proof.Machine.execTeamBarrierRelease s
  | .convergenceRelease => Sys2Proof.Machine.execConvergenceRelease s
  | .joinComplete => Sys2Proof.Machine.execJoinComplete s
  | .evwaitComplete => Sys2Proof.Machine.execEvwaitComplete s
  | .yieldComplete => Sys2Proof.Machine.execYieldComplete s
  | .exitCompletion => Sys2Proof.Machine.execExitCompletion s
  | .tendCompletion => Sys2Proof.Machine.execTendCompletion s
  | .taskStart => Sys2Proof.Machine.execTaskStart s
  | .refill => Sys2Proof.Machine.execRefill s
  | .stealSearch => Sys2Proof.Machine.execStealSearch s
  | .stealRequest => Sys2Proof.Machine.execStealRequest s
  | .stealFrameArrival => Sys2Proof.Machine.execStealFrameArrival s
  | .arrivalWordUpdate => Sys2Proof.Machine.execArrivalWordUpdate s
  | .copyComplete => Sys2Proof.Machine.execCopyComplete s
  | .copyAbort => Sys2Proof.Machine.execCopyAbort s
  | .mldbPerform => Sys2Proof.Machine.execMldbPerform s
  | .mbegPerform => Sys2Proof.Machine.execMbegPerform s
  | .mmaPerform => Sys2Proof.Machine.execMmaPerform s
  | .mendPerform => Sys2Proof.Machine.execMendPerform s
  | .mzeroPerform => Sys2Proof.Machine.execMzeroPerform s
  | .mrdPerform => Sys2Proof.Machine.execMrdPerform s
  | .mstatPerform => Sys2Proof.Machine.execMstatPerform s
  | .currentGrant => Sys2Proof.Machine.execCurrentGrant s
  | .asyncCause => Sys2Proof.Machine.execAsyncCause s
  | .haltRequest => Sys2Proof.Machine.execHaltRequest s
  | .skidLimit => Sys2Proof.Machine.execSkidLimit s
  | .stopComplete => Sys2Proof.Machine.execStopComplete s
  | .descheduleRequest => Sys2Proof.Machine.execDescheduleRequest s
  | .yieldDebt => Sys2Proof.Machine.execYieldDebt s
  | .cutRound => Sys2Proof.Machine.execCutRound s
  | .teamSave => Sys2Proof.Machine.execTeamSave s
  | .teamRestore => Sys2Proof.Machine.execTeamRestore s
  | .launchAcceptance => Sys2Proof.Machine.execLaunchAcceptance s
  | .launchReady => Sys2Proof.Machine.execLaunchReady s
  | .clusterPlacement => Sys2Proof.Machine.execClusterPlacement s
  | .teamCompletion => Sys2Proof.Machine.execTeamCompletion s
  | .budgetWindow => Sys2Proof.Machine.execBudgetWindow s
  | .allowanceReached => Sys2Proof.Machine.execAllowanceReached s
  | .priorityClaim => Sys2Proof.Machine.execPriorityClaim s
  | .equalPriorityHoldLimit => Sys2Proof.Machine.execEqualPriorityHoldLimit s
  | .interruptSignal => Sys2Proof.Machine.execInterruptSignal s
  | .filterActivation => Sys2Proof.Machine.execFilterActivation s
  | .furlongPass => Sys2Proof.Machine.execFurlongPass s
  | .revocationComplete => Sys2Proof.Machine.execRevocationComplete s
  | .ctxstopComplete => Sys2Proof.Machine.execCtxstopComplete s
  | .ctxkillComplete => Sys2Proof.Machine.execCtxkillComplete s
  | .asunmapComplete => Sys2Proof.Machine.execAsunmapComplete s
  | .absorbComplete => Sys2Proof.Machine.execAbsorbComplete s
  | .sealRecordWrite => Sys2Proof.Machine.execSealRecordWrite s
  | .ageingMonitorRead => Sys2Proof.Machine.execAgeingMonitorRead s
  | .spareRemap => Sys2Proof.Machine.execSpareRemap s
  | .channelRetirement => Sys2Proof.Machine.execChannelRetirement s
  | .rds => Sys2Proof.Machine.execRds s
  | .rdx => Sys2Proof.Machine.execRdx s
  | .upg => Sys2Proof.Machine.execUpg s
  | .wb => Sys2Proof.Machine.execWb s
  | .inv => Sys2Proof.Machine.execInv s
  | .fwdS => Sys2Proof.Machine.execFwdS s
  | .fwdX => Sys2Proof.Machine.execFwdX s
  | .data => Sys2Proof.Machine.execData s
  | .grant => Sys2Proof.Machine.execGrant s
  | .ack => Sys2Proof.Machine.execAck s
  | .stale => Sys2Proof.Machine.execStale s
  | .externalWrite => Sys2Proof.Machine.execExternalWrite s
  | .externalRead => Sys2Proof.Machine.execExternalRead s
  | .hostPacket => Sys2Proof.Machine.execHostPacket s
  | .atsInvalidation => Sys2Proof.Machine.execAtsInvalidation s
  | .priResponse => Sys2Proof.Machine.execPriResponse s
  | .fabricPacketArrival => Sys2Proof.Machine.execFabricPacketArrival s
  | .creditGrant => Sys2Proof.Machine.execCreditGrant s
  | .remoteAck => Sys2Proof.Machine.execRemoteAck s
  | .connectionDown => Sys2Proof.Machine.execConnectionDown s
  | .withdrawalComplete => Sys2Proof.Machine.execWithdrawalComplete s
  | .keyArm => Sys2Proof.Machine.execKeyArm s
  | .keyDestroy => Sys2Proof.Machine.execKeyDestroy s
  | .keyDestruction => Sys2Proof.Machine.execKeyDestruction s
  | .keyQuery => Sys2Proof.Machine.execKeyQuery s
  | .qiBind => Sys2Proof.Machine.execQiBind s
  | .qiUnbind => Sys2Proof.Machine.execQiUnbind s
  | .qiQuery => Sys2Proof.Machine.execQiQuery s
  | .qiInterrupt => Sys2Proof.Machine.execQiInterrupt s
  | .regExport => Sys2Proof.Machine.execRegExport s
  | .regImport => Sys2Proof.Machine.execRegImport s
  | .regWithdraw => Sys2Proof.Machine.execRegWithdraw s
  | .regUnimport => Sys2Proof.Machine.execRegUnimport s
  | .query => Sys2Proof.Machine.execQuery s
  | .loadRoot => Sys2Proof.Machine.execLoadRoot s
  | .pasidLive => Sys2Proof.Machine.execPasidLive s
  | .pasidRevoke => Sys2Proof.Machine.execPasidRevoke s
  | .hostMap => Sys2Proof.Machine.execHostMap s
  | .hostUnmap => Sys2Proof.Machine.execHostUnmap s
  | .modeSet => Sys2Proof.Machine.execModeSet s
  | .connUp => Sys2Proof.Machine.execConnUp s
  | .connDown => Sys2Proof.Machine.execConnDown s
  | .certRead => Sys2Proof.Machine.execCertRead s
  | .voidRead => Sys2Proof.Machine.execVoidRead s
  | .cxlAdd => Sys2Proof.Machine.execCxlAdd s
  | .cxlRemove => Sys2Proof.Machine.execCxlRemove s
  | .signal => Sys2Proof.Machine.execSignal s
  | .errlogRead => Sys2Proof.Machine.execErrlogRead s
  | .rootClear => Sys2Proof.Machine.execRootClear s
  | .reset => Sys2Proof.Machine.execReset s
  | .reservedRegisterWrite => Sys2Proof.Machine.execReservedRegisterWrite s
  | .getVersion => Sys2Proof.Machine.execGetVersion s
  | .getCapabilities => Sys2Proof.Machine.execGetCapabilities s
  | .negotiateAlgorithms => Sys2Proof.Machine.execNegotiateAlgorithms s
  | .getDigests => Sys2Proof.Machine.execGetDigests s
  | .getCertificate => Sys2Proof.Machine.execGetCertificate s
  | .challenge => Sys2Proof.Machine.execChallenge s
  | .getMeasurements => Sys2Proof.Machine.execGetMeasurements s
  | .dieTestComplete => Sys2Proof.Machine.execDieTestComplete s
  | .powerGate => Sys2Proof.Machine.execPowerGate s
  | .coreWake => Sys2Proof.Machine.execCoreWake s
  | .coldReset => Sys2Proof.Machine.execColdReset s
  | .hotReset => Sys2Proof.Machine.execHotReset s
  | .functionLevelReset => Sys2Proof.Machine.execFunctionLevelReset s
  | .reservedOpcode => Sys2Proof.Machine.execReservedOpcode s
  | .pasidRevocationComplete => Sys2Proof.Machine.execPasidRevocationComplete s
  | .packetRetransmission => Sys2Proof.Machine.execPacketRetransmission s
  | .vfEnable => Sys2Proof.Machine.execVfEnable s
  | .msixVectorUnmask => Sys2Proof.Machine.execMsixVectorUnmask s
  | .completionTimeout => Sys2Proof.Machine.execCompletionTimeout s

end Sys2Proof.Machine
end

