-- ==== Sys2Proof/Machine/Step.lean ====
section
/-! DEFINITION. One step of the machine: an outside event, a step of a unit, or what a core does next. Where the
manual leaves open which of them comes first (R3), free values of Config choose. -/

namespace Sys2Proof.Machine

open Sys2Proof

/-- An event that is no step of the part (an instruction word handed in where no span stands in issue) leaves the machine as it
is. -/
def orStay (s : State) (o : Host.Outcome State Fault Refusal) : Host.Outcome State Fault Refusal :=
  match o with
  | .next t => .next t
  | .fault _ => .next s
  | .refused r => .refused r

/-- What a core does next, done. -/
def stepCore (c : CoreId) (s : State) : Host.Outcome State Fault Refusal :=
  match s.coreAct c with
  | .event i a => orStay s (exec i { s with ev := a })
  | .raise t => .next (t.tick c)
  | .issue i t =>
    match exec i t with
    | .next u => .next (u.tick c)
    | .fault f => .fault f
    | .refused r => .refused r
  | .pass t => .next (t.tick c)

/-- The oldest outside event; one that cannot take place is none. -/
def stepInput (s : State) : Host.Outcome State Fault Refusal :=
  match s.inputs with
  | [] => .next s
  | (i, a) :: r => orStay { s with inputs := r } (exec i { s with inputs := r, ev := a })

/-- Who acts next, done. -/
def stepActor (a : Actor) (s : State) : Host.Outcome State Fault Refusal :=
  match a with
  | .core c => stepCore c s
  | .input => stepInput s
  | .unit i e => if unitStep i then orStay s (exec i { s with ev := e }) else .next s

/-- R3: the choice where nothing is decided: an outside event, a step of a unit, or a core that is not gated. -/
def State.chooseActor (s : State) : Actor :=
  match Config.actorChoice s.draws % 3 with
  | 0 => .input
  | 1 => match Config.unitChoice s.draws with
    | some (i, a) => .unit i a
    | none => .input
  | _ =>
    let cores := s.cores.filter fun p => !p.2.gated
    .core (coreOfNo ((cores.map (·.1)).getD (Config.actorChoice (s.draws + 1) % cores.length) 0))

/-- One step. -/
def step (s : State) : Host.Outcome State Fault Refusal :=
  match s.turn with
  | some a => stepActor a { s with turn := none }
  | none => stepActor s.chooseActor { s with draws := s.draws + 2 }

/-! ### Placing one instruction for the next step -/

/-- The bytes of an instruction of `nbits` bits, low bits first, with zeros up to four words. -/
def fetchBytes (nbits w : Nat) : List Byte := (List.range 32).map fun k => BitVec.ofNat 8 (w % 2 ^ nbits / 2 ^ (8 * k))

/-- The code capability over [0, 2^20) under which the placed word is fetched. -/
def fetchCode : Cap := Cap.build (pLD ||| pEX) 0 0 9 0 0 2048 0 true

/-- The team that fetches the placed word: one group of one thread in lane 0 at 0x1000, whose word holds the issue
slot and issues now. -/
def fetchTeam (cycle : Nat) : Team :=
  let g : Group := Group.fresh 0
  let g := { g with threads := [(0, Thread.fresh 128 0x1000 0)], pcc := g.pcc.set 0 (some fetchCode),
                    pct := g.pct.set 0 (some ⟨0, 0x1000, [0], 0⟩) }
  { Team.fresh ⟨0, 0⟩ 0 128 8 1 1 with groups := [g], slot := some ⟨0, 0, 0x1000, cycle⟩, mates := [0], sched := noTeam }

/-- The context and the space, which maps [0, 2^32) one to one, of that team. -/
def fetchCtx : Ctx :=
  { creation := 0, parent := none, depth := 0, st := .runnable, ownStop := false, cut := false, cutFailed := false,
    cset := 0, sched := 0, space := 0, fault := none, ceil := 5, counters := List.replicate 8 0, reserve := 0, slots := [],
    meas := [], events := 0, measured := [], pa := 0, cutStep := 0, cutRound := false }

def fetchSpace : Space :=
  { owner := 0, born := 0, outer := none, asid := 0, reserve := 0, units := [], tables := [],
    maps := [⟨0, 2 ^ 32, 4096, 0, true, true, true, true⟩], hostPages := [], remote := [] }

/-- The state in which the next step fetches and runs the instruction of these bits: its bytes stand at 0x1000, core
(0, 0) holds a team whose one thread stands there, their line is in its die's L2, and the next act is that core's. -/
def State.withFetchWord (s : State) (nbits w : Nat) : State :=
  let k := s.core ⟨0, 0⟩
  { s with
    mem := Memory.setBytes s.mem 0x1000 (fetchBytes nbits w), poison := [], modes := [], revs := [],
    cores := s.cores.put 0 { k with team := some 0, world := 0, window := k.cycle / windowCycles },
    teams := s.teams.put 0 (fetchTeam k.cycle), ctxs := s.ctxs.put 0 fetchCtx, spaces := s.spaces.put 0 fetchSpace,
    coh := { s.coh with stale := [], flight := [], waiting := [], dir := s.coh.dir.put 0x40 (.shared [0]),
                        l2 := s.coh.l2.put (lineKey 0x40 0) ⟨.shared, 0, 0⟩ },
    events := [], inputs := [], turn := some (.core ⟨0, 0⟩) }

end Sys2Proof.Machine
end

