-- ==== Sys2Proof/Safety/Words.lean ====
section
/-! DEFINITION. The terms in which claims say what an issued instruction word does: what becomes of each thread of its
span, of the other threads, of the writes still to come, and that the rest of the machine stays as it is. -/

namespace Sys2Proof.Machine

open Sys2Proof

/-! ### One lane -/

/-- A thread without the record of how it holds its code capability (R13). -/
def Thread.bare (t : Thread) : Thread := { t with pccx := 0, want := none, backed := none }

/-- R23: a latch entry after its thread wrote the homes `hs` or read them dead. -/
def staleBy (hs : List Home) (l : Latch) : Latch := if ∃ h ∈ hs, l.home = some h then { l with stale := true } else l

/-- R19, R23: `k` is the thread `t` after registers `dead` were read dead and the homes `wrote` are to be written:
those main registers hold something and their quads are untagged, every other main register and quad tag is as it
was, and the latch entries whose home is among them are stale. -/
structure Thread.Spent (t : Thread) (dead : List Nat) (wrote : List Home) (k : Thread) : Prop where
  rest : k = { t with v := k.v, vtag := k.vtag, b := k.b }
  size : k.v.length = t.v.length ∧ k.vtag.length = t.vtag.length
  regs : ∀ n, n ∉ dead → k.rdV n = t.rdV n
  tags : ∀ m, (∀ n ∈ dead, n / 4 ≠ m) → flagAt k.vtag m = flagAt t.vtag m
  untagged : ∀ n ∈ dead, flagAt k.vtag (n / 4) = false
  latches : k.b = t.b.map (staleBy (dead.map Home.v ++ wrote))

/-- R22: the latch chain after entries are pushed one by one; b0 is the newest. -/
def pushLatches (ready : Nat) (b : List Latch) : List (Word × Option Home) → List Latch
  | [] => b
  | (w, h) :: r => pushLatches ready (⟨w, false, h, false, ready⟩ :: b.take 3) r

/-- The visited lane's thread `u` after a word whose effect in the lane is `r`, issued in cycle `cycle`; `op` is the team's
next operation number, which a taken transfer records with what the thread's last fence found it to follow (R75), `next` the word after, `sf` the flag the word sets (R28),
`count` says that its words are counted (R261). -/
def Thread.Acted (t : Thread) (dead : List Nat) (r : LaneOut) (cycle op : Nat) (next : DWord) (sf : Option (Fin 12))
    (count : Bool) (u : Thread) : Prop :=
  ∃ k, t.Spent dead (r.upds.flatMap Upd.homes) k ∧
    let k1 := { k with b := pushLatches (cycle + 4) k.b r.latch, held := u.held }
    let k2 := r.now.foldl Thread.apply k1
    u.bare =
      { k2 with
        held := u.held, half := false, xfer := if r.next.isSome then op else t.xfer,
        fetchGates := if r.next.isSome then t.fenced else t.fetchGates, pc := r.next.getD next, last := some cycle, pccx := 0, want := none, backed := none,
        fps := k2.fps ||| r.fps,
        f := match sf with | some n => k2.f.set n.val true | none => k2.f,
        await := r.await, trap := r.trap.getD k2.trap, words := if count then t.words + 1 else t.words,
        st := if r.park.isSome then .parked else k2.st,
        park := if r.park.isSome then r.park else k2.park,
        stopKind := if r.park.isSome then 3 else k2.stopKind }

/-- R11, R27: a member lane that is not visited goes on to the next word. -/
def Thread.Passed (t : Thread) (cycle : Nat) (next : DWord) (count : Bool) (u : Thread) : Prop :=
  u.bare = { t.bare with pc := next, last := some cycle, half := false, words := if count then t.words + 1 else t.words }

/-! ### The group, the team, the machine -/

/-- The writes of a word that perform later: for each acting lane in ascending order its updates, with the word's
flag where the flag clears with them (R28). -/
def laterWrites (clearBy : Bool) (sf : Option (Fin 12)) (outs : List (Nat × LaneOut)) : List (Nat × Upd) :=
  outs.flatMap fun p =>
    (p.2.upds ++ (if clearBy && p.2.park.isNone && p.2.await.isNone then clearFlag sf else [])).map fun u => (p.1, u)

/-- The flag a lane's word sets at issue (R28): none when nothing later clears it. -/
def setsFlag (clearBy : Bool) (lat : Nat) (sf : Option (Fin 12)) (r : LaneOut) : Option (Fin 12) :=
  if r.await.isNone && (r.park.isSome || decide (lat > 0) || !clearBy) then sf else none

/-- The issuing group after the word. -/
structure Issue.GroupAfter (i : Issue) (ins : Instr) (lat : Nat) (clearBy : Bool) (outs : List (Nat × LaneOut))
    (h : Group) : Prop where
  /-- scalar and capability registers, the window, convergence registers, causes and the rest are unchanged -/
  kept : h = { i.g with threads := h.threads, pcc := h.pcc, pct := h.pct, queue := h.queue, joining := h.joining,
                        crowd := h.crowd, issued := h.issued, skid := h.skid }
  issued : h.issued = (i.g.issued + 1) % 2 ^ 32
  /-- lanes outside the span keep everything -/
  outside : ∀ l, l ∉ i.x.lanes → (h.threads.look l).map Thread.bare = (i.g.threads.look l).map Thread.bare
  /-- lanes of the span in which the word does nothing go on -/
  passed : ∀ l ∈ i.x.lanes, outs.find? (·.1 == l) = none → ∀ t, i.g.threads.look l = some t →
    ∃ u, h.threads.look l = some u ∧
      t.Passed i.core.cycle (i.x.pc + BitVec.ofNat 64 (wordLen ins)) i.t.desched u
  /-- lanes in which the word acts -/
  acted : ∀ l ∈ i.x.lanes, ∀ p, outs.find? (·.1 == l) = some p → ∀ t, i.g.threads.look l = some t →
    ∃ u, h.threads.look l = some u ∧
      t.Acted (i.dead ins l t) p.2 i.core.cycle i.t.nextOp (i.x.pc + BitVec.ofNat 64 (wordLen ins))
        (setsFlag clearBy lat i.x.ctl.sf p.2) i.t.desched u
  /-- no thread comes into being -/
  absent : ∀ l, i.g.threads.look l = none → h.threads.look l = none

/-- The team after the word; `base` is the team with what the word itself adds to it. -/
structure Issue.TeamAfter (i : Issue) (ins : Instr) (kind : PendKind) (lat : Nat) (clearBy : Bool)
    (outs : List (Nat × LaneOut)) (base : Team) (u : Team) : Prop where
  kept : u = { base with groups := u.groups, pend := u.pend, hold := u.hold }
  /-- R18: the writes that are still to come -/
  pend : u.pend = i.t.pend ++
    (if laterWrites clearBy i.x.ctl.sf outs = [] then []
     else [⟨i.core.cycle + lat, kind, i.x.g, laterWrites clearBy i.x.ctl.sf outs⟩])
  hold : u.hold = i.nextHold (latchOnly outs)
  /-- R23: the other groups lose their latches and nothing else -/
  others : ∀ j, j ≠ i.x.g → u.groups[j]? = (i.t.groups[j]?).map (·.mapThreads fun _ t => t.lose)
  group : ∃ h, u.groups[i.x.g]? = some h ∧ i.GroupAfter ins lat clearBy outs h

/-- The team to which a word of the landing class adds its operation. -/
def Team.withOp (t : Team) (any : Bool) (o : Op) : Team := if any then t.addOp o else t

/-- R358: a context after a word of it has issued. -/
def Ctx.issued (c : Ctx) : Ctx := { c with counters := c.counters.modify 0 (· + 1) }

/-- The machine after a word that acts in its own team alone. Memory, every object and every other team stay as they
are; the context counts the word (R358). -/
structure Issue.Commits (i : Issue) (ins : Instr) (kind : PendKind) (lat : Nat) (clearBy : Bool)
    (outs : List (Nat × LaneOut)) (base : Team) (t : State) : Prop where
  rest : t = { i.s with teams := t.teams, ctxs := t.ctxs, draws := t.draws, sel := none }
  mem : ∀ a, Memory.byte t.mem a = Memory.byte i.s.mem a
  teams : ∀ n, n ≠ i.x.team → t.teams.look n = i.s.teams.look n
  ctxs : ∀ n, t.ctxs.look n = (i.s.ctxs.look n).map fun c =>
    if n = i.t.ctx then c.issued else c
  team : ∃ u, t.teams.look i.x.team = some u ∧ i.TeamAfter ins kind lat clearBy outs base u

/-! ### A word that raises (R12, R249, R259) -/

/-- The issuing group after a word raised `causes` in lanes of its span: the causes are set, the group issues no more,
its Active threads are Stopped where they stand, and no register, PC or flag has changed. -/
structure Issue.GroupRaised (i : Issue) (causes : List (Nat × Word)) (h : Group) : Prop where
  kept : h = { i.g with threads := h.threads, cause := h.cause, pct := List.replicate 16 none, queue := [], joining := [],
                        halted := true, skid := h.skid, initiator := h.initiator, exempt := h.exempt }
  cause : h.cause = i.g.cause ||| orAll (causes.map (·.2)) |||
    (if i.t.st = .running ∨ i.t.st = .yielding ∨ i.g.initiator = true ∨ i.g.exempt = true then 0 else cHalt)
  threads : ∀ l, h.threads.look l = (i.g.threads.look l).map fun t =>
    { t with
      cause := t.cause ||| orAll ((causes.filter (·.1 == l)).map (·.2)),
      st := if t.st = .active ∧ t.await = none then .stopped else t.st,
      stopKind := if t.st = .active ∧ t.await = none then (if l ∈ i.x.lanes then 0 else 1) else t.stopKind }

/-- The team: a running team begins to halt, and drains at once when every group has stopped; nothing the word would
have done is under way. -/
structure Issue.TeamRaised (i : Issue) (causes : List (Nat × Word)) (pages : List PageFault) (u : Team) : Prop where
  kept : u = { i.t with groups := u.groups, st := u.st, hold := u.hold, slot := u.slot, faultStop := true,
                        faults := i.t.faults ++ pages }
  st : u.st = if i.t.st = .running ∨ i.t.st = .yielding ∨ i.t.st = .halting then
    (if ∀ h ∈ u.groups, h.halted = true then .draining else .halting) else i.t.st
  others : ∀ j, j ≠ i.x.g → u.groups[j]? = (i.t.groups[j]?).map fun h =>
    if i.t.st = .running ∨ i.t.st = .yielding then
      { h with skid := 0, halted := false, initiator := false, exempt := false }
    else h
  group : ∃ h, u.groups[i.x.g]? = some h ∧ i.GroupRaised causes h

/-- The machine: nothing but the issuing team has changed. -/
structure Issue.Raises (i : Issue) (causes : List (Nat × Word)) (pages : List PageFault) (t : State) : Prop where
  rest : t = { i.s with teams := t.teams, sel := none }
  mem : ∀ a, Memory.byte t.mem a = Memory.byte i.s.mem a
  teams : ∀ n, n ≠ i.x.team → t.teams.look n = i.s.teams.look n
  team : ∃ u, t.teams.look i.x.team = some u ∧ i.TeamRaised causes pages u

/-- R367: the pages and protections that a word's causes record. -/
def Issue.pagesOf (i : Issue) (es : List (Nat × MErr)) : List PageFault :=
  es.filterMap fun p => p.2.page.map fun q => ⟨i.x.g, p.1, q.1, q.2.1, q.2.2.1, q.2.2.2⟩

/-- R12, R143, R150, R367, R424: what a word leaves when a check fails in some visited lane, `es` the failures of the lanes. The
causes are raised and their pages recorded, and nothing else happens, but that a page request which the host refused has had
its effect. While some lane's check waits for the host's answer (its failure has no cause yet), the word does not issue: only
requests for pages are made. -/
def Issue.FailsWith (i : Issue) (es : List (Nat × MErr)) (t : State) : Prop :=
  ((∀ p ∈ es, p.2.cause ≠ 0) → ∃ q : List PageReq,
    ({ i with s := { i.s with pageReqs := q } } : Issue).Raises (es.map fun p => (p.1, p.2.cause)) (i.pagesOf es) t ∧
    ∀ r, r ∈ q ↔ r ∈ i.s.pageReqs ∧ ¬ (r.answer = some false ∧ ∃ p ∈ es, p.2.host = some (r.fn, r.pasid, r.iova))) ∧
  ((∃ p ∈ es, p.2.cause = 0) →
    t = { i.s with pageReqs := t.pageReqs, ats := t.ats, outbox := t.outbox, draws := t.draws, sel := none })

end Sys2Proof.Machine
end

