-- ==== Sys2Proof/Safety/Integer.lean ====
section
/-! DEFINITION. The integer words in the terms of the manual's tables (04_thread_instructions R93-R100), for claims: each
value by exact arithmetic of numbers or bit by bit, apart from the machine's own definitions. -/

namespace Sys2Proof.Machine

open Sys2Proof

/-- What a word does in one visited lane of the span in issue, or the causes it raises there. -/
abbrev LaneRule := Issue → Nat → Thread → Except Word LaneOut

/-- R65, R22: a result and its status bits written through a destination; the result enters the latch chain. -/
def Issue.result (i : Issue) (t : Thread) (d : Dst) (w fps : Word) : Except Word LaneOut := do
  let (us, h) ← i.dst t d w
  .ok { LaneOut.nil with upds := us, latch := [(w, h)], fps := fps }

/-- A result of one, two or three sources. -/
def rule1 (d : Dst) (a : SrcD) (f : Word → Word) : LaneRule := fun i l t => do
  let x ← i.src l t a.sel
  i.result t d (f x) 0

def rule2 (d : Dst) (a b : SrcD) (f : Word → Word → Word) : LaneRule := fun i l t => do
  let x ← i.src l t a.sel
  let y ← i.src l t b.sel
  i.result t d (f x y) 0

def rule3 (d : Dst) (a b : SrcD) (c : SrcC) (f : Word → Word → Word → Word) : LaneRule := fun i l t => do
  let x ← i.src l t a.sel
  let y ← i.src l t b.sel
  let z ← rdC t c
  i.result t d (f x y z) 0

/-! ### Values -/

/-- The word whose bits a function gives. -/
def bitsOf (f : Nat → Bool) : Word := BitVec.ofNat 32 (∑ k ∈ Finset.range 32, if f k then 2 ^ k else 0)

/-- R94: the field at `pos` of `len` bits of a word read as an integer with all its sign bits, or with zeros. -/
def fieldOf (x : Int) (b : Word) : Int := x / 2 ^ (b.toNat % 256) % 2 ^ min (b.toNat / 256 % 256) 32

/-- R94: sext. -/
def signField (x : Int) (len : Nat) : Int := if len = 0 then 0 else if 2 ^ (len - 1) ≤ x then x - 2 ^ len else x

/-- R96: byte `k` of the result; the pool is b above a. -/
def poolByte (a b c : Word) (k : Nat) : Nat :=
  let byte := (a.toNat + 2 ^ 32 * b.toNat) / 2 ^ (8 * (c.toNat / 8 ^ k % 8)) % 256
  if c.getLsbD (12 + k) then 0 else if c.getLsbD (16 + k) then (if 128 ≤ byte then 255 else 0) else byte

/-- R98: quotient and remainder. -/
def quotient (a b : Int) : Int := if b = 0 then -1 else a.tdiv b
def remainder (a b : Int) : Int := if b = 0 then a else a.tmod b

/-- R93-R97: what each word of the integer block does in a visited lane. -/
def intRule : Instr → Option LaneRule
  | .add d a b => some (rule2 d a b fun x y => BitVec.ofNat 32 (x.toNat + y.toNat))
  | .sub d a b => some (rule2 d a b fun x y => BitVec.ofInt 32 (x.toNat - y.toNat))
  | .addSatI32 d a b => some (rule2 d a b fun x y => BitVec.ofInt 32 (max (-2 ^ 31) (min (2 ^ 31 - 1) (x.toInt + y.toInt))))
  | .subSatI32 d a b => some (rule2 d a b fun x y => BitVec.ofInt 32 (max (-2 ^ 31) (min (2 ^ 31 - 1) (x.toInt - y.toInt))))
  | .mul d a b => some (rule2 d a b fun x y => BitVec.ofNat 32 (x.toNat * y.toNat))
  | .mulhiI32 d a b => some (rule2 d a b fun x y => BitVec.ofInt 32 (x.toInt * y.toInt / 2 ^ 32))
  | .mulhiN32 d a b => some (rule2 d a b fun x y => BitVec.ofNat 32 (x.toNat * y.toNat / 2 ^ 32))
  | .mad d a b c => some (rule3 d a b c fun x y z => BitVec.ofNat 32 (x.toNat * y.toNat + z.toNat))
  | .minI32 d a b => some (rule2 d a b fun x y => BitVec.ofInt 32 (min x.toInt y.toInt))
  | .minN32 d a b => some (rule2 d a b fun x y => BitVec.ofNat 32 (min x.toNat y.toNat))
  | .maxI32 d a b => some (rule2 d a b fun x y => BitVec.ofInt 32 (max x.toInt y.toInt))
  | .maxN32 d a b => some (rule2 d a b fun x y => BitVec.ofNat 32 (max x.toNat y.toNat))
  | .absI32 d a => some (rule1 d a fun x => BitVec.ofInt 32 |x.toInt|)
  | .neg d a => some (rule1 d a fun x => BitVec.ofNat 32 (2 ^ 32 - x.toNat))
  | .and d a b => some (rule2 d a b fun x y => bitsOf fun k => x.getLsbD k && y.getLsbD k)
  | .or d a b => some (rule2 d a b fun x y => bitsOf fun k => x.getLsbD k || y.getLsbD k)
  | .xor d a b => some (rule2 d a b fun x y => bitsOf fun k => x.getLsbD k != y.getLsbD k)
  | .andn d a b => some (rule2 d a b fun x y => bitsOf fun k => x.getLsbD k && !y.getLsbD k)
  | .not d a => some (rule1 d a fun x => bitsOf fun k => !x.getLsbD k)
  | .shl d a b => some (rule2 d a b fun x y => if y.toNat < 32 then BitVec.ofNat 32 (x.toNat * 2 ^ y.toNat) else 0)
  | .shr d a b => some (rule2 d a b fun x y => if y.toNat < 32 then BitVec.ofNat 32 (x.toNat / 2 ^ y.toNat) else 0)
  | .sar d a b => some (rule2 d a b fun x y => BitVec.ofInt 32 (x.toInt / 2 ^ min y.toNat 31))
  | .rotl d a b => some (rule2 d a b fun x y => bitsOf fun k => x.getLsbD ((k + 32 - y.toNat % 32) % 32))
  | .popc d a => some (rule1 d a fun x => BitVec.ofNat 32 ((Finset.range 32).filter (x.getLsbD ·)).card)
  | .clz d a => some (rule1 d a fun x => BitVec.ofNat 32 (if x.toNat = 0 then 32 else 31 - Nat.log2 x.toNat))
  | .brev d a => some (rule1 d a fun x => bitsOf fun k => x.getLsbD (31 - k))
  | .bfeN32 d a b => some (rule2 d a b fun x y => BitVec.ofInt 32 (fieldOf x.toNat y))
  | .bfeI32 d a b => some (rule2 d a b fun x y => BitVec.ofInt 32 (signField (fieldOf x.toInt y) (min (y.toNat / 256 % 256) 32)))
  | .bfi d a b c => some (rule3 d a b c fun x y z => bitsOf fun k =>
      if y.toNat % 256 ≤ k ∧ k < y.toNat % 256 + min (y.toNat / 256 % 256) 32 then x.getLsbD (k - y.toNat % 256) else z.getLsbD k)
  | .bsel d a b c => some (rule3 d a b c fun x y z =>
      BitVec.ofNat 32 (poolByte x y z 0 + 2 ^ 8 * poolByte x y z 1 + 2 ^ 16 * poolByte x y z 2 + 2 ^ 24 * poolByte x y z 3))
  | .sel d a b q => some fun i l t => do
      let x ← i.src l t a.sel
      let y ← i.src l t b.sel
      i.result t d (if pcode t q then x else y) 0
  | .mov d a => some (rule1 d a fun x => x)
  | _ => none

/-! ### Pairs (R99, R100) -/

/-- R99, R22: a 64-bit result in a pair, its halves entering the latch chain low half first; or in the chain alone. -/
def Issue.result64 (d : PDst) (x : DWord) : LaneOut :=
  let lo : Word := BitVec.ofNat 32 x.toNat
  let hi : Word := BitVec.ofNat 32 (x.toNat / 2 ^ 32)
  match d with
  | .v n => { LaneOut.nil with upds := [.v (2 * n.val) lo, .v (2 * n.val + 1) hi],
                               latch := [(lo, some (.v (2 * n.val))), (hi, some (.v (2 * n.val + 1)))] }
  | .latch => { LaneOut.nil with latch := [(lo, none), (hi, none)] }

/-- R100. -/
def pairRule : Instr → Option LaneRule
  | .add64 d a b => some fun i _ t => .ok (Issue.result64 d (BitVec.ofNat 64 ((i.psrc t a.sel).toNat + (i.psrc t b.sel).toNat)))
  | .sub64 d a b => some fun i _ t =>
      .ok (Issue.result64 d (BitVec.ofInt 64 ((i.psrc t a.sel).toNat - (i.psrc t b.sel).toNat)))
  | .mul64 d a b => some fun i _ t => .ok (Issue.result64 d (BitVec.ofNat 64 ((i.psrc t a.sel).toNat * (i.psrc t b.sel).toNat)))
  | .shl64 d a n => some fun i l t => do
      let k ← i.src l t n.sel
      .ok (Issue.result64 d (if k.toNat < 64 then BitVec.ofNat 64 ((i.psrc t a.sel).toNat * 2 ^ k.toNat) else 0))
  | .srl64 d a n => some fun i l t => do
      let k ← i.src l t n.sel
      .ok (Issue.result64 d (if k.toNat < 64 then BitVec.ofNat 64 ((i.psrc t a.sel).toNat / 2 ^ k.toNat) else 0))
  | .sra64 d a n => some fun i l t => do
      let k ← i.src l t n.sel
      .ok (Issue.result64 d (BitVec.ofInt 64 ((i.psrc t a.sel).toInt / 2 ^ min k.toNat 63)))
  | _ => none

/-! ### Division (R98) -/

/-- The writes of a Long-class result and its status (R91). -/
abbrev LongRule := Issue → Nat → Thread → Except Word (List Upd × Word)

/-- A Long-class result of two sources. -/
def long2Rule (d : Dst) (a b : SrcD) (f : Word → Word → Word × Word) : LongRule := fun i l t => do
  let x ← i.src l t a.sel
  let y ← i.src l t b.sel
  let (us, _) ← i.dst t d (f x y).1
  .ok (us, (f x y).2)

def divRule : Instr → Option LongRule
  | .divI32 d a b => some (long2Rule d a b fun x y => (BitVec.ofInt 32 (quotient x.toInt y.toInt), 0))
  | .divN32 d a b => some (long2Rule d a b fun x y => (BitVec.ofInt 32 (quotient x.toNat y.toNat), 0))
  | .remI32 d a b => some (long2Rule d a b fun x y => (BitVec.ofInt 32 (remainder x.toInt y.toInt), 0))
  | .remN32 d a b => some (long2Rule d a b fun x y => (BitVec.ofInt 32 (remainder x.toNat y.toNat), 0))
  | _ => none

end Sys2Proof.Machine
end

