-- ==== Sys2Proof/Safety/Float.lean ====
section
/-! DEFINITION. The floating-point, packed, conversion, paired, compare and predicate words in the terms of the manual's
tables (04_thread_instructions R101-R115; 03_encoding R69-R71, R78), for claims. The value functions of the formats are
those of Machine/Fp.lean. -/

namespace Sys2Proof.Machine

open Sys2Proof

/-! ### Floating-point words (R101-R110) -/

/-- R42: the 16 random bits of a stochastic rounding come from b0. -/
def randomBits (t : Thread) (m : RMode) : Except Word Nat :=
  if m = .sr then (rdB t 0).map fun w => w.toNat % 2 ^ 16 else .ok 0

/-- A value with its status, of one, two or three sources. -/
def fpRule1 (d : Dst) (a : SrcD) (m : RMode) (f : Nat → Word → Word × Word) : LaneRule := fun i l t => do
  let x ← i.src l t a.sel
  let r ← randomBits t m
  i.result t d (f r x).1 (f r x).2

def fpRule2 (d : Dst) (a b : SrcD) (m : RMode) (f : Nat → Word → Word → Word × Word) : LaneRule := fun i l t => do
  let x ← i.src l t a.sel
  let y ← i.src l t b.sel
  let r ← randomBits t m
  i.result t d (f r x y).1 (f r x y).2

def fpRule3 (d : Dst) (a b : SrcD) (c : SrcC) (f : Word → Word → Word → Word × Word) : LaneRule := fun i l t => do
  let x ← i.src l t a.sel
  let y ← i.src l t b.sel
  let z ← rdC t c
  i.result t d (f x y z).1 (f x y z).2

/-- A pair of a code and its status as words. -/
def asWord (r : Nat × Word) : Word × Word := (BitVec.ofNat 32 r.1, r.2)

/-- R105: the two halves of a packed word and the status of both. -/
def halves (f : Nat → Nat → Nat × Word) (a b : Word) : Word × Word :=
  let lo := f (a.toNat % 2 ^ 16) (b.toNat % 2 ^ 16)
  let hi := f (a.toNat / 2 ^ 16) (b.toNat / 2 ^ 16)
  (BitVec.ofNat 32 (lo.1 + 2 ^ 16 * hi.1), lo.2 ||| hi.2)

def halves3 (f : Nat → Nat → Nat → Nat × Word) (a b c : Word) : Word × Word :=
  let lo := f (a.toNat % 2 ^ 16) (b.toNat % 2 ^ 16) (c.toNat % 2 ^ 16)
  let hi := f (a.toNat / 2 ^ 16) (b.toNat / 2 ^ 16) (c.toNat / 2 ^ 16)
  (BitVec.ofNat 32 (lo.1 + 2 ^ 16 * hi.1), lo.2 ||| hi.2)

/-- R38: the code in a slot, and a word with the code of one slot replaced; every other field keeps its bits. -/
def slotCode (f : NFmt) (slot : Nat) (w : Word) : Nat := w.toNat / 2 ^ (slot * nfField f) % 2 ^ nfWidth f
def withCode (f : NFmt) (slot : Nat) (old : Word) (code : Nat) : Word :=
  bitsOf fun k => if slot * nfField f ≤ k ∧ k < (slot + 1) * nfField f then code.testBit (k - slot * nfField f) else old.getLsbD k

/-- The prior value of a destination (R107). -/
def Issue.prior (i : Issue) (t : Thread) : Dst → Except Word Word
  | .v n => i.src 0 t (.v n)
  | .o n => i.src 0 t (.o n)
  | .vx k e => i.src 0 t (.vx k e)
  | .latch => .ok 0

/-- R102, R105-R110: what each floating-point word of the ALU class does in a visited lane. -/
def floatRule : Instr → Option LaneRule
  | .fadd d a b m => some (fpRule2 d a b m fun r x y => asWord (fp32.add m r x.toNat y.toNat))
  | .fsub d a b m => some (fpRule2 d a b m fun r x y => asWord (fp32.sub m r x.toNat y.toNat))
  | .fmul d a b m => some (fpRule2 d a b m fun r x y => asWord (fp32.mul m r x.toNat y.toNat))
  | .ffma d a b c => some (fpRule3 d a b c fun x y z => asWord (fp32.fma x.toNat y.toNat z.toNat))
  | .fmin d a b => some (fpRule2 d a b .rne fun _ x y => asWord (fp32.minNum false x.toNat y.toNat))
  | .fmax d a b => some (fpRule2 d a b .rne fun _ x y => asWord (fp32.minNum true x.toNat y.toNat))
  | .fminp d a b => some (fpRule2 d a b .rne fun _ x y => asWord (fp32.minProp false x.toNat y.toNat))
  | .fmaxp d a b => some (fpRule2 d a b .rne fun _ x y => asWord (fp32.minProp true x.toNat y.toNat))
  | .fabs d a => some (rule1 d a fun x => BitVec.ofNat 32 (x.toNat % 2 ^ 31))
  | .fneg d a => some (rule1 d a fun x => BitVec.ofNat 32 (x.toNat + 2 ^ 31))
  | .fcopysign d a b => some (rule2 d a b fun x y => BitVec.ofNat 32 (x.toNat % 2 ^ 31 + y.toNat / 2 ^ 31 * 2 ^ 31))
  | .frnd d a m => some (fpRule1 d a m fun r x => asWord (frndF m r x.toNat))
  | .fscale d a b m => some (fpRule2 d a b m fun r x y => asWord (fscaleF m r x.toNat y.toInt))
  | .fgetexp d a => some (fpRule1 d a .rne fun _ x => asWord (fgetexpF x.toNat))
  | .fgetman d a => some (fpRule1 d a .rne fun _ x => asWord (fgetmanF x.toNat))
  | .hadd2Bf16 d a b => some (fpRule2 d a b .rne fun _ => halves (fmtBf16.add .rne 0))
  | .hmul2Bf16 d a b => some (fpRule2 d a b .rne fun _ => halves (fmtBf16.mul .rne 0))
  | .hfma2Bf16 d a b c => some (fpRule3 d a b c (halves3 fmtBf16.fma))
  | .hadd2F16 d a b => some (fpRule2 d a b .rne fun _ => halves (fmtF16.add .rne 0))
  | .hmul2F16 d a b => some (fpRule2 d a b .rne fun _ => halves (fmtF16.mul .rne 0))
  | .hfma2F16 d a b c => some (fpRule3 d a b c (halves3 fmtF16.fma))
  | .hdot2Bf16 d a b c => some (fpRule3 d a b c fun x y z => asWord (hdotF fmtBf16 x.toNat y.toNat z.toNat))
  | .hdot2F16 d a b c => some (fpRule3 d a b c fun x y z => asWord (hdotF fmtF16 x.toNat y.toNat z.toNat))
  | .pk d a f slot sat m => some fun i l t => do
      let x ← i.src l t a.sel
      let old ← i.prior t d
      let r ← randomBits t m
      i.result t d (withCode f slot.val old (pkF f m sat r x.toNat).1) (pkF f m sat r x.toNat).2
  | .upk d a f slot => some (rule1 d a fun x => BitVec.ofNat 32 (upkF f (slotCode f slot.val x)))
  | .cvtF32I32 d a m => some (fpRule1 d a m fun r x => asWord (cvtFromInt m r x.toInt))
  | .cvtF32N32 d a m => some (fpRule1 d a m fun r x => asWord (cvtFromInt m r x.toNat))
  | .cvtI32F32 d a sat m => some (fpRule1 d a m fun r x => cvtToInt (-2 ^ 31) (2 ^ 31 - 1) m sat r x.toNat)
  | .cvtN32F32 d a sat m => some (fpRule1 d a m fun r x => cvtToInt 0 (2 ^ 32 - 1) m sat r x.toNat)
  | .pairedWord _ h1 h2 => some fun i l t => do
      let a1 ← i.psel l t h1.a
      let b1 ← i.psel l t h1.b
      let a2 ← i.psel l t h2.a
      let b2 ← i.psel l t h2.b
      let r1 := halfOp h1.op a1 b1
      let r2 := halfOp h2.op a2 b2
      let place (d : PHDst) (w : Word) : List Upd × Option Home := match d with
        | .o n => ([.o n.val w], some (.o n.val))
        | .v n => ([.v n.val w], some (.v n.val))
        | .latch => ([], none)
      .ok { LaneOut.nil with upds := (place h1.d r1.1).1 ++ (place h2.d r2.1).1,
                             latch := [(r1.1, (place h1.d r1.1).2), (r2.1, (place h2.d r2.1).2)], fps := r1.2 ||| r2.2 }
  | _ => none

/-- A Long-class value of one source. -/
def long1Rule (d : Dst) (a : SrcD) (f : Word → Word × Word) : LongRule := fun i l t => do
  let x ← i.src l t a.sel
  let (us, _) ← i.dst t d (f x).1
  .ok (us, (f x).2)

/-- R103, R104: the special functions. -/
def specialRule : Instr → Option LongRule
  | .fdiv d a b => some (long2Rule d a b fun x y => asWord (fdivF x.toNat y.toNat))
  | .frcp d a => some (long1Rule d a fun x => asWord (frcpF x.toNat))
  | .frsq d a => some (long1Rule d a fun x => asWord (frsqF x.toNat))
  | .fsqrt d a => some (long1Rule d a fun x => asWord (fsqrtF x.toNat))
  | .fexp2 d a => some (long1Rule d a fun x => asWord (fexp2F x.toNat))
  | .flog2 d a => some (long1Rule d a fun x => asWord (flog2F x.toNat))
  | .fsin d a => some (long1Rule d a fun x => asWord (ftrigF false x.toNat))
  | .fcos d a => some (long1Rule d a fun x => asWord (ftrigF true x.toNat))
  | _ => none

/-! ### Compares and predicates (R112-R115) -/

/-- R112: the six integer conditions. -/
def intCond (q : Cond) (a b : Int) : Bool :=
  match q with
  | .eq => decide (a = b)
  | .ne => decide (a ≠ b)
  | .lt => decide (a < b)
  | .le => decide (a ≤ b)
  | .gt => decide (b < a)
  | .ge => decide (b ≤ a)

/-- The write of one predicate. -/
def setsP (p : Fin 7) (b : Bool) (fps : Word) : LaneOut := { LaneOut.nil with upds := [.p p b], fps := fps }

/-- R112-R115: what each word of the Predicate class does in a visited lane. -/
def predRule : Instr → Option LaneRule
  | .setpI32 p a b q => some fun i l t => do
      let x ← i.src l t a.sel
      let y ← i.src l t b.sel
      .ok (setsP p ((intCond q x.toInt y.toInt)) 0)
  | .setpN32 p a b q => some fun i l t => do
      let x ← i.src l t a.sel
      let y ← i.src l t b.sel
      .ok (setsP p ((intCond q x.toNat y.toNat)) 0)
  | .setpF32 p a b q => some fun i l t => do
      let x ← i.src l t a.sel
      let y ← i.src l t b.sel
      .ok (setsP p (fcmpW q x y).1 (fcmpW q x y).2)
  | .setpI64 p a b q => some fun i _ t => .ok (setsP p ((intCond q (i.psrc t a.sel).toInt (i.psrc t b.sel).toInt)) 0)
  | .setpN64 p a b q => some fun i _ t => .ok (setsP p ((intCond q (i.psrc t a.sel).toNat (i.psrc t b.sel).toNat)) 0)
  | .pand p q1 q2 => some fun _ _ t => .ok (setsP p (pcode t q1 && pcode t q2) 0)
  | .por p q1 q2 => some fun _ _ t => .ok (setsP p (pcode t q1 || pcode t q2) 0)
  | .pxor p q1 q2 => some fun _ _ t => .ok (setsP p (pcode t q1 != pcode t q2) 0)
  | .pnot p q1 => some fun _ _ t => .ok (setsP p (!pcode t q1) 0)
  | .v2p m a => some fun i l t => do
      let x ← i.src l t a.sel
      .ok { LaneOut.nil with
            upds := (List.finRange 7).filterMap fun k => if m.getLsbD k.val then some (.p k (x.getLsbD k.val)) else none }
  | _ => none

/-- R115: p2v; its register result performs 4 cc after issue, and no latch takes it. -/
def p2vRule : Instr → Option LaneRule
  | .p2v d => some fun i _ t => do
      let (us, _) ← i.dst t d (bitsOf fun k => decide (k < 7) && flagAt t.p k)
      .ok { LaneOut.nil with upds := us }
  | _ => none

end Sys2Proof.Machine
end

