-- ==== Sys2Proof/Safety/Caps.lean ====
section
/-! DEFINITION. The capability and control words in the terms of the manual (05_capabilities_memory R131-R140;
04_thread_instructions R116-R120), for claims. -/

namespace Sys2Proof.Machine

open Sys2Proof

/-! ### Capability words -/

/-- R131: a result in a pair of main registers, in a word, in a capability register; no latch takes it. -/
def pairWrite (d : Fin 64) (x : DWord) : LaneOut :=
  { LaneOut.nil with upds := [.v (2 * d.val) (BitVec.ofNat 32 x.toNat), .v (2 * d.val + 1) (BitVec.ofNat 32 (x.toNat / 2 ^ 32))] }

def Issue.wordWrite (i : Issue) (t : Thread) (d : Dst) (w : Word) : Except Word LaneOut := do
  let (us, _) ← i.dst t d w
  .ok { LaneOut.nil with upds := us }

def capWrite (d : CapSel) (c : Cap) : LaneOut :=
  { LaneOut.nil with upds := [match d with | .w m => .quad m.val c | .k n => .k n.val c] }

/-- R133: a new address: refused for a tagged sealed capability; where the bounds cannot be held at the new address the
tag is lost. -/
def moved (c : Cap) (a : DWord) : Except Word Cap := if c.tag ∧ c.otype ≠ 0 then .error cCapseal else .ok (c.move a)

/-- R132-R140: what each capability word does in a visited lane. -/
def capRule : Instr → Option LaneRule
  | .capAddr d b => some fun i _ t => .ok (pairWrite d (i.cap t b).addr)
  | .capBase d b => some fun i _ t => .ok (pairWrite d (BitVec.ofNat 64 (i.cap t b).decode.1))
  | .capLen d b => some fun i _ t => .ok (pairWrite d (BitVec.ofNat 64 (min ((i.cap t b).decode.2 - (i.cap t b).decode.1) (2 ^ 64 - 1))))
  | .capPerm d b => some fun i _ t => i.wordWrite t d (BitVec.ofNat 32 ((i.cap t b).perms.toNat + 2 ^ 16 * (i.cap t b).space))
  | .capType d b => some fun i _ t => i.wordWrite t d (BitVec.ofNat 32 (i.cap t b).otype)
  | .capTag d b => some fun i _ t => i.wordWrite t d (bif (i.cap t b).tag then 1 else 0)
  | .capSeta d b x => some fun i _ t => (moved (i.cap t b) (i.psrc t x)).map (capWrite d)
  | .capAdd d b x => some fun i _ t => (moved (i.cap t b) (BitVec.ofNat 64 ((i.cap t b).addr.toNat + (i.psrc t x).toNat))).map (capWrite d)
  | .capBound d b x => some fun i _ t => ((i.cap t b).bound (i.psrc t x).toNat false).map (capWrite d)
  | .capBoundx d b x => some fun i _ t => ((i.cap t b).bound (i.psrc t x).toNat true).map (capWrite d)
  | .capMask d b m => some fun i l t => do
      let x ← i.src l t m
      let c := i.cap t b
      if c.tag ∧ c.otype ≠ 0 then .error cCapseal
      else .ok (capWrite d (c.withPerms (BitVec.ofNat 16 (c.perms.toNat &&& x.toNat &&& 0x3FFF))))
  | .capSeal d b x => some fun i _ t => (capSealBy (i.cap t b) (i.cap t x)).map (capWrite d)
  | .capUnseal d b x => some fun i _ t => (capUnsealBy (i.cap t b) (i.cap t x)).map (capWrite d)
  | .capMint d b x => some fun i _ t => (capMintBy (i.cap t b) (i.cap t x)).map (capWrite d)
  | .capUntag d b => some fun i _ t => .ok (capWrite d ⟨(i.cap t b).bits, false⟩)
  | .capMov d b => some fun i _ t => .ok (capWrite d (i.cap t b))
  | .capDiff d b x => some fun i _ t =>
      .ok (pairWrite d (BitVec.ofInt 64 ((i.cap t b).addr.toNat - (i.cap t x).addr.toNat)))
  | .capRlen d x => some fun i _ t => .ok (pairWrite d (roundedLen (i.psrc t x)))
  | .capAmask d x => some fun i _ t => .ok (pairWrite d (alignMask (i.psrc t x)))
  | _ => none

/-- R139: whether the capability a spans all that b does, both tagged and unsealed. -/
def spansAll (a b : Cap) : Prop :=
  a.tag = true ∧ b.tag = true ∧ a.otype = 0 ∧ b.otype = 0 ∧ a.space = b.space ∧ a.perms &&& b.perms = b.perms ∧
    a.decode.1 ≤ b.decode.1 ∧ b.decode.2 ≤ a.decode.2

/-- R139: the two capability compares. -/
def capPredRule : Instr → Option (Fin 7 × (Issue → Thread → Prop))
  | .capWithin p b x => some (p, fun i t => spansAll (i.cap t b) (i.cap t x))
  | .capSame p b x => some (p, fun i t => (i.cap t b).bits = (i.cap t x).bits ∧ (i.cap t b).tag = (i.cap t x).tag)
  | _ => none

/-! ### Control words (R116-R120) -/

/-- R117: the link: the PCC with the address of the next word. -/
def Issue.linkOf (i : Issue) (t : Thread) : Cap := (i.g.pccOf t).move (BitVec.ofNat 64 (i.x.pc.toNat + 8))

/-- R116: the target of a B word: its offset counts words of 8 bytes. -/
def Issue.targetOf (i : Issue) (off : BitVec 32) : DWord := BitVec.ofInt 64 (i.x.pc.toNat + 8 * off.toInt)

/-- R118: a capability that a jump can enter. -/
def Cap.isTarget (c : Cap) : Prop :=
  c.tag = true ∧ (c.otype = 0 ∨ (64 ≤ c.otype ∧ c.has pEN = true)) ∧ c.has pEX = true ∧ c.space = 0 ∧ c.addr.toNat % 8 = 0

/-- R118: the causes of a bad target, in order, and the capability the thread moves to, unsealed. -/
def entryOf (c : Cap) : Except Word Cap :=
  if c.tag = false then .error cCaptag
  else if c.otype ≠ 0 ∧ (c.otype < 64 ∨ ¬ c.has pEN) then .error cCapseal
  else if ¬ c.has pEX ∨ c.space ≠ 0 then .error cCapperm
  else if c.addr.toNat % 8 ≠ 0 then .error cAlign
  else .ok (c.withOtype 0)

/-- R116-R119: what each control word does in a visited lane. -/
def controlRule : Instr → Option LaneRule
  | .bra off _ => some fun i _ _ => .ok { LaneOut.nil with next := some (i.targetOf off) }
  | .call off _ => some fun i _ t => .ok { LaneOut.nil with upds := [.quad 1 (i.linkOf t)], next := some (i.targetOf off) }
  | .jmpc b => some fun i _ t => (entryOf (i.cap t b)).map fun c => { LaneOut.nil with next := some c.addr, moved := some c.code }
  | .ret b => some fun i _ t => (entryOf (i.cap t b)).map fun c => { LaneOut.nil with next := some c.addr, moved := some c.code }
  | .callc b => some fun i _ t => (entryOf (i.cap t b)).map fun c =>
      { LaneOut.nil with upds := [.quad 1 (i.linkOf t)], next := some c.addr, moved := some c.code }
  | .exit => some fun _ _ _ => .ok { LaneOut.nil with await := some .exit }
  | _ => none

end Sys2Proof.Machine
end

