-- ==== Sys2Proof/Safety/Cross.lean ====
section
/-! DEFINITION. The cross-lane words in the terms of the manual (07_group_team_instructions R185-R193), for claims: each
result from the values that stand at the positions of a segment. -/

namespace Sys2Proof.Machine

open Sys2Proof

/-- What a cross-lane word reads in each participant (its operand values and how its result is written), and what it
gives a participant: from the segment's size, the values of the segment by position, the participant's position, its
own values and its writer. -/
structure CrossRule where
  seg : Fin 7
  read : Issue → Nat → Thread → Except Word (List Word × (Word → List Upd))
  give : Nat → List (Nat × List Word) → Nat → List Word → (Word → List Upd) → List Upd × Word

/-- R185: the participants of the segment in which a lane lies, by position. -/
def segmentOf (size lane : Nat) (ps : List (Nat × List Word)) : List (Nat × List Word) :=
  (ps.filter fun p => p.1 / size == lane / size).map fun p => (p.1 % size, p.2)

/-- R65, R26: how a lane's result is written. -/
def Issue.writes (i : Issue) (t : Thread) (d : Dst) : Except Word (Word → List Upd) :=
  match d with
  | .v n => .ok fun w => [.v n.val w]
  | .o n => .ok fun w => [.o n.val w]
  | .vx k e => (indexed i.t.nreg t k e).map fun r w => [.v r w]
  | .latch => .ok fun _ => []

def Issue.cross1 (i : Issue) (l : Nat) (t : Thread) (d : Dst) (a : SrcD) : Except Word (List Word × (Word → List Upd)) := do
  .ok ([← i.src l t a.sel], ← i.writes t d)

def Issue.cross2 (i : Issue) (l : Nat) (t : Thread) (d : Dst) (a b : SrcD) : Except Word (List Word × (Word → List Upd)) := do
  .ok ([← i.src l t a.sel, ← i.src l t b.sel], ← i.writes t d)

/-- The values read by a participant, at their places. -/
def wordNo (l : List Word) (k : Nat) : Word := l.getD k 0

/-- The first value of the participant at a position. -/
def at? (ps : List (Nat × List Word)) (q : Nat) : Option Word := (ps.find? (·.1 == q)).map fun p => wordNo p.2 0

/-- R188. -/
def lxRule (d : Dst) (a j : SrcD) (g : Fin 7) (pos : Nat → Nat → Word → Int) : CrossRule :=
  { seg := g, read := fun i l t => i.cross2 l t d a j,
    give := fun size ps p own wr =>
      let q := pos size p (wordNo own 1)
      (wr (if 0 ≤ q ∧ q < size then (at? ps q.toNat).getD (wordNo own 0) else wordNo own 0), 0) }

/-- A bit as a word. -/
def bitWord (b : Bool) : Word := if b then 1 else 0

/-- R189: a word with a predicate result. -/
def pollRule (p : Fin 7) (g : Fin 7) (q : Thread → Bool) (f : List (Nat × List Word) → Nat → Bool) : CrossRule :=
  { seg := g, read := fun _ _ t => .ok ([bitWord (q t)], fun _ => []),
    give := fun _ ps pos _ _ => ([.p p (f ps pos)], 0) }

/-- R189: the lowest position. -/
def lowestPos (ps : List (Nat × List Word)) : Nat := (ps.map (·.1)).foldr min (ps.map (·.1) |>.headD 0)

/-- R190: a mask of the positions whose values pass a test, written to a word, a pair or a quad. -/
def maskWrites (size : Nat) (d : Dst) (wr : Word → List Upd) (ps : List (Nat × List Word)) (f : List Word → Bool) : List Upd :=
  let m := ∑ q ∈ Finset.range size, if ps.any fun p => p.1 == q && f p.2 then 2 ^ q else 0
  if size ≤ 32 then wr (BitVec.ofNat 32 m)
  else match d with
    | .v n => [.v n.val (BitVec.ofNat 32 m), .v (n.val + 1) (BitVec.ofNat 32 (m / 2 ^ 32))]
    | _ => []

def maskRule (d : Dst) (g : Fin 7) (read : Issue → Nat → Thread → Except Word (List Word × (Word → List Upd)))
    (f : List Word → List Word → Bool) : CrossRule :=
  { seg := g, read := read, give := fun size ps _ own wr => (maskWrites size d wr ps (f own), 0) }

/-- R191: an integer reduction; its result does not depend on the shape of the tree. -/
def redRule (d : Dst) (a : SrcD) (g : Fin 7) (f : List Word → Word) : CrossRule :=
  { seg := g, read := fun i l t => i.cross1 l t d a,
    give := fun _ ps _ _ wr => (wr (f (ps.map fun p => wordNo p.2 0)), 0) }

/-- R191: the value at the root of the tree over the 2^k positions from `b` up, with the status of every comb in it;
none when no position of it holds a participant. -/
def treeAt (op : Word → Word → Word × Word) (v : Nat → Option Word) : Nat → Nat → Option (Word × Word)
  | 0, b => (v b).map fun w => (w, 0)
  | k + 1, b =>
    match treeAt op v k b, treeAt op v k (b + 2 ^ k) with
    | some x, some y => some ((op x.1 y.1).1, x.2 ||| y.2 ||| (op x.1 y.1).2)
    | some x, none => some x
    | none, y => y

/-- R191: a floating-point reduction. -/
def redFpRule (d : Dst) (a : SrcD) (g : Fin 7) (op : Word → Word → Word × Word) : CrossRule :=
  { seg := g, read := fun i l t => i.cross1 l t d a,
    give := fun size ps _ own wr =>
      let r := (treeAt op (at? ps) size.log2 0).getD (wordNo own 0, 0)
      (wr r.1, r.2) }

/-- R192: v[p] after `k` steps of the scan. -/
def scanAt (op : Word → Word → Word) (v : Nat → Option Word) : Nat → Nat → Option Word
  | 0, p => v p
  | k + 1, p =>
    match (if 2 ^ k ≤ p then scanAt op v k (p - 2 ^ k) else none), scanAt op v k p with
    | some x, some y => some (op x y)
    | some x, none => some x
    | none, y => y

/-- R192: the status of every comb of the scan of a segment. -/
def scanStatus (op : Word → Word → Word × Word) (v : Nat → Option Word) (size : Nat) : Word :=
  orAll ((List.range size.log2).flatMap fun k => (List.range size).map fun p =>
    match (if 2 ^ k ≤ p then scanAt (fun x y => (op x y).1) v k (p - 2 ^ k) else none), scanAt (fun x y => (op x y).1) v k p with
    | some x, some y => (op x y).2
    | _, _ => 0)

/-- R191: red.add.f32 and scan.add.f32 round each sum to nearest even. -/
def addRne (x y : Word) : Word × Word := asWord (fp32.add .rne 0 x.toNat y.toNat)

/-- R193: the inclusive prefixes of the usable weights of a segment, by participant. -/
def weightPrefixes (size : Nat) (ps : List (Nat × List Word)) : List (Nat × Word) :=
  let v := at? (ps.map fun p => (p.1, [(sampleWeight (wordNo p.2 0)).1]))
  ps.map fun p => (p.1, (scanAt (fun x y => (addRne x y).1) v size.log2 p.1).getD 0)

/-- R188-R193: every cross-lane word. -/
def crossRule : Instr → Option CrossRule
  | .lxAt d a j g => some (lxRule d a j g fun n _ j => (j.toNat % n : Nat))
  | .lxShift d a j g => some (lxRule d a j g fun _ p j => p - j.toInt)
  | .lxRot d a j g => some (lxRule d a j g fun n p j => ((p : Int) - j.toNat) % n)
  | .lxFlip d a j g => some (lxRule d a j g fun n p j => (p ^^^ (j.toNat % n) : Nat))
  | .pollAny p q g => some (pollRule p g (fun t => pcode t q) fun ps _ => decide (∃ x ∈ ps, wordNo x.2 0 = 1))
  | .pollAll p q g => some (pollRule p g (fun t => pcode t q) fun ps _ => decide (∀ x ∈ ps, wordNo x.2 0 = 1))
  | .elect p g => some (pollRule p g (fun _ => true) fun ps pos => pos == lowestPos ps)
  | .bcast d a g => some
      { seg := g, read := fun i l t => i.cross1 l t d a,
        give := fun _ ps _ own wr => (wr ((at? ps (lowestPos ps)).getD (wordNo own 0)), 0) }
  | .pollMask d q g => some (maskRule d g (fun i _ t => (i.writes t d).map fun w => ([bitWord (pcode t q)], w))
      fun _ x => wordNo x 0 == 1)
  | .peers d a g => some (maskRule d g (fun i l t => i.cross1 l t d a) fun own x => wordNo x 0 == wordNo own 0)
  | .redAddI32 d a g => some (redRule d a g fun l => BitVec.ofNat 32 (l.map BitVec.toNat).sum)
  | .redMinI32 d a g => some (redRule d a g fun l => BitVec.ofInt 32 ((l.map BitVec.toInt).foldr min ((l.map BitVec.toInt).headD 0)))
  | .redMaxI32 d a g => some (redRule d a g fun l => BitVec.ofInt 32 ((l.map BitVec.toInt).foldr max ((l.map BitVec.toInt).headD 0)))
  | .redAnd d a g => some (redRule d a g fun l => bitsOf fun k => l.all (·.getLsbD k))
  | .redOr d a g => some (redRule d a g fun l => bitsOf fun k => l.any (·.getLsbD k))
  | .redXor d a g => some (redRule d a g fun l => bitsOf fun k => (l.filter (·.getLsbD k)).length % 2 == 1)
  | .redAddF32 d a g => some (redFpRule d a g addRne)
  | .redMinF32 d a g => some (redFpRule d a g fun x y => asWord (fp32.minNum false x.toNat y.toNat))
  | .redMaxF32 d a g => some (redFpRule d a g fun x y => asWord (fp32.minNum true x.toNat y.toNat))
  | .scanAddI32 d a g => some
      { seg := g, read := fun i l t => i.cross1 l t d a,
        give := fun _ ps p _ wr => (wr (BitVec.ofNat 32 (((ps.filter (·.1 ≤ p)).map fun x => (wordNo x.2 0).toNat).sum)), 0) }
  | .scanAddI32X d a g => some
      { seg := g, read := fun i l t => i.cross1 l t d a,
        give := fun _ ps p _ wr => (wr (BitVec.ofNat 32 (((ps.filter (·.1 < p)).map fun x => (wordNo x.2 0).toNat).sum)), 0) }
  | .scanAddF32 d a g => some
      { seg := g, read := fun i l t => i.cross1 l t d a,
        give := fun size ps p own wr =>
          (wr ((scanAt (fun x y => (addRne x y).1) (at? ps) size.log2 p).getD (wordNo own 0)), scanStatus addRne (at? ps) size) }
  | .sample d a j g => some
      { seg := g, read := fun i l t => i.cross2 l t d a j,
        give := fun size ps _ own wr =>
          let v := at? (ps.map fun p => (p.1, [(sampleWeight (wordNo p.2 0)).1]))
          let out := samplePick (weightPrefixes size ps) (wordNo own 1)
          (wr out.1, (sampleWeight (wordNo own 0)).2 ||| scanStatus addRne v size ||| out.2) }
  | _ => none

end Sys2Proof.Machine
end

