-- ==== Sys2Proof/Safety/Groups.lean ====
section
/-! DEFINITION. The scalar, special-register, operand-cache and memory words in the terms of the manual
(07_group_team_instructions R194-R202; 01_thread_state R33; 05_capabilities_memory R143-R158), for claims. -/

namespace Sys2Proof.Machine

open Sys2Proof

/-! ### Scalar words (R194-R197) -/

/-- What a scalar word writes, computed once in the lowest visited lane, and the cycles until it performs. -/
structure ScalarRule where
  lat : Nat
  writes : Issue → Nat → Thread → Except Word (List Upd)

/-- R67: a scalar register through the window SW. -/
def Issue.windowed (i : Issue) (d : Nat) : Nat := 64 * i.g.sw.toNat + d

/-- R195: a scalar result of two sources. -/
def sRule (d : Fin 64) (x y : Src) (f : Word → Word → Word) : ScalarRule :=
  ⟨4, fun i l t => do
    let a ← i.src l t x
    let b ← i.src l t y
    .ok [.s (i.windowed d.val) (f a b)]⟩

/-- R33: the value of special register `n` in a lane. -/
def specialOf (i : Issue) (lane : Nat) (t : Thread) (n : Fin 16) : Word :=
  match n.val with
  | 0 => BitVec.ofNat 32 (Config.width i.x.core.die)
  | 1 => BitVec.ofNat 32 lane
  | 2 => BitVec.ofNat 32 (i.x.g * Config.width i.x.core.die + lane)
  | 3 => BitVec.ofNat 32 i.x.g
  | 4 => BitVec.ofNat 32 i.t.idx
  | 5 => BitVec.ofNat 32 (i.s.coreNumber i.t.ctx i.x.core)
  | 6 => BitVec.ofNat 32 i.t.cluster
  | 7 => BitVec.ofNat 32 i.x.core.die
  | 8 => t.fps
  | 9 => i.g.cause
  | 10 => BitVec.ofNat 32 i.t.nreg
  | 11 => BitVec.ofNat 32 i.core.cycle
  | 12 => BitVec.ofNat 32 (i.core.cycle / 2 ^ 32)
  | 13 => BitVec.ofNat 32 i.g.issued
  | 14 => BitVec.ofNat 32 i.g.sw.toNat
  | _ => BitVec.ofNat 32 i.core.world

/-- R195-R198. -/
def scalarRule : Instr → Option ScalarRule
  | .sadd d x y => some (sRule d x y fun a b => BitVec.ofNat 32 (a.toNat + b.toNat))
  | .ssub d x y => some (sRule d x y fun a b => BitVec.ofInt 32 (a.toNat - b.toNat))
  | .smul d x y => some (sRule d x y fun a b => BitVec.ofNat 32 (a.toNat * b.toNat))
  | .sand d x y => some (sRule d x y fun a b => bitsOf fun k => a.getLsbD k && b.getLsbD k)
  | .sor d x y => some (sRule d x y fun a b => bitsOf fun k => a.getLsbD k || b.getLsbD k)
  | .sxor d x y => some (sRule d x y fun a b => bitsOf fun k => a.getLsbD k != b.getLsbD k)
  | .sshl d x y => some (sRule d x y fun a b => if b.toNat < 32 then BitVec.ofNat 32 (a.toNat * 2 ^ b.toNat) else 0)
  | .sshr d x y => some (sRule d x y fun a b => if b.toNat < 32 then BitVec.ofNat 32 (a.toNat / 2 ^ b.toNat) else 0)
  | .ssar d x y => some (sRule d x y fun a b => BitVec.ofInt 32 (a.toInt / 2 ^ min b.toNat 31))
  | .sminI32 d x y => some (sRule d x y fun a b => BitVec.ofInt 32 (min a.toInt b.toInt))
  | .smaxI32 d x y => some (sRule d x y fun a b => BitVec.ofInt 32 (max a.toInt b.toInt))
  | .v2s d x => some ⟨4, fun i l t => do
      let a ← i.src l t x
      .ok [.s (i.windowed d.val) a]⟩
  | .swin x => some ⟨2, fun i l t => do
      let a ← i.src l t x
      .ok [.sw (BitVec.ofNat 2 a.toNat)]⟩
  | .sread (.s k) n => some ⟨4, fun i l t => .ok [.s (i.windowed k.val) (specialOf i l t n)]⟩
  | _ => none

/-- R194: the lanes of a scalar word: the lowest visited one writes, and every visited one's flag clears with it. -/
def onceOuts (i : Issue) (l : Nat) (us : List Upd) : List (Nat × LaneOut) :=
  i.visited.map fun p => (p.1, { LaneOut.nil with upds := if p.1 = l then us else [] })

/-! ### Register files per lane (R198-R202) -/

/-- R198, R199, R201, R202: lane words of the scalar class, and the kind of their writes. -/
def fileRule : Instr → Option (PendKind × LaneRule)
  | .sread (.reg r) n => some (.scalar, fun i l t => do
      let (us, _) ← i.dst t r (specialOf i l t n)
      .ok { LaneOut.nil with upds := us })
  | .swrite x => some (.scalar, fun i l t => do
      let a ← i.src l t x
      .ok { LaneOut.nil with now := [.fps (BitVec.ofNat 32 (a.toNat % 32))] })
  | .xset k x => some (.scalar, fun i l t => do
      let a ← i.src l t x
      .ok { LaneOut.nil with upds := [.x k (BitVec.ofNat 16 (a.toNat % 128 + a.toNat / 256 % 256 * 256))] })
  | .ocfill o v n => some (.scalar, fun _ _ t =>
      .ok { LaneOut.nil with upds := (List.range n.val).map fun j => .o (o.val + j) (t.rdV (v.val + j)) })
  | .ocspill v o n => some (.alu, fun _ _ t => do
      let ws ← (List.range n.val).mapM fun j => rdO t (o.val + j)
      .ok { LaneOut.nil with upds := ws.zipIdx.map fun p => .v (v.val + p.2) p.1 })
  | _ => none

/-! ### Memory words (R143-R153) -/

/-- What a memory word asks in each visited lane (the space, where the result goes, the access, every check of R141 and
R142 passed), and the operation it starts. -/
structure MemRule where
  atomic : Bool
  lane : Issue → Nat → Thread → Except MErr (Nat × Dest × Access)
  op : Issue → List (Nat × Nat × Dest × Access) → Op

/-- R143: the effective address: the capability's address plus the sign-extended offset, modulo 2^64. -/
def effective (c : Cap) (off : Word) : Nat := ((c.addr.toNat + off.toInt) % 2 ^ 64).toNat

/-- An operation of the issued word, as it enters flight. -/
def Issue.starts (i : Issue) (rs : List (Nat × Nat × Dest × Access)) (kind : OpKind) : Op :=
  { id := 0, g := i.x.g, lanes := rs.map (·.1), sf := i.x.ctl.sf, op10 := 0, pc := i.x.pc, pccx := i.x.pccx, scope := .system, acq := false,
    rel := false, seq := false, kind := kind, gates := [] }

/-- R144-R146: a load of `size` bytes. -/
def loadRule (b : CapSel) (off : Src) (m : LdMod) (size : Nat) (isCap : Bool) (dest : Issue → Thread → Except Word Dest) :
    MemRule :=
  let sc : Option Scope := match m with | .relaxed _ _ => none | .acquire x => some x | .sequential x => some x
  { atomic := false,
    lane := fun i l t => do
      let o ← liftE (i.src l t off)
      let d ← liftE (dest i t)
      let c := i.cap t b
      let (loc, tg) ← i.access c pLD (effective c o) size [0, 1, 2] sc true true { needR with cap := isCap }
      let _ ← i.dataErr loc size
      .ok (c.space, d, (⟨l, loc, size, effective c o, 0, 0, isCap && tg && c.has pLDC, Cap.zero, c.space⟩ : Access)),
    op := fun i rs =>
      { i.starts rs (.load (rs.map (·.2.2.2)) (rs.map fun p => (p.1, p.2.2.1)) (match m with | .relaxed x _ => x | _ => false) isCap []) with
        scope := sc.getD .system,
        acq := (match m with | .relaxed _ _ => false | _ => true),
        seq := (match m with | .sequential _ => true | _ => false) } }

/-- R147-R150: a store of `size` bytes. -/
def storeRule (b : CapSel) (off : Src) (sc : Scope) (o : StOrd) (size : Nat) (isCap : Bool)
    (data : Issue → Nat → Thread → Except Word (BitVec 128 × Cap)) : MemRule :=
  { atomic := false,
    lane := fun i l t => do
      let (x, v) ← liftE (data i l t)
      let ofs ← liftE (i.src l t off)
      let c := i.cap t b
      let (loc, _) ← i.access c pST (effective c ofs) size [0, 1, 2] (some sc) true (storeCapOk v c)
        { needW with ts := v.tag, cap := isCap }
      .ok (c.space, Dest.none, (⟨l, loc, size, effective c ofs, x, 0, v.tag, v, c.space⟩ : Access)),
    op := fun i rs =>
      { i.starts rs (.store (rs.map (·.2.2.2)) isCap) with
        scope := sc, rel := decide (o ≠ .relaxed), seq := decide (o = .sequential) } }

/-- R151-R153: an atomic on `size` bytes at the capability's own address. -/
def atomRule (k : Rmw) (b : CapSel) (sc : Scope) (o : Order) (size : Nat) (dest : Issue → Thread → Except Word Dest)
    (data : Issue → Nat → Thread → Except Word (BitVec 128 × BitVec 128)) : MemRule :=
  { atomic := true,
    lane := fun i l t => do
      let (x, y) ← liftE (data i l t)
      let d ← liftE (dest i t)
      let c := i.cap t b
      let (loc, _) ← i.access c (pLD ||| pST) c.addr.toNat size [0, 1, 2] (some sc) true true (needA k)
      let _ ← i.dataErr loc size
      .ok (c.space, d, (⟨l, loc, size, c.addr.toNat, x, y, false, Cap.zero, c.space⟩ : Access)),
    op := fun i rs =>
      { i.starts rs (.rmw k (rs.map (·.2.2.2)) (rs.map fun p => (p.1, p.2.2.1)) []) with
        scope := sc,
        acq := decide (o = .acquire ∨ o = .acqRel ∨ o = .sequential),
        rel := decide (o = .release ∨ o = .acqRel ∨ o = .sequential),
        seq := decide (o = .sequential) } }

/-- A 32-bit operand as data. -/
def data32 (a : Src) (i : Issue) (l : Nat) (t : Thread) : Except Word (BitVec 128 × Cap) :=
  (i.src l t a).map fun w => (BitVec.ofNat 128 w.toNat, Cap.zero)

/-- A 32-bit atomic with one operand and an optional destination. -/
def atomRule32 (k : Rmw) (d : Option Dst) (b : CapSel) (x : Src) (sc : Scope) (o : Order) : MemRule :=
  atomRule k b sc o 4 (fun i t => match d with | some d => i.destOf t d | none => .ok .none)
    fun i l t => (i.src l t x).map fun w => (BitVec.ofNat 128 w.toNat, 0)

/-- R143-R153: the memory words. -/
def memRule : Instr → Option MemRule
  | .ldB8 d b off m => some (loadRule b off m 1 false fun i t => i.destOf t d)
  | .ldB16 d b off m => some (loadRule b off m 2 false fun i t => i.destOf t d)
  | .ldB32 d b off m => some (loadRule b off m 4 false fun i t => i.destOf t d)
  | .ldB64 d b off m => some (loadRule b off m 8 false fun _ _ => .ok (.pair (2 * d.val)))
  | .ldB128 d b off m => some (loadRule b off m 16 false fun _ _ => .ok (.quad d.val))
  | .ldc d b off m => some (loadRule b off m 16 true fun _ _ => .ok (match d with | .w n => .capW n.val | .k n => .capK n.val))
  | .stB8 a b off sc o => some (storeRule b off sc o 1 false (data32 a))
  | .stB16 a b off sc o => some (storeRule b off sc o 2 false (data32 a))
  | .stB32 a b off sc o => some (storeRule b off sc o 4 false (data32 a))
  | .stB64 a b off sc o => some (storeRule b off sc o 8 false fun i _ t => .ok (BitVec.ofNat 128 (i.psrc t a).toNat, Cap.zero))
  | .stB128 a b off sc o => some (storeRule b off sc o 16 false fun _ _ t => .ok ((t.quad a.val).bits, Cap.zero))
  | .stc a b off sc o => some (storeRule b off sc o 16 true fun i _ t => .ok ((i.cap t a).bits, i.cap t a))
  | .atomAdd d b x sc o => some (atomRule32 .add d b x sc o)
  | .atomMinI32 d b x sc o => some (atomRule32 .minI d b x sc o)
  | .atomMinN32 d b x sc o => some (atomRule32 .minN d b x sc o)
  | .atomMaxI32 d b x sc o => some (atomRule32 .maxI d b x sc o)
  | .atomMaxN32 d b x sc o => some (atomRule32 .maxN d b x sc o)
  | .atomAnd d b x sc o => some (atomRule32 .and d b x sc o)
  | .atomOr d b x sc o => some (atomRule32 .or d b x sc o)
  | .atomXor d b x sc o => some (atomRule32 .xor d b x sc o)
  | .atomXchg d b x sc o => some (atomRule32 .xchg d b x sc o)
  | .atomFaddF32 d b x sc o => some (atomRule32 .fadd d b x sc o)
  | .atomCas d b x sc o => some (atomRule .cas b sc o 4
      (fun i t => match d with | some d => i.destOf t d | none => .ok .none)
      fun _ _ t => .ok (BitVec.ofNat 128 (t.rdV (2 * x.val)).toNat, BitVec.ofNat 128 (t.rdV (2 * x.val + 1)).toNat))
  | .atomAdd64 d b x sc o => some (atomRule .add64 b sc o 8
      (fun _ _ => .ok (match d with | some n => .pair (2 * n.val) | none => .none))
      fun i _ t => .ok (BitVec.ofNat 128 (i.psrc t x).toNat, 0))
  | .atomCas64 d b x sc o => some (atomRule .cas64 b sc o 8
      (fun _ _ => .ok (match d with | some n => .pair (2 * n.val) | none => .none))
      fun _ _ t => .ok (BitVec.ofNat 128 (t.pair (4 * x.val)).toNat, BitVec.ofNat 128 (t.pair (4 * x.val + 2)).toNat))
  | .atomCas128 d b x sc o => some (atomRule .cas128 b sc o 16
      (fun _ _ => .ok (match d with | some n => .quad n.val | none => .none))
      fun _ _ t => .ok ((t.quad (2 * x.val)).bits, (t.quad (2 * x.val + 1)).bits))
  | _ => none

end Sys2Proof.Machine
end

