-- ==== Sys2Proof/Safety/Engines.lean ====
section
/-! DEFINITION. The words that wait, the copy and matrix words and the task words in the terms of the manual
(07_group_team_instructions R200-R217; 08_matrix_engine R228-R244; 11_cluster_grid_tasks R286-R301), for claims. -/

namespace Sys2Proof.Machine

open Sys2Proof

/-! ### Words that only wait, or do nothing (R120, R158, R203, R204, R291) -/

/-- A park of the word in issue, which completes at the next word. -/
def Issue.parks (i : Issue) (ins : Instr) (kind : Nat) (c : Cap) (addr : Nat) (val : Word) (sc : Scope) (acq : Bool) : LaneOut :=
  { LaneOut.nil with
    park := some { kind := kind, cap := c, addr := addr, val := val, scope := sc, acq := acq, sf := i.x.ctl.sf, pd := none,
                   obj := 0, m := 0, q := 0, next := i.x.pc + BitVec.ofNat 64 (wordLen ins), redo := false } }

/-- The cycles until the word's flag clears, and what each visited lane does. -/
def idleRule : Instr → Option (Nat × LaneRule)
  | .nop => some (1, fun _ _ _ => .ok LaneOut.nil)
  | .prefetch _ off _ => some (1, fun i l t => do
      let _ ← i.src l t off
      .ok LaneOut.nil)
  | .tbar n => some (0, fun i _ _ => .ok (i.parks (.tbar n) 5 Cap.zero 0 (BitVec.ofNat 32 n.val) .team false))
  | .carve p x n => some (0, fun i l t => do
      let w ← i.src l t x
      let k := i.parks (.carve p x n) 6 Cap.zero 0 (BitVec.ofNat 32 n.val) .team false
      .ok { k with park := k.park.map fun q => { q with pd := some p, obj := w.toNat } })
  | .tend b sc => some (0, fun i _ t => .ok { LaneOut.nil with await := some (.tend (b.map (i.cap t)) sc) })
  | _ => none

/-- The load of a waiting word, and what its lane does: it goes on where the load may perform now and `done` says that what it
reads ends the wait, and parks otherwise. -/
def Issue.tests (i : Issue) (l : Nat) (t : Thread) (space : Nat) (loc : Loc) (size : Nat) (sc : Scope) (acq done : Bool)
    (parked : LaneOut) : Op × LaneOut :=
  let q := probe i.x.g l space loc size sc acq i.t.nextOp t.gates
  (q, if i.s.mayProbe i.x.team i.t q && done then LaneOut.nil else parked)

/-- R286, R292: the lane reads `size` bytes of global memory; it goes on where `done` holds of them and parks otherwise. -/
def Issue.readsGlobal (i : Issue) (ins : Instr) (l : Nat) (t : Thread) (c : Cap) (o : Word) (sc : Scope) (size kind : Nat) (v : Word)
    (done : Nat → Bool) : Except MErr (Op × LaneOut) := do
  let (loc, _) ← i.access c pLD (effective c o) size [0] (some sc) true true { needR with nr := true }
  match i.s.readFor i.t.die i.core.world loc size (16 * l) with
  | .error e => .error (errOf e)
  | .ok bs => .ok (i.tests l t c.space loc size sc true (done (wordOfBytes bs)) (i.parks ins kind c (effective c o) v sc true))

/-- R215: the word that waits for granules; no access of the memory model. -/
def ownRule : Instr → Option (Issue → Nat → Thread → Except MErr LaneOut)
  | .waitown a b off => some fun i l t => do
      let n ← liftE (i.src l t a)
      let o ← liftE (i.src l t off)
      let c := i.cap t b
      let va := effective c o
      let _ ← liftE (capCheck c pLD va n.toNat [1, 2] false false true (i.s.spadAt i.x.team i.t c.space va n.toNat).isSome)
      if i.s.covered i.t.ctx c then .error (errOf cRevoked)
      else .ok (if n = 0 ∨ ∀ g ∈ i.s.sideGranules i.x.team i.t c va n.toNat, i.s.granuleOwned g = false then LaneOut.nil
        else i.parks (.waitown a b off) 2 c va n .cluster true)
  | _ => none

/-- R216, R286, R292: the words that read, and go on or park. -/
def parkRule : Instr → Option (Issue → Nat → Thread → Except MErr (Op × LaneOut))
  | .waitgen a b off => some fun i l t => do
      let g ← liftE (i.src l t a)
      let o ← liftE (i.src l t off)
      let c := i.cap t b
      let va := effective c o
      let (loc, _) ← i.access c pLD va 8 [1, 2] none true true needR
      .ok (i.tests l t c.space loc 8 .cluster true (genReached (i.s.spNum loc) g) (i.parks (.waitgen a b off) 3 c va g .cluster true))
  | .evwait g b off sc => some fun i l t => do
      let v ← liftE (i.src l t g)
      let o ← liftE (i.src l t off)
      i.readsGlobal (.evwait g b off sc) l t (i.cap t b) o sc 8 8 v (genReached · v)
  | .join b off sc => some fun i l t => do
      let o ← liftE (i.src l t off)
      i.readsGlobal (.join b off sc) l t (i.cap t b) o sc 4 7 0 (· == 0)
  | _ => none

/-- R157: `waitne` reads a word of any space, and parks while it equals the operand. -/
def Issue.waitneLane (i : Issue) (a : Src) (b : CapSel) (off : Src) (sc : Scope) (acq : Bool) (l : Nat) (t : Thread) :
    Except MErr (Access × Op × LaneOut) := do
  let v ← liftE (i.src l t a)
  let o ← liftE (i.src l t off)
  let c := i.cap t b
  let va := effective c o
  let (loc, _) ← i.access c pLD va 4 [0, 1, 2] (some sc) true true { needR with nr := true }
  match i.s.readFor i.t.die i.core.world loc 4 (16 * l) with
  | .error e => .error (errOf e)
  | .ok bs =>
    .ok (⟨l, loc, 4, va, 0, 0, false, Cap.zero, c.space⟩,
      i.tests l t c.space loc 4 sc acq (BitVec.ofNat 32 (wordOfBytes bs) != v) (i.parks (.waitne a b off sc acq) 1 c va v sc acq))

/-- What the lanes of a waiting word do. -/
def waits (rs : List (Nat × Op × LaneOut)) : List (Nat × LaneOut) := rs.map fun p => (p.1, p.2.2)

/-- The loads of those that go on have performed. -/
def Issue.waited (i : Issue) (rs : List (Nat × Op × LaneOut)) (t : State) : State :=
  t.probedAll i.x.team i.t (rs.map (·.2))

/-! ### Words that start one operation (R155, R200, R214, R285, R289, R301) -/

/-- R200, R301: what lands in each visited lane. -/
def landRule : Instr → Option (Issue → Nat → Thread → Except Word (List Upd))
  | .rndc d => some fun i l t => (i.dst t d (Config.entropy (i.s.draws + l))).map (·.1)
  | .dqinfo d item => some fun i _ t =>
      (i.dst t d (match item.val with
        | 0 => BitVec.ofNat 32 i.t.dequeCount
        | 1 => BitVec.ofNat 32 i.t.ringCount
        | 2 => BitVec.ofNat 32 t.frame.toNat
        | _ => BitVec.ofNat 32 (t.frame.toNat / 2 ^ 32))).map (·.1)
  | _ => none

/-- R214: the access of a lane of `arrset`, every check passed. Its scope is the team's in the own core's share, and the cluster's
in another's. -/
def Issue.arrLane (i : Issue) (a : Src) (b : CapSel) (off : Src) (l : Nat) (t : Thread) : Except MErr Access := do
  let x ← liftE (i.src l t a)
  let o ← liftE (i.src l t off)
  let c := i.cap t b
  let (loc, _) ← i.access c (pLD ||| pST) (effective c o) 8 [1, 2] none true true needW
  if x = 0 ∨ 2 ^ 20 ≤ x.toNat ∨ arrCount (i.s.spNum loc) ≠ 0 then .error (errOf cEngine)
  else .ok ⟨l, loc, 8, effective c o, BitVec.ofNat 128 x.toNat, 0, false, Cap.zero, if loc.own i.x.team = true then 1 else 2⟩

/-- R285: the access of a lane of `evpub`, every check passed. -/
def Issue.evpubLane (i : Issue) (g : Src) (b : CapSel) (off : Src) (sc : Scope) (l : Nat) (t : Thread) : Except MErr Access := do
  let n ← liftE (i.src l t g)
  let o ← liftE (i.src l t off)
  let c := i.cap t b
  let (loc, _) ← i.access c (pLD ||| pST) (effective c o) 8 [0] (some sc) true true (needA .evpub)
  let _ ← i.dataErr loc 8
  if 2 ^ 20 ≤ n.toNat then .error (errOf cEngine)
  else .ok ⟨l, loc, 8, effective c o, BitVec.ofNat 128 n.toNat, 0, false, Cap.zero, c.space⟩

/-- R289: the frames of the visited lanes in order, each with its own checks passed and a place for it in the deque, or
after a spill of 16 in the ring; where some lane's fails, every such lane with its cause. -/
def Issue.frames (i : Issue) (b : Nat) :
    List (Nat × Thread) → Except MErr Room → List (Nat × MErr) × List (Nat × Frame × Option Access)
  | [], _ => ([], [])
  | (l, t) :: r, place =>
    match i.spawnLane l t b, place with
    | .error e, _ => let q := i.frames b r place; ((l, e) :: q.1, q.2)
    | .ok _, .error e => let q := i.frames b r (.error e); ((l, e) :: q.1, q.2)
    | .ok f, .ok d =>
      match i.s.pushCheck i.x.team i.t i.core.world d f.1.tagged with
      | .ok p => let q := i.frames b r (.ok p); (q.1, (l, f) :: q.2)
      | .error e => let q := i.frames b r (.error e); ((l, e) :: q.1, q.2)

/-- R289: the places of this word's frames come after those of the spawns that still push. -/
def Issue.spawnFrames (i : Issue) (v : Fin 32) : List (Nat × MErr) × List (Nat × Frame × Option Access) :=
  i.frames (4 * v.val) i.visited
    (i.s.pushChecks i.x.team i.t i.core.world i.t.spawnTags (i.s.room i.x.team i.t i.core.world))

/-! ### Copy words (R208-R211) -/

structure CopyRule where
  op10 : Nat
  scope : Scope
  tagMode : Bool
  dstSpaces : List Nat
  srcSpaces : List Nat
  kind : Nat
  asks : Issue → Nat → Thread → CopyAsk

def copyRule : Instr → Option CopyRule
  | .cpin a b x sc tm => some ⟨0x180, sc, tm, [1, 2], [0], 0, fun i _ t => ⟨i.cap t a, some (i.cap t b), .ok 0, i.psrc t x⟩⟩
  | .cpout a b x sc tm => some ⟨0x181, sc, tm, [0], [1, 2], 1, fun i _ t => ⟨i.cap t a, some (i.cap t b), .ok 0, i.psrc t x⟩⟩
  | .cpx a b x sc tm => some ⟨0x182, sc, tm, [1, 2], [1, 2], 2, fun i _ t => ⟨i.cap t a, some (i.cap t b), .ok 0, i.psrc t x⟩⟩
  | .cpfill a v x sc => some ⟨0x183, sc, false, [0, 1, 2], [], 3, fun i l t => ⟨i.cap t a, none, i.src l t v, i.psrc t x⟩⟩
  | _ => none

/-- R211: the granules `gs` are those that hold some byte of the `len` bytes at a capability's address in a share. -/
def Issue.HoldsRange (i : Issue) (c : Cap) (len : Nat) (gs : List (Nat × Nat)) : Prop :=
  c.space ≠ 0 → ∀ a, c.addr.toNat ≤ a → a < c.addr.toNat + len →
    ∃ m off, i.s.spadAt i.x.team i.t c.space a 1 = some (m, off) ∧ (m, off / 1024) ∈ gs

/-- R208, R209, R211: the command that a lane of a copy word issues is the one its operands describe. -/
structure Issue.Commands (i : Issue) (r : CopyRule) (q : CopyAsk) (l : Nat) (c : Copy) : Prop where
  dst : c.dst = ⟨q.dst.space, q.dst.addr.toNat, q.dst⟩
  src : c.src = q.src.map fun k => ⟨k.space, k.addr.toNat, k⟩
  pattern : q.pattern = .ok c.pattern
  len : c.len = q.x.toNat % 2 ^ 20
  left : c.left = [(0, c.len)] ∧ c.got = [] ∧ c.begun = false
  form : c.tagMode = r.tagMode ∧ c.kind = r.kind ∧ c.lane = l
  untied : q.x.getLsbD 42 = true → c.arrival = none
  tied : q.x.getLsbD 42 = false → ∃ m off, c.arrival = some (m, off) ∧
    let side := if r.kind = 1 then q.src.getD q.dst else q.dst
    i.s.spadAt i.x.team i.t side.space
      ((if side.space = 2 then side.addr.toNat / 2 ^ 22 * 2 ^ 22 else 0) + q.x.toNat / 2 ^ 20 % 2 ^ 22) 8 = some (m, off)
  holds : i.HoldsRange q.dst c.len c.granules ∧ ∀ k, q.src = some k → i.HoldsRange k c.len c.granules
  grant : c.grant = true ↔ c.len ≤ 65536

/-- R178, R211: engine commands have entered flight: `gs` are named, `ties` are made in the shares that hold the arrival words, and
the operations `os` follow those of the team, numbered on. Teams are otherwise as they were. -/
structure Issue.Entered (i : Issue) (t s' : State) (gs : List (Nat × Nat)) (ties : List (Nat × Tie)) (os : List Op) : Prop where
  kept : ∀ n, (s'.teams.look n).map (fun u => { u with named := [], ties := [], ops := [], nextOp := 0 }) =
    (t.teams.look n).map fun u => { u with named := [], ties := [], ops := [], nextOp := 0 }
  named : ∀ n x u, t.teams.look n = some x → s'.teams.look n = some u → ∀ k, k ∈ u.named ↔ k ∈ x.named ∨ (n, k) ∈ gs
  ties : ∀ n x u, t.teams.look n = some x → s'.teams.look n = some u → ∀ y, y ∈ u.ties ↔ y ∈ x.ties ∨ (n, y) ∈ ties
  others : ∀ n x u, n ≠ i.x.team → t.teams.look n = some x → s'.teams.look n = some u → u.ops = x.ops ∧ u.nextOp = x.nextOp
  flight : ∀ x u, t.teams.look i.x.team = some x → s'.teams.look i.x.team = some u → u.nextOp = x.nextOp + os.length ∧
    ∃ new, u.ops = x.ops ++ new ∧ new.length = os.length ∧
      ∀ (k : Nat) (o : Op), os[k]? = some o → ∃ gates, new[k]? = some { o with id := x.nextOp + k, gates := gates }

/-! ### Exact values (R218, R222, R223) -/

/-- The value of a finite element. -/
def Elem.rat : Elem → ℚ
  | .fin m e => m * 2 ^ e
  | _ => 0

/-- The unit of a bank's grid. -/
def gridUnit (ea : Int) : ℚ := 2 ^ (ea - 128)

/-! ### Matrix words (R228-R244) -/

/-- The matrix words (R233-R244). -/
def isMatrixWord : Instr → Bool
  | .mldb .. | .mbeg .. | .mma .. | .mend .. | .mzero .. | .mrd .. | .mstat .. => true
  | _ => false

/-- R233-R242: what a word that acts once checks in the lowest visited lane, and the operation that enters the queue with
the change of the issue view. -/
def matrixRule : Instr → Option (Issue → Nat → Thread → Except Word ((Team → Team) × MOp))
  | .mldb bf b x => some fun i l t => do
      let v ← i.src l t x
      let c := i.cap t b
      let half := cfg v 3 1
      let len := (cfg v 4 7 + 1) * (16 * cfg v 11 12)
      mxNeed (cfg v 23 9 == 0 && (half == 0 || bf == 21 || bf == 23) && cfg v 11 12 != 0
        && decide (imageLen bf.val (mK bf.val) ≤ 16 * cfg v 11 12))
      i.mxCap c pLD len
      i.mxOwner (granulesOf c.addr.toNat len)
      .ok (fun u => { u with mx := { u.mx with viewFmt := u.mx.viewFmt.set (cfg v 0 3) (some bf.val) } },
        i.mop 0x200 l (granulesOf c.addr.toNat len)
          (.mldb bf.val (cfg v 0 3) half (cfg v 4 7 + 1) (16 * cfg v 11 12) c.addr.toNat))
  | .mbeg af bf ofm m x => some fun i l t => do
      let v ← i.src l t x
      mxNeed (cfg v 14 18 == 0 && !(i.t.mx.view (cfg v 0 4)).openC)
      .ok (fun u => u.upView (cfg v 0 4) fun _ => ⟨true, af.val, bf.val, ofm.val, (v.extractLsb' 4 10).toInt, 0⟩,
        i.mop 0x201 l [] (.mbeg (cfg v 0 4) af.val bf.val ofm.val m.val (v.extractLsb' 4 10).toInt))
  | .mend x b cc => some fun i l t => do
      let v ← i.src l t x
      let w := i.t.mx.view (cfg v 0 4)
      let stride := 16 * cfg v 10 12
      let len := (cfg v 7 3 + 1) * stride
      let d := i.cap t b
      mxNeed (cfg v 22 10 == 0 && w.openC && decide (cfg v 4 3 + (cfg v 7 3 + 1) ≤ 8) && stride != 0
        && decide (128 * outBytes w.ofmt ≤ stride))
      i.mxCap d pST len
      let gd := granulesOf d.addr.toNat len
      let gc ← (match cc with
        | none => .ok []
        | some k => do
          i.mxCap (i.cap t k) pLD len
          let gc := granulesOf (i.cap t k).addr.toNat len
          mxNeed ((i.cap t k).addr == d.addr || !gc.any (gd.contains ·))
          .ok gc : Except Word (List Nat))
      i.mxOwner (gd ++ gc).dedup
      .ok (fun u => u.upView (cfg v 0 4) fun w => { w with openC := false },
        i.mop 0x203 l (gd ++ gc).dedup
          (.mend (cfg v 0 4) (cfg v 4 3) (cfg v 7 3 + 1) stride d.addr.toNat (cc.map fun k => (i.cap t k).addr.toNat)))
  | .mzero x => some fun i l t => do
      let v ← i.src l t x
      mxNeed (cfg v 4 28 == 0)
      .ok (fun u => u.upView (cfg v 0 4) fun w => { w with openC := false }, i.mop 0x204 l [] (.mzero (cfg v 0 4)))
  | _ => none

/-- R243: a bank and a column of every visited lane. -/
def Issue.mrdLane (i : Issue) (x : Src) (l : Nat) (t : Thread) : Except Word (Nat × Nat) := do
  let v ← i.src l t x
  if v.toNat / 2 ^ 14 = 0 then .ok (v.toNat % 16, v.toNat / 16 % 1024) else .error cMatrix

/-- R244: a bank of every visited lane, and where its state goes. -/
def Issue.mstatLane (i : Issue) (d : Dst) (x : Src) (l : Nat) (t : Thread) : Except Word (Dest × Nat) := do
  let v ← i.src l t x
  if v.toNat / 16 = 0 then do .ok (← i.destOf t d, v.toNat % 16) else .error cMatrix

end Sys2Proof.Machine
end

