-- ==== Sys2Proof/Safety/Kernel.lean ====
section
/-! DEFINITION. The kernel words in the terms of the manual (15_package_kernel R341-R372; 16_package_memory_trust
R388-R395): what a lane's operands must be, and what the lane then does to the machine, for claims. -/

namespace Sys2Proof.Machine

open Sys2Proof

/-- R346: the check of a lane; when no visited lane fails, the lanes act in ascending order. -/
abbrev KernelRule := Issue → Nat → Thread → Except MErr (State → State)

/-- The lanes of a kernel word act one after the other. -/
def actAll (outs : List (Nat × (State → State))) (s : State) : State := outs.foldl (fun s p => p.2 s) s

/-- A status in the word's 32-bit destination. -/
def Issue.tells (i : Issue) (l : Nat) (d : Dest) (r : Nat × State) : State := i.status r.2 l d r.1

/-! ### Messages (R347-R351) -/

/-- R350: the words that send and take messages. -/
def messageRule : Instr → Option KernelRule
  | .post v b q => some fun i l t => do
      let e ← i.epCheck (i.cap t b)
      .ok fun s => i.postLane (.post v b q) s l e (i.message l t (8 * v.val) (q.map (·.val)))
  | .postTry p v b q => some fun i l t => do
      let e ← i.epCheck (i.cap t b)
      .ok fun s => match s.sendMsg e (i.message l t (8 * v.val) (q.map (·.val))) with
        | some u => i.land u l (match p with | some k => [.p k true] | none => [])
        | none => i.land s l (match p with | some k => [.p k false] | none => [])
  | .take v b q => some fun i l t => do
      let e ← i.epCheck (i.cap t b)
      .ok fun s => i.takeLane (.take v b q) s l e (8 * v.val) q.val
  | .answer v b q => some fun i l t => do
      let a ← i.ansCheck (i.cap t b)
      .ok fun s => i.land (s.answerOnce a (i.cap t b).objGen (i.message l t (8 * v.val) (q.map (·.val)))) l []
  | .settle v b ce q qs => some fun i l t => do
      let a ← (if t.half then .ok none else (i.ansCheck (i.cap t b)).map some : Except MErr (Option Nat))
      let e ← i.epCheck (i.cap t ce)
      .ok fun s => i.takeLane (.settle v b ce q qs)
        (match a with
          | some a => s.answerOnce a (i.cap t b).objGen (i.message l t (8 * v.val) (if qs then some q.val else none))
          | none => s) l e (8 * v.val) q.val
  | _ => none

/-- R350: an `ask` that finds no slot waits for one at its own word; otherwise its answer object exists, the message is
with the endpoint or its taker, and the lane waits at the next word for the answer. -/
def Issue.asks (i : Issue) (p : Option (Fin 7)) (v : Fin 16) (b : CapSel) (q : Fin 30) (qs : Bool) (l e : Nat) (m : Msg)
    (s : State) : State :=
  let ins : Instr := .ask p v b q qs
  let slotless := fun (s : State) =>
    let (w, s) := i.waiter s l (some m)
    (s.upEp e fun y => { y with posters := y.posters ++ [w] }).parkLane i.x.team i.x.g l
      (msgPark i ins 11 (8 * v.val) q.val p 0) i.x.pc
  match s.newObj 13 none with
  | none => slotless s
  | some (a, s') =>
    match ({ s' with answers := s'.answers.put a (askAnswer i.x.team i.x.g l (8 * v.val) q.val p i.x.ctl.sf) }.parkLane
        i.x.team i.x.g l (msgPark i ins 12 (8 * v.val) q.val p a) (i.x.pc + BitVec.ofNat 64 (wordLen ins))).sendMsg e
        { m with ans := some a } with
    | some u => u
    | none => slotless s

/-! ### Objects (R341-R346, R353-R365, R370, R372) -/

/-- R344, R353, R360, R363: the words that make an object and give its capability, or the status of a refusal. -/
def makeRule : Instr → Option KernelRule
  | .objmake d r x => some fun i l t => do
      let o ← i.obj (i.cap t r) [6, 7] pIV
      let v ← liftE (i.src l t x)
      match makeWhat (i.cap t r).otype v with
      | none => .error (errOf cKernel)
      | some k => .ok fun s => i.made s l d (s.make o k)
  | .ctxnew d r q => some fun i l t => do
      let rv ← i.obj (i.cap t r) [6] pIV
      let cs ← i.obj (t.quad q.val) [7] pIV
      let sc ← i.obj (t.quad (q.val + 1)) [4] pIV
      let sp ← i.obj (t.quad (q.val + 2)) [2] pIV
      let f := t.quad (q.val + 3)
      if f.tag then let _ ← i.obj f [3] pIV
      .ok fun s => i.made s l d (s.newCtx i.t.ctx ⟨rv, cs, sc, sp, if f.tag then some f else none⟩)
  | .schnew d r x => some fun i l t => do
      let o ← i.obj (i.cap t r) [4] pIV
      let v ← liftE (i.src l t x)
      if v.toNat / 2 ^ 22 ≠ 0 then .error (errOf cKernel)
      else .ok fun s => i.made s l d (s.newSched o (v.toNat % 2 ^ 17) (v.toNat / 2 ^ 17 % 32))
  | .asnew d r => some fun i l t => do
      let o ← i.obj (i.cap t r) [6] pIV
      .ok fun s => i.made s l d (s.newSpace i.t.ctx o)
  | .troyOpen d k b => some fun i l t => do
      let o ← i.obj (i.cap t k) [8] pIV
      i.recordBuffer (i.cap t b) 3520
      if (i.s.keys.look o).getD 64 ≠ i.core.world then .error (errOf cKernel)
      else .ok fun s => i.made s l d (s.openSession i.t.ctx i.x.team ((i.s.keys.look o).getD 64) (i.cap t b))
  | _ => none

/-- R354: the item of a `ctxcfg`. -/
def Issue.cfgItem (i : Issue) (l : Nat) (t : Thread) : CtxItem → Except MErr CfgDo
  | .ceil v => do
      let n ← liftE (i.src l t v)
      if n.toNat < 3 ∨ 5 < n.toNat then .error (errOf cKernel) else .ok (.ceil n.toNat)
  | .fault f =>
      if (i.cap t f).tag then do
        let _ ← i.obj (i.cap t f) [3] pIV
        .ok (.fault (some (i.cap t f)))
      else .ok (.fault none)
  | .cset f => do .ok (.cset (← i.obj (i.cap t f) [7] pIV))
  | .cnt n => .ok (.count n.val)
  | .other _ _ => .error (errOf cKernel)

/-- An operation of one lane that stays in flight until its event completes it. -/
def Issue.awaits (i : Issue) (l op10 : Nat) (k : OpKind) (s : State) : State :=
  s.upTeam i.x.team (·.addOp (i.op [l] op10 k))

/-- R354-R357, R360, R370: the words that change an object and give a status. -/
def statusRule : Instr → Option KernelRule
  | .ctxcfg d x it => some fun i l t => do
      let c ← i.obj (i.cap t x) [1] pIV
      let k ← i.cfgItem l t it
      if c = i.t.ctx ∨ ¬ i.s.inSubtree i.t.ctx c then .error (errOf cKernel)
      let e ← liftE (i.destOf t d)
      .ok fun s =>
        match k, e with
        | .count _, .v r => i.land (s.configure i.t.ctx c k).2 l (pairUpds r (BitVec.ofNat 64 (s.configure i.t.ctx c k).1))
        | .ceil n, _ =>
          i.awaits l 0 (.ceil ((s.bornNo c).getD 0) n ((destUpd e (BitVec.ofNat 32 (s.configure i.t.ctx c k).1)).map fun u => (l, u)))
            (s.configure i.t.ctx c k).2
        | _, _ => i.tells l e (s.configure i.t.ctx c k)
  | .schset item d r x => some fun i l t => do
      let o ← i.obj (i.cap t r) [4] pIV
      let v ← liftE (i.src l t x)
      if (item = 1 ∧ 32 ≤ v.toNat) ∨ (item = 2 ∧ (v = 0 ∨ 65536 < v.toNat)) then .error (errOf cKernel)
      let e ← liftE (i.destOf t d)
      .ok fun s => i.tells l e (s.setSched o item.val v.toNat)
  | .lnbind d k e => some fun i l t => do
      let o ← i.obj (i.cap t k) [5] pIV
      let ep ← (match e with
        | some c => do .ok (some (← i.obj (i.cap t c) [3] pIV))
        | none => .ok none : Except MErr (Option Nat))
      let g ← liftE (i.destOf t d)
      .ok fun s => i.tells l g (kOk, s.bindLine o ep)
  | .lnack d x => some fun i l t => do
      let o ← i.obj (i.cap t x) [5] pIV
      let e ← liftE (i.destOf t d)
      .ok fun s => i.tells l e (s.ackLine o)
  | _ => none

/-- R350: `ask`. -/
def askRule : Instr → Option KernelRule
  | .ask p v b q qs => some fun i l t => do
      let e ← i.epCheck (i.cap t b)
      if (i.s.newObj 13 none).isNone then .error (errOf cKernel)
      else .ok (i.asks p v b q qs l e (i.message l t (8 * v.val) (if qs then some q.val else none)))
  | _ => none

/-! ### Commands that complete later (R280, R355-R357, R364, R365, R372, R389, R395) -/

/-- R356: the answer to the stop of a context that is not running; none where the stop begins. -/
def stopAnswer (cut : Bool) : Option CtxSt → Option Nat
  | some .created => some (if cut then 1 else 0)
  | some .stopped => some 0
  | some .dead => some 3
  | _ => none

/-- R364: the request in the eight registers from v r. -/
def mapReq (t : Thread) (o r : Nat) : MapReq :=
  let w := (t.rdV (r + 2)).toNat
  ⟨o, (t.pair r).toNat, w % 8, w / 2 ^ 8 % 2 ^ 20, w.testBit 3, w.testBit 4, w.testBit 5, w.testBit 6, t.quad (r / 4 + 1)⟩

/-- R372: what a `revoke` names: a reserve, or a range of the issuer's address space. -/
def Issue.regionOf (i : Issue) (c : Cap) : Except MErr Region :=
  if c.tag ∧ c.space = 3 then do .ok (.reserve (← i.obj c [6] pRV))
  else if c.tag = false then .error (errOf cCaptag)
  else if c.otype ≠ 0 then .error (errOf cCapseal)
  else if c.space ≠ 0 ∨ ¬ c.has pRV then .error (errOf cCapperm)
  else if i.s.covered i.t.ctx c then .error (errOf cRevoked)
  else .ok (.range (i.s.spaceOf i.t.ctx) c.decode.1 c.decode.2)

/-- R372: what is told when it is complete: nothing, an event word, an endpoint. -/
def Issue.noteOf (i : Issue) (t : Thread) : Notify → Except MErr (Option Cap)
  | .none => .ok none
  | .event e => do
      let _ ← liftE (capCheck (i.cap t e) (pLD ||| pST) (i.cap t e).addr.toNat 8 [0] false true true true)
      if i.s.covered i.t.ctx (i.cap t e) then .error (errOf cRevoked)
      .ok (some (i.cap t e))
  | .endpoint e => do
      let _ ← i.obj (i.cap t e) [3] pIV
      .ok (some (i.cap t e))

/-- The words that begin something. -/
def commandRule : Instr → Option KernelRule
  | .launch b off => some fun i l t => do
      let o ← liftE (i.src l t off)
      let r ← i.readRecord (i.cap t b) (effective (i.cap t b) o)
      let x ← i.s.checkRecord i.t.ctx (i.visited.filter fun p => decide (p.1 < l)).length r
      .ok fun s => i.awaits l 0x283 (.launch [(s.submit x).1]) (s.submit x).2
  | .ctxrun d x r => some fun i l t => do
      let c ← i.obj (i.cap t x) [1] pIV
      let y ← (match r with
        | none => .ok none
        | some rs => do
          let y ← i.readRecord (i.cap t rs) (i.cap t rs).addr.toNat
          .ok (some (← i.s.checkRecord c (i.visited.filter fun p => decide (p.1 < l)).length (y.under i.s i.t.ctx c)))
        : Except MErr (Option Launch))
      let e ← liftE (i.destOf t d)
      .ok fun s => match y with
        | some k => i.tells l e
            ((s.runCtx c).1, if (s.runCtx c).1 = kOk then ((s.runCtx c).2.submit k).2 else (s.runCtx c).2)
        | none => i.tells l e (s.runCtx c)
  | .ctxstop d x cut => some fun i l t => do
      let c ← i.obj (i.cap t x) [1] pIV
      if i.s.inSubtree c i.t.ctx then .error (errOf cKernel)
      let e ← liftE (i.destOf t d)
      .ok fun s => match stopAnswer cut ((s.ctxs.look c).map (·.st)) with
        | some n => i.tells l e (n, s)
        | none => i.awaits l 0x309 (.kernel c [(if cut then 1 else 0, 0)] [(l, e)]) (s.stopCtx c cut)
  | .ctxkill d x => some fun i l t => do
      let c ← i.obj (i.cap t x) [1] pRV
      if i.s.inSubtree c i.t.ctx then .error (errOf cKernel)
      let e ← liftE (i.destOf t d)
      .ok fun s => i.awaits l 0x30A (.kernel c [] [(l, e)]) (s.killContexts (s.subtree c) 3)
  | .asmap d x m => some fun i l t => do
      let o ← i.obj (i.cap t x) [2] pIV
      let q := mapReq t o (8 * m.val)
      let w := (t.rdV (8 * m.val + 2)).toNat
      if 6 ≤ q.code ∨ w / 2 ^ 7 % 2 ≠ 0 ∨ w / 2 ^ 28 ≠ 0 ∨ q.count = 0 ∨ t.rdV (8 * m.val + 3) ≠ 0 then .error (errOf cKernel)
      let _ ← liftE (capCheck q.src q.perm q.src.addr.toNat (q.count * pageSize q.code) [0] false false true true)
      if q.va % pageSize q.code ≠ 0 ∨ q.src.addr.toNat % pageSize q.code ≠ 0 then .error (errOf cAlign)
      if i.s.covered i.t.ctx q.src then .error (errOf cRevoked)
      let e ← liftE (i.destOf t d)
      .ok fun s => match s.asMap i.t.ctx q with
        | .error n => i.tells l e (n, s)
        | .ok (c, s) => i.land s l (.quad (2 * m.val + 1) c :: destUpd e 0)
  | .asunmap d x m => some fun i l t => do
      let o ← i.obj (i.cap t x) [2] pIV
      let q := mapReq t o (8 * m.val)
      if 6 ≤ q.code ∨ q.count = 0 then .error (errOf cKernel)
      if q.va % pageSize q.code ≠ 0 then .error (errOf cAlign)
      let e ← liftE (i.destOf t d)
      .ok fun s => match s.asUnmap o q.va (pageSize q.code) q.count with
        | .error n => i.tells l e (n, s)
        | .ok (marks, u) => i.awaits l 0x30D (.kernel u.msgSeq marks [(l, e)]) { u with msgSeq := u.msgSeq + 1 }
  | .revoke d r n => some fun i l t => do
      let what ← i.regionOf (i.cap t r)
      let note ← i.noteOf t n
      let e ← liftE (i.destOf t d)
      .ok fun s =>
        if (match what with | .reserve o => s.bornOf o i.t.ctx | .range _ _ _ => false) then i.tells l e (kState, s)
        else if 64 ≤ s.revs.length then i.tells l e (kBusy, s)
        else i.awaits l 0x30F (.kernel s.revSeq [] [(l, e)])
          { s with revs := s.revs ++ [⟨s.revSeq, what, i.t.ctx, note, s.spaceOf i.t.ctx, s.genOf (s.spaceOf i.t.ctx), false, false, 0⟩],
                   revSeq := s.revSeq + 1 }
  | .attest m x b => some fun i l t => do
      let c ← (match x with
        | none => .ok i.t.ctx
        | some k => do
          let c ← i.obj (i.cap t k) [1] pIV
          if ¬ i.s.inSubtree i.t.ctx c then .error (errOf cKernel)
          .ok c : Except MErr Nat)
      i.recordBuffer (i.cap t b) 3840
      .ok fun s => i.awaits l 0x318 (.attest (i.cap t b)
        (s.evidence c i.core.world ((List.range 8).map fun j => t.rdV (8 * m.val + j))) (8 * m.val)) s
  | .troyClose d x => some fun i l t => do
      let o ← i.obj (i.cap t x) [11] pIV
      let e ← liftE (i.destOf t d)
      .ok fun s => match s.sessions.look o with
        | none => i.tells l e (kState, s)
        | some z =>
          if z.st = .opened then
            i.awaits l 0x31B (.sealing o [(l, e)])
              { s with sessions := s.sessions.put o { z with st := .closing, meas := ((s.ctxs.look z.ctx).map (·.meas)).getD [] } }
          else i.tells l e (kState, s)
  | _ => none

/-! ### Frames of Stopped teams (R256, R369) -/

def frameRule : Instr → Option KernelRule
  | .tread (.reg r) tc x => some fun i l t => do
      let (_, tm) ← i.frame (i.cap t tc)
      let y ← needItem (frameSel (← liftE (i.src l t x)))
      let _ ← needItem (tm.frameItem 0 tm.width y)
      let e ← liftE (i.destOf t r)
      .ok fun s => i.land { s with draws := s.draws + 1 } l
        (destUpd e ((tm.frameItem (Config.frameRest s.draws) tm.width y).getD 0))
  | .tread (.cap c) tc x => some fun i l t => do
      let (_, tm) ← i.frame (i.cap t tc)
      let y ← needItem (frameSel (← liftE (i.src l t x)))
      let _ ← needItem (tm.frameQuad 0 tm.width y)
      .ok fun s => i.land { s with draws := s.draws + 1 } l
        (capDestUpd (capDest c) (i.s.settleCap i.t.ctx ((tm.frameQuad (Config.frameRest s.draws) tm.width y).getD Cap.zero)))
  | .twrite y tc x => some fun i l t => do
      let (o, _) ← i.frame (i.cap t tc)
      let k ← needItem (frameSel (← liftE (i.src l t x)))
      let v ← (match y with
        | .reg r => do .ok (.word (← liftE (i.src l t r)))
        | .cap c => .ok (.quad (i.cap t c)) : Except MErr FrameVal)
      let _ ← needItem (i.s.frameWrite i.t.ctx o k v)
      .ok fun s => i.land ((s.frameWrite i.t.ctx o k v).getD s) l []
  | .tclr m tc g => some fun i l t => do
      let (o, tm) ← i.frame (i.cap t tc)
      let w ← liftE (i.src l t m)
      let k ← liftE (i.src l t g)
      if tm.groups.length ≤ k.toNat then .error (errOf cKernel)
      else .ok fun s => i.land (s.upGroup o k.toNat (·.clearCause w)) l []
  | .tresume d x => some fun i l t => do
      let o ← i.obj (i.cap t x) [12] pIV
      let e ← liftE (i.destOf t d)
      .ok fun s => match s.teams.look o with
        | none => i.tells l e (kState, s)
        | some tm =>
          if tm.st = .stopped ∧ tm.desched = false ∧ ∀ g ∈ tm.groups, g.cause = 0 then i.tells l e (kOk, s.resumeTeam o)
          else i.tells l e (kState, s)
  | _ => none

end Sys2Proof.Machine
end

