-- ==== Sys2Proof/Safety/Claims.lean ====
section
/-! DEFINITION. The shapes that several claims share: a word completes as its rule says; a step takes place and changes
nothing but what it names. -/

namespace Sys2Proof.Machine

open Sys2Proof

/-! ### Instruction words -/

/-- Every word of a rule, at every span whose operands are in reach (R21, R59) and readable in every visited lane,
commits: its register writes perform `lat` cycles after issue and its flag clears with them. -/
def LaneWords (rule : Instr → Option LaneRule) (kind : PendKind) (lat : Nat) : Prop :=
  ∀ (ins : Instr) (f : LaneRule), rule ins = some f →
  ∀ (s : State) (i : Issue) (outs : List (Nat × LaneOut)), s.issue = some i → illegalAt ins i.t.nreg i.w = false →
    i.each (f i) = .ok outs → ∃ t, exec ins s = .next t ∧ i.Commits ins kind lat true outs i.t t

/-- Every word of a rule raises, in each lane that it fails, that lane's cause, and does nothing else (R12). -/
def LaneRaises (rule : Instr → Option LaneRule) : Prop :=
  ∀ (ins : Instr) (f : LaneRule), rule ins = some f →
  ∀ (s : State) (i : Issue) (causes : List (Nat × Word)), s.issue = some i → illegalAt ins i.t.nreg i.w = false →
    i.each (f i) = .error causes → ∃ t, exec ins s = .next t ∧ i.Raises causes [] t

/-- What the visited lanes do when a word computes nothing in the cycle of issue. -/
def quietOuts {α : Type} (rs : List (Nat × α)) : List (Nat × LaneOut) := rs.map fun p => (p.1, LaneOut.nil)

/-- The writes of a word that land together (R18). -/
def landingOf {α : Type} (upds : α → List Upd) (rs : List (Nat × α)) : OpKind :=
  .land (rs.flatMap fun p => (upds p.2).map fun u => (p.1, u))

/-- Every word of a kernel rule whose checks pass in every visited lane commits, and its lanes then act one after the
other in ascending order; where a check fails, the causes of every lane that fails are raised (R346). -/
def KernelWords (rule : Instr → Option KernelRule) : Prop :=
  ∀ (ins : Instr) (f : KernelRule), rule ins = some f →
  ∀ (s : State) (i : Issue), s.issue = some i → illegalAt ins i.t.nreg i.w = false →
    (∀ outs, i.each (f i) = .ok outs →
      ∃ t, exec ins s = .next (actAll outs t) ∧ i.Commits ins .alu 0 false (quietOuts outs) i.t t) ∧
    ∀ es, i.each (f i) = .error es → ∃ t, exec ins s = .next t ∧ i.FailsWith es t

/-! ### Steps of the part -/

/-- The steps that stand for what comes from outside the part, and the word of a reserved encoding: like the steps of its units they
have no encoding of their own. -/
def outsideSteps : List Instr :=
  [.asyncCause, .haltRequest, .descheduleRequest, .interruptSignal, .ageingMonitorRead, .channelRetirement, .externalWrite,
   .externalRead, .hostPacket, .atsInvalidation, .priResponse, .fabricPacketArrival, .creditGrant, .remoteAck,
   .connectionDown, .reservedRegisterWrite, .getVersion, .getCapabilities, .negotiateAlgorithms, .getDigests, .getCertificate,
   .challenge, .getMeasurements, .coldReset, .hotReset, .functionLevelReset, .reservedOpcode, .packetRetransmission,
   .vfEnable, .msixVectorUnmask, .completionTimeout]

/-- A step takes place, and `P` holds of what follows. -/
def Happens (e : Instr) (s : State) (P : State → Prop) : Prop := ∃ t, exec e s = .next t ∧ P t

/-- Nothing is changed but the team `id`, which is `u` now; memory and every other team are as they were. -/
structure OnlyTeam (s : State) (id : Nat) (u : Team) (t : State) : Prop where
  rest : t = { s with teams := t.teams, draws := t.draws }
  others : ∀ n, n ≠ id → t.teams.look n = s.teams.look n
  team : t.teams.look id = some u

/-- Within a team, nothing is changed but the group `g`, which is `h` now. -/
structure OnlyGroup (t : Team) (g : Nat) (h : Group) (u : Team) : Prop where
  rest : u = { t with groups := u.groups }
  others : ∀ j, j ≠ g → u.groups[j]? = t.groups[j]?
  group : u.groups[g]? = some h

/-- A parked thread has become Active at the PC of its completion, its named flag clear; registers are as they were, and
other lanes keep everything (R14). -/
structure Group.Woken (g : Group) (lane : Nat) (p : Park) (h : Group) : Prop where
  kept : h = { g with threads := h.threads, pcc := h.pcc, pct := h.pct, queue := h.queue, joining := h.joining }
  woken : ∀ t, g.threads.look lane = some t → ∃ k, h.threads.look lane = some k ∧
    k.bare = { t.bare with st := .active, park := none, pc := p.next,
                           f := match p.sf with | some n => t.f.set n.val false | none => t.f }
  others : ∀ l, l ≠ lane → (h.threads.look l).map Thread.bare = (g.threads.look l).map Thread.bare

end Sys2Proof.Machine
end

