-- ==== Sys2Proof/Safety/Events.lean ====
section
/-! DEFINITION. Terms of the claims about the steps that are no instruction words: what stands due, what lands, what a
team's flight holds, and which lanes a PC table keeps. -/

namespace Sys2Proof.Machine

open Sys2Proof

/-- The kind of write that a timed step performs. -/
def writebackKind (e : Instr) : Option PendKind :=
  match e with
  | .aluWriteback => some .alu
  | .predicateWriteback => some .pred
  | .scalarWriteback => some .scalar
  | _ => none

/-- A core's cycle as a step finds it. -/
def State.evCycle (s : State) : Nat := (s.core s.ev.core).cycle

/-- R18: no timed write of the team is due. -/
def State.nothingDue (s : State) (t : Team) : Prop := ∀ p ∈ t.pend, s.evCycle < p.due

/-- R18: the writes of a landing entry, in their group. -/
def State.landGroup (s : State) (ctx : Nat) (us : List (Nat × Upd)) (g : Group) : Group :=
  us.foldl (fun h p => h.applyLanding p.1 (s.settleUpd ctx p.2)) g

/-- R373: a frame whose covered capabilities have lost their tags. -/
def State.settleFrame (s : State) (ctx : Nat) (f : Frame) : Frame :=
  { f with code := s.settleCap ctx f.code, data := s.settleCap ctx f.data, join := s.settleCap ctx f.join }

/-- The operation named by the step is in flight, and what it does. -/
structure State.Flying (s : State) (id : Nat) (t : Team) (o : Op) : Prop where
  team : s.evTeam = some (id, t)
  op : t.findOp s.ev.id = some o

/-- Memory reads as before, but for the bytes `bs` from `pa` up. -/
def MemoryAfter (m : Memory) (pa : Nat) (bs : List Byte) (m' : Memory) : Prop :=
  ∀ a, Memory.byte m' a = if pa ≤ a ∧ a < pa + bs.length then bs.getD (a - pa) 0 else Memory.byte m a

/-- R148: tags after a store: those of the granules it meets are clear, but for the one it sets. -/
def TagsAfter (tags : List Nat) (pa n : Nat) (tag : Bool) (tags' : List Nat) : Prop :=
  ∀ g, g ∈ tags' ↔ (g ∈ tags ∧ g ∉ granules16 pa n) ∨ (tag = true ∧ g = pa / 16)

/-- A thread of the lanes of a word that issued earlier is back at that word: it is where the word left it, under the same PCC
entry, and runs or was stopped by another group (R247). -/
def Thread.returns (th : Thread) (o : Op) : Prop := th.pccx = o.pccx ∧ (th.st = .active ∨ (th.st = .stopped ∧ th.stopKind = 1))

/-- R247, R249, R252, R435: an operation has ended with a cause that its access in a lane met after the word had issued. It is in
flight no more and its flag is clear; the cause is set in the group and in the lane; the group has stopped; threads of the word
stand at it again. Every register is as it was. -/
structure Team.FailedLate (t : Team) (o : Op) (lane : Nat) (cause : Word) (u : Team) : Prop where
  ops : u.ops = t.ops.filter fun x => x.id != o.id
  stops : u.faultStop = true ∧ u.st ≠ .running ∧ u.st ≠ .yielding
  page : u.pageAsync = (t.pageAsync || anyBit cause (cPage ||| cProt))
  kept : u = { t with ops := u.ops, groups := u.groups, st := u.st, hold := u.hold, slot := u.slot, faultStop := u.faultStop,
                      pageAsync := u.pageAsync }
  others : ∀ j l, j ≠ o.g → u.thread j l = t.thread j l
  group : ∀ g, t.groups[o.g]? = some g → ∃ h, u.groups[o.g]? = some h ∧ h.halted = true ∧
    h.cause = (h.cause ||| g.cause ||| cause) ∧ (∀ n, n ≠ 24 → h.cause.getLsbD n = (g.cause ||| cause).getLsbD n) ∧
    (h.s, h.k, h.sw, h.g) = (g.s, g.k, g.sw, g.g) ∧
    ∀ l, (g.threads.look l = none → h.threads.look l = none) ∧ ∀ th, g.threads.look l = some th → ∃ k, h.threads.look l = some k ∧
      k = { th with pc := k.pc, await := k.await, st := k.st, stopKind := k.stopKind, cause := k.cause, f := k.f } ∧
      k.cause = (if l = lane then th.cause ||| cause else th.cause) ∧
      (l ∉ o.lanes → k.pc = th.pc ∧ k.f = th.f) ∧
      (l ∈ o.lanes → (th.returns o → k.pc = o.pc ∧ k.st = .stopped ∧ k.stopKind = 0) ∧ (¬ th.returns o → k.pc = th.pc) ∧
        ∀ n, o.sf = some n → k.f = th.f.set n.val false)

/-- The operation of a team has ended with a late cause, and nothing else of the machine has changed. -/
def State.FailsLate (s : State) (id : Nat) (t : Team) (o : Op) (lane : Nat) (cause : Word) (s' : State) : Prop :=
  ∃ u, OnlyTeam s id u s' ∧ t.FailedLate o lane cause u

/-- R428, R430, R431: a read of `a.size` bytes has entered connection `conn` with its sequence number and one unit of credit, and
its packet has left. -/
structure State.ReadSent (s : State) (id : Nat) (o : Op) (a : Access) (conn handle off : Nat) (k : Conn) (s' : State) : Prop where
  rest : s' = { s with conns := s'.conns, outbox := s'.outbox }
  sent : s'.outbox = s.outbox ++ [.fabricRead conn k.sendSeq handle off a.size false]
  stands : s'.conns.look conn = some { k with
    sendSeq := k.sendSeq + 1, credits := k.credits - 1,
    outMsgs := k.outMsgs ++ [{ seq := k.sendSeq, team := id, op := o.id, lane := a.lane, off := 0, len := a.size, units := 1, tries := 0,
                               wire := a.size, got := [] }] }
  others : ∀ j, j ≠ conn → s'.conns.look j = s.conns.look j

/-- What a step that writes memory for a team leaves beside the memory and its tags: the record of stores and of events, caches,
the counters of contexts. -/
def State.besideStore (s s' : State) : Prop :=
  s' = { s with teams := s'.teams, mem := s'.mem, tags := s'.tags, poison := s'.poison, stamps := s'.stamps, summary := s'.summary,
                coh := s'.coh, events := s'.events, ctxs := s'.ctxs, draws := s'.draws }

/-- R313-R317, R358: a step of the protocol between the L2s alone: bytes, tags and teams are as they were; counters of contexts take
the write-backs. -/
structure State.OnlyCoh (s s' : State) : Prop where
  rest : s' = { s with coh := s'.coh, ctxs := s'.ctxs }
  ctxs : ∀ n, (s'.ctxs.look n).map (fun c => { c with counters := [] }) = (s.ctxs.look n).map fun c => { c with counters := [] }

/-- The lanes a group's PC table or its queue holds (R162, R163). -/
def Group.stands (g : Group) (l : Nat) : Prop := l ∈ g.line ∨ ∃ e, some e ∈ g.pct ∧ l ∈ e.mask

/-- R163-R166: the PC table is arranged anew; every thread, every register and every lane's standing is kept. -/
structure Group.Rehoused (g h : Group) : Prop where
  kept : h = { g with pct := h.pct, queue := h.queue, joining := h.joining, houseDue := h.houseDue, crowd := h.crowd }
  stands : ∀ l, h.stands l ↔ g.stands l

/-- Every thread of a group becomes `f` of what it was, and the group is otherwise as it was. -/
structure Group.Mapped (g : Group) (f : Thread → Thread) (h : Group) : Prop where
  kept : h = { g with threads := h.threads }
  threads : ∀ l, h.threads.look l = (g.threads.look l).map f

/-- What an access leaves beside its bytes: caches, the record of what has performed, the counters of a context, and the requests
for a host page that it reads (R313, R319, R358, R424). Memory, objects and every team but those named otherwise are as they
were. -/
structure State.Beside (s t : State) : Prop where
  rest : t = { s with teams := t.teams, ctxs := t.ctxs, coh := t.coh, events := t.events, outbox := t.outbox, draws := t.draws }
  asks : ∃ hs, t.outbox = s.outbox ++ hs ∧ ∀ h ∈ hs, ∃ fn pasid iova n, h = Outbound.hostRead fn pasid iova n
  ctxs : ∀ n, (t.ctxs.look n).map (fun c => { c with counters := [] }) = (s.ctxs.look n).map fun c => { c with counters := [] }

/-- Of the teams one alone has changed: the team `id`, which is `u` now. -/
structure TeamReads (s : State) (id : Nat) (u : Team) (t : State) : Prop where
  beside : s.Beside t
  others : ∀ n, n ≠ id → t.teams.look n = s.teams.look n
  team : t.teams.look id = some u

/-- The conditions of R157, R216, R286 and R292 on the parked thread that the step names: the check on its access passes,
its earlier accesses have performed, and the bytes it reads end its wait. -/
structure State.WaitEnds (s : State) (id : Nat) (t : Team) (g : Group) (th : Thread) (p : Park) (kind size : Nat)
    (spaces : List Nat) (sc : Bool) (ends : Nat → Park → Prop) : Prop where
  team : s.evTeam = some (id, t)
  wakes : t.st = .running ∨ t.st = .yielding
  group : t.groups[s.ev.g]? = some g
  thread : g.threads.look s.ev.lane = some th
  parked : th.st = .parked
  park : th.park = some p
  kind : p.kind = kind
  reads : ∃ loc keep bs,
    s.accessAt id t (s.worldOf t) p.cap pLD p.addr size spaces (if sc then some p.scope else none) true true
      { needR with nr := true } = .ok (loc, keep) ∧
    s.readFor t.die (s.worldOf t) loc size (16 * s.ev.lane) = .ok bs ∧
    s.mayProbe id t (probe s.ev.g s.ev.lane p.cap.space loc size p.scope p.acq t.nextOp (t.gatesAt s.ev.g s.ev.lane)) = true ∧ ends (wordOfBytes bs) p

/-- The thread that the step names waits on its own flags, and they are clear (R119, R217, R291). -/
structure State.AwaitEnds (s : State) (id : Nat) (t : Team) (g : Group) (th : Thread) (a : Await) : Prop where
  team : s.evTeam = some (id, t)
  group : t.groups[s.ev.g]? = some g
  thread : g.threads.look s.ev.lane = some th
  awaits : th.await = some a
  flags : ∀ b ∈ th.f, b = false

/-- R14, R284, R296: the thread in a slot has ended: the slot is Free; in a Running team it stands, in ascending order, among
those that became Free in this cycle. No search that has begun counts for its completion. Other threads keep their
registers. -/
structure Team.Freed (t : Team) (g lane w : Nat) (u : Team) : Prop where
  kept : u = { t with groups := u.groups, pend := u.pend, freed := u.freed, searched := false,
                      steal := t.steal.map fun q => { q with fresh := false } }
  gone : u.thread g lane = none
  freed : u.freed = if t.st = .running then insertBy id (g * w + lane) t.freed else t.freed
  others : ∀ j l, (j ≠ g ∨ l ≠ lane) → (u.thread j l).map Thread.bare = (t.thread j l).map Thread.bare
  due : ∀ p ∈ u.pend, p.g = g → ∀ x ∈ p.upds, x.1 = lane →
    ∃ i w c, x.2 = .s i w ∨ x.2 = .k i c ∨ ∃ b, x.2 = .sw b

/-- R290: the registers that a frame starts a thread with. -/
structure Frame.Starts (f : Frame) (th : Thread) : Prop where
  active : th.st = .active
  pc : th.pc = f.code.addr + f.entry.zeroExtend 64
  frame : th.frame = f.id
  args : ∀ k, k < 16 → th.rdV k = f.args.getD k 0
  data : th.quad 30 = f.data
  join : th.quad 31 = f.join
  rest : ∀ k, 16 ≤ k → k < 120 → th.rdV k = 0

/-- R203, R204, R176: the carve that a barrier of `carve` threads makes, if it takes effect. -/
def State.carveTaken (s : State) (id : Nat) (t : Team) : Option Word :=
  match t.agreed, t.core with
  | some w, some c =>
    if carveOk c t.groups.length w = true ∧ s.granuleBusy id t (64 * (w.toNat / 4096 % 64)) = false then some w else none
  | _, _ => none

/-- R14, R203, R204: a parked thread that goes on; one of a `carve` gets its predicate. -/
def Thread.goesOn (th : Thread) (p : Park) (ok : Bool) : Thread :=
  { th with
    st := .active, park := none, pc := p.next,
    f := match p.sf with | some n => th.f.set n.val false | none => th.f,
    p := match p.pd with | some d => if p.kind = 6 then th.p.set d.val ok else th.p | none => th.p }

/-- A thread without the record of how it holds its code capability and of what its later accesses follow. -/
def Thread.ungated (t : Thread) : Thread := { t.bare with gates := [] }

/-- R203, R207: of the gates `old`, those that are not open are among `new`, and no others are. -/
def State.Follows (s : State) (die : Nat) (old new : List Gate) : Prop :=
  (∀ x ∈ new, x ∈ old) ∧ ∀ x ∈ old, s.gateOpen die x = false → x ∈ new

/-- What a thread is after a barrier: it goes on if it is parked. -/
def Thread.pastBarrier (ok : Bool) (th : Thread) : Thread :=
  match th.park with | some p => th.goesOn p ok | none => th

/-- The thread of a lane becomes `k`, but for its place in the PCC table; other lanes keep everything. -/
structure Group.LaneBecomes (g : Group) (lane : Nat) (k : Thread) (h : Group) : Prop where
  kept : h = { g with threads := h.threads, pcc := h.pcc, pct := h.pct, queue := h.queue, joining := h.joining, crowd := h.crowd }
  thread : (h.threads.look lane).map Thread.bare = some k.bare
  others : ∀ l, l ≠ lane → (h.threads.look l).map Thread.bare = (g.threads.look l).map Thread.bare

/-! ### Engines -/

/-- The flags that an operation of the matrix queue clears in a lane. -/
def MOp.laneFlags (o : MOp) (lane : Nat) : List (Fin 12) := (o.flags.filter fun p => p.1 == lane).map (·.2)

/-- R28: flags clear. -/
def Thread.clearFlags (th : Thread) (fs : List (Fin 12)) : Thread := { th with f := fs.foldl (fun l n => l.set n.val false) th.f }

/-- R228, R230: a matrix operation of a team has performed: it has left the queue, its granules are thread-owned, its
flags are clear in its lanes, and the team is otherwise what `base` says. Memory and every other team are as they were. -/
structure State.MatrixDone (s : State) (id : Nat) (o : MOp) (base : Team) (s' : State) : Prop where
  rest : s' = { s with teams := s'.teams, ctxs := s'.ctxs, events := s'.events }
  others : ∀ n, n ≠ id → s'.teams.look n = s.teams.look n
  ctxs : ∀ n, (s'.ctxs.look n).map (fun c => { c with counters := [] }) = (s.ctxs.look n).map fun c => { c with counters := [] }
  team : ∃ u, s'.teams.look id = some u ∧
    u = { base with mx := { base.mx with queue := base.mx.queue.filter fun x => x.id != o.id }, owner := u.owner,
                    named := u.named, groups := u.groups } ∧
    (∀ k, k ∈ u.owner ↔ k ∈ base.owner ∧ k ∉ o.granules) ∧ (∀ k, k ∈ u.named ↔ k ∈ base.named ∧ k ∉ o.granules) ∧
    (∀ j l, u.thread j l = (base.thread j l).map fun th => if j = o.g then th.clearFlags (o.laneFlags l) else th) ∧
    ∀ j : Nat, (u.groups[j]?).map (fun h => { h with threads := [] }) = (base.groups[j]?).map fun h => { h with threads := [] }

/-- A team whose matrix engine is changed. -/
def Team.withMx (t : Team) (f : Matrix → Matrix) : Team := { t with mx := f t.mx }

/-- A team one of whose banks is replaced. -/
def Team.withBank (t : Team) (b : Nat) (k : Bank) : Team := t.withMx fun m => { m with banks := m.banks.set b k }

/-! ### Stops, saves and restores -/

/-- R253, R260, R266: a deschedule has become pending for every team of the team's cluster that is on a core and had none: a Running
one is Yielding, a Stopped one is to be saved whole, and its threads' counts restart. Nothing else has changed. -/
structure State.Descheduling (s : State) (id : Nat) (t : Team) (s' : State) : Prop where
  rest : s' = { s with teams := s'.teams }
  others : ∀ n, n ∉ t.cluster_ id → s'.teams.look n = s.teams.look n
  pending : ∀ n ∈ t.cluster_ id, ∀ x, s.teams.look n = some x → x.desched = true → s'.teams.look n = some x
  away : ∀ n ∈ t.cluster_ id, ∀ x, s.teams.look n = some x → x.core = none → s'.teams.look n = some x
  begins : ∀ n ∈ t.cluster_ id, ∀ x c, s.teams.look n = some x → x.core = some c → x.desched = false → ∃ y, s'.teams.look n = some y ∧
    y = { x with desched := true, st := y.st, whole := y.whole, deschedAt := y.deschedAt, groups := y.groups } ∧
    y.st = (if x.st = .running then .yielding else if x.st = .stopped then .saving else x.st) ∧
    (y.whole = true ↔ x.whole = true ∨ x.st = .stopped) ∧
    y.deschedAt = (s.core c).cycle ∧
    (∀ j l, y.thread j l = (x.thread j l).map fun th => { th with words := 0 }) ∧
    ∀ j : Nat, (y.groups[j]?).map (fun h => { h with threads := [] }) = (x.groups[j]?).map fun h => { h with threads := [] }

/-- The cause bits of a group of a team. -/
def Team.causeOf (t : Team) (g : Nat) : Option Word := (t.groups[g]?).map Group.cause

/-- R249: an Active thread that does not wait on its own flags stops where it stands. -/
def Thread.stopsHere (th : Thread) : Thread :=
  if th.st = .active ∧ th.await = none then { th with st := .stopped, stopKind := 1 } else th

/-- R265: the cut of a context that the step names, with no wider cut about it. Every thread of its subtree stands at a yield or is
Parked; its teams yield, or have stopped for the deschedule and no cause, or hold no core. -/
structure State.Cutting (s : State) (c : Ctx) : Prop where
  context : s.ctxs.look s.ev.id = some c
  cutting : c.cutting = true
  widest : ∀ p ∈ s.ctxs, p.1 ≠ s.ev.id → p.2.cutting = true → s.inSubtree p.1 s.ev.id = false
  rising : NMap.rising s.teams = true
  some_ : ∃ p ∈ s.cutTeams s.ev.id, p.2.core.isSome = true ∧ ∃ q ∈ p.2.allThreads, q.2.2.atYield = true
  threads : ∀ p ∈ s.cutTeams s.ev.id, ∀ q ∈ p.2.allThreads, q.2.2.atYield = true ∨ q.2.2.st = .parked
  teams : ∀ p ∈ s.cutTeams s.ev.id, (∀ g ∈ p.2.groups, NMap.rising g.threads = true) ∧
    (p.2.core = none ∨ (p.2.cut = true ∧ (p.2.st = .yielding ∨
      ((p.2.st = .draining ∨ p.2.st = .saving) ∧ p.2.faultStop = false ∧ p.2.whole = false))))

/-- R265: a team of a cut that is complete at step `m`: a Yielding one is to be saved. -/
def Team.cutAt (t : Team) (m : BitVec 16) : Team :=
  if t.st = .yielding then { t with cut := false, cutStep := m, st := .draining, hold := none, slot := none }
  else { t with cut := false, cutStep := m }

/-- The one saved team of a cluster, and a core that it can come back on (R267). -/
structure State.Restorable (s : State) (id : Nat) (t : Team) (c : CoreId) : Prop where
  alone : s.clusterTeams s.ev.id s.ev.m s.ev.n = [(id, t)]
  held : s.teams.look id = some t
  saved : t.st = .saved
  runs : ∃ x, s.ctxs.look t.ctx = some x ∧ x.st = .runnable
  world : s.worldOk t.world = true
  epoch : (s.slotOf t.world).epoch = t.epoch
  width : t.w = widthOf s.ev.core2
  settled : ∀ p ∈ s.coh.stale, p.1 % 10 ≠ s.ev.core2.die
  room : s.rectFree t.ctx t.sched t.groups.length t.carve s.ev.core2 t.cw t.ch = true
  core : c = rectCore s.ev.core2 t.cw t.ch t.idx
  carve : carveOk c t.groups.length t.carve = true

/-- The saved teams of a cluster, `t` the first of them, and a rectangle that they can come back on: its cores have the W that the
teams were saved with (R16), and no INV is still to reach its die (R267, R325, R386). -/
structure State.Returns (s : State) (ts : List (Nat × Team)) (t : Team) : Prop where
  teams : s.clusterTeams s.ev.id s.ev.m s.ev.n = ts
  first : ts.head?.map (·.2) = some t
  rising : NMap.rising s.teams = true
  runs : ∃ x, s.ctxs.look t.ctx = some x ∧ x.st = .runnable
  world : s.worldOk t.world = true
  epoch : (s.slotOf t.world).epoch = t.epoch
  widths : ∀ p ∈ ts, p.2.w = widthOf s.ev.core2
  settled : ∀ p ∈ s.coh.stale, p.1 % 10 ≠ s.ev.core2.die
  room : s.rectFree t.ctx t.sched t.groups.length t.carve s.ev.core2 t.cw t.ch = true
  saved : ∀ p ∈ ts, p.2.st = .saved
  carves : ∀ p ∈ ts, carveOk (rectCore s.ev.core2 t.cw t.ch p.2.idx) p.2.groups.length p.2.carve = true
  apart : ∀ p ∈ ts, ∀ q ∈ ts, p.1 ≠ q.1 →
    coreNo (rectCore s.ev.core2 t.cw t.ch p.2.idx) ≠ coreNo (rectCore s.ev.core2 t.cw t.ch q.2.idx)

/-! ### The kernel unit -/

/-- R346: a kernel word of an opcode that waits on an object, once its outcome `w` is to land. -/
def Op.outcome (op10 obj w : Nat) (o : Op) : Op :=
  match o.kind with
  | .kernel k _ dst =>
    if o.op10 = op10 ∧ k = obj then
      { o with kind := .land (dst.flatMap fun p => (destUpd p.2 (BitVec.ofNat 32 w)).map fun u => (p.1, u)) }
    else o
  | _ => o

/-- The outcome of an operation of a team is on its way to its registers. -/
def Team.lands (t : Team) (o : Op) : Prop := ∃ x ∈ t.ops, x.id = o.id ∧ ∃ us, x.kind = .land us

/-- A kernel message with a property stands in an endpoint's kernel queue. -/
def State.tellsEp (s : State) (e : Nat) (p : Msg → Prop) : Prop := ∃ y, s.eps.look e = some y ∧ ∃ m ∈ y.kq, p m

/-- The endpoint exists, and no thread waits to take from it. -/
def State.quietEp (s : State) (e : Nat) : Prop := ∃ x, s.eps.look e = some x ∧ x.takers = []

/-! ### The firmware -/

/-- R439: the commands that the ROM state does not perform, by code. -/
def commandOf (e : Instr) : Option Nat :=
  match e with
  | .loadRoot => some 0x02
  | .pasidLive => some 0x03
  | .pasidRevoke => some 0x04
  | .hostMap => some 0x05
  | .hostUnmap => some 0x06
  | .modeSet => some 0x07
  | .connUp => some 0x08
  | .connDown => some 0x09
  | .cxlAdd => some 0x0C
  | .cxlRemove => some 0x0D
  | .signal => some 0x0E
  | .errlogRead => some 0x0F
  | .rootClear => some 0x10
  | _ => none

/-- R438: the registers once a command has completed. -/
def CommandSet.done (f : CommandSet) (tag status : Nat) (resp : Option (List Byte)) : CommandSet :=
  { f with cmd := none, statTag := tag, status := status, resp := match resp with | some r => padTo 256 r | none => f.resp }

/-- R438: when a command of a code runs, the step completes it with a status and a response, and `P` holds then. -/
def State.Ends (s : State) (e : Instr) (op status : Nat) (resp : Option (List Byte)) (P : State → Prop) : Prop :=
  ∀ tag, s.fw.cmd = some (op, tag) → Happens e s fun t => t.fw = s.fw.done tag status resp ∧ P t

/-- What a completed command leaves beside what it does: the command registers, and the firmware's vector signalled or not (R425). -/
def State.ended (s t : State) : State := { s with fw := t.fw, draws := t.draws, outbox := t.outbox, vectors := t.vectors }

/-- R425, R438: with its completion a command may signal the firmware's vector; otherwise it changes the command registers alone. -/
def State.sameBut (s t : State) : Prop :=
  t = s.ended t ∧ ((t.outbox = s.outbox ∧ t.vectors = s.vectors) ∨
    (t.outbox = (s.msix 0 8).outbox ∧ t.vectors = (s.msix 0 8).vectors))

/-- R379, R439: memory of which a range is clear; the rest is as it was. -/
structure State.Cleared (s : State) (p : Nat → Prop) (t : State) : Prop where
  gone : ∀ a, p a → Memory.byte t.mem a = 0
  kept : ∀ a, ¬ p a → Memory.byte t.mem a = Memory.byte s.mem a
  tags : ∀ g, g ∈ t.tags ↔ g ∈ s.tags ∧ ¬ p (16 * g)

/-! ### The device -/

/-- R387: the SPDM requests with the code of their response, the stage they need and the stage after them, and the bytes
that the response is about. -/
def State.spdmOf (s : State) (e : Instr) : Option (Nat × Nat × Nat × List Byte) :=
  match e with
  | .negotiateAlgorithms => some (0xE3, 2, 3, [])
  | .getDigests => some (0x81, 3, 3, sha384 (Config.certificate 2))
  | .getCertificate => some (0x82, 3, 3, ((Config.certificate 2).drop s.ev.addr).take s.ev.len)
  | .challenge => some (0x83, 3, 3, s.ev.bytes)
  | .getMeasurements => some (0xE0, 3, 3, s.measureBlock s.ev.n)
  | _ => none

/-- R447: what a reset leaves; `warm` tells which. -/
structure State.Restarted (s : State) (warm : Bool) (t : State) : Prop where
  rest : t = { State.reset with dies := t.dies, slots := t.slots, errlog := t.errlog, remap := s.remap, rows := s.rows, cxl := s.cxl,
                                lost := s.lost, outbox := s.outbox, inputs := s.inputs, draws := s.draws }
  log : t.errlog = if warm then s.errlog else []
  slots : ∀ (w : Nat) (k : KeySlot), s.slots[w]? = some k → ∃ y : KeySlot, t.slots[w]? = some y ∧ y.st = (if w = 0 then .armed else .empty) ∧
    y.sessions = 0 ∧ y.epoch ≠ k.epoch ∧ y.voids = if warm then k.voids else []
  dies : ∀ (d : Nat) (x : Die), d ≤ 9 → s.dies[d]? = some x → ∃ y : Die, t.dies[d]? = some y ∧ y.spares = x.spares ∧ y.absent = x.absent ∧
    y.homeOk = false ∧ y.coresOk = false ∧ y.full = false ∧ y.failed = false ∧ y.clock = if d = 9 then 850 else 425

/-! ### Steps of a core -/

/-- R58: the eight bytes at an address under a code capability, as a word, as the team's die reads them (R322). -/
def State.holdsWord (s : State) (id : Nat) (t : Team) (c : CoreId) (code : Cap) (pc w : DWord) : Prop :=
  ∃ pa keep, s.accessAt id t (s.core c).world code pEX pc.toNat 8 [0] none true true needX = .ok (.mem pa, keep) ∧
    (linesOf pa 8).filterMap (s.lineErr (s.core c).world) = [] ∧
    w = BitVec.ofNat 64 (wordOfBytes (s.viewBytes t.die pa 8))

/-- R58, R62: the literal word or the liveness block that follows a word; `lit` is the first of them. -/
def State.holdsRest (s : State) (id : Nat) (t : Team) (c : CoreId) (code : Cap) (pc : DWord) (i : Instr) (lit : DWord)
    (blk : List DWord) : Prop :=
  match i with
  | .yield _ => ∃ b d, blk = [lit, b, d] ∧ s.holdsWord id t c code (pc + 8) lit ∧ s.holdsWord id t c code (pc + 16) b ∧
      s.holdsWord id t c code (pc + 24) d
  | _ => if usesLit i then blk = [lit] ∧ s.holdsWord id t c code (pc + 8) lit else blk = [] ∧ lit = 0

/-- A core whose team holds the issue slot for a span of a group, with nothing due before it (R168, R171). -/
structure State.SlotDue (s : State) (c : CoreId) (id : Nat) (t : Team) (h : Held) (g : Group) (e : PcEntry) : Prop where
  turn : s.turn = none
  window : (s.core c).cycle / windowCycles ≤ (s.core c).window
  resident : (s.core c).team = some id
  team : s.teams.look id = some t
  due : s.dueStep c t = none
  runs : t.st.issues = true
  slot : t.slot = some h
  cycle : h.issue ≤ (s.core c).cycle
  group : t.groups[h.g]? = some g
  live : g.halted = false
  entry : some e ∈ g.pct
  key : e.pccx = h.pccx ∧ e.pc = h.pc
  only : ∀ x, some x ∈ g.pct → x.pccx = h.pccx → x.pc = h.pc → x = e
  answered : s.pageWaits id h.g e.pc = false
  ready :
    let got := s.fetch id t c (s.core c).world (g.codeOf e.pccx) e.pc
    let bytes := s.fetchTouches id t (s.core c).world (g.codeOf e.pccx) e.pc (fetchLen got)
    ({ g := h.g, e := e, got := got, free := s.spanFree id t h.g e.mask bytes got } : Cand).ready t (s.core c).cycle = true

/-- The span of a team in issue: its record, and the run of its group (R168). -/
def State.inIssue (s : State) (x : Sel) (others : Bool) : State :=
  { s.upTeam x.team fun t => { t.noteRun x.g others with slot := none } with sel := some x }

/-- The core's cycle passes once its word has issued. -/
def afterWord (c : CoreId) (o : Host.Outcome State Fault Refusal) : Host.Outcome State Fault Refusal :=
  match o with
  | .next t => .next (t.tick c)
  | .fault f => .fault f
  | .refused r => .refused r

end Sys2Proof.Machine
end

