-- ==== Sys2Proof/Safety/Rounding.lean ====
section
/-! DEFINITION. What it means that a result is an exact value rounded to FP32 (02_number_formats R34, R35, R41-R44), in real
arithmetic and apart from the functions that the machine computes with, for claims. -/

namespace Sys2Proof.Machine

open Sys2Proof
open scoped Classical

/-- R34: an FP32 code that is neither an infinity nor a NaN. -/
def fpFinite (w : Word) : Prop := w.toNat / 2 ^ 23 % 2 ^ 8 ≠ 255

/-- R34: an FP32 infinity. -/
def fpInfinite (w : Word) : Prop := w.toNat % 2 ^ 31 = 0x7F800000

/-- R34: the sign of an FP32 code. -/
def fpNegative (w : Word) : Prop := 2 ^ 31 ≤ w.toNat

/-- R35: the value of a finite FP32 code: (-1)^s · 2^(e-127) · (1 + m / 2^23), or (-1)^s · 2^-126 · (m / 2^23) where e = 0. -/
def fpVal (w : Word) : ℚ :=
  let e : Nat := w.toNat / 2 ^ 23 % 2 ^ 8
  let m : ℚ := (w.toNat % 2 ^ 23 : Nat)
  (if 2 ^ 31 ≤ w.toNat then -1 else 1) *
    if e = 0 then 2 ^ (-126 : ℤ) * (m / 2 ^ 23) else 2 ^ ((e : ℤ) - 127) * (1 + m / 2 ^ 23)

/-- R34: the largest finite magnitude of FP32. -/
def fpMost : ℚ := 2 ^ 128 - 2 ^ 104

/-- R43: an exact value exceeds the format under a mode: rounded with unbounded exponents it is larger than the largest finite
magnitude, or, under SR, it is larger itself. -/
def fpExceeds (mode : RMode) (x : ℝ) : Prop :=
  match mode with
  | .rne => 2 ^ 128 - 2 ^ 103 ≤ |x|
  | .rz => 2 ^ 128 ≤ |x|
  | .rd => 2 ^ 128 ≤ x ∨ x < -(fpMost : ℝ)
  | .ru => x ≤ -(2 ^ 128) ∨ (fpMost : ℝ) < x
  | .sr => (fpMost : ℝ) < |x|

/-- R42: the stochastic choice between `lo` and `hi` for the exact value `x`, with the random bits `b0`, is `hi`. -/
def fpChoosesUpper (b0 : Nat) (lo x hi : ℝ) : Prop := 65536 ≤ ⌊(x - lo) / (hi - lo) * 65536⌋ + (b0 : Int)

/-- R41-R43: `r` has the value of `x` rounded to FP32 under a mode; the signs of zeros are told apart elsewhere. -/
def RoundsTo (mode : RMode) (b0 : Nat) (x : ℝ) (r : Word) : Prop :=
  match mode with
  | .rne =>
    (2 ^ 128 - 2 ^ 103 ≤ |x| → fpInfinite r) ∧
    (|x| < 2 ^ 128 - 2 ^ 103 → fpFinite r ∧ ∀ q, fpFinite q →
      |(fpVal r : ℝ) - x| ≤ |(fpVal q : ℝ) - x| ∧
      (|(fpVal r : ℝ) - x| = |(fpVal q : ℝ) - x| → fpVal q ≠ fpVal r → r.toNat % 2 = 0))
  | .rz => fpFinite r ∧ |(fpVal r : ℝ)| ≤ |x| ∧ ∀ q, fpFinite q → |(fpVal q : ℝ)| ≤ |x| → |fpVal q| ≤ |fpVal r|
  | .rd =>
    (x < -(fpMost : ℝ) → fpInfinite r) ∧
    (-(fpMost : ℝ) ≤ x → fpFinite r ∧ (fpVal r : ℝ) ≤ x ∧ ∀ q, fpFinite q → (fpVal q : ℝ) ≤ x → fpVal q ≤ fpVal r)
  | .ru =>
    ((fpMost : ℝ) < x → fpInfinite r) ∧
    (x ≤ (fpMost : ℝ) → fpFinite r ∧ x ≤ (fpVal r : ℝ) ∧ ∀ q, fpFinite q → x ≤ (fpVal q : ℝ) → fpVal r ≤ fpVal q)
  | .sr =>
    (∀ q, fpFinite q → (fpVal q : ℝ) = x → fpFinite r ∧ fpVal r = fpVal q) ∧
    (∀ lo hi, fpFinite lo → fpFinite hi → (fpVal lo : ℝ) < x → x < (fpVal hi : ℝ) →
      (∀ q, fpFinite q → fpVal q ≤ fpVal lo ∨ fpVal hi ≤ fpVal q) →
      fpFinite r ∧ (fpChoosesUpper b0 (fpVal lo) x (fpVal hi) → fpVal r = fpVal hi) ∧
        (¬ fpChoosesUpper b0 (fpVal lo) x (fpVal hi) → fpVal r = fpVal lo)) ∧
    ((fpMost : ℝ) < |x| →
      (2 ^ 128 ≤ |x| ∨ fpChoosesUpper b0 fpMost |x| (2 ^ 128) → fpInfinite r) ∧
      (|x| < 2 ^ 128 → ¬ fpChoosesUpper b0 fpMost |x| (2 ^ 128) → fpFinite r ∧ |fpVal r| = fpMost))

/-- R41-R44: the result and the status bits of rounding the exact value `x`: the value, the sign of a result that is not exactly
zero, overflow where x exceeds the format, underflow where a tiny x is not met, inexact where the result is not x, and no other
bit. -/
structure Rounded (mode : RMode) (b0 : Nat) (x : ℝ) (r : Word × Word) : Prop where
  value : RoundsTo mode b0 x r.1
  sign : x ≠ 0 → (fpNegative r.1 ↔ x < 0)
  overflow : r.2.getLsbD 2 = true ↔ fpExceeds mode x
  underflow : r.2.getLsbD 3 = true ↔ x ≠ 0 ∧ |x| < 2 ^ (-126 : ℤ) ∧ (fpVal r.1 : ℝ) ≠ x
  inexact : r.2.getLsbD 4 = true ↔ ¬ (fpFinite r.1 ∧ (fpVal r.1 : ℝ) = x)
  rest : r.2 &&& ~~~(0x1C : Word) = 0

/-- R41: the sign of an exact sum of zero, of terms `a` and `b` with signs: the sign that both share where both are zeros of one
sign, else + but under RD. -/
def ZeroSum (mode : RMode) (a : ℚ) (na : Prop) (b : ℚ) (nb : Prop) (r : Word) : Prop :=
  a + b = 0 → (fpNegative r ↔ if a = 0 ∧ (na ↔ nb) then na else mode = .rd)

end Sys2Proof.Machine
end

