-- ==== Sys2Proof/Certificates/Slice0/Obligations.lean ====
section
/-! DEFINITION. The statements for the provers. -/

open Sys2Proof Sys2Proof.Machine

/-! ## Instruction words -/

/-- R12, R89, R93-R97, R99, R100: the 32 integer words and the 6 pair words; a word that fails in some visited lane
raises those lanes' causes and does nothing else. Which cause a lane with two failing operands raises is the reading of log
entry 19, and `bsel` that of log entry 13. -/
def Obligations.IntegerWords : Prop :=
  LaneWords intRule .alu 4 ∧ LaneWords pairRule .alu 4 ∧ LaneRaises intRule ∧ LaneRaises pairRule

/-- R41-R44, R101, R102, R105-R111: the words of FP, packed and conversion arithmetic, and the causes that they raise. A sum, a
difference, a product and a fused multiply-add of finite FP32 operands are the exact value rounded once, with the status that
R44 gives. It rests on the model's own choices or readings of log entries 14, 15, 19, 143, 144 and 145. -/
def Obligations.FloatWords : Prop :=
  (LaneWords floatRule .alu 4 ∧ LaneRaises floatRule) ∧
  (∀ (m : RMode) (b0 : Nat) (x y : Word), b0 < 2 ^ 16 → fpFinite x → fpFinite y →
    let sum := asWord (fp32.add m b0 x.toNat y.toNat)
    let diff := asWord (fp32.sub m b0 x.toNat y.toNat)
    let prod := asWord (fp32.mul m b0 x.toNat y.toNat)
    (Rounded m b0 ((fpVal x + fpVal y : ℚ) : ℝ) sum ∧ ZeroSum m (fpVal x) (fpNegative x) (fpVal y) (fpNegative y) sum.1) ∧
    (Rounded m b0 ((fpVal x - fpVal y : ℚ) : ℝ) diff ∧ ZeroSum m (fpVal x) (fpNegative x) (-fpVal y) (¬ fpNegative y) diff.1) ∧
    Rounded m b0 ((fpVal x * fpVal y : ℚ) : ℝ) prod ∧
      (fpVal x * fpVal y = 0 → (fpNegative prod.1 ↔ ¬ (fpNegative x ↔ fpNegative y)))) ∧
  (∀ (x y z : Word), fpFinite x → fpFinite y → fpFinite z →
    let r := asWord (fp32.fma x.toNat y.toNat z.toNat)
    Rounded .rne 0 ((fpVal x * fpVal y + fpVal z : ℚ) : ℝ) r ∧
      ZeroSum .rne (fpVal x * fpVal y) (¬ (fpNegative x ↔ fpNegative y)) (fpVal z) (fpNegative z) r.1)

/-- R90, R91, R98, R103, R104: the Long class: divisions and special functions. Results land after issue; the status bits are
ORed at issue; the special-function pipe takes 16 lanes a cycle; a word that fails raises and does nothing else. A quotient, a
reciprocal and the square roots of finite operands are the exact value rounded to nearest. It rests on the model's own choices
or readings of log entries 16 and 19. -/
def Obligations.LongWords : Prop :=
  (∀ (ins : Instr) (f : LongRule), (divRule ins = some f ∨ specialRule ins = some f) →
  ∀ (s : State) (i : Issue), s.issue = some i → illegalAt ins i.t.nreg i.w = false →
    (∀ cs, i.each (f i) = .error cs → ∃ t, exec ins s = .next t ∧ i.Raises cs [] t) ∧
    ∀ rs : List (Nat × (List Upd × Word)), i.each (f i) = .ok rs →
    ∃ t, exec ins s = .next t ∧
      i.Commits ins .alu 0 false (rs.map fun p => (p.1, { LaneOut.nil with fps := p.2.2 }))
        { i.t.withOp (!rs.isEmpty) (i.op (rs.map (·.1)) 0 (landingOf (·.1) rs)) with
          sfuBusy := i.core.cycle + (i.x.lanes.length + 15) / 16 } t) ∧
  (∀ (x y : Word), fpFinite x → fpFinite y → fpVal y ≠ 0 →
    let q := asWord (fdivF x.toNat y.toNat)
    Rounded .rne 0 ((fpVal x / fpVal y : ℚ) : ℝ) q ∧ (fpVal x = 0 → (fpNegative q.1 ↔ ¬ (fpNegative x ↔ fpNegative y))) ∧
      Rounded .rne 0 ((1 / fpVal y : ℚ) : ℝ) (asWord (frcpF y.toNat))) ∧
  (∀ (x : Word), fpFinite x →
    (0 < fpVal x → Rounded .rne 0 (Real.sqrt (fpVal x)) (asWord (fsqrtF x.toNat)) ∧
      Rounded .rne 0 (1 / Real.sqrt (fpVal x)) (asWord (frsqF x.toNat))) ∧
    (fpVal x = 0 → asWord (fsqrtF x.toNat) = (x, 0)) ∧
    (fpVal x < 0 → asWord (fsqrtF x.toNat) = (0x7FC00000, 1) ∧ asWord (frsqF x.toNat) = (0x7FC00000, 1)))

/-- R92, R112-R115, R139, R195, R196: the words that write predicates two cycles after issue; p2v writes a register after four;
`setps` compares once, in the lowest visited lane, and every visited lane gets the answer. It rests on the model's own choice of
log entry 19. -/
def Obligations.PredicateWords : Prop :=
  LaneWords predRule .pred 2 ∧ LaneRaises predRule ∧ LaneWords p2vRule .alu 4 ∧
  (∀ (ins : Instr) (p : Fin 7) (q : Issue → Thread → Prop), capPredRule ins = some (p, q) →
    ∀ (s : State) (i : Issue), s.issue = some i → illegalAt ins i.t.nreg i.w = false →
    ∃ t outs, exec ins s = .next t ∧ i.Commits ins .pred 2 true outs i.t t ∧
      outs.map (·.1) = i.visited.map (·.1) ∧
      ∀ l th, (l, th) ∈ i.visited → ∃ b, (l, setsP p b 0) ∈ outs ∧ (b = true ↔ q i th)) ∧
  (∀ (p : Fin 7) (x y : Src) (q : Cond) (un : Bool) (s : State) (i : Issue), s.issue = some i →
    illegalAt (.setps p x y q un) i.t.nreg i.w = false →
    (i.visited = [] →
      ∃ t, exec (.setps p x y q un) s = .next t ∧ i.Commits (.setps p x y q un) .pred 2 true [] i.t t) ∧
    (∀ l th r c, i.visited = (l, th) :: r → (i.src l th x = .error c ∨ ∃ a, i.src l th x = .ok a ∧ i.src l th y = .error c) →
      ∃ t, exec (.setps p x y q un) s = .next t ∧ i.Raises [(l, c)] [] t) ∧
    ∀ l th r a b, i.visited = (l, th) :: r → i.src l th x = .ok a → i.src l th y = .ok b →
      ∃ t, exec (.setps p x y q un) s = .next t ∧
        i.Commits (.setps p x y q un) .pred 2 true
          (i.visited.map fun v => (v.1, setsP p (if un then intCond q a.toNat b.toNat else intCond q a.toInt b.toInt) 0)) i.t t)

/-- R185-R193: the cross-lane words, and the causes that they raise. The lanes of a span are ascending (R11). It rests on the
model's own choices or readings of log entries 17 and 19. -/
def Obligations.CrossLaneWords : Prop :=
  (∀ (ins : Instr) (r : CrossRule), crossRule ins = some r →
  ∀ (s : State) (i : Issue) (cs : List (Nat × Word)), s.issue = some i → illegalAt ins i.t.nreg i.w = false →
    i.each (r.read i) = .error cs → ∃ t, exec ins s = .next t ∧ i.Raises cs [] t) ∧
  ∀ (ins : Instr) (r : CrossRule), crossRule ins = some r →
  ∀ (s : State) (i : Issue) (ps : List (Nat × (List Word × (Word → List Upd)))), s.issue = some i →
    illegalAt ins i.t.nreg i.w = false → i.x.lanes.Pairwise (· < ·) → i.each (r.read i) = .ok ps →
    let size := segSize i.w r.seg
    let out := ps.map fun p =>
      (p.1, r.give size (segmentOf size p.1 (ps.map fun q => (q.1, q.2.1))) (p.1 % size) p.2.1 p.2.2)
    ∃ t, exec ins s = .next t ∧
      i.Commits ins .alu 0 false (out.map fun p => (p.1, { LaneOut.nil with fps := p.2.2 }))
        (i.t.withOp (!out.isEmpty) (i.op (out.map (·.1)) 0 (landingOf (·.1) out))) t

/-- R13, R116-R119: control words. A jump whose target in every visited lane is a tagged code capability, unsealed or a
sealed entry, of space 0 and aligned takes its lanes there, and that capability, unsealed, is what each lane's code is
fetched under; a call links to the word after in w1, the tag clear where that address is not representable. exit stands at its
word until EXIT_COMPLETION. -/
def Obligations.ControlWords : Prop :=
  (LaneWords controlRule .alu 4 ∧ LaneRaises controlRule) ∧
  (∀ (off : BitVec 32) (h : Fin 3) (s : State) (i : Issue), s.issue = some i →
    (illegalAt (.bra off h) i.t.nreg i.w = false → ∃ t, exec (.bra off h) s = .next t ∧
      i.Commits (.bra off h) .alu 4 true
        (i.visited.map fun p => (p.1, { LaneOut.nil with next := some (i.targetOf off) })) i.t t) ∧
    (illegalAt (.call off h) i.t.nreg i.w = false → ∃ t, exec (.call off h) s = .next t ∧
      i.Commits (.call off h) .alu 4 true
        (i.visited.map fun p => (p.1, { LaneOut.nil with upds := [.quad 1 (i.linkOf p.2)], next := some (i.targetOf off) }))
        i.t t)) ∧
  (∀ (s : State) (i : Issue), s.issue = some i → illegalAt .exit i.t.nreg i.w = false →
    ∃ t, exec .exit s = .next t ∧
      i.Commits .exit .alu 4 true (i.visited.map fun p => (p.1, { LaneOut.nil with await := some .exit })) i.t t) ∧
  (∀ (ins : Instr) (b : CapSel) (link : Bool),
    (ins = .jmpc b ∨ ins = .ret b) ∧ link = false ∨ ins = .callc b ∧ link = true →
  ∀ (s : State) (i : Issue), s.issue = some i → illegalAt ins i.t.nreg i.w = false →
    (∀ p ∈ i.visited, (i.cap p.2 b).isTarget) →
    let target := fun (p : Nat × Thread) => (i.cap p.2 b).withOtype 0
    ∃ t, exec ins s = .next t ∧
      i.Commits ins .alu 4 true (i.visited.map fun p => (p.1, { LaneOut.nil with
        upds := if link = true then [.quad 1 (i.linkOf p.2)] else [], next := some (target p).addr, moved := some (target p).code }))
        i.t t ∧
      (i.g.pcc.length = 8 → ∀ p ∈ i.visited, ∃ u h k, t.teams.look i.x.team = some u ∧ u.groups[i.x.g]? = some h ∧
        h.threads.look p.1 = some k ∧ h.pccOf k = (target p).code)) ∧
  ∀ (i : Issue) (t : Thread), (i.g.pccOf t).tag = true → (i.g.pccOf t).wellFormed = true →
    let c := i.g.pccOf t
    let link := i.linkOf t
    link.addr = i.x.pc + 8 ∧
    (link.tag = true ↔ c.bblk ≤ (link.addr.toNat / c.blk : Nat) ∧ (link.addr.toNat / c.blk : Nat) ≤ c.bblk + 3) ∧
    (link.tag = true → link.decode = c.decode ∧ link.perms = c.perms ∧ link.space = c.space ∧ link.otype = c.otype)

/-- R132-R140: the capability words that give a capability, a word or a pair, and the causes that they raise. It rests
on the model's own choices or readings of log entries 19 and 146. -/
def Obligations.CapabilityWords : Prop := LaneWords capRule .alu 4 ∧ LaneRaises capRule

/-- R194-R202: scalar words compute once, in the lowest visited lane; the others work per lane; a word that fails raises and does
nothing else. It rests on the model's own choices or readings of log entries 19 and 172. -/
def Obligations.ScalarWords : Prop :=
  (∀ (ins : Instr) (r : ScalarRule), scalarRule ins = some r →
    ∀ (s : State) (i : Issue), s.issue = some i → illegalAt ins i.t.nreg i.w = false →
    (i.visited = [] → ∃ t, exec ins s = .next t ∧ i.Commits ins .scalar r.lat true [] i.t t) ∧
    (∀ l th v c, i.visited = (l, th) :: v → r.writes i l th = .error c →
      ∃ t, exec ins s = .next t ∧ i.Raises [(l, c)] [] t) ∧
    ∀ l th v us, i.visited = (l, th) :: v → r.writes i l th = .ok us →
      ∃ t, exec ins s = .next t ∧ i.Commits ins .scalar r.lat true (onceOuts i l us) i.t t) ∧
  (∀ (ins : Instr) (k : PendKind) (f : LaneRule), fileRule ins = some (k, f) →
    ∀ (s : State) (i : Issue) (outs : List (Nat × LaneOut)), s.issue = some i → illegalAt ins i.t.nreg i.w = false →
    i.each (f i) = .ok outs → ∃ t, exec ins s = .next t ∧ i.Commits ins k 4 true outs i.t t) ∧
  (∀ (ins : Instr) (k : PendKind) (f : LaneRule), fileRule ins = some (k, f) →
    ∀ (s : State) (i : Issue) (cs : List (Nat × Word)), s.issue = some i → illegalAt ins i.t.nreg i.w = false →
    i.each (f i) = .error cs → ∃ t, exec ins s = .next t ∧ i.Raises cs [] t)

/-- R120, R158, R203, R204, R217, R291: the words that wait or do nothing: `nop`, `prefetch`, `tbar`, `carve`, `tend` and
`yield`. It rests on the model's own choices or readings of log entries 18 and 19. -/
def Obligations.IdleWords : Prop :=
  (∀ (ins : Instr) (lat : Nat) (f : LaneRule), idleRule ins = some (lat, f) →
    ∀ (s : State) (i : Issue) (outs : List (Nat × LaneOut)), s.issue = some i → illegalAt ins i.t.nreg i.w = false →
    i.each (f i) = .ok outs → ∃ t, exec ins s = .next t ∧ i.Commits ins .alu lat true outs i.t t) ∧
  (∀ (ins : Instr) (lat : Nat) (f : LaneRule), idleRule ins = some (lat, f) →
    ∀ (s : State) (i : Issue) (cs : List (Nat × Word)), s.issue = some i → illegalAt ins i.t.nreg i.w = false →
    i.each (f i) = .error cs → ∃ t, exec ins s = .next t ∧ i.Raises cs [] t) ∧
  (∀ (step : BitVec 16) (s : State) (i : Issue), s.issue = some i → illegalAt (.yield step) i.t.nreg i.w = false →
    blockBad i.t.nreg i.x.blk = false →
    ∃ t, exec (.yield step) s = .next t ∧
      i.Commits (.yield step) .alu 0 false
        (i.visited.map fun p => (p.1, { LaneOut.nil with
          await := some (.yield step (i.x.blk.getD 0 0) (i.x.blk.getD 1 0) (i.x.blk.getD 2 0) (i.t.st == .halting)) })) i.t t)

/-- R259: the words of trap and bkpt; any other value of their fields raises ILLEGAL. They record their code in the visited lanes,
where item 8 of the frame shows it, and raise SWTRAP or BKPT there, the PC staying at the word; with no visited lane they do
nothing. Writing items 0 and 1 of the frame sets the PC with which a thread resumes. -/
def Obligations.TrapWords : Prop :=
  (∀ (ins : Instr) (code : BitVec 16) (cause : Word),
    (ins = .trap code ∧ cause = bit 22 ∨ ins = .bkpt ∧ code = 0 ∧ cause = bit 23) →
  ∀ (s : State) (i : Issue), s.issue = some i → illegalAt ins i.t.nreg i.w = false →
    (i.visited = [] → ∃ t, exec ins s = .next t ∧ i.Commits ins .alu 0 false [] i.t t) ∧
    (i.visited ≠ [] → ∃ (t : State) (j : Issue), exec ins s = .next t ∧ j.Raises (i.visited.map fun p => (p.1, cause)) [] t ∧
      j.x = i.x ∧ j.core = i.core ∧ j.s = { i.s with teams := j.s.teams } ∧ j.t = { i.t with groups := j.t.groups } ∧
      j.g = { i.g with threads := j.g.threads } ∧ (∀ n, n ≠ i.x.team → j.s.teams.look n = i.s.teams.look n) ∧
      (∀ k, k ≠ i.x.g → j.t.groups[k]? = i.t.groups[k]?) ∧ j.t.groups[i.x.g]? = some j.g ∧
      j.s.teams.look i.x.team = some j.t ∧
      ∀ l, j.g.threads.look l = (i.g.threads.look l).map fun th =>
        if l ∈ i.visited.map (·.1) then { th with trap := code } else th)) ∧
  (∀ (w : DWord), w.extractLsb' 62 2 = 3#2 →
    (w.extractLsb' 52 10 = 0x380#10 → w.extractLsb' 19 14 = 0#14 → w.extractLsb' 0 4 = 15#4 →
      ∃ y, decode w = .ok y ∧ y.i = .trap (w.extractLsb' 33 8 ++ w.extractLsb' 41 8)) ∧
    (w.extractLsb' 52 10 = 0x381#10 → w.extractLsb' 19 30 = 0#30 → w.extractLsb' 0 4 = 15#4 →
      ∃ y, decode w = .ok y ∧ y.i = .bkpt) ∧
    ((w.extractLsb' 52 10 = 0x380#10 ∧ (w.extractLsb' 19 14 ≠ 0#14 ∨ w.extractLsb' 0 4 ≠ 15#4) ∨
        w.extractLsb' 52 10 = 0x381#10 ∧ (w.extractLsb' 19 30 ≠ 0#30 ∨ w.extractLsb' 0 4 ≠ 15#4)) →
      ∀ (s : State) (i : Issue), s.issue = some i →
        ∃ t, exec (decodeAt w i.t.nreg i.w).1 s = .next t ∧ i.Raises (i.x.lanes.map fun l => (l, bit 0)) [] t)) ∧
  ∀ (th : Thread), (∃ n, th.item 8 = some n ∧ BitVec.ofNat 16 n = th.trap) ∧
    ∀ pc : DWord, pc.extractLsb' 0 3 = 0#3 → ∃ u, (th.setItem 0 (pc.extractLsb' 0 32)).bind (·.setItem 1 (pc.extractLsb' 32 32)) = some u ∧
      u = { th with pc := pc, half := false }

/-- R12, R141-R153, R155: loads, stores, atomics and fence start their operation, which performs later; a word of which a check
fails in some visited lane raises the causes of every lane that fails, and no lane does anything (R143). The threads of an
acquire fence fetch their next words under what they follow (R75). It rests on the model's own choices or readings of log
entry 19. -/
def Obligations.MemoryWords : Prop :=
  (∀ (ins : Instr) (r : MemRule), memRule ins = some r →
    ∀ (s : State) (i : Issue), s.issue = some i → illegalAt ins i.t.nreg i.w = false →
    (∀ es, i.each (r.lane i) = .error es → ∃ t, exec ins s = .next t ∧ i.FailsWith es t) ∧
    ∀ rs : List (Nat × (Nat × Dest × Access)), i.each (r.lane i) = .ok rs →
    ∃ t busy, exec ins s = .next t ∧
      i.Commits ins .alu 0 false (quietOuts rs) { i.t.withOp (!rs.isEmpty) (r.op i rs) with memBusy := busy } t) ∧
  (∀ (sc : Scope) (o : Order) (s : State) (i : Issue), s.issue = some i →
    illegalAt (.fence sc o) i.t.nreg i.w = false →
    let acq := decide (o = .acquire ∨ o = .acqRel ∨ o = .sequential)
    (i.visited ≠ [] → i.s.ceiling i.t.ctx < scopeNo sc →
      ∃ t, exec (.fence sc o) s = .next t ∧ i.Raises (i.visited.map fun p => (p.1, cScope)) [] t) ∧
    (i.visited = [] ∨ scopeNo sc ≤ i.s.ceiling i.t.ctx →
      ∃ t, i.Commits (.fence sc o) .alu 0 false (quietOuts i.visited)
        (i.t.withOp (!i.visited.isEmpty)
          { i.op (i.visited.map (·.1)) 0 .fence with
            scope := sc, acq := acq,
            rel := decide (o = .release ∨ o = .acqRel ∨ o = .sequential), seq := decide (o = .sequential) }) t ∧
        (acq = false → exec (.fence sc o) s = .next t) ∧
        (acq = true → exec (.fence sc o) s = .next (t.upTeam i.x.team (·.upGroup i.x.g fun g => g.mapThreads fun l th =>
          if l ∈ i.visited.map (·.1) then { th with fenced := th.gates } else th)))))

/-- R157, R215, R216, R286, R292: words that go on or park by what they read; the load of a lane that goes on has
performed; where a check fails, the causes of every lane that fails are raised. It rests on the model's own choices or readings
of log entry 19. -/
def Obligations.WaitWords : Prop :=
  (∀ (ins : Instr) (f : Issue → Nat → Thread → Except MErr LaneOut), ownRule ins = some f →
    ∀ (s : State) (i : Issue), s.issue = some i → illegalAt ins i.t.nreg i.w = false →
    (∀ es, i.each (f i) = .error es → ∃ t, exec ins s = .next t ∧ i.FailsWith es t) ∧
    ∀ outs, i.each (f i) = .ok outs → ∃ t ev, exec ins s = .next { t with events := ev } ∧ i.Commits ins .alu 1 true outs i.t t) ∧
  (∀ (ins : Instr) (f : Issue → Nat → Thread → Except MErr (Op × LaneOut)), parkRule ins = some f →
    ∀ (s : State) (i : Issue), s.issue = some i → illegalAt ins i.t.nreg i.w = false →
    (∀ es, i.each (f i) = .error es → ∃ t, exec ins s = .next t ∧ i.FailsWith es t) ∧
    ∀ rs : List (Nat × Op × LaneOut), i.each (f i) = .ok rs →
      ∃ t, exec ins s = .next (i.waited rs t) ∧ i.Commits ins .alu 1 true (waits rs) i.t t) ∧
  (∀ (a : Src) (b : CapSel) (off : Src) (sc : Scope) (acq : Bool) (s : State) (i : Issue),
    s.issue = some i → illegalAt (.waitne a b off sc acq) i.t.nreg i.w = false →
    (∀ es, i.each (i.waitneLane a b off sc acq) = .error es →
      ∃ t, exec (.waitne a b off sc acq) s = .next t ∧ i.FailsWith es t) ∧
    ∀ rs : List (Nat × Access × Op × LaneOut), i.each (i.waitneLane a b off sc acq) = .ok rs →
    let tests := rs.map fun p => (p.1, p.2.2)
    ∃ t, (exec (.waitne a b off sc acq) s = .next (i.waited tests t) ∨
        ∃ busy, exec (.waitne a b off sc acq) s = .next ((i.waited tests t).upTeam i.x.team fun u => { u with memBusy := busy })) ∧
      i.Commits (.waitne a b off sc acq) .alu 1 true (waits tests) i.t t)

/-- R200, R301, R214, R285, R289: words that start one operation of the whole span, and `arrset`, whose steps perform as it
issues: each arrival word keeps its generation and gets the lane's target and a count of 0. Where a check fails, the causes of
every lane that fails are raised. It rests on the model's own choices or readings of log entries 19, 122, 155, 158 and 165. -/
def Obligations.OperationWords : Prop :=
  (∀ (ins : Instr) (f : Issue → Nat → Thread → Except Word (List Upd)), landRule ins = some f →
    ∀ (s : State) (i : Issue), s.issue = some i → illegalAt ins i.t.nreg i.w = false →
    (∀ cs, i.each (f i) = .error cs → ∃ t, exec ins s = .next t ∧ i.Raises cs [] t) ∧
    ∀ rs : List (Nat × List Upd), i.each (f i) = .ok rs →
    ∃ t, exec ins s = .next t ∧
      i.Commits ins .alu 0 false (quietOuts rs) (i.t.withOp (!rs.isEmpty) (i.op (rs.map (·.1)) 0 (landingOf id rs))) t) ∧
  (∀ (a : Src) (b : CapSel) (off : Src) (s : State) (i : Issue), s.issue = some i →
    illegalAt (.arrset a b off) i.t.nreg i.w = false →
    (∀ es, i.each (i.arrLane a b off) = .error es → ∃ t, exec (.arrset a b off) s = .next t ∧ i.FailsWith es t) ∧
    ∀ rs : List (Nat × Access), i.each (i.arrLane a b off) = .ok rs →
      ∃ t, i.Commits (.arrset a b off) .alu 1 true (quietOuts rs) i.t t ∧
        exec (.arrset a b off) s = .next (rs.foldl (fun s p => s.arrStep i.x.team i.x.g i.t p.2) t)) ∧
  (∀ (s : State) (id g m off : Nat) (t u : Team) (a : Access), a.loc = .spad m off → s.teams.look m = some u →
    Memory.wf u.sp = true →
    let s' := s.arrStep id g t a
    s' = { s with teams := s'.teams, events := s'.events, ctxs := s'.ctxs, coh := s'.coh, draws := s'.draws } ∧
    (∀ n, n ≠ m → s'.teams.look n = s.teams.look n) ∧
    ∃ v, s'.teams.look m = some v ∧ v = { u with sp := v.sp, spTags := v.spTags } ∧
      MemoryAfter u.sp off (numBytes (arrWord (arrGen (Memory.num u.sp off 8)) a.x.toNat 0) 8) v.sp ∧
      TagsAfter u.spTags off 8 false v.spTags) ∧
  (∀ (g : Src) (b : CapSel) (off : Src) (sc : Scope) (s : State) (i : Issue), s.issue = some i →
    illegalAt (.evpub g b off sc) i.t.nreg i.w = false →
    (∀ es, i.each (i.evpubLane g b off sc) = .error es → ∃ t, exec (.evpub g b off sc) s = .next t ∧ i.FailsWith es t) ∧
    ∀ rs : List (Nat × Access), i.each (i.evpubLane g b off sc) = .ok rs →
    ∃ t, exec (.evpub g b off sc) s = .next t ∧
      i.Commits (.evpub g b off sc) .alu 0 false (quietOuts rs)
        (i.t.withOp (!rs.isEmpty)
          { i.op (rs.map (·.1)) 0x285 (.rmw .evpub (rs.map (·.2)) (rs.map fun p => (p.1, Dest.none)) []) with
            scope := sc, rel := true }) t) ∧
  (∀ (v : Fin 32) (s : State) (i : Issue), s.issue = some i → illegalAt (.spawn v) i.t.nreg i.w = false →
    (∀ e es items, i.spawnFrames v = (e :: es, items) → ∃ t, exec (.spawn v) s = .next t ∧ i.FailsWith (e :: es) t) ∧
    ∀ items, i.spawnFrames v = ([], items) →
    ∃ t, exec (.spawn v) s = .next t ∧
      i.Commits (.spawn v) .alu 0 false (quietOuts items)
        (i.t.withOp (!items.isEmpty) { i.op (items.map (·.1)) 0x280 (.spawn items) with rel := true }) t)

/-- R206, R207: rbar.init arms a register for the visited lanes; lanes of rbar.wait that the register expects park; a register
in sign use raises MATRIX. It rests on the model's own choices or readings of log entry 27. -/
def Obligations.ConvergenceWords : Prop :=
  (∀ (n : Fin 8) (s : State) (i : Issue), s.issue = some i → illegalAt (.rbarInit n) i.t.nreg i.w = false →
    ∃ t, i.Commits (.rbarInit n) .alu 1 true (quietOuts i.visited) i.t t ∧
      exec (.rbarInit n) s = .next (t.upTeam i.x.team (·.upGroup i.x.g fun g =>
        let lanes := i.visited.map (·.1)
        let g := g.cancelSigns n.val
        let here := (g.waiters n.val).filter (lanes.contains ·)
        { g with g := g.g.set n.val ⟨laneMask lanes, laneMask here, !lanes.isEmpty, false, !here.isEmpty, none⟩ }))) ∧
  (∀ (n : Fin 8) (s : State) (i : Issue), s.issue = some i → illegalAt (.rbarWait n) i.t.nreg i.w = false →
    let r := i.g.g.getD n.val Conv.idle
    let waits := (i.visited.map (·.1)).filter fun l => r.armed && r.expect.getLsbD l
    (r.armed = true → r.sign = true → i.visited ≠ [] →
      ∃ t, exec (.rbarWait n) s = .next t ∧ i.Raises (i.visited.map fun p => (p.1, cMatrix)) [] t) ∧
    ((r.armed = false ∨ r.sign = false ∨ i.visited = []) →
    ∃ t, i.Commits (.rbarWait n) .alu 1 true
        (i.visited.map fun p => (p.1, if waits.contains p.1
          then i.parks (.rbarWait n) 4 Cap.zero 0 (BitVec.ofNat 32 n.val) .team false else LaneOut.nil)) i.t t ∧
      (waits = [] → exec (.rbarWait n) s = .next t) ∧
      (waits ≠ [] → exec (.rbarWait n) s = .next (t.upTeam i.x.team (·.upGroup i.x.g fun g =>
        { g with g := g.g.modify n.val fun c => { c with arrived := c.arrived ||| laneMask waits, used := true } })))))

/-- R178, R208-R211, R394: copy words and troy.abs. Every command is in flight as its lane's operands say, every granule of its
ranges is named for it, its ties are made, and nothing else has changed; where a check fails, the causes of every lane that
fails are raised. It rests on the model's own choices or readings of log entries 19, 29 and 141. -/
def Obligations.CopyWords : Prop :=
  (∀ (ins : Instr) (r : CopyRule), copyRule ins = some r →
    ∀ (s : State) (i : Issue), s.issue = some i → illegalAt ins i.t.nreg i.w = false →
    let made := i.copyAll (i.visited.map fun p => (p.1, r.asks i p.1 p.2)) r.scope r.tagMode r.dstSpaces r.srcSpaces r.kind
    (∀ e es cs, made = (e :: es, cs) → ∃ t, exec ins s = .next t ∧ i.FailsWith (e :: es) t) ∧
    ∀ cs, made = ([], cs) →
      cs.map (·.1) = i.visited.map (·.1) ∧
      (∀ p ∈ cs, ∀ th, (p.1, th) ∈ i.visited → i.Commands r (r.asks i p.1 th) p.1 p.2) ∧
      ∃ t s', exec ins s = .next s' ∧ i.Commits ins .alu 0 false (quietOuts cs) i.t t ∧
        s' = { t with teams := s'.teams, asks := t.asks + cs.length } ∧
        i.Entered t s' (cs.flatMap (·.2.granules))
          (cs.flatMap fun p => match p.2.arrival with
            | some a => p.2.granules.map fun k => (a.1, ⟨a.2, k.1, k.2⟩)
            | none => [])
          (cs.zipIdx.map fun p =>
            { i.op (cs.map (·.1)) r.op10 (.copy { p.1.2 with asked := t.asks + p.2 }) with scope := r.scope, rel := true })) ∧
  (∀ (sv b : CapSel) (x : Src) (sc : Scope) (s : State) (i : Issue), s.issue = some i →
    illegalAt (.troyAbs sv b x sc) i.t.nreg i.w = false →
    let made := i.absorbAll sc (i.visited.map fun p => (p.1, i.cap p.2 sv, i.cap p.2 b, (i.src p.1 p.2 x).map BitVec.toNat))
    (∀ e es items, made = (e :: es, items) → ∃ t, exec (.troyAbs sv b x sc) s = .next t ∧ i.FailsWith (e :: es) t) ∧
    ∀ items, made = ([], items) →
      items.map (·.1) = i.visited.map (·.1) ∧
      (∀ p ∈ items, ∀ th, (p.1, th) ∈ i.visited → p.2.1 = (i.cap th sv).objIndex ∧ p.2.2.1 = i.cap th b ∧
        i.src p.1 th x = .ok (BitVec.ofNat 32 p.2.2.2.1) ∧ i.HoldsRange (i.cap th b) p.2.2.2.1 p.2.2.2.2) ∧
      ∃ t s', exec (.troyAbs sv b x sc) s = .next s' ∧ i.Commits (.troyAbs sv b x sc) .alu 0 false (quietOuts items) i.t t ∧
        s' = { t with teams := s'.teams, sessions := s'.sessions } ∧
        (∀ k, s'.sessions.look k = (t.sessions.look k).map fun y =>
          { y with total := y.total + ((items.filter (·.2.1 == k)).map (·.2.2.2.1)).sum }) ∧
        i.Entered t s' (items.flatMap (·.2.2.2.2)) []
          (items.map fun p =>
            { i.op [p.1] 0x31A (.absorb p.2.1 (t.genOf p.2.1) ⟨p.2.2.1.space, p.2.2.1.addr.toNat, p.2.2.1⟩ p.2.2.2.1 p.2.2.2.2) with
              scope := sc, rel := true }))

/-- R228-R244, R443: the matrix words of a compute core enter the queue or raise; every matrix word of a control core raises
MATRIX in its span. It rests on the model's own choices or readings of log entries 19, 32, 33, 35, 148 and 168. -/
def Obligations.MatrixWords : Prop :=
  (∀ (ins : Instr) (f : Issue → Nat → Thread → Except Word ((Team → Team) × MOp)), matrixRule ins = some f →
    ∀ (s : State) (i : Issue), s.issue = some i → illegalAt ins i.t.nreg i.w = false → i.x.core.die ≠ 9 →
    ∃ t, i.Commits ins .alu 0 false (quietOuts i.visited) i.t t ∧
      (i.visited = [] → exec ins s = .next t) ∧
      ∀ l th r v o, i.visited = (l, th) :: r → f i l th = .ok (v, o) →
        exec ins s = .next ({ t with asks := t.asks + 1 }.upTeam i.x.team fun u => (v u).enqueueM o)) ∧
  (∀ (ins : Instr) (f : Issue → Nat → Thread → Except Word ((Team → Team) × MOp)), matrixRule ins = some f →
    ∀ (s : State) (i : Issue) (l : Nat) (th : Thread) (r : List (Nat × Thread)) (c : Word), s.issue = some i →
    illegalAt ins i.t.nreg i.w = false → i.x.core.die ≠ 9 → i.visited = (l, th) :: r → f i l th = .error c →
    ∃ t, exec ins s = .next t ∧ i.Raises [(l, c)] [] t) ∧
  (∀ (s : State) (i : Issue) (cs : List (Nat × Word)), s.issue = some i → i.x.core.die ≠ 9 →
    (∀ (d : Fin 16) (x : Src), illegalAt (.mrd d x) i.t.nreg i.w = false → i.each (i.mrdLane x) = .error cs →
      ∃ t, exec (.mrd d x) s = .next t ∧ i.Raises cs [] t) ∧
    ∀ (d : Dst) (x : Src), illegalAt (.mstat d x) i.t.nreg i.w = false → i.each (i.mstatLane d x) = .error cs →
      ∃ t, exec (.mstat d x) s = .next t ∧ i.Raises cs [] t) ∧
  (∀ (ins : Instr), isMatrixWord ins = true → ∀ (s : State) (i : Issue), s.issue = some i →
    illegalAt ins i.t.nreg i.w = false → i.x.core.die = 9 →
    ∃ t, exec ins s = .next t ∧ i.Raises (i.x.lanes.map fun l => (l, cMatrix)) [] t) ∧
  (∀ (d : Fin 16) (x : Src) (s : State) (i : Issue) (rs : List (Nat × (Nat × Nat))), s.issue = some i →
    illegalAt (.mrd d x) i.t.nreg i.w = false → i.x.core.die ≠ 9 → i.each (i.mrdLane x) = .ok rs →
    ∃ t, i.Commits (.mrd d x) .alu 0 false (quietOuts rs) i.t t ∧
      (rs = [] → exec (.mrd d x) s = .next t) ∧
      ∀ l a r, rs = (l, a) :: r → exec (.mrd d x) s = .next (t.upTeam i.x.team
        (·.enqueueM (i.mop 0x205 l [] (.mrd (rs.map fun p => (p.1, p.2.1, p.2.2, 8 * d.val))))))) ∧
  (∀ (d : Dst) (x : Src) (s : State) (i : Issue) (rs : List (Nat × (Dest × Nat))), s.issue = some i →
    illegalAt (.mstat d x) i.t.nreg i.w = false → i.x.core.die ≠ 9 → i.each (i.mstatLane d x) = .ok rs →
    ∃ t, i.Commits (.mstat d x) .alu 0 false (quietOuts rs) i.t t ∧
      (rs = [] → exec (.mstat d x) s = .next t) ∧
      ∀ l a r, rs = (l, a) :: r →
        exec (.mstat d x) s = .next (t.upTeam i.x.team (·.enqueueM (i.mop 0x206 l [] (.mstat rs)))))

/-- R229: mma: a signature that is not the last is kept; the last puts the product into the queue; a signature that fails, or a
last one whose checks fail, raises. It rests on the model's own choices or readings of log entries 19, 34 and 148. -/
def Obligations.SignedIssue : Prop :=
  ∀ (g : Fin 8) (b : CapSel) (x : Src) (s : State) (i : Issue), s.issue = some i →
    illegalAt (.mma g b x) i.t.nreg i.w = false → i.x.core.die ≠ 9 →
    (∀ q e es, i.signAll g.val b x = (q, e :: es) →
      ∃ t, exec (.mma g b x) s = .next t ∧ i.Raises (e :: es) [] t) ∧
    (i.visited = [] → (i.signAll g.val b x).2 = [] →
      ∃ t, exec (.mma g b x) s = .next t ∧ i.Commits (.mma g b x) .alu 0 false [] i.t t) ∧
    ∀ (v : Word) (c : Cap) (l : Nat) (th : Thread) (vs : List (Nat × Thread)),
    i.visited = (l, th) :: vs → i.signAll g.val b x = (some (v, c), []) →
    let r := i.g.g.getD g.val Conv.idle
    let arrived := r.arrived ||| laneMask (i.visited.map (·.1))
    let flags := (match r.sig with | some q => q.sf | none => []) ++ i.mxFlags
    let gates := (match r.sig with | some q => q.gates | none => []) ++ i.mxGates
    (∀ e, (r.expect &&& ~~~arrived) = 0 → i.finalCheck v c = .error e →
      ∃ t, exec (.mma g b x) s = .next t ∧ i.Raises [(l, e)] [] t) ∧
    ∃ t, i.Commits (.mma g b x) .alu 0 false (quietOuts i.visited) i.t t ∧
      ((r.expect &&& ~~~arrived) ≠ 0 →
        exec (.mma g b x) s = .next (t.upTeam i.x.team (·.upGroup i.x.g fun h =>
          { h with g := h.g.set g.val ⟨r.expect, arrived, r.armed, true, true,
              some ⟨v, c, (match r.sig with | some q => q.lane | none => l), flags, gates⟩⟩ }))) ∧
      (∀ gs, (r.expect &&& ~~~arrived) = 0 → i.finalCheck v c = .ok gs →
        exec (.mma g b x) s = .next (t.upTeam i.x.team fun u =>
          ((u.upGroup i.x.g fun h => { h with g := h.g.set g.val ⟨r.expect, arrived, false, true, true, none⟩ }).upView
            (cfg v 0 4) fun w => { w with count := w.count + 1 }).enqueueM
              { i.mop 0x202 l gs (.mma (cfg v 0 4) (cfg v 4 8) (cfg v 12 3) (cfg v 15 3 + 1) (16 * cfg v 18 12) c.addr.toNat) with
                flags := flags, gates := gates }))

/-- R256, R280, R344, R347-R351, R353-R357, R360, R363-R365, R369, R370, R372, R389, R393, R395: the words of the
kernel: they send, take and answer messages, make and change objects, begin what completes later, and work on the frame
of a Stopped team; where a check fails, they raise the causes of every lane that fails. It rests on the model's own choices or readings of log entries 42, 50, 51, 52, 53, 54, 55, 57, 121
and 154. -/
def Obligations.KernelUnitWords : Prop :=
  (KernelWords messageRule ∧ KernelWords askRule) ∧ (KernelWords makeRule ∧ KernelWords statusRule) ∧
  KernelWords commandRule ∧ KernelWords frameRule

/-! ## Writes and accesses as they perform -/

/-- R18, R23, R24, R28, R92, R143, R173, R196, R247, R424, R428: the earliest due timed write of a kind performs: exactly its
registers are written, each in its lane, and it is pending no more. Results land once no timed write is due. A load performs lane
by lane: each lane's value is fixed as it reads, and the results of all lanes land together with the last; a lane that meets a
cause ends the word with it, and nothing lands. A load of a host page is one request to the host; a load of a peer's page sends
its read message, and lands what the reply brings. It rests on the model's own choices or readings of log entries 11, 23, 68, 142
and 156. -/
def Obligations.RegistersLand : Prop :=
  (∀ (e : Instr) (k : PendKind), writebackKind e = some k →
  ∀ (s : State) (id : Nat) (t : Team) (a b : List Pend) (p : Pend) (g : Group), s.evTeam = some (id, t) →
    t.pend = a ++ p :: b → p.kind = k → p.due ≤ s.evCycle → (∀ q ∈ a, q.kind = k → s.evCycle < q.due) →
    t.groups[p.g]? = some g →
    let banks := if k = .alu then p.upds.flatMap fun u => u.2.banks else []
    Happens e s fun s' => ∃ u, OnlyTeam s id u s' ∧ s'.draws = s.draws ∧
      OnlyGroup { t with pend := a ++ b, wrote := t.wrote ++ banks } p.g
        (p.upds.foldl (fun h x => h.apply x.1 (s.settleUpd t.ctx x.2)) g) u) ∧
  (∀ (s : State) (id : Nat) (t : Team) (o : Op) (us : List (Nat × Upd)), s.Flying id t o → s.nothingDue t →
    o.kind = .land us → t.landsLater o us = false →
    Happens .landingWrite s fun s' =>
      OnlyTeam s id ((t.upGroup o.g (s.landGroup t.ctx us)).endOp o) s' ∧ s'.draws = s.draws) ∧
  (∀ (s : State) (id : Nat) (t : Team) (o : Op) (born n : Nat) (us : List (Nat × Upd)), s.Flying id t o → s.nothingDue t →
    o.kind = .ceil born n us →
    Happens .landingWrite s fun s' => s' = { s with teams := s'.teams, ctxs := s'.ctxs } ∧
      (∀ m, m ≠ id → s'.teams.look m = s.teams.look m) ∧ (∃ u, s'.teams.look id = some u ∧ u.ops = t.ops.filter fun x => x.id != o.id) ∧
      ∀ k, s'.ctxs.look k = (s.ctxs.look k).map fun c => if c.creation = born then { c with ceil := n } else c) ∧
  (∀ (s : State) (id : Nat) (t : Team) (o : Op) (acc : List Access) (dst : List (Nat × Dest)) (sx c : Bool)
    (got : List (Nat × Upd)) (a : Access), s.Flying id t o → s.nothingDue t → o.kind = .load acc dst sx c got →
    acc.find? (·.lane == s.ev.lane) = some a → s.may id t o [a.touch false] = true →
    (∀ bs, a.loc.isRemote = false → s.readFor t.die (s.worldOf t) a.loc a.size (16 * a.lane) = .ok bs →
      let us := ((destAt dst a.lane).upds a.size (valOf bs) (a.tag && s.tagFor t.die a.loc) sx).map fun u => (a.lane, u)
      let all := (got.filter fun p => decide (p.1 < a.lane)) ++ us ++ got.filter fun p => !decide (p.1 < a.lane)
      let left := acc.filter fun y => y.lane != a.lane
      Happens .landingWrite s fun s' =>
        TeamReads s id (if left = [] then (t.upGroup o.g (s.landGroup t.ctx all)).endOp o
          else t.putOp { o with kind := .load left dst sx c all }) s' ∧
        s'.outbox = s.outbox ++ match a.loc with
          | .host fn pasid iova => [.hostRead fn pasid iova a.size]
          | _ => []) ∧
    (∀ e, a.loc.isRemote = false → s.readFor t.die (s.worldOf t) a.loc a.size (16 * a.lane) = .error e →
      Happens .landingWrite s (s.FailsLate id t o a.lane e)) ∧
    (∀ fn pasid iova, a.loc = .host fn pasid iova → (fn, pasid) ∉ s.pasids → Happens .landingWrite s (s.FailsLate id t o a.lane cPage)) ∧
    ∀ conn handle off, a.loc = .remote conn handle off →
      (s.connUp conn = false → Happens .landingWrite s (s.FailsLate id t o a.lane cMemerr)) ∧
      ∀ k, s.conns.look conn = some k → k.up = true → 1 ≤ k.credits → s.sent conn id o.id a.lane 0 = false →
        Happens .landingWrite s (s.ReadSent id o a conn handle off k))

/-- R144, R145, R322: what a load gives: the bytes there as the die of its core reads them, little-endian, sign-extended where the
word says so; the tag of the granule goes with a capability. A die reads memory as it stands, but for a line of which the INV of
an external write has not reached it. It rests on the model's own choices or readings of log entries 11 and 66. -/
def Obligations.LoadValues : Prop :=
  (∀ (s : State) (die w pa n k : Nat), (linesOf pa n).filterMap (s.lineErr w) = [] →
    s.readFor die w (.mem pa) n k = .ok (s.viewBytes die pa n)) ∧
  (∀ (s : State) (die w m off n k : Nat) (u : Team), s.teams.look m = some u →
    s.readFor die w (.spad m off) n k = .ok (Memory.bytes u.sp off n) ∧
    s.tagFor die (.spad m off) = u.spTags.contains (off / 16)) ∧
  (∀ (s : State) (die pa n k : Nat), k < n → n ≤ 16 → (s.viewBytes die pa n).length = n ∧
    (valOf (s.viewBytes die pa n)).toNat / 256 ^ k % 256 = (s.viewByte die (pa + k)).toNat) ∧
  (∀ (s : State) (die pa n : Nat), (∀ l ∈ linesOf pa n, s.coh.stale.look (lineKey l die) = none) →
    wordOfBytes (s.viewBytes die pa n) = Memory.num s.mem pa n ∧ (0 < n → s.tagFor die (.mem pa) = s.tags.contains (pa / 16))) ∧
  (∀ (s : State) (die line k : Nat) (d : LineData), s.coh.stale.look (lineKey line die) = some d → k < 64 →
    s.viewBytes die (64 * line + k) 1 = [d.bytes.getD k 0] ∧ s.tagFor die (.mem (64 * line + k)) = flagAt d.tags (k / 16)) ∧
  (∀ m : Memory, ∀ pa n k, k < n → (Memory.num m pa n) / 256 ^ k % 256 = (Memory.byte m (pa + k)).toNat) ∧
  (∀ n v, n ∈ [1, 2, 4] → (loadWordOf n v false).toNat = v % 2 ^ 32) ∧
  (∀ n v, n ∈ [1, 2, 4] → v < 2 ^ (8 * n) →
    (loadWordOf n v true).toInt = if v < 2 ^ (8 * n - 1) then (v : Int) else (v : Int) - 2 ^ (8 * n)) ∧
  (∀ (d : Fin 64) (q : Fin 32) (b : BitVec 128) (tag sx : Bool),
    (Dest.pair (2 * d.val)).upds 8 b tag sx = [.v (2 * d.val) (b.extractLsb' 0 32), .v (2 * d.val + 1) (b.extractLsb' 32 32)] ∧
    (Dest.quad q.val).upds 16 b tag sx = [.quad q.val ⟨b, false⟩] ∧ (Dest.capW q.val).upds 16 b tag sx = [.quad q.val ⟨b, tag⟩])

/-- R11, R147-R150, R320, R378, R424, R429: the lane of a store that the step names performs, where no lower lane is still to store
to its bytes: its bytes, and no other, change; every granule it meets loses its tag, but for one that a tagged capability fills. In
memory, in a share of the own or of another core, and at a host page, which is one request to the host; never at a peer's page. A
cause met then ends the word. A fence performs once what it orders has performed. It rests on the model's own choices or readings
of log entries 11, 66, 68, 149, 150 and 169. -/
def Obligations.StorePerforms : Prop :=
  (∀ (s : State) (id : Nat) (t : Team) (o : Op) (acc : List Access) (a : Access) (c : Bool), s.Flying id t o →
    o.kind = .store acc c → acc.find? (·.lane == s.ev.lane) = some a → lowerLane acc a = false →
    s.may id t o [a.touch true] = true →
    let left := acc.filter fun y => y.lane != s.ev.lane
    let next := t.nextLane o (.store left c) left.isEmpty
    let bs := numBytes a.x.toNat a.size
    let tag := c && a.tag && (s.settleCap t.ctx a.cap).tag
    (∀ e, s.storeErr a.loc a.size = some e → Happens .storePerform s (s.FailsLate id t o s.ev.lane e)) ∧
    (∀ pa, s.storeErr a.loc a.size = none → a.loc = .mem pa → Memory.wf s.mem = true →
      Happens .storePerform s fun s' =>
        s'.teams.look id = some next ∧ (∀ n, n ≠ id → s'.teams.look n = s.teams.look n) ∧
        MemoryAfter s.mem pa bs s'.mem ∧ TagsAfter s.tags pa a.size tag s'.tags ∧ s.besideStore s') ∧
    (∀ m off u, a.loc = .spad m off → s.teams.look m = some u → Memory.wf u.sp = true →
      Happens .storePerform s fun s' => s.Beside s' ∧ s'.mem = s.mem ∧
        (∀ n, n ≠ id → n ≠ m → s'.teams.look n = s.teams.look n) ∧
        ∃ v, s'.teams.look m = some v ∧ MemoryAfter u.sp off bs v.sp ∧ TagsAfter u.spTags off a.size tag v.spTags ∧
          (m = id → v = { next with sp := v.sp, spTags := v.spTags }) ∧
          (m ≠ id → s'.teams.look id = some next ∧ v = { u with sp := v.sp, spTags := v.spTags })) ∧
    ∀ fn pasid iova, s.storeErr a.loc a.size = none → a.loc = .host fn pasid iova →
      Happens .storePerform s fun s' => s'.mem = s.mem ∧ s'.tags = s.tags ∧
        s'.outbox = s.outbox ++ [.hostWrite fn pasid iova bs] ∧ s'.teams.look id = some next ∧
        ∀ n, n ≠ id → s'.teams.look n = s.teams.look n) ∧
  (∀ (s : State) (ctx w va conn handle off : Nat) (keep : Bool) (k : Need), k.nr = true →
    s.translate ctx w va k ≠ .ok (.remote conn handle off, keep)) ∧
  (needW.nr = true ∧ ∀ k : Rmw, (needA k).nr = true) ∧
  (∀ (s : State) (id : Nat) (t : Team) (o : Op), s.Flying id t o → o.kind = .fence → s.inOrder t o o.lanes = true →
    s.fenceOwes id t o = false →
    Happens .storePerform s fun s' => TeamReads s id (t.endOp o) s' ∧ s'.outbox = s.outbox)

/-- R151-R153, R285, R416, R424: the next lane of an atomic performs: it reads the old value and, unless a compare fails, stores
what R151 or R285 gives; after the last lane the old values land. In memory, in a share, and at a host page as one AtomicOp. The
values are those of the tables. It rests on the model's own choices or readings of log entries 66, 68, 149, 150 and 169. -/
def Obligations.AtomicPerforms : Prop :=
  (∀ (s : State) (id : Nat) (t : Team) (o : Op) (k : Rmw) (a : Access) (r : List Access) (dst : List (Nat × Dest))
    (got : List (Nat × BitVec 128)), s.Flying id t o → o.kind = .rmw k (a :: r) dst got → s.may id t o [a.touch true] = true →
    let next := fun (old : BitVec 128) =>
      let all := got ++ [(a.lane, old)]
      let us := all.flatMap fun p => ((destAt dst p.1).upds a.size p.2 false false).map fun u => (p.1, u)
      t.nextLane o (if r.isEmpty then .land us else .rmw k r dst all) (r.isEmpty && us.isEmpty)
    let stored := fun (old : BitVec 128) => match k.value old a.x a.y with | some v => numBytes v.toNat a.size | none => []
    (∀ pa, a.loc = .mem pa → Memory.wf s.mem = true → (linesOf pa a.size).filterMap (s.lineErr (s.worldOf t)) = [] →
      let old := valOf (s.viewBytes t.die pa a.size)
      Happens .storePerform s fun s' =>
        s'.teams.look id = some (next old) ∧ (∀ n, n ≠ id → s'.teams.look n = s.teams.look n) ∧
        MemoryAfter s.mem pa (stored old) s'.mem ∧ TagsAfter s.tags pa (stored old).length false s'.tags ∧
        (k ≠ .evpub → s.besideStore s')) ∧
    (∀ m off u, a.loc = .spad m off → s.teams.look m = some u → Memory.wf u.sp = true →
      let old := valOf (Memory.bytes u.sp off a.size)
      Happens .storePerform s fun s' => s'.mem = s.mem ∧
        (∀ n, n ≠ id → n ≠ m → s'.teams.look n = s.teams.look n) ∧
        ∃ v, s'.teams.look m = some v ∧ MemoryAfter u.sp off (stored old) v.sp ∧
          TagsAfter u.spTags off (stored old).length false v.spTags ∧
          (m = id → v = { next old with sp := v.sp, spTags := v.spTags }) ∧
          (m ≠ id → s'.teams.look id = some (next old) ∧ v = { u with sp := v.sp, spTags := v.spTags })) ∧
    (∀ fn pasid iova bs, a.loc = .host fn pasid iova → s.readFor t.die (s.worldOf t) a.loc a.size (16 * a.lane) = .ok bs →
      Happens .storePerform s fun s' => s'.mem = s.mem ∧ s'.outbox = s.outbox ++ [.hostAtomic fn pasid iova a.size k a.x a.y] ∧
        (∃ old, s'.teams.look id = some (next old)) ∧ ∀ n, n ≠ id → s'.teams.look n = s.teams.look n) ∧
    ∀ e, s.readFor t.die (s.worldOf t) a.loc a.size (16 * a.lane) = .error e →
      Happens .storePerform s (s.FailsLate id t o a.lane e)) ∧
  (∀ m x y : BitVec 128, Rmw.cas.value m x y = (if m = x then some y else none) ∧
    Rmw.cas64.value m x y = (if m = x then some y else none) ∧ Rmw.cas128.value m x y = (if m = x then some y else none) ∧
    Rmw.xchg.value m x y = some x ∧
    Rmw.add.value m x y = some (BitVec.ofNat 128 ((m.toNat + x.toNat) % 2 ^ 32)) ∧
    Rmw.add64.value m x y = some (BitVec.ofNat 128 ((m.toNat + x.toNat) % 2 ^ 64))) ∧
  (∀ (m x : Word) (y : BitVec 128),
    let a := BitVec.ofNat 128 m.toNat
    let b := BitVec.ofNat 128 x.toNat
    let gives := fun (k : Rmw) (w : Word) => k.value a b y = some (BitVec.ofNat 128 w.toNat)
    gives .minI (BitVec.ofInt 32 (min m.toInt x.toInt)) ∧ gives .maxI (BitVec.ofInt 32 (max m.toInt x.toInt)) ∧
    gives .minN (BitVec.ofNat 32 (min m.toNat x.toNat)) ∧ gives .maxN (BitVec.ofNat 32 (max m.toNat x.toNat)) ∧
    gives .and (bitsOf fun k => m.getLsbD k && x.getLsbD k) ∧ gives .or (bitsOf fun k => m.getLsbD k || x.getLsbD k) ∧
    gives .xor (bitsOf fun k => m.getLsbD k != x.getLsbD k) ∧
    gives .fadd (BitVec.ofNat 32 (fp32.add .rne 0 m.toNat x.toNat).1)) ∧
  ∀ (m x y : BitVec 128), m.toNat < 2 ^ 64 → x.toNat < 2 ^ 20 → ∃ v, Rmw.evpub.value m x y = some v ∧ v.toNat < 2 ^ 64 ∧
    let count := arrCount m.toNat + x.toNat
    let target := max (arrTarget m.toNat) 1
    arrTarget v.toNat = arrTarget m.toNat ∧ arrCount v.toNat = count % target ∧
      arrGen v.toNat = (arrGen m.toNat + count / target) % 2 ^ 24

/-- R289, R295, R424: a frame is pushed at the deque's newest end and takes the next frame number, its join counter counted up
first; an access of a host page that gets no completion ends its operation with MEMERR. It rests on the model's own choices or
readings of log entries 68, 149 and 150. -/
def Obligations.SpawnsAndTimeouts : Prop :=
  (∀ (s : State) (id : Nat) (t : Team) (o : Op) (l : Nat) (f : Frame) (a : Option Access)
      (r : List (Nat × Frame × Option Access)), s.Flying id t o → o.kind = .spawn ((l, f, a) :: r) → s.inOrder t o [l] = true →
    s.gated t o l = false → t.refill = false → t.dequeCount < 32 → s.may id t o (a.toList.map (·.touch true)) = true →
    Memory.wf s.mem = true →
    let pushed := fun (s' : State) => ∃ u, s'.teams.look id = some u ∧ (∀ n, n ≠ id → s'.teams.look n = s.teams.look n) ∧
      u = { t with spawns := (t.spawns + 1) % 2 ^ 32, deque := u.deque, ops := u.ops, groups := u.groups } ∧
      u.deque = t.deque ++ [{ s.settleFrame t.ctx f with id := BitVec.ofNat 64 (t.gridIdx * 2 ^ 32 + (t.spawns + 1) % 2 ^ 32) }] ∧
      (r ≠ [] → u.groups = t.groups ∧ u.ops = t.ops.map fun x => if x.id = o.id then { o with kind := .spawn r } else x) ∧
      (r = [] → u.ops = t.ops.filter fun x => x.id != o.id)
    (a = none → Happens .storePerform s fun s' => pushed s' ∧ s.Beside s') ∧
    ∀ j pa, a = some j → j.loc = .mem pa → j.size = 4 → (linesOf pa 4).filterMap (s.lineErr (s.worldOf t)) = [] →
      Happens .storePerform s fun s' => pushed s' ∧ s.besideStore s' ∧
        MemoryAfter s.mem pa (numBytes ((wordOfBytes (s.viewBytes t.die pa 4) + j.x.toNat) % 2 ^ 32) 4) s'.mem) ∧
  (∀ (s : State) (id : Nat) (t : Team) (o : Op) (a : Access) (fn pasid iova : Nat), s.Flying id t o →
    o.accs.find? (fun a => match a.loc with | .host _ _ _ => true | _ => false) = some a → a.loc = .host fn pasid iova →
    Happens .completionTimeout s (s.FailsLate id t o a.lane cMemerr))

/-- R13, R24, R161, R163-R166, R168: the steps of the tables of a core: a hold that ends, an affinity that ends, a span
that is displaced, threads that are housed, a PCC-table entry that is obtained. No lane loses its standing. It rests on
the model's own choices or readings of log entries 21, 22, 56, 135 and 138. -/
def Obligations.TableSteps : Prop :=
  (∀ (s : State) (id : Nat) (t : Team) (h : LatchHold) (g : Group), s.evTeam = some (id, t) → t.hold = some h →
    h.last < s.evCycle → t.groups[h.g]? = some g →
    Happens .latchHoldExpiry s fun s' => ∃ u v, OnlyTeam s id u s' ∧ OnlyGroup { t with hold := none } h.g v u ∧
      g.Mapped Thread.lose v) ∧
  (∀ (s : State) (id : Nat) (t : Team) (k : Nat), s.evTeam = some (id, t) → 32 ≤ t.run → t.lastG = some k →
    t.ageCtr < 0xFFFFFFF0 →
    Happens .affinityRunLimit s fun s' => ∃ u, OnlyTeam s id u s' ∧
      u = { t with lastG := none, run := 0, contended := false, ageCtr := t.ageCtr + 1, groups := u.groups } ∧
      ∀ j, u.groups[j]? = (t.groups[j]?).map fun g => if j = k then { g with age := t.ageCtr } else g) ∧
  (∀ (s : State) (id : Nat) (t : Team) (g : Group), s.evTeam = some (id, t) → t.groups[s.ev.g]? = some g →
    1024 ≤ g.crowd →
    Happens .spanDisplacement s fun s' => ∃ u v, OnlyTeam s id u s' ∧ OnlyGroup t s.ev.g v u ∧ g.Rehoused v ∧
      v.crowd = 0) ∧
  (∀ (s : State) (id : Nat) (t : Team) (g : Group), s.evTeam = some (id, t) → t.groups[s.ev.g]? = some g →
    g.houseDue = true →
    Happens .unhousedHousing s fun s' => ∃ u v, OnlyTeam s id u s' ∧ OnlyGroup t s.ev.g v u ∧ g.Rehoused v ∧
      v.houseDue = false ∧ (g.canHouse = true → v.line.length < g.line.length)) ∧
  (∀ (s : State) (id : Nat) (t : Team) (g : Group) (th : Thread) (c : Cap), s.evTeam = some (id, t) →
    t.groups[s.ev.g]? = some g → g.threads.look s.ev.lane = some th → s.ev.lane ∈ g.line → th.wantsPcc = some c →
    (∃ e ∈ g.pcc, e = none ∨ e = some c) →
    Happens .pccEntryAcquire s fun s' => ∃ u v i, OnlyTeam s id u s' ∧ OnlyGroup t s.ev.g v u ∧
      v = { g with threads := v.threads, pcc := v.pcc } ∧ v.pcc[i]? = some (some c) ∧
      v.threads.look s.ev.lane = some { th with pccx := i, want := none, backed := none } ∧
      ∀ l, l ≠ s.ev.lane → v.threads.look l = g.threads.look l)

/-! ## Waits, barriers and ends of threads -/

/-- R14, R157, R215, R216, R286, R292: a wait ends when the memory it reads says so: the thread goes on at the word
after, its flag clear. It rests on the model's own choices or readings of log entries 65, 140 and 177. -/
def Obligations.WaitsEnd : Prop :=
  (∀ (s : State) (id : Nat) (t : Team) (g : Group) (th : Thread) (p : Park),
    (s.WaitEnds id t g th p 1 4 [0, 1, 2] true (fun m p => BitVec.ofNat 32 m ≠ p.val) →
      Happens .waitneWake s fun s' => ∃ u h, TeamReads s id u s' ∧ OnlyGroup t s.ev.g h u ∧ g.Woken s.ev.lane p h) ∧
    (s.WaitEnds id t g th p 3 8 [1, 2] false (fun m p => genReached m p.val = true) →
      Happens .waitgenComplete s fun s' => ∃ u h, TeamReads s id u s' ∧ OnlyGroup t s.ev.g h u ∧ g.Woken s.ev.lane p h) ∧
    (s.WaitEnds id t g th p 7 4 [0] true (fun m _ => m = 0) →
      Happens .joinComplete s fun s' => ∃ u h, TeamReads s id u s' ∧ OnlyGroup t s.ev.g h u ∧ g.Woken s.ev.lane p h) ∧
    (s.WaitEnds id t g th p 8 8 [0] true (fun m p => genReached m p.val = true) →
      Happens .evwaitComplete s fun s' => ∃ u h, TeamReads s id u s' ∧ OnlyGroup t s.ev.g h u ∧ g.Woken s.ev.lane p h) ∧
    (s.evTeam = some (id, t) → (t.st = .running ∨ t.st = .yielding) → t.groups[s.ev.g]? = some g →
      g.threads.look s.ev.lane = some th → th.st = .parked → th.park = some p → p.kind = 2 →
      s.returned id t p.cap p.addr p.val.toNat = true →
      Happens .waitownComplete s fun s' => ∃ u h, TeamReads s id u s' ∧ OnlyGroup t s.ev.g h u ∧ g.Woken s.ev.lane p h)) ∧
  (∀ (word : Nat) (k : Word), genReached word k = true ↔
    ∃ d, d < 2 ^ 23 ∧ arrGen word % 2 ^ 24 = (k.toNat + d) % 2 ^ 24)

/-- R176, R203, R204, R206, R207: a barrier at which every thread that is not Free waits lets them all go on, a carve
they agree on having been made if it can be; a convergence register lets go the lanes it no longer holds. The later accesses of
those that go on follow what all of them have issued. It rests on the model's own choices or readings of log entries 28, 137, 149,
150 and 166. -/
def Obligations.BarriersRelease : Prop :=
  (∀ (s : State) (id : Nat) (t : Team), s.evTeam = some (id, t) → (t.st = .running ∨ t.st = .yielding) →
    t.barrierReady = some s.ev.n →
    let all := t.groups.zipIdx.map fun p => Gate.ops id p.2 (p.1.threads.map (·.1)) t.nextOp 1
    Happens .teamBarrierRelease s fun s' => ∃ u, TeamReads s id u s' ∧ u.groups.length = t.groups.length ∧
      (∀ j l th k, t.thread j l = some th → u.thread j l = some k → s.Follows t.die (th.gates ++ all) k.gates) ∧
      (∀ w, s.carveTaken id t = some w →
        u = { t.recarve w with groups := u.groups } ∧
        ∀ j l, (u.thread j l).map Thread.ungated =
          (t.thread j l).map fun th => ((th.pastBarrier true).resize (w.toNat % 256)).ungated) ∧
      (s.carveTaken id t = none → OnlyTeam s id u s' ∧
        u = { t with groups := u.groups } ∧
        ∀ j l, (u.thread j l).map Thread.ungated = (t.thread j l).map fun th => (th.pastBarrier false).ungated)) ∧
  (∀ (s : State) (id : Nat) (t : Team) (g : Group), s.evTeam = some (id, t) → (t.st = .running ∨ t.st = .yielding) →
    t.groups[s.ev.g]? = some g → NMap.rising g.threads = true → t.convReady s.ev.g g = some s.ev.n →
    Happens .convergenceRelease s fun s' => ∃ u h, OnlyTeam s id u s' ∧ OnlyGroup t s.ev.g h u ∧
      h.g = g.g.modify s.ev.n (fun c => if c.complete then { c with armed := false } else c) ∧
      (∀ l th k, g.threads.look l = some th → h.threads.look l = some k →
        if l ∈ g.released s.ev.n then s.Follows t.die (th.gates ++ [.ops id s.ev.g (g.released s.ev.n) t.nextOp 0]) k.gates
        else k.gates = th.gates) ∧
      ∀ l, (h.threads.look l).map Thread.ungated = (g.threads.look l).map fun th =>
        (match th.park with | some p => if l ∈ g.released s.ev.n then th.goesOn p false else th | none => th).ungated)

/-- R15, R119, R217, R260, R265, R291: the words that wait for their thread's flags complete: `yield` goes on with its
operand cache and latches empty and what its block does not name live undefined, or stops at its own word when a
deschedule asks it to; what a block recorded in its group names stays; `exit` and `tend` free the slot, `tend` after it has taken
1 from its counter. It rests on the model's own choices or readings of log entries 23, 44, 167 and 175. -/
def Obligations.OwnCompletions : Prop :=
  (∀ (s : State) (id : Nat) (t : Team) (g : Group) (th : Thread) (step : BitVec 16) (w1 w2 w3 : DWord) (skid : Bool),
    s.AwaitEnds id t g th (.yield step w1 w2 w3 skid) →
    let k := th.yielded (s.draws + 1024) (w1, w2, w3)
    Happens .yieldComplete s fun s' => ∃ u h, OnlyTeam s id u s' ∧ OnlyGroup t s.ev.g h u ∧
      (g.yielded s.ev.lane s.draws (w1, w2, w3)).LaneBecomes s.ev.lane
        (if s.stopsAt t g step skid = true then
          { k with st := .stopped, stopKind := 2, pc := k.pc - 32, step := step, block := some (w1, w2, w3) }
        else if ((t.st = .running ∨ t.st = .yielding) ∨ (skid = true ∧ t.st = .halting)) ∧ g.halted = false then k
        else { k with st := .stopped, stopKind := 1 }) h) ∧
  (∀ (th : Thread) (d : Nat) (b : DWord × DWord × DWord),
    let k := th.yielded d b
    (k.pc, k.p, k.x, k.fps, k.f) = (th.pc, th.p, th.x, th.fps, th.f) ∧ k.await = none ∧ k.words = 0 ∧
      (∀ v ∈ k.oval, v = false) ∧ (∀ x ∈ k.b, x = Latch.none) ∧
      ∀ n, n < th.v.length → (liveV b n = true → k.rdV n = th.rdV n) ∧ (liveV b n = false → flagAt k.vtag (n / 4) = false)) ∧
  (∀ (g : Group) (lane d : Nat) (b : DWord × DWord × DWord),
    let h := g.yielded lane d b
    h = { g with threads := h.threads, s := h.s, k := h.k } ∧
      (∀ l, l ≠ lane → h.threads.look l = g.threads.look l) ∧
      (∀ n, (∃ x ∈ b :: g.blocks, x.2.2.getLsbD (12 + n / 64) = true) → h.s[n]? = g.s[n]?) ∧
      ∀ n, ((∃ x ∈ b :: g.blocks, x.2.2.getLsbD (8 + n / 4) = true) → h.k[n]? = g.k[n]?) ∧
        ((∀ x ∈ b :: g.blocks, x.2.2.getLsbD (8 + n / 4) = false) → ∀ c, h.k[n]? = some c → c.tag = false)) ∧
  (∀ (s : State) (id : Nat) (t : Team) (g : Group) (th : Thread), s.AwaitEnds id t g th .exit →
    NMap.rising g.threads = true →
    Happens .exitCompletion s fun s' => ∃ u, OnlyTeam s id u s' ∧ t.Freed s.ev.g s.ev.lane s.evWidth u) ∧
  (∀ (s : State) (id : Nat) (t : Team) (g : Group) (th : Thread) (sc : Scope), s.AwaitEnds id t g th (.tend none sc) →
    NMap.rising g.threads = true →
    Happens .tendCompletion s fun s' => ∃ u, OnlyTeam s id u s' ∧ t.Freed s.ev.g s.ev.lane s.evWidth u) ∧
  (∀ (s : State) (id : Nat) (t : Team) (g : Group) (th : Thread) (c : Cap) (sc : Scope) (pa : Nat) (keep : Bool),
    s.AwaitEnds id t g th (.tend (some c) sc) → NMap.rising g.threads = true → t.quiet s.ev.g [s.ev.lane] = true →
    s.accessAt id t (s.worldOf t) c (pLD ||| pST) c.addr.toNat 4 [0] (some sc) true true (needA .add) = .ok (.mem pa, keep) →
    (let a : Access := ⟨s.ev.lane, .mem pa, 4, c.addr.toNat, 0xFFFFFFFF, 0, false, Cap.zero, 0⟩
     s.may id t { probe s.ev.g s.ev.lane 0 (.mem pa) 4 sc true t.nextOp (t.gatesAt s.ev.g s.ev.lane) with
       rel := true, kind := .rmw .add [a] [] [] } [a.touch true] = true) →
    (linesOf pa 4).filterMap (s.lineErr (s.worldOf t)) = [] → Memory.wf s.mem = true →
    Happens .tendCompletion s fun s' => ∃ u, s'.teams.look id = some u ∧ t.Freed s.ev.g s.ev.lane s.evWidth u ∧
      (∀ n, n ≠ id → s'.teams.look n = s.teams.look n) ∧ s.besideStore s' ∧
      MemoryAfter s.mem pa (numBytes ((wordOfBytes (s.viewBytes t.die pa 4) + (2 ^ 32 - 1)) % 2 ^ 32) 4) s'.mem)

/-- R289, R293: counting a task in and out of a join counter leaves it as it was, where no die still waits for an INV of its line.
-/
def Obligations.JoinCounts : Prop :=
  ∀ m : Word, (m + 1) + BitVec.ofNat 32 (2 ^ 32 - 1) = m ∧
    ∀ (s : State) (u : Option Team) (w pa : Nat) (a b : Access) (o1 o2 : BitVec 128) (s1 s2 : State), Memory.wf s.mem = true →
      a.loc = .mem pa → b.loc = .mem pa → a.size = 4 → b.size = 4 → a.x = 1 →
      (∀ l ∈ linesOf pa 4, ∀ d, s.coh.stale.look (lineKey l d) = none) → b.x = BitVec.ofNat 128 (2 ^ 32 - 1) →
      s.modify u w .add a = .ok (o1, s1) → s1.modify u w .add b = .ok (o2, s2) →
      ∀ n, Memory.byte s2.mem n = Memory.byte s.mem n

/-! ## Tasks (R287-R299) -/

/-- R290, R295-R299: Free slots in their order take the newest frames and start a thread from each; the ring's newest
frames come back; an idle team looks for a victim, the victim gives its oldest eligible frame, and that frame arrives.
It rests on the model's own choices or readings of log entries 60, 61, 84 and 155. -/
def Obligations.TaskSteps : Prop :=
  (∀ (s : State) (id : Nat) (t : Team), s.evTeam = some (id, t) → t.st = .running → t.nreg = 128 → t.free ≠ [] →
    t.deque ≠ [] → t.free.Nodup → (∀ f ∈ t.deque, f.args.length = 16) → (∀ n ∈ t.free, n / t.width < t.groups.length) →
    let m := min t.free.length t.deque.length
    Happens .taskStart s fun s' => ∃ u, OnlyTeam s id u s' ∧ u.free = t.free.drop m ∧
      u.deque = t.deque.take (t.deque.length - m) ∧
      (∀ k sl f, k < m → t.free[k]? = some sl → t.deque[t.deque.length - 1 - k]? = some f →
        ∃ th, u.thread (sl / t.width) (sl % t.width) = some th ∧ (s.settleFrame t.ctx f).Starts th) ∧
      ∀ j l, (∀ sl ∈ t.free.take m, j ≠ sl / t.width ∨ l ≠ sl % t.width) →
        (u.thread j l).map Thread.bare = (t.thread j l).map Thread.bare) ∧
  (∀ (s : State) (id : Nat) (t : Team) (fs : List Frame), s.evTeam = some (id, t) → t.refill = true →
    (t.st = .running ∨ t.st = .yielding ∨ t.st = .halting ∨ t.st = .draining) → t.dequeCount + min 16 t.ringCount ≤ 32 →
    (List.range (min 16 t.ringCount)).mapM
      (fun j => s.readFrame id t (s.worldOf t) (t.ringCount - min 16 t.ringCount + j)) = .ok fs →
    Happens .refill s fun s' => OnlyTeam s id
      { t with deque := fs ++ t.deque, ringCount := t.ringCount - min 16 t.ringCount, refill := false } s') ∧
  (∀ (s : State) (id : Nat) (t : Team), s.evTeam = some (id, t) → t.idle = true →
    Happens .stealSearch s fun s' => ∃ u, OnlyTeam s id u s' ∧
      (s.victims s.ev.core t 0 ≠ [] → u = { t with steal := some ⟨0, [], none, true⟩ }) ∧
      (s.victims s.ev.core t 0 = [] → s.victims s.ev.core t 1 ≠ [] → u = { t with steal := some ⟨1, [], none, true⟩ }) ∧
      (s.victims s.ev.core t 0 = [] → s.victims s.ev.core t 1 = [] → u = { t with steal := none, searched := true, idleAt := none })) ∧
  (∀ (s : State) (id vid : Nat) (t v : Team) (q : Steal) (a b : List Frame) (f : Frame), s.evTeam = some (id, t) →
    t.st = .running → t.steal = some q → q.frame = none → coreNo s.ev.core2 ∈ s.victims s.ev.core t q.tier →
    coreNo s.ev.core2 ∉ q.done → s.onCore s.ev.core2 = some (vid, v) → vid ≠ id → v.st = .running → v.ringCount = 0 →
    v.deque = a ++ f :: b → f.eligible q.tier = true → (∀ x ∈ a, x.eligible q.tier = false) →
    Happens .stealRequest s fun s' => s' = { s with teams := s'.teams } ∧
      s'.teams.look id = some { t with steal := some { q with frame := some f } } ∧
      s'.teams.look vid = some { v with deque := a ++ b } ∧
      ∀ n, n ≠ id → n ≠ vid → s'.teams.look n = s.teams.look n) ∧
  (∀ (s : State) (id : Nat) (t : Team) (q : Steal) (f : Frame), s.evTeam = some (id, t) → t.steal = some q →
    q.frame = some f →
    ((t.st ≠ .running ∨ t.free = []) →
      Happens .stealFrameArrival s fun s' => OnlyTeam s id { t with deque := f :: t.deque, steal := none } s') ∧
    (∀ sl rest, t.st = .running → t.free = sl :: rest → t.deque = [] → t.nreg = 128 → f.args.length = 16 →
      sl / t.width < t.groups.length →
      Happens .stealFrameArrival s fun s' => ∃ u th, OnlyTeam s id u s' ∧ u.steal = none ∧ u.free = rest ∧ u.deque = [] ∧
        u.thread (sl / t.width) (sl % t.width) = some th ∧ (s.settleFrame t.ctx f).Starts th))

/-! ## Copies and the matrix engine -/

/-- R180: an arrival word counts the bytes that land; when they reach its target the generation advances, the count is 0
and the granules tied to it return; bytes past the target raise ENGINE and count toward no generation. The word may lie in the
share of the team that issued the command or in another's. -/
def Obligations.ArrivalWord : Prop :=
  ∀ (s : State) (id : Nat) (o : Op) (lane m off n : Nat) (u : Team), s.teams.look m = some u → Memory.wf u.sp = true →
    let w := Memory.num u.sp off 8
    let s' := s.arrive id o lane m off n
    (arrCount w + n < arrTarget w → ∃ v, TeamReads s m v s' ∧ v = { u with sp := v.sp, spTags := v.spTags } ∧
      MemoryAfter u.sp off (numBytes (w + n) 8) v.sp) ∧
    (arrTarget w ≤ arrCount w + n → ∃ v, s'.teams.look m = some v ∧
      MemoryAfter u.sp off (numBytes (arrWord ((arrGen w + 1) % 2 ^ 24) (arrTarget w) 0) 8) v.sp ∧
      v.ties = u.ties.filter (fun k => k.word != off) ∧
      (∀ k ∈ u.ties, k.word = off → ∀ x, s'.teams.look k.team = some x → k.granule ∉ x.owner) ∧
      (arrTarget w = arrCount w + n → ∀ g : Nat, (s'.teams.look id).map (fun (t : Team) => (t.groups[g]?).map Group.cause) =
        (s.teams.look id).map fun (t : Team) => (t.groups[g]?).map Group.cause) ∧
      (arrTarget w < arrCount w + n → ∀ t g, s.teams.look id = some t → t.groups[o.g]? = some g →
        ∃ t' g', s'.teams.look id = some t' ∧ t'.groups[o.g]? = some g' ∧ g'.cause = g.cause ||| cEngine))

/-- R177-R179, R211-R213, R323, R428: a piece of a running command lands and counts toward its arrival word, and an untied
command returns the granules that it needs no more; or its source is read ahead; or the message of a remote part leaves. A
command all of whose bytes have landed leaves the flight, and the flag of its word clears with the word's last command; one whose
rest fails a check aborts with ENGINE and that cause, its granules returned. It rests on the model's own choices or readings
of log entries 47, 48 and 161. -/
def Obligations.CopyRuns : Prop :=
  (∀ (s s1 : State) (id : Nat) (t : Team) (o : Op) (c : Copy) (left : List (Nat × Nat)) (gs : List Seg),
    s.Flying id t o → o.kind = .copy c → cutLeft s.ev.addr s.ev.len c.left = some left → 0 < s.ev.len → c.grant = true →
    s.granulesQuiet c.granules = true → (c.tagMode = true → s.ev.addr % 16 = 0 ∧ s.ev.len % 16 = 0) →
    let s0 := s.ownAll c.granules
    let ts := gs.flatMap c.touches
    let reads := ts.filter fun x => !x.write
    s0.segs id t c o.scope (s.ev.len + 1) s.ev.addr s.ev.len = .ok gs → (∀ g ∈ gs, g.remote = none) →
    (∀ r ∈ s0.copyRuns id t c o.scope, ¬ (r.off = s.ev.addr ∧ r.len = s.ev.len)) →
    (s.ev.flag = false → s0.may id t o ts = true →
      (((s0.note id t o ts).fillLines t reads).askSegs c gs).moveSegs id t c o.scope gs = .ok s1 →
      Happens .arrivalWordUpdate s fun s' => s' = s1.landed id o c s.ev.len left) ∧
    ∀ bs, s.ev.flag = true → c.tagMode = false → c.src.isSome = true → s0.may id t o reads = true →
      gs.mapM (s0.segBytes t c) = .ok bs →
      Happens .arrivalWordUpdate s fun s' => s'.mem = s.mem ∧ ∃ u x d, s'.teams.look id = some u ∧ u.findOp o.id = some x ∧
        x.kind = .copy d ∧ d.left = c.left ∧ d.begun = true ∧
        ∀ k, k < bs.flatten.length → d.got.look (s.ev.addr + k) = bs.flatten[k]?) ∧
  (∀ (s : State) (id : Nat) (t : Team) (c : Copy) (sc : Scope) (g : Seg) (pa : Nat) (bs : List Byte),
    c.tagMode = false → g.dst = .mem pa → s.storeErr g.dst g.len = none → Memory.wf s.mem = true →
    (g.src = none → bs = fillBytes c g.off g.len) →
    (∀ p, g.src = some p → c.ahead g.off g.len = some bs ∨
      (c.ahead g.off g.len = none ∧ s.readFor t.die (s.worldOf t) p.1 g.len 0 = .ok bs)) →
    ∃ s', s.moveSeg id t c sc g none = .ok s' ∧ MemoryAfter s.mem pa bs s'.mem ∧ TagsAfter s.tags pa bs.length false s'.tags ∧
      s'.teams = s.teams) ∧
  (∀ (s : State) (id : Nat) (t : Team) (c : Copy) (sc : Scope) (g : Seg) (m off : Nat) (u : Team) (bs : List Byte),
    c.tagMode = false → g.dst = .spad m off → s.teams.look m = some u → Memory.wf u.sp = true → s.segBytes t c g = .ok bs →
    ∃ s' v, s.moveSeg id t c sc g none = .ok s' ∧ s'.mem = s.mem ∧ s'.teams.look m = some v ∧
      v = { u with sp := v.sp, spTags := v.spTags } ∧ MemoryAfter u.sp off bs v.sp ∧ TagsAfter u.spTags off bs.length false v.spTags ∧
      ∀ n, n ≠ m → s'.teams.look n = s.teams.look n) ∧
  (∀ (s : State) (id n : Nat) (t : Team) (o : Op) (c : Copy) (left : List (Nat × Nat)), s.teams.look id = some t →
    (t.findOp o.id = some o → ∃ u x d, (s.landed id o c n left).teams.look id = some u ∧ u.findOp o.id = some x ∧
      x.kind = .copy d ∧ d.left = left ∧ d.begun = true) ∧
    (c.arrival = none →
      let d := { c with got := c.got.filter fun p => left.any fun q => decide (q.1 ≤ p.1) && decide (p.1 < q.1 + q.2) }
      ∀ k ∈ c.granules, k ∉ s.copyNeeds id d left → ∀ x, (s.landed id o c n left).teams.look k.1 = some x → k.2 ∉ x.owner)) ∧
  (∀ (s : State) (id : Nat) (t : Team) (o : Op) (c : Copy) (left : List (Nat × Nat)) (gs : List Seg) (r : Run) (k : Conn),
    s.Flying id t o → o.kind = .copy c → cutLeft s.ev.addr s.ev.len c.left = some left → 0 < s.ev.len → c.grant = true →
    s.granulesQuiet c.granules = true → (c.tagMode = true → s.ev.addr % 16 = 0 ∧ s.ev.len % 16 = 0) →
    let s0 := s.ownAll c.granules
    s0.segs id t c o.scope (s.ev.len + 1) s.ev.addr s.ev.len = .ok gs →
    (s0.copyRuns id t c o.scope).find? (fun x => x.off == s.ev.addr && x.len == s.ev.len) = some r →
    s0.may id t o (gs.flatMap c.touches) = true → s.conns.look r.conn = some k → k.up = true →
    s.sent r.conn id o.id c.lane r.off = false →
    (r.isW = false → 1 ≤ k.credits → Happens .arrivalWordUpdate s fun s' =>
      s'.outbox = s.outbox ++ [.fabricRead r.conn k.sendSeq r.handle r.at_ r.len c.tagMode] ∧ s'.mem = s.mem ∧
      ∃ y, s'.conns.look r.conn = some y ∧ y.sendSeq = k.sendSeq + 1 ∧ y.credits = k.credits - 1) ∧
    ((∀ g ∈ gs, g.src = none) → c.tagMode = false → r.isW = true → (r.len + 4095) / 4096 ≤ k.credits →
      Happens .arrivalWordUpdate s fun s' => s'.mem = s.mem ∧
        s'.outbox = s.outbox ++ (packetsOf false (gs.flatMap fun g => fillBytes c g.off g.len)).map (fun p =>
          .fabricWrite r.conn k.sendSeq r.handle r.at_ false (gs.flatMap fun g => fillBytes c g.off g.len).length p.1 p.2) ∧
        ∃ y, s'.conns.look r.conn = some y ∧ y.sendSeq = k.sendSeq + 1)) ∧
  (∀ (s : State) (id : Nat) (t : Team) (o : Op) (c : Copy), s.Flying id t o → o.kind = .copy c → c.left = [] →
    Happens .copyComplete s fun s' => s' = { s with teams := s'.teams } ∧ ∃ u, s'.teams.look id = some u ∧
      u.ops = t.ops.filter (fun x => x.id != o.id) ∧
      (∀ l th, t.thread o.g l = some th → ∃ k, u.thread o.g l = some k ∧
        (((∃ x ∈ u.ops, ∃ d, x.kind = .copy d ∧ d.word = c.word) ∨ l ∉ o.lanes ∨ o.sf = none) → k = th) ∧
        ∀ n, o.sf = some n → l ∈ o.lanes → (∀ x ∈ u.ops, ∀ d, x.kind = .copy d → d.word ≠ c.word) →
          k = { th with f := th.f.set n.val false }) ∧
      (c.arrival = none → ∀ k ∈ c.granules, ∀ x, s'.teams.look k.1 = some x → k.2 ∉ x.owner) ∧
      (c.arrival ≠ none → u.owner = t.owner ∧ ∀ n, n ≠ id → s'.teams.look n = s.teams.look n)) ∧
  (∀ (s : State) (id : Nat) (t : Team) (o : Op) (c : Copy) (g : Group), s.Flying id t o → o.kind = .copy c →
    s.copyErr id t o c = some s.ev.word → t.groups[o.g]? = some g →
    Happens .copyAbort s fun s' => s' = { s with teams := s'.teams } ∧ ∃ u h, s'.teams.look id = some u ∧
      u.ops = t.ops.filter (fun x => x.id != o.id) ∧ u.groups[o.g]? = some h ∧ h.cause = g.cause ||| cEngine ||| s.ev.word ∧
      (∀ k ∈ c.granules, ∀ x, s'.teams.look k.1 = some x → k.2 ∉ x.owner))

/-- R223-R228, R230, R234, R236, R238, R240-R244: the operations of the matrix queue. A B load fills its macro, or
poisons it and raises MATRIX; a chain opens, takes its products and ends with its tile in the scratchpad; entries and
status words land in registers. A k-block of finite products adds the floor of their exact sum in units of the grid; an output
element of FP32 is the exact sum of its entry and the floor of its C element, rounded once. It rests on the model's own choices or
readings of log entries 30 and 147. -/
def Obligations.MatrixPerforms : Prop :=
  (∀ (s : State) (id : Nat) (t : Team) (o : MOp) (bf mac half cols stride addr : Nat), s.evM = some (id, t, o) →
    o.kind = .mldb bf mac half cols stride addr →
    (∀ k, t.loadMacro bf half cols stride addr = some k →
      Happens .mldbPerform s (s.MatrixDone id o (t.withMx fun m => { m with macros := m.macros.set mac k }))) ∧
    (t.loadMacro bf half cols stride addr = none →
      Happens .mldbPerform s (s.MatrixDone id o ((t.withMx fun m =>
        { m with macros := m.macros.modify mac fun k => { k with poisoned := true } }).asyncCause o.g cMatrix
          (some ⟨o.op10, o.lane, true, o.pc⟩))))) ∧
  (∀ (s : State) (id : Nat) (t : Team) (o : MOp) (b af bf ofm mode : Nat) (ea : Int), s.evM = some (id, t, o) →
    o.kind = .mbeg b af bf ofm mode ea → o.granted = true →
    Happens .mbegPerform s (s.MatrixDone id o (t.withBank b ⟨true, af, bf, ofm, mode, ea, 0, 0, true, 0, []⟩))) ∧
  (∀ (s : State) (id : Nat) (t : Team) (o : MOp) (b mask r0 rows stride addr : Nat), s.evM = some (id, t, o) →
    o.kind = .mma b mask r0 rows stride addr → (t.mx.bank b).grant = true → (t.mx.bank b).openC = true →
    Happens .mmaPerform s (s.MatrixDone id o (t.withBank b (t.stage (t.mx.bank b) mask r0 rows stride addr)))) ∧
  (∀ (s : State) (id : Nat) (t : Team) (o : MOp) (b r0 rows stride d : Nat) (c : Option Nat), s.evM = some (id, t, o) →
    o.kind = .mend b r0 rows stride d c →
    Happens .mendPerform s (s.MatrixDone id o ((t.outTile (t.mx.bank b) r0 rows stride d c).1.withBank b
      { t.mx.bank b with
        openC := false, grant := false, entries := [], count := 0,
        status := (t.mx.bank b).status ||| (t.outTile (t.mx.bank b) r0 rows stride d c).2 |||
          (if (t.mx.bank b).entries.any (·.2.over) then sOvf else 0) }))) ∧
  (∀ (s : State) (id : Nat) (t : Team) (o : MOp) (b : Nat), s.evM = some (id, t, o) → o.kind = .mzero b →
    Happens .mzeroPerform s (s.MatrixDone id o (t.withBank b Bank.closed))) ∧
  (∀ (s : State) (id : Nat) (t : Team) (o : MOp) (items : List (Nat × Nat × Nat × Nat)), s.evM = some (id, t, o) →
    o.kind = .mrd items →
    Happens .mrdPerform s (s.MatrixDone id o (t.upGroup o.g (s.landGroup t.ctx
      (items.flatMap fun p => ((t.mx.bank p.2.1).readEntry p.2.2.1 p.2.2.2).map fun u => (p.1, u)))))) ∧
  (∀ (s : State) (id : Nat) (t : Team) (o : MOp) (items : List (Nat × Dest × Nat)), s.evM = some (id, t, o) →
    o.kind = .mstat items →
    Happens .mstatPerform s (s.MatrixDone id o (t.upGroup o.g (s.landGroup t.ctx
      (items.flatMap fun p => (destUpd p.2.1 (t.mx.bank p.2.2).word).map fun u => (p.1, u)))))) ∧
  (∀ (ea : Int) (e : Entry) (st : Word) (ps : List (Elem × Elem)),
    (∀ p ∈ ps, p.1.special = false ∧ p.2.special = false) →
    let term : Int := ⌊(ps.map fun p => p.1.rat * p.2.rat).sum / gridUnit ea⌋
    let r := Entry.add ea (e, st) ps
    r.1.value = e.value + term ∧ r.1.st = e.st ∧
      (r.1.ovf = true ↔ e.ovf = true ∨ term < -(2 ^ 159) ∨ 2 ^ 159 ≤ term) ∧
      r.2 = st ||| if (ps.map fun p => p.1.rat * p.2.rat).sum = term * gridUnit ea then 0 else sFloored) ∧
  ∀ (k : Bank) (e : Entry) (c : Elem), k.ofmt = 0 → e.st = .fin → c.special = false →
    let cg : Int := ⌊c.rat / gridUnit k.ea⌋
    let v : Int := cg + e.value
    let d := outElem k e c
    (e.over = true ∨ v < -(2 ^ 159) ∨ 2 ^ 159 ≤ v → d.1 = 0x7FC00000 ∧ d.2.getLsbD 1 = true) ∧
    (e.over = false → -(2 ^ 159) ≤ v → v < 2 ^ 159 →
      RoundsTo (outMode k.mode) 0 ((v : ℝ) * (gridUnit k.ea : ℝ)) (BitVec.ofNat 32 d.1) ∧
      (fpNegative (BitVec.ofNat 32 d.1) ↔ if v = 0 then outMode k.mode = .rd else v < 0)) ∧
    (d.2.getLsbD 4 = true ↔ c.rat ≠ cg * gridUnit k.ea)

/-- R212, R231, R445: the request of a die that arrived first gets its grant, and the clock never falls below 425 MHz. It rests
on the model's own choices or readings of log entries 62 and 124. -/
def Obligations.CurrentGrants : Prop :=
  (∀ (s : State) (id n : Nat) (t : Team) (c : CoreId) (r : GrantReq), NMap.rising s.teams = true →
    s.teams.look id = some t → t.core = some c → c.die = s.ev.die → (n, r) ∈ t.grantReqs →
    (∀ p ∈ s.teams, ∀ k, p.2.core = some k → k.die = s.ev.die → ∀ q ∈ p.2.grantReqs, (p.1, q) ≠ (id, n, r) → n < q.1) →
    Happens .currentGrant s fun s' => s'.teams.look id = some (t.giveGrant r) ∧
      (∀ n, n ≠ id → s'.teams.look n = s.teams.look n) ∧
      s' = { s with teams := s'.teams, dies := s'.dies, draws := s'.draws } ∧ (s.ev.flag = false → s'.dies = s.dies) ∧
      ∀ j : Nat, ∀ x, s.dies[j]? = some x → 425 ≤ x.clock →
        ∃ y, s'.dies[j]? = some y ∧ 425 ≤ y.clock ∧ y.clock ≤ x.clock ∧ y = { x with clock := y.clock }) ∧
  (∀ (t : Team) (i : Nat) (o : MOp), o ∈ t.mx.queue → o.id = i →
    { o with granted := true } ∈ (t.giveGrant (.chain i)).mx.queue) ∧
  (∀ (t : Team) (b : Nat), b < t.mx.banks.length → ((t.giveGrant (.bank b)).mx.bank b).grant = true) ∧
  (∀ (t : Team) (i : Nat) (o : Op) (c : Copy), o ∈ t.ops → o.kind = .copy c → o.id = i →
    ∃ x ∈ (t.giveGrant (.copy i)).ops, x.id = i ∧ x.kind = .copy { c with grant := true })

/-! ## Stops, saves and restores -/

/-- R234, R248-R252: causes that no word of the group raised, a halt that the kernel unit asks for, the end of a skid and the
end of the drain. A cause that an engine detects goes to the group whose word it is, with the lane in the engine record. No register
of a thread changes. It rests on the model's own choices or readings of log entries 45 and 68. -/
def Obligations.StopSteps : Prop :=
  (∀ (s : State) (id : Nat) (t : Team), s.evTeam = some (id, t) → s.ev.word = cBudget → s.ev.g < t.groups.length → t.dead = false →
    Happens .asyncCause s fun s' => ∃ u, OnlyTeam s id u s' ∧ u.faultStop = true ∧
      (∀ j, u.causeOf j = (t.causeOf j).map fun c => if j = s.ev.g then c ||| cBudget else c) ∧
      (∀ j l, u.thread j l = t.thread j l) ∧ u.pageAsync = t.pageAsync ∧
      u.st = (if t.st = .running ∨ t.st = .yielding then .halting else t.st)) ∧
  (∀ (s : State) (id : Nat) (t : Team) (o : Op) (c : Copy) (k : Word) (g : Group), s.Flying id t o → o.kind = .copy c →
    t.dead = false → s.copyErr id t o c = some k → s.ev.word = cEngine ||| k → t.groups[o.g]? = some g →
    Happens .asyncCause s fun s' => s' = { s with teams := s'.teams } ∧ ∃ u h, s'.teams.look id = some u ∧ u.faultStop = true ∧
      u.ops = t.ops.filter (fun x => x.id != o.id) ∧ u.groups[o.g]? = some h ∧ h.cause = g.cause ||| cEngine ||| k ∧
      h.engRec = (if g.engRec.valid = true then g.engRec else ⟨o.op10, c.lane, true, o.pc⟩) ∧
      (∀ j, j ≠ o.g → u.causeOf j = t.causeOf j) ∧
      (∀ j l, (u.thread j l).map (fun th => { th with f := [] }) = (t.thread j l).map fun th => { th with f := [] }) ∧
      (u.pageAsync = true ↔ t.pageAsync = true ∨ anyBit (cEngine ||| k) (cPage ||| cProt) = true) ∧
      ∀ n ∈ c.granules, ∀ x, s'.teams.look n.1 = some x → n.2 ∉ x.owner) ∧
  (∀ (s : State) (id : Nat) (t : Team) (o : MOp) (bf mac half cols stride addr : Nat), s.evM = some (id, t, o) → t.dead = false →
    s.ev.word = cMatrix → o.kind = .mldb bf mac half cols stride addr → t.loadMacro bf half cols stride addr = none →
    Happens .asyncCause s (s.MatrixDone id o ((t.withMx fun m =>
      { m with macros := m.macros.modify mac fun k => { k with poisoned := true } }).asyncCause o.g cMatrix
        (some ⟨o.op10, o.lane, true, o.pc⟩)))) ∧
  (∀ (s : State) (id : Nat) (t : Team), s.evTeam = some (id, t) → (t.st = .running ∨ t.st = .yielding) →
    Happens .haltRequest s fun s' => ∃ u, OnlyTeam s id u s' ∧ u.st = .halting ∧ u.faultStop = true ∧
      (∀ j l, u.thread j l = t.thread j l) ∧ (∀ j, u.causeOf j = t.causeOf j) ∧
      ∀ g ∈ u.groups, g.halted = false ∧ g.initiator = false ∧ g.exempt = false ∧ g.skid = 0) ∧
  (∀ (s : State) (id : Nat) (t : Team) (g : Group), s.evTeam = some (id, t) → t.st = .halting → t.groups[s.ev.g]? = some g →
    g.halted = false →
    Happens .skidLimit s fun s' => ∃ u h, OnlyTeam s id u s' ∧ u = { t with groups := u.groups, st := u.st } ∧
      u.st = (if ∀ x ∈ u.groups, x.halted = true then .draining else .halting) ∧
      (∀ j, j ≠ s.ev.g → u.groups[j]? = t.groups[j]?) ∧ u.groups[s.ev.g]? = some h ∧
      h = { g with threads := h.threads, cause := h.cause, pct := List.replicate 16 none, queue := [], joining := [],
                   halted := true } ∧
      h.cause = g.cause ||| (if g.initiator = true ∨ g.exempt = true then 0 else cHalt) ∧
      ∀ l, h.threads.look l = (g.threads.look l).map Thread.stopsHere) ∧
  (∀ (s : State) (id : Nat) (t : Team), s.evTeam = some (id, t) → t.st = .draining → t.drained = true → t.dead = false →
    t.hasStopping = false →
    Happens .stopComplete s fun s' => OnlyTeam s id { t with st := .saving, steal := none } s' ∧ s'.draws = s.draws)

/-- R252, R253, R257, R266, R367, R368: a team with a stopping cause is Stopped, or is to be saved whole where a deschedule is
pending, its frame as it stood, and its fault message enters its context's fault endpoint: kind, causes, groups, initiators, team
and cluster. It rests on the model's own choices or
readings of log entries 37 and 76. -/
def Obligations.FaultMessages : Prop :=
  (∀ (s : State) (id : Nat) (t : Team), s.evTeam = some (id, t) → t.st = .draining → t.drained = true → t.dead = false →
    t.hasStopping = true → (∀ p ∈ s.sessions, p.2.team = id → p.2.st ≠ .opened) →
    Happens .stopComplete s fun s' => s'.mem = s.mem ∧ ∃ u, s'.teams.look id = some u ∧
      u = { t with st := u.st, whole := u.whole, steal := none, message := u.message } ∧
      (t.desched = false → u.st = .stopped ∧ u.whole = t.whole) ∧ (t.desched = true → u.st = .saving ∧ u.whole = true)) ∧
  (∀ (s : State) (id : Nat) (t : Team) (e : Nat) (x : Endpoint), s.evTeam = some (id, t) → t.st = .draining →
    t.drained = true → t.dead = false → t.hasStopping = true → (∀ p ∈ s.sessions, p.2.team = id → p.2.st ≠ .opened) →
    t.message = none → s.faultEp t.ctx = some e → s.eps.look e = some x → x.takers = [] → (s.newObj 13 none).isSome = true →
    t.pageStop = none →
    Happens .stopComplete s fun s' => ∃ y m a u, s'.eps.look e = some y ∧ m ∈ y.kq ∧
      m.words = [1, t.causes, BitVec.ofNat 32 (boolsNat (t.groups.map fun g => anyBit g.cause stoppingMask)),
        BitVec.ofNat 32 (boolsNat (t.groups.map (·.initiator))), BitVec.ofNat 32 t.idx, BitVec.ofNat 32 t.cluster, 0, 0] ∧
      m.kind = 1 ∧ m.src = id ∧ m.ans = some a ∧ s'.teams.look id = some u ∧ u.message = some a) ∧
  (∀ (s : State) (id : Nat) (t : Team) (f : PageFault), t.pageStop = some f →
    ((s.faultMsg id t).1.words = [2, t.causes, BitVec.ofNat 32 (boolsNat (t.groups.map fun g => anyBit g.cause stoppingMask)),
        BitVec.ofNat 32 (boolsNat (t.groups.map (·.initiator))), BitVec.ofNat 32 f.addr, BitVec.ofNat 32 (f.addr / 2 ^ 32), 0,
        BitVec.ofNat 32 (f.kind + 16 * f.level)]) ∧
    ∀ x, s.spaces.look f.space = some x → (s.faultMsg id t).2 = x.owner)

/-- R260, R261, R265: deschedules, the debt of a team that does not yield, and the rounds of a cut. It rests on the
model's own choices or readings of log entries 70, 72, 73, 74 and 176. -/
def Obligations.DescheduleSteps : Prop :=
  (∀ (s : State) (id : Nat) (t : Team), s.evTeam = some (id, t) → t.dead = false →
    Happens .descheduleRequest s (s.Descheduling id t)) ∧
  (∀ (s : State) (id : Nat) (t : Team), s.evTeam = some (id, t) → s.inDebt t s.evCycle = true →
    (∀ p ∈ s.ctxs, p.2.cutting = false) →
    Happens .yieldDebt s fun s' => ∃ u, OnlyTeam s id u s' ∧ u.st = .halting ∧ u.whole = true ∧ u.cut = false ∧
      (∀ j l, u.thread j l = t.thread j l) ∧ (∀ g ∈ u.groups, g.exempt = true ∧ g.initiator = false ∧ g.halted = false) ∧
      ∀ j g, t.groups[j]? = some g → u.causeOf j = some (if ∃ p ∈ g.threads, p.2.st = .active ∧
        (∀ a b c d e, p.2.await ≠ some (.yield a b c d e)) then g.cause ||| cYieldDebt else g.cause)) ∧
  (∀ (s : State) (c : Ctx) (m : BitVec 16), s.Cutting c →
    (∀ p ∈ s.cutTeams s.ev.id, ∀ q ∈ p.2.allThreads, q.2.2.atYield = true ∧ q.2.2.step = m) →
    Happens .cutRound s fun s' => s' = { s with teams := s'.teams, ctxs := s'.ctxs } ∧
      (∀ n x, (n, x) ∈ s.cutTeams s.ev.id → s'.teams.look n = some (x.cutAt m)) ∧
      ∀ n, (∀ x, (n, x) ∉ s.cutTeams s.ev.id) → s'.teams.look n = s.teams.look n) ∧
  (∀ (s : State) (c : Ctx) (m : BitVec 16), s.Cutting c →
    (∀ p ∈ s.cutTeams s.ev.id, ∀ q ∈ p.2.allThreads, q.2.2.atYield = true → q.2.2.step = m) →
    (∃ p ∈ s.cutTeams s.ev.id, ∃ q ∈ p.2.allThreads, q.2.2.st = .parked) →
    Happens .cutRound s fun s' => s' = { s with teams := s'.teams, ctxs := s'.ctxs } ∧
      s'.ctxs.look s.ev.id = some { c with cutFailed := true, cutStep := m } ∧
      (∀ n x, (n, x) ∈ s.cutTeams s.ev.id → s'.teams.look n = some { x with cut := false }) ∧
      ∀ n, (∀ x, (n, x) ∉ s.cutTeams s.ev.id) → s'.teams.look n = s.teams.look n) ∧
  (∀ (s : State) (c : Ctx) (m : BitVec 16), s.Cutting c → s.largestStep s.ev.id = some m →
    (∃ p ∈ s.cutTeams s.ev.id, p.2.core.isSome = true ∧ ∃ q ∈ p.2.allThreads, q.2.2.atYield = true ∧ q.2.2.step ≠ m) →
    (∀ p ∈ s.cutTeams s.ev.id, p.2.core.isSome = true → p.2.st ≠ .yielding →
      ∀ q ∈ p.2.allThreads, q.2.2.st = .parked ∨ q.2.2.step = m) →
    Happens .cutRound s fun s' => s' = { s with teams := s'.teams, ctxs := s'.ctxs } ∧
      s'.ctxs.look s.ev.id = some { c with cutStep := m, cutRound := true } ∧
      (∀ n x, (n, x) ∈ s.cutTeams s.ev.id → x.core.isSome = true → x.st = .yielding → ∃ y, s'.teams.look n = some y ∧
        y = { x with groups := y.groups, deschedAt := y.deschedAt } ∧
        ∀ j l th, x.thread j l = some th → ∃ k, y.thread j l = some k ∧ k.bare =
          (if stepPast th.step m = true ∨ th.atYield = false then th
           else { th with st := .active, stopKind := 0, pc := th.pc + 32, words := 0, block := none }).bare) ∧
      ∀ n, (∀ x, (n, x) ∈ s.cutTeams s.ev.id → x.core = none ∨ x.st ≠ .yielding) → s'.teams.look n = s.teams.look n)

/-- R260, R263, R264, R266: a team is saved: its core is free and no endpoint holds its threads; at a yield every live
register and granule is kept, and a team saved whole keeps everything that the frame shows. It rests on the model's own
choices or readings of log entries 71 and 173. -/
def Obligations.TeamsSaved : Prop :=
  (∀ (s : State) (id : Nat) (t : Team), s.evTeam = some (id, t) → (t.st = .saving ∨ (t.st = .stopped ∧ t.desched = true)) →
    (∀ m ∈ t.cluster_ id, ∀ u, s.teams.look m = some u → u.saves = true) → t.dead = false → t.cut = false →
    Happens .teamSave s fun s' => s'.teams.look id = some
        ({ t with groups := t.groups.map fun (g : Group) => g.mapThreads fun _ th => th.leavesLine }.saved s.draws) ∧
      (∀ n, n ≠ id → s'.teams.look n = s.teams.look n) ∧ s'.mem = s.mem ∧
      (∀ c, t.core = some c → (s'.core c).team = none) ∧
      ∀ e x, s'.eps.look e = some x → (∀ w ∈ x.takers, w.team ≠ id) ∧ ∀ w ∈ x.posters, w.team ≠ id) ∧
  (∀ (t : Team) (d : Nat), (t.whole = true ∨ t.st = .stopped) →
    (t.saved d).groups = t.groups ∧ (t.saved d).sp = t.sp ∧ (t.saved d).spTags = t.spTags) ∧
  (∀ (t : Team) (d j l : Nat) (th : Thread) (b : DWord × DWord × DWord), t.whole = false → t.st ≠ .stopped →
    t.thread j l = some th → th.atYield = true → th.block = some b →
    ∃ k, (t.saved d).thread j l = some k ∧ k.pc = th.pc ∧ k.p = th.p ∧ k.fps = th.fps ∧ k.x = th.x ∧
      (∀ n, liveV b n = true → k.rdV n = th.rdV n) ∧
      ∀ i, liveGranule b i = true → ∀ a, a / 1024 = i → Memory.byte (t.saved d).sp a = Memory.byte t.sp a)

/-- R16, R258, R267, R268, R325, R386: the saved teams of a cluster come back together, each on its core of the rectangle, with
PREEMPT in every group; a team runs unless a stopping cause is set. Where no message and no answer waits, its registers
are as they were saved, and the threads that stood at a yield are past it. It rests on the model's own choices or
readings of log entries 75, 77 and 174. -/
def Obligations.TeamsRestored : Prop :=
  (∀ (s : State) (ts : List (Nat × Team)) (t : Team), s.Returns ts t →
    Happens .teamRestore s fun s' =>
      (∀ n x, (n, x) ∈ ts →
        let c := rectCore s.ev.core2 t.cw t.ch x.idx
        (s'.core c).team = some n ∧ (s'.core c).world = x.world ∧ ∃ u, s'.teams.look n = some u ∧ u.core = some c ∧
          u.st = (if x.hasStopping = true then .stopped else .running) ∧
          ∀ j, u.causeOf j = (x.causeOf j).map fun w => w ||| cPreempt) ∧
      ∀ n, (∀ x, (n, x) ∉ ts) → (s'.teams.look n).map (fun x => (x.core, x.st)) =
        (s.teams.look n).map fun x => (x.core, x.st)) ∧
  ∀ (s : State) (id : Nat) (t : Team) (c : CoreId), s.Restorable id t c → s.eps = [] → s.answers = [] →
    Happens .teamRestore s fun s' => s'.mem = s.mem ∧ (∀ n, n ≠ id → s'.teams.look n = s.teams.look n) ∧
      (s'.core c).team = some id ∧ (s'.core c).world = t.world ∧
      ∃ u, s'.teams.look id = some u ∧ u.core = some c ∧ u.st = (if t.hasStopping = true then .stopped else .running) ∧
        (∀ j, u.causeOf j = (t.causeOf j).map fun w => w ||| cPreempt) ∧
        ∀ j l th, t.thread j l = some th → ∃ k, u.thread j l = some k ∧ k.v = th.v ∧ k.p = th.p ∧ k.x = th.x ∧ k.fps = th.fps ∧
          k.pc = (if th.atYield = true ∧ t.whole = false then th.pc + 32 else th.pc)

/-! ## Launches, budgets and the kernel unit -/

/-- R278, R280-R284, R327, R343, R388: launches are accepted, ready and placed; the teams of a cluster of any shape start with the
registers of R278, and follow the external writes that the words which made their launch ready stand for; a team that completes
leaves its core, its save slot and its place in the object table, and its done word counts it. It
rests on the model's own choices or readings of log entries 49, 64, 85, 86, 133, 134 and 149. -/
def Obligations.LaunchSteps : Prop :=
  (∀ (s : State) (l : Launch), s.launches.look s.ev.id = some l → l.accepted = false → NMap.rising s.teams = true →
    s.doneMay (s.doneLoc l) = true →
    Happens .launchAcceptance s fun s' =>
      s'.launches.look s.ev.id = some { l with accepted := true, turn := s.accepted } ∧ s'.accepted = s.accepted + 1 ∧
      (∀ c, s.ctxs.look l.ctx = some c → s'.ctxs.look l.ctx = some (c.measure l)) ∧
      (∀ n t o, s.teams.look n = some t →
        t.ops.find? (fun o => match o.kind with | .launch ids => ids.contains s.ev.id | _ => false) = some o →
        s'.teams.look n = some (t.endOp o)) ∧
      (l.done = none → s'.mem = s.mem) ∧
      ∀ c pa, l.done = some c → Memory.wf s.mem = true →
        s.partAccess l.ctx 0 c (pLD ||| pST) 8 (needA .evpub) = .ok (.mem pa) →
        MemoryAfter s.mem pa (numBytes (arrWord (arrGen (wordOfBytes (s.viewBytes 9 pa 8))) l.doneTarget 0) 8) s'.mem) ∧
  (∀ (c : Ctx) (l : Launch) (e : List Byte), l.digest = some e → c.measured.contains l.code.code.bits = false →
    (c.measure l).meas = sha384 (c.meas ++ e) ∧ (c.measure l).events = c.events + 1) ∧
  (∀ (s : State) (l : Launch) (locs : List Loc), s.launches.look s.ev.id = some l → l.accepted = true → l.ready = false →
    locs.length = l.waits.length →
    (∀ (k : Nat) (w : Cap × Nat), l.waits[k]? = some w → ∃ loc bs, locs[k]? = some loc ∧
      s.partAccess l.ctx 0 w.1 pLD 8 { needR with nr := true } = .ok loc ∧ s.readLoc 0 loc 8 (16 * k) = .ok bs ∧
      genReached (wordOfBytes bs) (BitVec.ofNat 32 w.2) = true) →
    let x := launchEvent s.ev.id locs
    (∀ r ∈ s.extReads 9 x, s.coh.invPending 9 r.1 r.2 = false) → s.allowed 9 false x = true →
    Happens .launchReady s fun s' => s'.mem = s.mem ∧ s'.tags = s.tags ∧ s'.teams = s.teams ∧
      ∃ k, s'.launches.look s.ev.id = some k ∧ k = { l with ready := true, gates := k.gates } ∧
        ∀ y, y ∈ k.gates ↔ ∃ r ∈ s.extReads 9 x, y = .ext r.1 r.2) ∧
  (∀ (s : State) (l : Launch), s.launches.look s.ev.id = some l → s.waiting l = true →
    (s.worldOk l.world = false → NMap.rising s.launches = true →
      Happens .clusterPlacement s fun s' => s' = { s with launches := s'.launches } ∧ s'.launches.look s.ev.id = none) ∧
    (∀ ids pas s1, s.worldOk l.world = true → s.fitsAt l s.ev.core2 = true →
      (∀ p ∈ s.launches, s.servedFirst p.2 l = true → s.placeable p.2 = false) → s.provide l = some (ids, pas, s1) →
      Happens .clusterPlacement s fun s' =>
        s' = { s1.startTeams l s.ev.core2 ids pas with launches := s'.launches, turns := s.turns.put (s.launchPrio l) l.turn } ∧
        (l.placed + 1 < l.gx * l.gy → ∃ k, s'.launches.look l.id = some k ∧ k.placed = l.placed + 1))) ∧
  (∀ (s : State) (l : Launch) (nw : CoreId) (ids pas : List Nat), ids.length = l.cw * l.ch → pas.length = l.cw * l.ch → ids.Nodup →
    (∀ j k, j < l.cw * l.ch → k < l.cw * l.ch → j ≠ k → coreNo (rectCore nw l.cw l.ch j) ≠ coreNo (rectCore nw l.cw l.ch k)) →
    let s' := s.startTeams l nw ids pas
    (∀ k i pa, ids[k]? = some i → pas[k]? = some pa →
      let c := rectCore nw l.cw l.ch k
      (s'.core c).team = some i ∧ (s'.core c).world = l.world ∧
      s'.teams.look i = some { (l.team l.placed k ids c (s.core c).cycle pa).clean (s.covered l.ctx) with
        epoch := (s.slotOf l.world).epoch }) ∧
    ∀ n, n ∉ ids → s'.teams.look n = s.teams.look n) ∧
  (∀ (l : Launch) (n i : Nat) (ids : List Nat) (c : CoreId) (cyc pa g : Nat), g < l.groups →
    ∃ h, (l.team n i ids c cyc pa).groups[g]? = some h ∧
      (∀ lane, lane < widthOf c → ∃ th, h.threads.look lane = some th ∧ th.st = .active ∧
        th.pc = l.code.addr + BitVec.ofNat 64 l.entry ∧ (∀ k, th.rdV k = 0) ∧ (∀ k, flagAt th.f k = false) ∧
        th.gates = l.gates) ∧
      (∀ lane, widthOf c ≤ lane → h.threads.look lane = none) ∧
      (∃ k0, h.k[0]? = some k0 ∧ k0.tag = true ∧ k0.space = 1 ∧ k0.addr = 0 ∧ k0.perms = pSpad ∧
        k0.decode = (0, 65536 * (l.carve.toNat / 4096 % 64))) ∧
      (1 ≤ l.cw * l.ch → l.cw * l.ch ≤ 120 → i < l.cw * l.ch → ∃ k2, h.k[2]? = some k2 ∧ k2.tag = true ∧ k2.space = 2 ∧
        k2.addr = BitVec.ofNat 64 (i * 2 ^ 22) ∧ k2.perms = pSpad ∧ k2.decode = (0, l.cw * l.ch * 2 ^ 22)) ∧
      h.k[1]? = some l.arg ∧ h.k[3]? = some (l.code.move (l.code.addr + BitVec.ofNat 64 l.entry)) ∧
      h.s[0]? = some (BitVec.ofNat 32 i) ∧ h.s[1]? = some (BitVec.ofNat 32 (n % l.gx + 65536 * (n / l.gx))) ∧
      h.s[2]? = some (BitVec.ofNat 32 n) ∧ h.s[3]? = some (BitVec.ofNat 32 (l.gx + 65536 * l.gy))) ∧
  (∀ (s : State) (id : Nat) (t : Team), s.evTeam = some (id, t) → s.completes t = true → t.dead = false →
    NMap.rising s.teams = true → (∀ p ∈ s.sessions, p.2.team = id → p.2.st ≠ .opened) → t.message = none →
    (∀ c, t.doneCap = some c → s.publishMay (s.spaceOf t.ctx) (s.covered t.ctx c) c = true) →
    Happens .teamCompletion s fun s' => s'.teams.look id = none ∧ (∀ c, t.core = some c → (s'.core c).team = none) ∧
      s'.genOf id = s.genOf id + 1 ∧
      (∀ c x, s.ctxs.look t.ctx = some c → x ∈ c.slots → x.pa = t.slotPa →
        ∃ d, s'.ctxs.look t.ctx = some d ∧ ∃ y ∈ d.slots, y.pa = t.slotPa ∧ y.busy = false) ∧
      (t.doneCap = none → s'.mem = s.mem) ∧
      ∀ c pa, t.doneCap = some c → Memory.wf s.mem = true →
        s.partAccess t.ctx 0 c (pLD ||| pST) 8 (needA .evpub) = .ok (.mem pa) →
        MemoryAfter s.mem pa (numBytes (eventAfter (wordOfBytes (s.viewBytes 9 pa 8)) 1) 8) s'.mem)

/-- R360-R362: a core's window of 2^20 cycles ends, what was charged past the allowance that the share of its beginning
gave counts against the next one, and a changed share counts from then on; a team whose allowance is spent, or whose
core is claimed, is to be descheduled. It rests on the model's own choices or readings of log entry 120. -/
def Obligations.BudgetsAndClaims : Prop :=
  (∀ (s : State), (s.core s.ev.core).window < s.evCycle / 2 ^ 20 → NMap.rising s.scheds = true →
    Happens .budgetWindow s fun s' => (s'.core s.ev.core).window = s.evCycle / 2 ^ 20 ∧
      (s'.core s.ev.core).charged = [] ∧ (s'.core s.ev.core).shares = [] ∧ s' = { s with cores := s'.cores } ∧
      (s'.core s.ev.core).cycle = s.evCycle ∧ (s'.core s.ev.core).team = (s.core s.ev.core).team ∧
      ∀ x y, s.scheds.look x = some y → ((s'.core s.ev.core).debt.look x).getD 0 =
        s.charge (s.core s.ev.core) x (s.scheds.length + 1) + ((s.core s.ev.core).debt.look x).getD 0 -
          16 * ((s.core s.ev.core).shares.look x).getD y.share) ∧
  (∀ (s : State) (id : Nat) (t : Team), s.evTeam = some (id, t) → s.spentSched (s.core s.ev.core) t = some s.ev.id →
    Happens .allowanceReached s (s.Descheduling id t)) ∧
  (∀ (s : State) (id : Nat) (t : Team) (k : Claimant), s.evTeam = some (id, t) → s.claimant = some k →
    s.canTake k s.ev.core = true → t.dead = false →
    (s.schedPrio k.sched < s.prioOf t →
      Happens .priorityClaim s (s.Descheduling id t)) ∧
    (t.desched = true → s.chainAllows (s.core s.ev.core) (s.scheds.length + 1) t.sched = false →
      Happens .priorityClaim s (s.Descheduling id t)) ∧
    (k.launch ≠ t.launch → s.schedPrio k.sched = s.prioOf t → k.placeable = false → t.placedAt + 2 ^ 17 ≤ s.evCycle →
      Happens .equalPriorityHoldLimit s (s.Descheduling id t)))

/-- R352, R356, R357, R365, R370: a line that is signalled tells its endpoint, or keeps the signal until it is
acknowledged; stops, kills and unmaps complete, and the words that wait for them get their outcomes. It rests on the
model's own choices or readings of log entries 57 and 79. -/
def Obligations.KernelUnitSteps : Prop :=
  (∀ (s : State) (i : Nat) (x : Line), s.lines.find? (fun p => p.2.number == s.ev.id) = some (i, x) →
    (x.st = .unbound → Happens .interruptSignal s fun s' => s' = s) ∧
    (∀ b, x.st = .awaiting b → Happens .interruptSignal s fun s' => s' = { s with lines := s'.lines } ∧
      s'.lines.look i = some { x with st := .awaiting true, status := s.ev.word }) ∧
    (∀ e, x.st = .armed → x.ep = some e → s.genOf e = x.epGen → s.quietEp e → Happens .interruptSignal s fun s' =>
      s'.lines.look i = some { x with st := .awaiting false, status := s.ev.word } ∧
      s'.tellsEp e fun m => m.kind = 4 ∧ m.words.take 3 = [4, BitVec.ofNat 32 x.number, s.ev.word]) ∧
    (∀ e, x.st = .armed → x.ep = some e → s.genOf e ≠ x.epGen → Happens .interruptSignal s fun s' =>
      s' = { s with lines := s'.lines } ∧ s'.lines.look i = some { x with st := .awaiting false, status := s.ev.word })) ∧
  (∀ (s : State) (c : Ctx), s.ctxs.look s.ev.id = some c → s.stopDue s.ev.id c = true →
    (∀ n t, (n, t) ∈ s.teams → t.ctx ∈ s.subtree s.ev.id → ∀ u, s.teams.look n = some u → u.core = none ∨ u.dead = true) →
    Happens .ctxstopComplete s fun s' =>
      (∀ k x, k ∈ s.subtree s.ev.id → s.ctxs.look k = some x → x.st = .stopping → ∃ y, s'.ctxs.look k = some y ∧
        y = { x with st := .stopped, cutStep := y.cutStep, cutFailed := y.cutFailed } ∧
        (x.cut = false → y.cutStep = x.cutStep ∧ y.cutFailed = x.cutFailed)) ∧
      (∀ k x, k ∈ s.subtree s.ev.id → s.ctxs.look k = some x → x.st = .degraded → ∃ y, s'.ctxs.look k = some y ∧
        y = { x with cut := false, cutStep := y.cutStep, cutFailed := y.cutFailed }) ∧
      (∀ k, k ∉ s.subtree s.ev.id → s'.ctxs.look k = s.ctxs.look k) ∧
      ∀ n t o marks dst, s.teams.look n = some t → o ∈ t.ops → o.op10 = 0x309 → o.kind = .kernel s.ev.id marks dst →
        ∃ u, s'.teams.look n = some u ∧ u.lands o) ∧
  (∀ (s : State) (c : Ctx), s.ctxs.look s.ev.id = some c → c.st = .dead → s.killed (s.subtree s.ev.id) = true →
    NMap.rising s.ctxs = true → NMap.rising s.teams = true →
    Happens .ctxkillComplete s fun s' => (∀ k ∈ s.subtree s.ev.id, s'.ctxs.look k = none) ∧
      (∀ n t, s.teams.look n = some t → t.ctx ∈ s.subtree s.ev.id → s'.teams.look n = none) ∧
      ∀ n t o marks dst, s.teams.look n = some t → t.ctx ∉ s.subtree s.ev.id → o ∈ t.ops → o.op10 = 0x30A →
        o.kind = .kernel s.ev.id marks dst → ∃ u, s'.teams.look n = some u ∧ u.lands o) ∧
  (∀ (s : State), (∃ p ∈ s.teams, ∃ o ∈ p.2.ops, ∃ marks dst, o.op10 = 0x30D ∧ o.kind = .kernel s.ev.id marks dst ∧
      s.marksDone marks = true) →
    Happens .asunmapComplete s fun s' => s' = { s with teams := s'.teams } ∧ ∀ n, s'.teams.look n =
      (s.teams.look n).map fun t => { t with ops := t.ops.map fun o =>
        match o.kind with
        | .kernel _ marks _ => if s.marksDone marks = true then Op.outcome 0x30D s.ev.id kOk o else o
        | _ => o })

/-- R343, R350, R357, R372-R375: a filter entry that is active covers what it names; the pass takes the tags of what it covers from
memory, from copies that differ from it, and from every register of a team, the capability registers of its groups too; that of a
reserve destroys what was made from it; a revocation that is over leaves the filter and tells whom it was to tell. It rests
on the model's own choices or readings of log entries 38, 66, 78, 79, 87 and 159. -/
def Obligations.RevocationSteps : Prop :=
  (∀ (s : State) (r : Revocation), s.rev s.ev.n = some r → r.active = false →
    Happens .filterActivation s fun s' => s' = { s with revs := s'.revs, teams := s'.teams } ∧
      s'.rev s.ev.n = some { r with active := true } ∧
      (∀ n, s'.teams.look n = (s.teams.look n).map fun t => { t with ops := t.ops.map (Op.outcome 0x30F r.seq kOk) }) ∧
      ∀ ctx c, c.tag = true → s.coveredBy r ctx c = true → s'.covered ctx c = true) ∧
  (∀ (s : State) (r : Revocation) (rest : List Revocation) (sp lo hi : Nat), s.revs = r :: rest → r.seq = s.ev.n →
    r.active = true → r.swept = false → r.what = .range sp lo hi → NMap.rising s.teams = true →
    (∀ p ∈ s.teams, ∀ o ∈ p.2.ops, o.hit (s.coveredBy r p.2.ctx) = false) →
    let s0 := (s.sweepKernel r).showSlots
    Happens .furlongPass s fun s' => s'.mem = s.mem ∧ (∀ g, g ∈ s'.tags ↔ g ∈ s0.tags ∧ s0.sweeps r g = false) ∧
      (∃ x, s'.rev r.seq = some x ∧ x.swept = true) ∧
      (∀ key d, s'.coh.stale.look key = some d → ∃ e, s0.coh.stale.look key = some e ∧ d.bytes = e.bytes ∧
        ∀ q, flagAt d.tags q = true ↔ flagAt e.tags q = true ∧
          s0.sweepsCap r (4 * (key / 10) + q) (capOfBytes ((e.bytes.drop (16 * q)).take 16) true) = false) ∧
      ∀ n t, s.teams.look n = some t → ∃ u, s'.teams.look n = some u ∧
        (∀ (j : Nat) (g : Group) (c : Cap), u.groups[j]? = some g → c ∈ g.k → c.tag = true → s.coveredBy r t.ctx c = false) ∧
        ∀ j l k, u.thread j l = some k → ∀ m, m < k.vtag.length → flagAt k.vtag m = true →
          s.coveredBy r t.ctx (k.quad m) = false) ∧
  (∀ (s : State) (r : Revocation) (rest : List Revocation) (o : Nat) (x : Reserve), s.revs = r :: rest → r.seq = s.ev.n →
    r.active = true → r.swept = false → r.what = .reserve o → NMap.rising s.teams = true → NMap.rising s.ctxs = true →
    (∀ p ∈ s.teams, ∀ q ∈ p.2.ops, q.hit (s.coveredBy r p.2.ctx) = false) → s.reserves.look o = some x →
    (∀ p ∈ s.offspring o, p.1 ≠ o) →
    Happens .furlongPass s fun s' => (∃ y, s'.rev r.seq = some y ∧ y.swept = true) ∧
      (∃ y, s'.reserves.look o = some y ∧ y.used = []) ∧
      ∀ p ∈ s.offspring o, (p.2.otype = 1 → ∀ c, s.ctxs.look p.1 = some c → ∃ d, s'.ctxs.look p.1 = some d ∧ d.st = .dead) ∧
        (p.2.otype = 3 → s'.eps.look p.1 = none) ∧ (p.2.otype = 2 → s'.spaces.look p.1 = none)) ∧
  (∀ (s : State) (r : Revocation) (rest : List Revocation), s.revs = r :: rest → r.seq = s.ev.n → r.swept = true →
    (∀ p ∈ s.regs, p.2.withdrawing = true → s.regHit r p.2 = false) →
    (∀ p ∈ s.teams, p.2.dead = true → p.2.ops = []) →
    (r.notify = none → Happens .revocationComplete s fun s' => s' = { s with revs := rest }) ∧
    (∀ c, r.notify = some c → c.space = 3 → c.tag = true → s.live c = true →
      s.quietEp c.objIndex → Happens .revocationComplete s fun s' => s'.revs = rest ∧
        s'.tellsEp c.objIndex fun m => m.kind = 5 ∧ m.words = [5, BitVec.ofNat 32 r.seq, BitVec.ofNat 32 (4096 * r.pages),
          BitVec.ofNat 32 (4096 * r.pages / 2 ^ 32), 0, 0, 0, 0]))

/-! ## Troy, keys, retirement and coherence -/

/-- R385, R386, R391, R394-R396: a session takes the bytes of an absorb in order and is sealed once all are read; a read or a
record write that fails voids it; an absorb of a session that is over is nothing to the session that has its object now; a
slot is armed, destroyed and queried, and what was stored under destroyed keys is read no more. It rests on the model's
own choices or readings of log entries 58, 89 and 90. -/
def Obligations.TroyAndKeys : Prop :=
  (∀ (s : State) (id : Nat) (t : Team) (o : Op) (k n : Nat) (gen : BitVec 32) (d : Side) (gs : List (Nat × Nat)),
    s.Flying id t o → o.kind = .absorb k gen d n gs →
    (∀ e ∈ t.ops, e.id < o.id → ∀ y d' n' gs', e.kind ≠ .absorb k y d' n' gs') → s.granulesQuiet gs = true →
    s.inOrder t o o.lanes = true →
    (∀ x bs, s.genOf k = gen → s.sessions.look k = some x → s.absorbBytes id t d o.scope x.slot n = .ok bs →
      Happens .absorbComplete s fun s' => s'.mem = s.mem ∧ s'.tags = s.tags ∧
        s'.sessions.look k = some { x with data := x.data ++ bs } ∧
        (∀ j, j ≠ k → s'.sessions.look j = s.sessions.look j) ∧
        (∃ u, s'.teams.look id = some u ∧ u.ops = t.ops.filter fun y => y.id != o.id) ∧
        ∀ g ∈ gs, ∀ u, s'.teams.look g.1 = some u → g.2 ∉ u.owner) ∧
    (∀ x e, s.genOf k = gen → s.sessions.look k = some x → x.st = .opened → s.absorbBytes id t d o.scope x.slot n = .error e →
      e.waits = false →
      Happens .absorbComplete s fun s' => s'.sessions.look k = some { x with st := .void } ∧ s'.genOf k = s.genOf k + 1 ∧
        ∃ u, s'.teams.look id = some u ∧ u.ops.any (fun y => y.id == o.id) = false ∧
          u.causeOf o.g = (t.causeOf o.g).map fun c => c ||| cEngine ||| e.cause) ∧
    (s.genOf k ≠ gen ∨ s.sessions.look k = none →
      Happens .absorbComplete s fun s' => s' = { s with teams := s'.teams } ∧
        (∃ u, s'.teams.look id = some u ∧ u.ops = t.ops.filter fun y => y.id != o.id) ∧
        ∀ g ∈ gs, ∀ u, s'.teams.look g.1 = some u → g.2 ∉ u.owner)) ∧
  (∀ (s : State) (x : Session), s.sessions.look s.ev.id = some x → x.st = .closing →
    (∀ p ∈ s.teams, ∀ o ∈ p.2.ops, ∀ d n gs, o.kind ≠ .absorb s.ev.id (s.genOf s.ev.id) d n gs) →
    s.recordWaits x.ctx x.slot x.buf 55 0 = none →
    let ends := fun (s1 s' : State) (st : SessSt) (status : Nat) =>
      s'.sessions.look s.ev.id = some { x with st := st } ∧ s'.genOf s.ev.id = s1.genOf s.ev.id + 1 ∧
      ∀ n t o dst, s1.teams.look n = some t → o ∈ t.ops → o.kind = .sealing s.ev.id dst →
        ∃ u, s'.teams.look n = some u ∧ ∃ y ∈ u.ops, y.id = o.id ∧
          y.kind = .land (dst.flatMap fun p => (destUpd p.2 (BitVec.ofNat 32 status)).map fun w => (p.1, w))
    (∀ s1, s.writeRecord x.ctx x.slot x.buf 55 0 (s.sealRecord x 1 0 0) = .ok s1 →
      Happens .sealRecordWrite s fun s' => s'.mem = s1.mem ∧ ends s1 s' .closed 0) ∧
    ∀ s1, s.writeRecord x.ctx x.slot x.buf 55 0 (s.sealRecord x 1 0 0) = .error s1 → s1.sessions.look s.ev.id = some x →
      Happens .sealRecordWrite s fun s' => ends s1 s' .void kState) ∧
  (∀ (s s1 : State) (m : Msg) (w : Nat), s.fwTake 1 (· == 1) = some (m, s1) → s1.reqSlot m = some w → w < s1.slots.length →
    (w ≠ 0 → (s1.slotOf w).st = .empty →
      Happens .keyArm s fun s' => (s'.slotOf w).st = .armed ∧
        s' = (s1.upSlot w fun k => { k with st := .armed, sessions := 0 }).fwReply m.ans [kOk, 1, 0] Cap.zero) ∧
    (w = 0 ∨ (s1.slotOf w).st ≠ .empty →
      Happens .keyArm s fun s' => s' = s1.fwReply m.ans (s1.slotWords w kState) Cap.zero)) ∧
  (∀ (s s1 : State) (m : Msg) (w : Nat), s.fwTake 1 (· == 2) = some (m, s1) → s1.reqSlot m = some w → w ≠ 0 →
    w < s1.slots.length → (s1.slotOf w).st = .armed → (∀ p ∈ s1.sessions, p.2.slot ≠ w) →
    Happens .keyDestroy s fun s' => s' = { s1 with slots := s'.slots } ∧ (s'.slotOf w).st = .destroying ∧
      (s'.slotOf w).reply = m.ans ∧ s'.worldOk w = false) ∧
  (∀ (s : State), s.ev.id < s.slots.length → (s.slotOf s.ev.id).st = .destroying →
    (∀ p ∈ s.teams, s.worldOf p.2 = s.ev.id → ∀ o ∈ p.2.ops, ∀ a ∈ o.accs, ∀ pa, a.loc ≠ .mem pa) →
    s.keyEngaged s.ev.id = false →
    Happens .keyDestruction s fun s' => (s'.slotOf s.ev.id).st = .empty ∧
      (s'.slotOf s.ev.id).epoch = (s.slotOf s.ev.id).epoch + 1 ∧
      ∃ (c : Coherence) (xs : NMap Ctx), s' = ({ s with coh := c, ctxs := xs }.upSlot s.ev.id fun k => { k with st := .empty, epoch := k.epoch + 1, reply := none }).fwReply
          (s.slotOf s.ev.id).reply [kOk, 0, (s.slotOf s.ev.id).sessions] Cap.zero ∧
        s.OnlyCoh { s with coh := c, ctxs := xs } ∧
        (NMap.rising s.coh.l2 = true → ∀ k, c.l2.look k = match s.coh.l2.look k with
          | some x => if x.key = s.ev.id then none else some x
          | none => none) ∧
        ∀ k, (s.core (coreOfNo k)).world = s.ev.id → (∃ x, s.cores.look k = some x) → ∀ p ∈ c.l1, p.1 % 2048 ≠ k) ∧
  (∀ (s : State) (w w' line : Nat), s.modeOf (64 * line) ≠ 0 → s.stamps.look line = some (s.stampOf w) →
    (w ≠ w' → s.lineErr w' line ≠ none) ∧
    ∀ s' : State, s'.modes = s.modes → s'.stamps = s.stamps → (s'.slotOf w).epoch ≠ (s.slotOf w).epoch →
      s'.lineErr w line ≠ none) ∧
  (∀ (s s1 : State) (m : Msg) (w : Nat), s.fwTake 1 (fun n => n != 1 && n != 2) = some (m, s1) → s1.reqSlot m = some w →
    m.words.getD 0 0 = 3 →
    Happens .keyQuery s fun s' =>
      s' = s1.fwReply m.ans [kOk, (s1.slotOf w).st.no, (s1.slotOf w).sessions] Cap.zero) ∧
  (∀ (s s1 : State) (m : Msg), s1.reqSlot m = none →
    (s.fwTake 1 (· == 1) = some (m, s1) → Happens .keyArm s fun s' => s' = s1.fwReply m.ans (s1.badKeyWords m) Cap.zero) ∧
    (s.fwTake 1 (· == 2) = some (m, s1) → Happens .keyDestroy s fun s' => s' = s1.fwReply m.ans (s1.badKeyWords m) Cap.zero) ∧
    (s.fwTake 1 (fun n => n != 1 && n != 2) = some (m, s1) →
      Happens .keyQuery s fun s' => s' = s1.fwReply m.ans (s1.badKeyWords m) Cap.zero))

/-- R371, R444, R449: monitors are read; a retiring core whose team is gone takes a spare, or another core of the root's
set takes its numbers; a channel that no spare row replaces delivers MEMERR, and a reserve that held its units gets
others from the root's, in one run or in several, or contexts are shed. Retirements stand in the remap table. It rests on the
model's own choices or readings of log entries 80, 81, 83, 118 and 157. -/
def Obligations.Retirement : Prop :=
  (∀ (s : State), s.present s.ev.core = true → (s.core s.ev.core).retiring = false →
    (s.ev.flag = false → Happens .ageingMonitorRead s fun s' => s' = s) ∧
    (∀ d, s.ev.flag = true → s.ev.flag2 = true → s.dies[s.ev.core.die]? = some d →
      Happens .ageingMonitorRead s fun s' => s' = { s with dies := s'.dies } ∧
        s'.dies[s.ev.core.die]? = some { d with volt := d.volt + 1 }) ∧
    (s.ev.flag = true → s.ev.flag2 = false → (s.core s.ev.core).team = none →
      Happens .ageingMonitorRead s fun s' => s' = { s with cores := s'.cores } ∧
        s'.core s.ev.core = { s.core s.ev.core with retiring := true }) ∧
    (∀ id t, s.ev.flag = true → s.ev.flag2 = false → s.evTeam = some (id, t) →
      Happens .ageingMonitorRead s fun s' => (s'.core s.ev.core).retiring = true ∧ ∃ u, s'.teams.look id = some u ∧
        (id ∈ t.cluster_ id → u.desched = true))) ∧
  (∀ (s : State) (d : Die), (s.core s.ev.core).retiring = true → (s.core s.ev.core).team = none →
    s.dies[s.ev.core.die]? = some d →
    (0 < d.spares → s.ev.core.die ≠ 9 → Happens .spareRemap s fun s' => s'.core s.ev.core = Core.fresh ∧
      s'.dies[s.ev.core.die]? = some { d with spares := d.spares - 1 } ∧
      s'.remap = s.remap ++ [(s.ev.core.die, s.ev.core.pos)] ∧ s'.csets = s.csets) ∧
    (∀ new, d.spares = 0 ∨ s.ev.core.die = 9 → s.slack (coreNo s.ev.core) (fun _ => true) = some new →
      NMap.rising s.cores = true → Happens .spareRemap s fun s' => s'.cores.look (coreNo s.ev.core) = none ∧
        (∃ x, s'.dies[s.ev.core.die]? = some x ∧ s.ev.core.pos ∈ x.absent) ∧
        ∀ k, s'.csets.look k = (s.csets.look k).map fun c => c.replace (coreNo s.ev.core) new)) ∧
  (∀ (s : State), 0 < s.ev.len → s.available s.ev.addr = true →
    (s.ev.flag = true → Happens .channelRetirement s fun s' => s' =
      { s with errlog := s'.errlog, rows := s.rows ++ [(s.ev.addr, s.ev.len, true)] }) ∧
    let s1 := { s.logEvent 2 [BitVec.ofNat 32 s.ev.addr, BitVec.ofNat 32 (s.ev.addr / 2 ^ 32), BitVec.ofNat 32 s.ev.len] with
      rows := s.rows ++ [(s.ev.addr, s.ev.len, false)], lost := s.lost ++ [(s.ev.addr, s.ev.len)] }
    (∀ line w, s.ev.addr ≤ 64 * line → 64 * line < s.ev.addr + s.ev.len → s1.lineErr w line = some cMemerr) ∧
    ∀ (c : Ctx) (r n : Nat) (x : Reserve), s.ev.flag = false → s.root.bind (s.ctxs.look ·) = some c → NMap.rising s.reserves = true →
      s.reserves.look r = some x → r ≠ c.reserve → s.short r x s.ev.addr s.ev.len = n →
      (∀ p ∈ s.reserves, p.1 = r ∨ p.1 = c.reserve ∨ s.short p.1 p.2 s.ev.addr s.ev.len = 0) →
      (n = 0 → Happens .channelRetirement s fun s' => s' = s1) ∧
      (∀ s2, n ≠ 0 → s1.replaceUnits c.reserve r n = some s2 → Happens .channelRetirement s fun s' => s' = s2) ∧
      ∀ k, n ≠ 0 → s1.replaceUnits c.reserve r n = none → s1.reserveCounts r = true → s1.nextShed = some k →
        (s1.shed k).reserveCounts r = false → Happens .channelRetirement s fun s' => s' = s1.shed k) ∧
  ∀ (s s2 : State) (root r n : Nat) (x : Reserve), r ≠ root → s.reserves.look r = some x → s.replaceUnits root r n = some s2 →
    ∃ ys, s2.reserves.look r = some { x with more := x.more ++ ys } ∧ (ys.map (·.len)).sum = 4096 * n ∧
      s2 = { s with reserves := s2.reserves }

/-- R310, R313-R318, R320, R322, R377, R378, R380, R416: where a page lies and which die is its home; the messages between
dies and homes, the stores that wait for their line, and the reads, writes and AtomicOps of agents outside the dies. A write from
outside changes exactly its bytes, and a die that its INV has not reached reads what it read before; an AtomicOp is one step. It
rests on the model's own choices or readings of log entries 63, 66, 149, 151 and 160. -/
def Obligations.CoherenceSteps : Prop :=
  (∀ pa : Nat, stackOf pa < 12 ∧ pa = 4096 * (12 * (stackOffset pa / 4096) + stackOf pa) + stackOffset pa % 4096 ∧
    homeDie (pa / 64) = pa / 4096 % 9) ∧
  (∀ (s : State) (line : Nat), (s.supply line).2 = !(s.supply line).1.unreadable line ∨ s.unreadable line = true) ∧
  (∀ (s : State) (dies : List Nat), dies.Pairwise (· < ·) → s.ev.die ∈ dies →
    s.lineErr (s.keyOf s.ev.addr) s.ev.addr = none → s.available (64 * s.ev.addr) = true →
    let ready := fun (may : Coherence → Nat → Nat → Bool) => ∀ d, d ∈ dies ↔ d ≤ 9 ∧ (d = s.ev.die ∨ s.ev.n.testBit d = true) ∧
      may s.coh d s.ev.addr = true ∧ s.coh.asking d s.ev.addr = false
    let asks := fun (k : CohKind) (s' : State) =>
      s' = { (s.supply s.ev.addr).1 with coh := s'.coh } ∧
      s'.coh = if (s.supply s.ev.addr).2 = true then dies.foldl (fun c d => c.reach k s.ev.addr d) s.coh else s.coh
    (ready Coherence.lacks → Happens .rds s (asks .rds) ∧ Happens .rdx s (asks .rdx)) ∧
    (ready (fun c die line => c.canRead line die && !c.canWrite line die) → Happens .upg s (asks .upg))) ∧
  (∀ (s : State) (x : L2Line), s.ev.die ≤ 9 → s.coh.l2.look (lineKey s.ev.addr s.ev.die) = some x → x.st ≠ .shared →
    Happens .wb s fun s' => s.OnlyCoh s' ∧ s'.coh =
      ({ s.coh.dropLine s.ev.addr s.ev.die with
        wb := s.coh.wb.put (lineKey s.ev.addr s.ev.die) x.key }).reach .wb s.ev.addr s.ev.die) ∧
  (∀ (c : Coherence) (die line : Nat) (mask : List Nat), c.dir.look line = some (.shared mask) →
    (c.reach .rds line die).flight = c.flight ++ [⟨.data, die, line, 0, none⟩] ∧
    (c.reach .rds line die).dir.look line = some (.shared (addNum mask die)) ∧
    ((∃ d ∈ mask, d ≠ die) →
      (∀ x, x ∈ (c.reach .rdx line die).flight ↔ x ∈ c.flight ∨ ∃ d ∈ mask, d ≠ die ∧ x = ⟨.inv, d, line, 0, none⟩) ∧
      (c.reach .rdx line die).busy line = true) ∧
    ((∀ d ∈ mask, d = die) → (c.reach .rdx line die).dir.look line = some (.exclusive die))) ∧
  (∀ (c : Coherence) (die line o : Nat) (mask : List Nat), c.dir.look line = some (.owned o mask) → die ∈ mask →
    (∃ d ∈ addNum mask o, d ≠ die) →
    (∀ x, x ∈ (c.reach .upg line die).flight ↔ x ∈ c.flight ∨ ∃ d ∈ addNum mask o, d ≠ die ∧ x = ⟨.inv, d, line, 0, none⟩) ∧
    (c.reach .upg line die).busy line = true) ∧
  (∀ (c : Coherence) (die line o : Nat), c.dir.look line = some (.exclusive o) →
    (o = die → (c.reach .wb line die).dir = c.dir.del line ∧ (c.reach .wb line die).behind = c.behind.del line ∧
      (c.reach .wb line die).flight = c.flight ++ [⟨.ack, die, line, 1, none⟩]) ∧
    (o ≠ die → (c.reach .wb line die).dir = c.dir ∧
      (c.reach .wb line die).flight = c.flight ++ [⟨.stale, die, line, 0, none⟩] ∧
      (c.reach .rds line die).flight = c.flight ++ [⟨.fwdS, o, line, die, none⟩] ∧
      (c.reach .rdx line die).flight = c.flight ++ [⟨.fwdX, o, line, die, none⟩])) ∧
  (∀ (s : State) (x : CohFlight), s.ev.die ≤ 9 →
    let key := lineKey s.ev.addr s.ev.die
    (s.coh.arrives .inv s.ev.die s.ev.addr = some x → Happens .inv s fun s' =>
      s.OnlyCoh s' ∧ s'.coh.dir = s.coh.dir ∧ s'.coh.l2 = s.coh.l2.del key ∧
      (∀ p ∈ s'.coh.l1, l1On s.ev.addr s.ev.die p.1 = false) ∧ s'.coh.stale = s.coh.stale.del key ∧
      s'.coh.flight = s.coh.flight.erase x ++ [⟨.ack, s.ev.die, s.ev.addr, if x.ext = none then 0 else 2, none⟩]) ∧
    (s.coh.arrives .fwdS s.ev.die s.ev.addr = some x → Happens .fwdS s fun s' =>
      s.OnlyCoh s' ∧ s'.coh.dir = s.coh.dir ∧
      (∀ y, s.coh.l2.look key = some y → s'.coh.l2.look key = some { y with st := .shared }) ∧
      s'.coh.flight = s.coh.flight.erase x ++ [⟨.data, x.arg, s.ev.addr, 2, none⟩] ++
        [⟨.ack, s.ev.die, s.ev.addr, if s.coh.l2.look key = none then 3 else 0, none⟩]) ∧
    (s.coh.arrives .fwdX s.ev.die s.ev.addr = some x → Happens .fwdX s fun s' =>
      s.OnlyCoh s' ∧ s'.coh.l2 = s.coh.l2.del key ∧
      (∀ p ∈ s'.coh.l1, l1On s.ev.addr s.ev.die p.1 = false) ∧
      s'.coh.flight = s.coh.flight.erase x ++ [⟨.data, x.arg, s.ev.addr, 3, none⟩] ++ [⟨.ack, s.ev.die, s.ev.addr, 0, none⟩]) ∧
    (s.coh.arrives .ack s.ev.die s.ev.addr = some x →
      (x.arg = 1 → Happens .ack s fun s' => s.OnlyCoh s' ∧ s'.coh.wb = s.coh.wb.del key ∧
        s'.coh.dir = s.coh.dir) ∧
      (∀ mask, x.arg = 2 → s.coh.dir.look s.ev.addr = some (.shared mask) → (∃ d ∈ mask, d ≠ s.ev.die) →
        Happens .ack s fun s' => s.OnlyCoh s' ∧
          s'.coh.dir.look s.ev.addr = some (.shared (delNum mask s.ev.die))) ∧
      (x.arg ≠ 1 → x.arg ≠ 2 → Happens .ack s fun s' => s.OnlyCoh s' ∧
        ∀ req k acks prev, s.coh.dir.look s.ev.addr = some (.busy req k acks prev) → s.ev.die ∈ acks →
          (∃ d ∈ acks, d ≠ s.ev.die) →
          s'.coh.dir.look s.ev.addr = some (.busy req k (delNum acks s.ev.die)
            (if x.arg = 3 ∧ prev = some s.ev.die then none else prev)))) ∧
    (s.coh.arrives .stale s.ev.die s.ev.addr = some x → Happens .stale s fun s' =>
      s.OnlyCoh s' ∧ s'.coh.wb = s.coh.wb.del key ∧ s'.coh.dir = s.coh.dir)) ∧
  (∀ (s : State) (x : CohFlight) (e : Instr),
    (e = .data ∧ s.coh.arrives .data s.ev.die s.ev.addr = some x ∧ (x.arg % 2 = 1 → s.coh.collecting s.ev.die s.ev.addr = false)) ∨
      (e = .grant ∧ s.coh.arrives .grant s.ev.die s.ev.addr = some x) →
    let key := lineKey s.ev.addr s.ev.die
    let shared := e = .data ∧ x.arg % 2 = 0
    let due := if e = .grant then 0 else if x.arg < 2 then 2 else 1
    let s0 : State := { s with coh := s.coh.land x }
    (s0.coh.l2.look key ≠ none ∨ (s0.coh.l2.filter fun p => p.1 % 10 == s.ev.die).length < l2Lines s.ev.die →
      ∃ s1, s0.install s.ev.die s.ev.addr (!decide shared) due = some s1) ∧
    ∀ s1, s0.install s.ev.die s.ev.addr (!decide shared) due = some s1 →
      s1 = { s with coh := s1.coh } ∧
      (∃ y, s1.coh.l2.look key = some y ∧ y.key = s.keyOf s.ev.addr ∧
        y.st = (if shared then .shared else if s.coh.behind.look s.ev.addr = none then .exclusive else .modified)) ∧
      (shared ∨ s1.runOne s.ev.die s.ev.addr = none → Happens e s fun s' => s' = s1) ∧
      ∀ s2 n, ¬ shared → s1.flying = n + 1 → s1.runOne s.ev.die s.ev.addr = some s2 →
        Happens e s fun s' => s' = s2.runStores s.ev.die s.ev.addr n) ∧
  (∀ (s : State), s.ev.flag = false → s.ev.id < 64 → s.inMemory s.ev.addr s.ev.bytes.length = true → Memory.wf s.mem = true →
    s.extMay s.ev.id [⟨s.ev.addr, s.ev.bytes, false⟩] false = true →
    (∀ line d, s.coh.dir.look line = some d → ∀ k ∈ d.holders, k ≤ 9) →
    Happens .externalWrite s fun s' => MemoryAfter s.mem s.ev.addr s.ev.bytes s'.mem ∧
      TagsAfter s.tags s.ev.addr s.ev.bytes.length false s'.tags ∧ s'.teams = s.teams ∧
      ∀ line ∈ linesOf s.ev.addr s.ev.bytes.length, ∀ d, s.coh.dir.look line = some d →
        s'.coh.dir.look line = some (.shared d.holders) ∧
        ∀ k ∈ d.holders, (⟨.inv, k, line, 0, some (s.ev.id, s.extNext s.ev.id)⟩ : CohFlight) ∈ s'.coh.flight ∧
          ∀ a, a / 64 = line → s'.viewByte k a = s.viewByte k a) ∧
  (∀ (s : State) (k : Rmw) (old : List Byte), s.ev.flag = true → s.ev.id < 64 → Memory.wf s.mem = true →
    let size := if s.ev.n = 2 then s.ev.bytes.length / 2 else s.ev.bytes.length
    hostAtomicOp s.ev.n size = some k → s.ev.addr % size = 0 → s.inMemory s.ev.addr size = true →
    s.extMay s.ev.id [⟨s.ev.addr, List.replicate size 0, false⟩] true = true → s.readMem 0 s.ev.addr size = .ok old →
    Happens .externalWrite s fun s' => s'.outbox = s.outbox ++ [.readData old] ∧ s'.teams = s.teams ∧
      MemoryAfter s.mem s.ev.addr
        (match k.value (valOf old) (valOf (s.ev.bytes.take size)) (valOf (s.ev.bytes.drop size)) with
        | some v => numBytes v.toNat size
        | none => []) s'.mem) ∧
  (∀ (s : State), s.ev.flag2 = false → s.inMemory s.ev.addr s.ev.len = true →
    s.allowed 10 false (Agent.event (.external s.ev.id) [⟨0, .mem s.ev.addr, s.ev.len, false⟩]) = true →
    Happens .externalRead s fun s' => s' = { s with events := s'.events, outbox := s.outbox ++
      [.readData (if (linesOf s.ev.addr s.ev.len).filterMap (s.lineErr 0) = [] then Memory.bytes s.mem s.ev.addr s.ev.len else [])] })

/-! ## Host, fabric and firmware -/

/-- R416-R418, R420-R425: the notify page that a bus address reaches; a packet is refused with the code of the first check that it
fails, or becomes a kernel message of its interface's endpoint; a write elsewhere is discarded, and a read gives the status word;
the configuration that the host writes; its other steps. A Function Level Reset revokes the function's PASIDs, and unbinds its
interfaces once none of its requests is in flight. It rests on the model's own choices or readings of log entries 82, 110 and 178. -/
def Obligations.HostSteps : Prop :=
  (∀ (s : State) (fn bar base o : Nat), (8 * fn + bar, base) ∈ s.bars → bar < 8 → o < barSize fn bar → ¬ (fn = 0 ∧ bar = 0) →
    (∀ p ∈ s.bars, p.2 ≤ base + o → base + o < p.2 + barSize (p.1 / 8) (p.1 % 8) → p = (8 * fn + bar, base)) →
    s.notifyAt (base + o) = some (8 * fn + o / 4096, o % 4096)) ∧
  (∀ (s : State) (q off : Nat) (x : QueueIf) (w : Nat), s.notifyAt s.ev.addr = some (q, off) → s.qifs.look q = some x →
    (q / 8 = 0 ∨ q / 8 ≤ s.vfs) → w = wordOfBytes (s.ev.bytes.take 4) → 0 < s.ev.bytes.length → off + s.ev.bytes.length ≤ 4096 →
    let refusedWith := fun (c : Nat) => Happens .hostPacket s fun s' => s' = { s with qifs := s'.qifs } ∧
      s'.qifs.look q = some { x with refused := x.refused + 1, code := c } ∧ ∀ j, j ≠ q → s'.qifs.look j = s.qifs.look j
    let whole := off = 0 ∧ s.ev.bytes.length = 64
    let held := fun (e : Endpoint) => (e.kq.filter (isPacket q)).length
    (0x40 ≤ off → Happens .hostPacket s fun s' => s' = s) ∧
    (off < 0x40 → ¬ whole → refusedWith 3) ∧
    (whole → x.bound = false → refusedWith 1) ∧
    (whole → x.bound = true → 2 ^ 20 ≤ w → refusedWith 3) ∧
    (whole → x.bound = true → w < 2 ^ 20 → (q / 8, w) ∉ s.pasids → refusedWith 2) ∧
    (∀ e, whole → x.bound = true → w < 2 ^ 20 → (q / 8, w) ∈ s.pasids → s.eps.look x.ep = some e → 32 ≤ held e → refusedWith 4) ∧
    ∀ e, whole → x.bound = true → w < 2 ^ 20 → (q / 8, w) ∈ s.pasids → s.eps.look x.ep = some e → held e < 32 →
      e.takers = [] → Happens .hostPacket s fun s' => s' = { s with eps := s'.eps, msgSeq := s.msgSeq + 1, coh := s'.coh } ∧
        s'.extNext (q / 8) = s.extNext (q / 8) + 1 ∧
        s'.tellsEp x.ep fun m => m.kind = 6 ∧ m.src = q ∧ m.pasid = w ∧ m.prio = x.prio ∧ m.ans = none ∧
          m.gates = [.ext (q / 8) (s.extNext (q / 8))] ∧
          m.words.getD 0 0 = BitVec.ofNat 32 (w + 2 ^ 20 * q) ∧
          (∀ j < 7, m.words.getD (j + 1) 0 = BitVec.ofNat 32 (wordOfBytes ((s.ev.bytes.drop (4 + 4 * j)).take 4))) ∧
          m.q0 = ⟨BitVec.ofNat 128 (wordOfBytes ((s.ev.bytes.drop 32).take 16)), false⟩ ∧
          m.q1 = ⟨BitVec.ofNat 128 (wordOfBytes ((s.ev.bytes.drop 48).take 16)), false⟩) ∧
  (∀ (s : State) (q off : Nat), s.notifyAt s.ev.addr = some (q, off) → s.vfs < q / 8 → Happens .hostPacket s fun s' => s' = s) ∧
  (∀ (s : State) (q : Nat) (x : QueueIf), s.ev.flag2 = true → s.ev.len = 8 → s.ev.addr % 4096 ≤ 4088 →
    (∀ k < 8, s.notifyAt (s.ev.addr + k) = some (q, 0x80 + k)) → (q / 8 = 0 ∨ q / 8 ≤ s.vfs) → s.qifs.look q = some x →
    Happens .externalRead s fun s' => s' = { s with outbox := s'.outbox, draws := s'.draws } ∧ s'.outbox = s.outbox ++
      [.readData (numBytes (x.delivered.toNat + 2 ^ 32 * x.refused.toNat + 2 ^ 48 * (x.code % 256) +
        2 ^ 56 * (if x.bound = true then 1 else 0)) 8)]) ∧
  (∀ (s : State), s.fnEnabled s.ev.id = true →
    let size := barSize s.ev.id s.ev.n
    let listed := fun (l l' : List Nat) => (s.ev.id ∈ l' ↔ s.ev.flag = true) ∧ ∀ j, j ≠ s.ev.id → (j ∈ l' ↔ j ∈ l)
    (s.ev.m = 0 → s.ev.n ≤ 63 → exec .vfEnable s = .next { s with vfs := s.ev.n }) ∧
    (s.ev.m = 1 → size ≠ 0 → exec .vfEnable s = .next { s with bars := s.bars.put (8 * s.ev.id + s.ev.n) (s.ev.addr / size * size) }) ∧
    (s.ev.m = 2 → Happens .vfEnable s fun s' => s' = { s with atsOn := s'.atsOn, ats := s'.ats } ∧ listed s.atsOn s'.atsOn ∧
      ∀ p, p ∈ s'.ats ↔ p ∈ s.ats ∧ (s.ev.flag = false → p.1 ≠ s.ev.id)) ∧
    (s.ev.m = 3 → Happens .vfEnable s fun s' => s' = { s with priOn := s'.priOn, pageReqs := s'.pageReqs } ∧ listed s.priOn s'.priOn ∧
      (s.ev.flag = true → s'.pageReqs = s.pageReqs) ∧
      (s.ev.flag = false → ∀ r ∈ s'.pageReqs, r.fn = s.ev.id → r.answer ≠ none))) ∧
  (∀ (s : State), 1 ≤ s.ev.id → s.ev.id ≤ s.vfs →
    (s.ev.id ∉ s.flr → Happens .functionLevelReset s fun s' => s.ev.id ∈ s'.flr ∧
      (∀ p, p ∈ s'.pasids ↔ p ∈ s.pasids ∧ p.1 ≠ s.ev.id) ∧ (∀ p, p ∈ s'.ats ↔ p ∈ s.ats ∧ p.1 ≠ s.ev.id) ∧
      s'.mem = s.mem ∧ s'.teams = s.teams ∧
      (∀ q, q / 8 ≠ s.ev.id → s'.qifs.look q = s.qifs.look q) ∧
      (∀ q x e, q / 8 = s.ev.id → s.qifs.look q = some x → s.eps.look x.ep = some e →
        let n := (e.kq.filter (isPacket q)).length
        s'.qifs.look q = some { x with refused := x.refused + BitVec.ofNat 16 n, code := if n = 0 then x.code else 2 }) ∧
      ∀ n e, s'.eps.look n = some e → ∀ m ∈ e.kq, m.kind = 6 → m.src / 8 ≠ s.ev.id) ∧
    (s.ev.id ∈ s.flr → s.hostBusy (fun f _ _ => f == s.ev.id) = true → exec .functionLevelReset s = .next s) ∧
    (s.ev.id ∈ s.flr → s.hostBusy (fun f _ _ => f == s.ev.id) = false → NMap.rising s.qifs = true →
      Happens .functionLevelReset s fun s' => s' = { s with flr := s'.flr, qifs := s'.qifs, eps := s'.eps } ∧ s.ev.id ∉ s'.flr ∧
        (∀ q, q / 8 ≠ s.ev.id → s'.qifs.look q = s.qifs.look q) ∧
        ∀ q x, q / 8 = s.ev.id → s.qifs.look q = some x → ∃ y, s'.qifs.look q = some y ∧ y.bound = false ∧
          y.delivered = x.delivered ∧ (x.bound = true → y.event = none))) ∧
  (∀ (s : State),
    let key := (s.ev.id, s.ev.n, s.ev.addr / 4096)
    (s.hostBusy (fun f p i => (f, p, i / 4096) == key) = true → exec .atsInvalidation s = .next s) ∧
    (s.hostBusy (fun f p i => (f, p, i / 4096) == key) = false → Happens .atsInvalidation s fun s' => s' = { s with ats := s'.ats } ∧
      ∀ p, p ∈ s'.ats ↔ p ∈ s.ats ∧ p ≠ key)) ∧
  (∀ (s : State) (r : PageReq), r ∈ s.pageReqs → r.id = s.ev.id → r.answer = none → Happens .priResponse s fun s' =>
    (s.ev.flag = false → s' = { s with pageReqs := s.pageReqs.map fun (q : PageReq) =>
      if q.id = s.ev.id ∧ q.answer = none then { q with answer := some false } else q }) ∧
    (s.ev.flag = true → s' = { s with pageReqs := s'.pageReqs, ats := s'.ats } ∧
      (∀ q, q ∈ s'.pageReqs ↔ q ∈ s.pageReqs ∧ (q.id = s.ev.id → q.answer ≠ none)) ∧
      ∀ p, p ∈ s'.ats ↔ p ∈ s.ats ∨ ∃ q ∈ s.pageReqs, q.id = s.ev.id ∧ q.answer = none ∧ p = (q.fn, q.pasid, q.iova))) ∧
  (∀ (s : State), s.fnEnabled s.ev.id = true → s.ev.n < (if s.ev.id = 0 then 16 else 8) →
    let at_ := 16 * s.ev.id + s.ev.n
    let pending := (s.vector s.ev.id s.ev.n).pending
    Happens .msixVectorUnmask s fun s' => s' = { s with vectors := s'.vectors, outbox := s'.outbox } ∧
      s'.vectors.look at_ = some ⟨s.ev.addr, s.ev.word, s.ev.flag, pending && s.ev.flag⟩ ∧
      (∀ k, k ≠ at_ → s'.vectors.look k = s.vectors.look k) ∧
      s'.outbox = s.outbox ++ if pending = true ∧ s.ev.flag = false then [.msix s.ev.id s.ev.n s.ev.addr s.ev.word] else []) ∧
  ∀ (s : State) (fn vec : Nat),
    let v := s.vector fn vec
    (v.masked = true → s.msix fn vec = { s with vectors := s.vectors.put (16 * fn + vec) { v with pending := true } }) ∧
    (v.masked = false → s.msix fn vec = { s with outbox := s.outbox ++ [.msix fn vec v.addr v.data] })

/-- R427, R428, R431-R435: packets of peers; a message whose bytes are all in is applied or refused in the order of its connection,
and its units return to the peer; replies, credits and the end of a connection or of a registration. It rests on the model's own
choices or readings of log entries 68, 105, 106, 107, 108 and 151. -/
def Obligations.FabricSteps : Prop :=
  (∀ (s : State) (k : Conn), s.conns.look s.ev.id = some k → k.up = true → k.inMsgs = [] → s.ev.n = k.recvSeq →
    s.ev.flag2 = false → s.ev.addr = 0 → 1 ≤ s.ev.len →
    let units := unitsOf s.ev.flag s.ev.len
    let order := fabricOrder s.ev.id
    let first : InMsg :=
      { seq := s.ev.n, isRead := s.ev.flag, handle := s.ev.m, off := s.ev.g, len := s.ev.len, got := [], refused := false, tagMode := false }
    let kept : InMsg := { first with got := [(0, s.ev.bytes)] }
    let waits : Conn := { k with inMsgs := [kept], given := k.given - units }
    let came : State := { s with conns := s.conns.put s.ev.id waits }
    let done := fun (s' : State) (replies : List Outbound) =>
      s'.conns.look s.ev.id = some { k with recvSeq := k.recvSeq + 1 } ∧ s'.outbox = s.outbox ++ replies ++ [.credit s.ev.id units]
    let empty := fun (c : Word) => Outbound.fabricReply s.ev.id s.ev.n c 0 0 []
    units ≤ k.given →
    (s.ev.flag = false → s.ev.bytes.length = s.ev.len → s.ev.len ≤ 4096 →
      (∀ i r pa keep, s.regAt s.ev.id s.ev.m = some (i, r) → r.withdrawing = false → s.ev.g + s.ev.len ≤ r.len → r.st = true →
        s.places r.space { needW with nr := true, cap := false } (s.ev.len / 4096 + 2) (r.base + s.ev.g)
          (r.base + s.ev.g + s.ev.len) = .ok [(.mem pa, s.ev.len, keep)] →
        came.extMay order [⟨pa, s.ev.bytes, false⟩] false = true → Memory.wf s.mem = true →
        Happens .fabricPacketArrival s fun s' => done s' [empty 0] ∧ s'.teams = s.teams ∧ s'.extNext order = s.extNext order + 1 ∧
          MemoryAfter s.mem pa s.ev.bytes s'.mem ∧ TagsAfter s.tags pa s.ev.len false s'.tags) ∧
      ((∀ i r, s.regAt s.ev.id s.ev.m = some (i, r) → r.withdrawing = true ∨ r.len < s.ev.g + s.ev.len ∨ r.st = false) →
        Happens .fabricPacketArrival s fun s' => done s' [empty cRevoked] ∧ s' = { s with conns := s'.conns, outbox := s'.outbox })) ∧
    (s.ev.flag = true → s.ev.bytes = [] → s.ev.len < 2 ^ 20 →
      (∀ i r pa keep, s.regAt s.ev.id s.ev.m = some (i, r) → r.withdrawing = false → s.ev.g + s.ev.len ≤ r.len → r.ld = true →
        s.places r.space { needR with nr := true, cap := false } (s.ev.len / 4096 + 2) (r.base + s.ev.g)
          (r.base + s.ev.g + s.ev.len) = .ok [(.mem pa, s.ev.len, keep)] → (linesOf pa s.ev.len).filterMap (s.lineErr 0) = [] →
        came.allowed 10 false (Agent.event (.external order) [⟨0, .mem pa, s.ev.len, false⟩]) = true →
        Happens .fabricPacketArrival s fun s' => s'.teams = s.teams ∧ s'.mem = s.mem ∧
          done s' ((packetsOf false (Memory.bytes s.mem pa s.ev.len)).map fun p =>
            .fabricReply s.ev.id s.ev.n 0 s.ev.len p.1 p.2)) ∧
      ((∀ i r, s.regAt s.ev.id s.ev.m = some (i, r) → r.withdrawing = true ∨ r.len < s.ev.g + s.ev.len ∨ r.ld = false) →
        Happens .fabricPacketArrival s fun s' => done s' [empty cRevoked] ∧ s' = { s with conns := s'.conns, outbox := s'.outbox })) ∧
    (s.ev.flag = false → 0 < s.ev.bytes.length → s.ev.bytes.length ≤ 4096 → s.ev.bytes.length < s.ev.len → s.ev.len < 2 ^ 20 →
      s.accepts s.ev.id first = true → exec .fabricPacketArrival s = .next came)) ∧
  (∀ (s : State) (k : Conn), s.conns.look s.ev.id = some k → k.up = true → s.ev.n < k.recvSeq → s.ev.flag2 = false → s.ev.flag = false →
    0 < s.ev.bytes.length → s.ev.bytes.length ≤ 4096 → s.ev.addr + s.ev.bytes.length ≤ s.ev.len → s.ev.len < 2 ^ 20 →
    exec .fabricPacketArrival s = .next s) ∧
  (∀ (s : State) (k : Conn), s.conns.look s.ev.id = some k → k.up = true →
    Happens .creditGrant s (fun s' => s' = { s with conns := s.conns.put s.ev.id { k with credits := k.credits + s.ev.n } }) ∧
    Happens .connectionDown s (fun s' => s'.mem = s.mem ∧
      s'.conns.look s.ev.id = some { k with up := false, inMsgs := [], outMsgs := [] }) ∧
    (∀ m, k.awaits s.ev.n = some m → s.ev.flag = false → s.ev.addr + s.ev.bytes.length ≤ m.wire →
      countOf (joinAt m.got s.ev.addr s.ev.bytes) < m.wire →
      let joined := fun (y : OutMsg) => if y.seq = m.seq then { y with got := joinAt m.got s.ev.addr s.ev.bytes } else y
      exec .remoteAck s = .next { s with conns := s.conns.put s.ev.id { k with outMsgs := k.outMsgs.map joined } }) ∧
    (∀ m t o, k.awaits s.ev.n = some m → s.teams.look m.team = some t → t.findOp m.op = some o →
      let back := fun (s' : State) => s'.conns.look s.ev.id = some
        { k with credits := k.credits + m.units, outMsgs := k.outMsgs.filter fun y => y.seq != m.seq }
      let whole := s.ev.flag = false ∧ s.ev.addr = 0 ∧ m.got = [] ∧ s.ev.bytes.length = m.wire
      (∀ acc dst sx cp gs, o.kind = .load acc dst sx cp gs →
        (whole → Happens .remoteAck s fun s' => s' = { s with conns := s'.conns, teams := s'.teams } ∧ back s' ∧
          s'.teams.look m.team = some (t.putOp { o with kind := .load (acc.map fun (a : Access) =>
            if a.lane = m.lane then { a with loc := .reply (BitVec.ofNat 128 (wordOfBytes s.ev.bytes)) } else a) dst sx cp gs })) ∧
        (s.ev.flag = true → s.ev.word = 0 → Happens .remoteAck s fun s' => back s' ∧
          ∃ u, OnlyTeam { s with conns := s'.conns } m.team u s' ∧ t.FailedLate o m.lane cRevoked u)) ∧
      ∀ c, o.kind = .copy c →
        (∀ left, whole → m.wire = 0 → s.replyMay m = true → c.arrival = none → cutLeft m.off m.len c.left = some left →
          Happens .remoteAck s fun s' => back s' ∧ s'.mem = s.mem ∧ ∃ u d, s'.teams.look m.team = some u ∧
            u.findOp m.op = some { o with kind := .copy d } ∧ d.left = left ∧ d.begun = true ∧
            ∀ g ∈ d.granules, g ∈ c.granules) ∧
        (s.ev.flag = true → s.ev.word = 0 → Happens .remoteAck s fun s' => back s' ∧ s'.mem = s.mem ∧ ∃ u, s'.teams.look m.team = some u ∧
          (∀ y ∈ u.ops, y.id ≠ o.id) ∧ u.faultStop = true ∧
          (∀ g, g ∈ c.granules → g.1 = m.team → g.2 ∉ u.owner) ∧
          ∀ w, t.causeOf o.g = some w → ∃ d, u.causeOf o.g = some d ∧ d &&& (cEngine ||| cRevoked) = cEngine ||| cRevoked)) ∧
    (∀ m, k.awaits s.ev.n = some m → s.ev.flag = false →
      (m.tries + 1 ≤ Config.retryLimit → Happens .packetRetransmission s fun s' =>
        s' = { s with conns := s'.conns, outbox := s'.outbox } ∧
        s'.conns.look s.ev.id = some { k with outMsgs := k.outMsgs.map fun (y : OutMsg) =>
          if y.seq = m.seq then { y with tries := y.tries + 1 } else y } ∧
        ∀ b, s.outbox.find? (fun y => y.isPacket false s.ev.id s.ev.n s.ev.addr) = some b → s'.outbox = s.outbox ++ [b]) ∧
      (Config.retryLimit < m.tries + 1 → Happens .packetRetransmission s fun s' =>
        s'.conns.look s.ev.id = some { k with up := false, inMsgs := [], outMsgs := [] }))) ∧
  (∀ (s : State) (r : Registration), s.regs.look s.ev.id = some r → r.withdrawing = true → r.reply = none →
    NMap.rising s.regs = true →
    (∀ k, s.conns.look r.conn = some k → ∀ m ∈ k.inMsgs, m.handle = s.handleOf s.ev.id → m.refused = true) →
    Happens .withdrawalComplete s fun s' => s' = { s with regs := s'.regs, objs := s'.objs } ∧
      s'.regs.look s.ev.id = none ∧ s'.genOf s.ev.id = s.genOf s.ev.id + 1)

/-- R419, R434, R435: the requests that programs ask of the host endpoint and of the fabric endpoint, and what they are
answered; a capability that fails a check of R419 has the answer STATE. It rests on the model's own choices or readings of log
entries 90, 91, 92, 102, 103 and 104. -/
def Obligations.FirmwareEndpoints : Prop :=
  (∀ (s s1 : State) (m : Msg) (e : Instr) (op : Nat), (e, op) ∈ [(.qiBind, 1), (.qiUnbind, 2), (.qiQuery, 3), (.qiInterrupt, 4)] →
    s.fwTake 2 (· == op) = some (m, s1) → s1.reqQi m = none →
    exec e s = .next (s1.fwReply m.ans [kState, 0] Cap.zero)) ∧
  (∀ (s s1 : State) (m : Msg) (q : Nat) (x : QueueIf), s1.reqQi m = some (q, x) →
    let now := if x.bound then 1 else 0
    let operand := (m.words.getD 1 0).toNat
    (s.fwTake 2 (· == 1) = some (m, s1) →
      (x.bound = true → operand < 32 → m.zeroFrom 2 = true → exec .qiBind s = .next (s1.fwReply m.ans [kState, 1] Cap.zero)) ∧
      (x.bound = false → operand < 32 → m.zeroFrom 2 = true → (s1.reqObj m m.q1 [3] pIV).isSome = true →
        exec .qiBind s = .next ({ s1 with qifs := s1.qifs.put q { x with bound := true, ep := m.q1.objIndex, prio := operand, binder := m.ctx, event := none } }.fwReply m.ans [kOk, 1] Cap.zero)) ∧
      (operand < 32 → m.zeroFrom 2 = true → (s1.reqObj m m.q1 [3] pIV).isSome = false →
        exec .qiBind s = .next (s1.fwReply m.ans [kState, now] Cap.zero)) ∧
      (32 ≤ operand ∨ m.zeroFrom 2 = false →
        exec .qiBind s = .next (s1.drawn.fwReply m.ans [s1.openStatus, now] Cap.zero))) ∧
    (s.fwTake 2 (· == 2) = some (m, s1) → m.zeroFrom 1 = true →
      (m.q1.isZero = false → exec .qiUnbind s = .next (s1.fwReply m.ans [kState, now] Cap.zero)) ∧
      (x.bound = false → exec .qiUnbind s = .next (s1.fwReply m.ans [kState, 0] Cap.zero)) ∧
      (x.bound = true → m.q1.isZero = true → ∃ s2 : State, exec .qiUnbind s = .next (s2.fwReply m.ans [kOk, 0] Cap.zero) ∧
        s2 = { s1 with qifs := s2.qifs, eps := s2.eps } ∧
        (∀ j, j ≠ q → s2.qifs.look j = s1.qifs.look j) ∧
        (∀ e, s1.eps.look x.ep = some e →
          let n := (e.kq.filter (isPacket q)).length
          s2.eps.look x.ep = some { e with kq := e.kq.filter fun y => !isPacket q y } ∧
          s2.qifs.look q = some { x with bound := false, event := none, refused := x.refused + BitVec.ofNat 16 n, code := if n = 0 then x.code else 1 }))) ∧
    (s.fwTake 2 (fun n => n == 0 || decide (4 < n) || n == 3) = some (m, s1) →
      (m.words.getD 0 0 = 3 → m.zeroFrom 1 = true →
        exec .qiQuery s = .next (s1.fwReply m.ans [if m.q1.isZero = true then kOk else kState, now] Cap.zero)) ∧
      (m.words.getD 0 0 ≠ 3 → exec .qiQuery s = .next (s1.drawn.fwReply m.ans [s1.openStatus, now] Cap.zero))) ∧
    (s.fwTake 2 (· == 4) = some (m, s1) → m.zeroFrom 1 = true →
      let fits := m.q1.isZero = true ∨ (eventCap m.q1 (pLD ||| pST) = true ∧ s1.coveredIn m.space m.q1 = false)
      (x.bound = false ∨ ¬ fits → exec .qiInterrupt s = .next (s1.fwReply m.ans [kState, now] Cap.zero)) ∧
      (x.bound = true → fits → exec .qiInterrupt s = .next ({ s1 with qifs := s1.qifs.put q { x with event := if m.q1.isZero then none else some m.q1 } }.fwReply m.ans [kOk, 1] Cap.zero)))) ∧
  (∀ (s s1 : State) (m : Msg), s.fwTake 3 (fun n => n == 0 || n == 1 || decide (4 < n)) = some (m, s1) →
    let conn := (m.words.getD 1 0).toNat
    let c := m.q0
    let fit := c.tag = true ∧ c.otype = 0 ∧ c.space = 0 ∧ c.has pCX = true ∧ s1.coveredIn m.space c = false
    let made : Registration :=
      { conn := conn, space := m.space, base := c.decode.1, len := c.decode.2 - c.decode.1, ld := c.has pLD, st := c.has pST,
        ldc := c.has pLDC, stc := c.has pSTC, withdrawing := false, reply := none }
    (m.words.getD 0 0 ≠ 1 → exec .regExport s = .next (s1.drawn.fwReply m.ans [s1.openStatus] Cap.zero)) ∧
    (m.words.getD 0 0 = 1 → m.zeroFrom 2 = true → m.q1.isZero = true → s1.connUp conn = false →
      exec .regExport s = .next (s1.fwReply m.ans [kState] Cap.zero)) ∧
    (m.words.getD 0 0 = 1 → s1.connUp conn = true → m.zeroFrom 2 = true → m.q1.isZero = true →
      (¬ fit → exec .regExport s = .next (s1.fwReply m.ans [kSubset] Cap.zero)) ∧
      ∀ i s2, fit → s1.newObj 9 none = some (i, s2) → exec .regExport s = .next ({ s2 with regs := s2.regs.put i made }.fwReply m.ans
        [kOk, 0, s2.handleOf i % 2 ^ 32, s2.handleOf i / 2 ^ 32] (s2.capOf pIvRvCx i)))) ∧
  (∀ (s s1 : State) (m : Msg) (sp : Space), s.fwTake 3 (· == 2) = some (m, s1) →
    s1.spaces.look s1.rootSpace = some sp →
    let conn := (m.words.getD 1 0).toNat
    let mask := (m.words.getD 4 0).toNat
    (s1.root ≠ some m.ctx ∨ s1.connUp conn = false ∨ Config.peerRights conn m.handle s1.draws = none →
      exec .regImport s = .next ({ s1 with draws := s1.draws + 1 }.fwReply m.ans [kState] Cap.zero)) ∧
    ∀ rights, s1.root = some m.ctx → s1.connUp conn = true → Config.peerRights conn m.handle s1.draws = some rights → mask < 16 →
      m.zeroFrom 5 = true → m.q0.isZero = true → m.q1.isZero = true →
      exec .regImport s = .next ({ s1 with draws := s1.draws + 1 }.fwReply m.ans [kRep] Cap.zero) ∨
      ∃ (p : RemotePages) (c : Cap), exec .regImport s =
          .next ({ s1 with draws := s1.draws + 1, spaces := s1.spaces.put s1.rootSpace { sp with remote := sp.remote ++ [p] } }.fwReply
            m.ans [kOk] c) ∧
        p.conn = conn ∧ p.handle = m.handle ∧ hostBase ≤ p.va ∧ p.va % 4096 = 0 ∧
        p.ld = (mask &&& rights).testBit 0 ∧ p.st = (mask &&& rights).testBit 1 ∧ p.ldc = (mask &&& rights).testBit 2 ∧
        p.stc = (mask &&& rights).testBit 3 ∧ (∀ y ∈ sp.remote, y.va + y.len ≤ p.va)) ∧
  (∀ (s s1 : State) (m : Msg), s.fwTake 3 (· == 3) = some (m, s1) →
    (∀ o r, m.zeroFrom 1 = true → m.q1.isZero = true → s1.reqObj m m.q0 [9] pRV = some o → s1.regs.look o = some r →
      (r.withdrawing = false → exec .regWithdraw s = .next { s1 with regs := s1.regs.put o { r with withdrawing := true, reply := m.ans } }) ∧
      (r.withdrawing = true → exec .regWithdraw s = .next (s1.fwReply m.ans [kState] Cap.zero))) ∧
    (s1.reqObj m m.q0 [9] pRV = none → exec .regWithdraw s = .next (s1.drawn.fwReply m.ans [s1.openStatus] Cap.zero))) ∧
  (∀ (s : State),
    (∀ l, s.leaving.find? (fun y => !s.remoteBusy y.conn y.handle) = some l →
      exec .regUnimport s = .next ({ s with leaving := s.leaving.erase l }.fwReply l.reply [kOk] Cap.zero)) ∧
    ∀ s1 m sp r, (∀ l ∈ s.leaving, s.remoteBusy l.conn l.handle = true) → s.fwTake 3 (· == 4) = some (m, s1) →
      m.zeroFrom 1 = true → m.q1.isZero = true → m.q0.tag = true → m.q0.otype = 0 → m.q0.space = 0 →
      s1.spaceOf m.ctx = s1.rootSpace → s1.spaces.look s1.rootSpace = some sp →
      let hit := fun (y : RemotePages) => y.va == m.q0.decode.1 && y.va + y.len == m.q0.decode.2
      (sp.remote.find? hit = some r → exec .regUnimport s = .next { s1 with
        spaces := s1.spaces.put s1.rootSpace { sp with remote := sp.remote.filter fun y => !hit y },
        leaving := s1.leaving ++ [⟨r.conn, r.handle, m.ans⟩] }) ∧
      (sp.remote.find? hit = none → exec .regUnimport s = .next (s1.fwReply m.ans [kOverlap] Cap.zero)))

/-- R365, R370, R387, R396, R417, R423, R424, R437-R439: the host's registers and the firmware's commands. It rests on the model's own
choices or readings of log entries 95, 96, 97, 101, 110, 179 and 180. -/
def Obligations.FirmwareCommands : Prop :=
  (∀ (s : State) (e : Instr) (op : Nat), commandOf e = some op → s.state = 0 → s.Ends e op kNotready none s.sameBut) ∧
  (∀ (s : State) (off : Nat), s.barAt s.ev.addr = some (0, 0, off) →
    (∀ j, off = 4 * j → j < 64 → exec .reservedRegisterWrite s = .next { s with fw := { s.fw with req := s.fw.req.set j s.ev.word } }) ∧
    (off = 0x100 → s.fw.cmd = none →
      (fwListed (s.ev.word.toNat % 65536) = true → exec .reservedRegisterWrite s = .next
        { s with fw := { s.fw with args := s.fw.req, cmd := some (s.ev.word.toNat % 65536, s.ev.word.toNat / 65536) } }) ∧
      (fwListed (s.ev.word.toNat % 65536) = false → Happens .reservedRegisterWrite s fun t => s.sameBut t ∧
        t.fw = { s.fw with args := s.fw.req }.done (s.ev.word.toNat / 65536) kBadcmd none)) ∧
    ((off = 0x100 ∧ s.fw.cmd ≠ none) ∨ 0x100 < off ∨ (off < 0x100 ∧ off % 4 ≠ 0) → exec .reservedRegisterWrite s = .next s)) ∧
  (∀ (s : State) (off : Nat), s.ev.flag2 = true → 0 < s.ev.len → s.ev.addr % 4096 + s.ev.len ≤ 4096 →
    (∀ k, k < s.ev.len → s.barAt (s.ev.addr + k) = some (0, 0, off + k)) →
    let reads := fun (bs : List Byte) => Happens .externalRead s fun t =>
      t = { s with outbox := t.outbox, draws := t.draws } ∧ t.outbox = s.outbox ++ [.readData bs]
    (off = 0x108 → s.ev.len = 4 → reads (numBytes (s.fw.statTag % 2 ^ 16 + 2 ^ 16 * (s.fw.status % 2 ^ 8) +
      if s.fw.cmd = none then 0 else 2 ^ 31) 4)) ∧
    (∀ j, off = 0x200 + j → j + s.ev.len ≤ 256 → reads ((List.range s.ev.len).map fun k => s.fw.resp.getD (j + k) 0)) ∧
    (off = 0x1000 → s.ev.len = 4 → reads (numBytes s.service 4)) ∧
    ((0x10C ≤ off ∧ off + s.ev.len ≤ 0x200) ∨ (0x300 ≤ off ∧ off + s.ev.len ≤ 0x1000) ∨ 0x1004 ≤ off → reads (List.replicate s.ev.len 0))) ∧
  (∀ (s : State),
    s.Ends .query 0x01 kOk (some (wordBytes (s.service :: (s.dies.take 9).map Die.presentCount ++
      [(s.corrected.map (·.2)).foldl (· + ·) 0]))) s.sameBut ∧
    (68 ≤ s.arg 0 → s.Ends .certRead 0x0A kBadcmd none s.sameBut) ∧
    (s.arg 0 < 4 → s.Ends .certRead 0x0A kOk (some (((Config.certificate (s.arg 0)).drop (s.arg 1)).take 256)) s.sameBut) ∧
    (∀ w, s.arg 0 = 4 + w → w < 64 →
      ((s.slotOf w).st = .empty → s.Ends .certRead 0x0A kState none s.sameBut) ∧
      ((s.slotOf w).st ≠ .empty →
        s.Ends .certRead 0x0A kOk (some (((sealCert w (s.slotOf w).epoch).drop (s.arg 1)).take 256)) s.sameBut)) ∧
    (64 ≤ s.arg 0 ∨ 64 ≤ s.arg 1 → s.Ends .voidRead 0x0B kBadcmd none s.sameBut) ∧
    (∀ r, s.arg 0 < 64 → s.arg 1 < 64 → (s.slotOf (s.arg 0)).voids[s.arg 1]? = some r →
      s.Ends .voidRead 0x0B kOk (some ((r.drop (s.arg 2)).take 256)) s.sameBut) ∧
    (s.arg 0 < 64 → s.arg 1 < 64 → (s.slotOf (s.arg 0)).voids[s.arg 1]? = none →
      s.Ends .voidRead 0x0B s.openStatus none s.sameBut)) ∧
  (∀ (s : State), s.state ≠ 0 →
    (64 ≤ s.arg 0 → s.Ends .errlogRead 0x0F kBadcmd none s.sameBut) ∧
    (∀ e, s.arg 0 < 64 → s.errlog[s.arg 0]? = some e →
      s.Ends .errlogRead 0x0F kOk (some (Config.errorEntry e.kind e.arg)) s.sameBut) ∧
    (s.arg 0 < 64 → s.errlog[s.arg 0]? = none → s.Ends .errlogRead 0x0F s.openStatus none s.sameBut) ∧
    (16 ≤ s.arg 0 → s.Ends .signal 0x0E kBadcmd none s.sameBut) ∧
    (∀ i x, s.arg 0 < 16 → s.lines.find? (fun p => p.2.number == s.arg 0) = some (i, x) →
      (x.st = .unbound → s.Ends .signal 0x0E kOk none s.sameBut) ∧
      (∀ e, x.st = .armed → x.ep = some e → s.genOf e = x.epGen → s.quietEp e → s.Ends .signal 0x0E kOk none fun t =>
        ∃ w, t.lines.look i = some { x with st := .awaiting false, status := w } ∧
          t.tellsEp e fun m => m.kind = 4 ∧ m.words.take 3 = [4, BitVec.ofNat 32 x.number, w])) ∧
    (64 ≤ s.arg 0 ∨ 2 ^ 20 ≤ s.arg 1 → s.Ends .pasidLive 0x03 kBadcmd none s.sameBut ∧ s.Ends .pasidRevoke 0x04 kBadcmd none s.sameBut) ∧
    (s.arg 0 < 64 → s.arg 1 < 2 ^ 20 →
      (∀ tag, s.arg 0 ∈ s.flr → s.fw.cmd = some (0x03, tag) → exec .pasidLive s = .next s) ∧
      (s.arg 0 ∉ s.flr → (s.arg 0, s.arg 1) ∈ s.pasids → s.Ends .pasidLive 0x03 kOk none s.sameBut) ∧
      (s.arg 0 ∉ s.flr → (s.arg 0, s.arg 1) ∉ s.pasids → 1024 ≤ (s.pasids.filter fun p => p.1 == s.arg 0).length →
        s.Ends .pasidLive 0x03 kLimit none s.sameBut) ∧
      (s.arg 0 ∉ s.flr → (s.arg 0, s.arg 1) ∉ s.pasids → (s.pasids.filter fun p => p.1 == s.arg 0).length < 1024 →
        s.Ends .pasidLive 0x03 kOk none ({ s with pasids := s.pasids ++ [(s.arg 0, s.arg 1)] } : State).sameBut) ∧
      ∀ tag, s.fw.cmd = some (0x04, tag) → Happens .pasidRevoke s fun t => t.fw = { s.fw with cmd := some (0x104, tag) } ∧
        (∀ p, p ∈ t.pasids ↔ p ∈ s.pasids ∧ p ≠ (s.arg 0, s.arg 1)) ∧
        (∀ p, p ∈ t.ats ↔ p ∈ s.ats ∧ ¬ (p.1 = s.arg 0 ∧ p.2.1 = s.arg 1)) ∧
        ∀ n e, t.eps.look n = some e → ∀ m ∈ e.kq, ¬ (m.kind = 6 ∧ m.src / 8 = s.arg 0 ∧ m.pasid = s.arg 1)) ∧
    (∀ sp, s.hostArgs = true → s.spaces.look s.rootSpace = some sp →
      (s.arg 6 ≠ 0 → sp.overlaps 0 (s.arg2 4) (4096 * s.arg 6) = true → s.Ends .hostMap 0x05 kOverlap none s.sameBut) ∧
      let page := fun (j : Nat) =>
        (⟨s.arg2 4 + 4096 * j, s.arg 0, s.arg 1, s.arg2 2 + 4096 * j, (s.arg 7).testBit 0, (s.arg 7).testBit 1⟩ : HostPage)
      let mapped : Space := { sp with hostPages := sp.hostPages ++ (List.range (s.arg 6)).map page }
      (s.arg 6 = 0 ∨ sp.overlaps 0 (s.arg2 4) (4096 * s.arg 6) = false →
        s.Ends .hostMap 0x05 kOk none ({ s with spaces := s.spaces.put s.rootSpace mapped } : State).sameBut) ∧
      let mine := fun (h : HostPage) => decide (s.arg2 4 ≤ h.va) && decide (h.va < s.arg2 4 + 4096 * s.arg 6) && h.fn == s.arg 0
        && h.pasid == s.arg 1 && h.iova == s.arg2 2 + (h.va - s.arg2 4)
      ((sp.hostPages.filter mine).length ≠ s.arg 6 → s.Ends .hostUnmap 0x06 kOverlap none s.sameBut) ∧
      ∀ tag, (sp.hostPages.filter mine).length = s.arg 6 → s.fw.cmd = some (0x06, tag) → Happens .hostUnmap s fun t =>
        t = { s with fw := { s.fw with cmd := some (0x106, tag) },
                     spaces := s.spaces.put s.rootSpace { sp with hostPages := sp.hostPages.filter fun h => !mine h } }) ∧
    (s.hostArgs = false → s.Ends .hostMap 0x05 kBadcmd none s.sameBut ∧ s.Ends .hostUnmap 0x06 kBadcmd none s.sameBut)) ∧
  (∀ (s : State),
    (s.hostBusy (fun f p _ => f == s.arg 0 && p == s.arg 1) = false → s.Ends .pasidRevocationComplete 0x104 kOk none s.sameBut) ∧
    (s.hostBusy (fun f p i => f == s.arg 0 && p == s.arg 1 && decide (s.arg2 2 ≤ i) && decide (i < s.arg2 2 + 4096 * s.arg 6)) = false →
      s.Ends .hostUnmap 0x106 kOk none s.sameBut))

/-- R343, R376, R378, R379, R427, R431, R439: the firmware's commands on memory, the CXL tier, connections and the root. It rests on
the model's own choices or readings of log entries 93, 94, 98, 99, 100, 112 and 179. -/
def Obligations.MemoryCommands : Prop :=
  (∀ (s : State), s.state ≠ 0 →
    (s.arg2 0 % 65536 ≠ 0 ∨ 3 ≤ s.arg 3 → s.Ends .modeSet 0x07 kBadcmd none s.sameBut) ∧
    (s.arg2 0 % 65536 = 0 → s.arg 3 < 3 → s.unitsFree (s.arg2 0 / 4096) (16 * s.arg 2) = false →
      s.Ends .modeSet 0x07 kSubset none s.sameBut) ∧
    (s.arg2 0 % 65536 = 0 → s.arg 3 < 3 → s.unitsFree (s.arg2 0 / 4096) (16 * s.arg 2) = true → NMap.rising s.modes = true →
      s.Ends .modeSet 0x07 kOk none fun t =>
        s.Cleared (fun a => s.arg2 0 ≤ a ∧ a < s.arg2 0 + 65536 * s.arg 2) t ∧
        ∀ a, t.modeOf a = if s.arg2 0 ≤ a ∧ a < s.arg2 0 + 65536 * s.arg 2 then s.arg 3 else s.modeOf a) ∧
    (4 ≤ s.arg 0 → s.Ends .cxlAdd 0x0C kBadcmd none s.sameBut ∧ s.Ends .cxlRemove 0x0D kBadcmd none s.sameBut) ∧
    (s.arg 0 < 4 →
      (s.cxl.getD (s.arg 0) 0 ≠ 0 ∨ cxlMost < s.cxl.foldl (· + ·) 0 + s.ev.n →
        s.Ends .cxlAdd 0x0C s.openStatus none s.sameBut) ∧
      (s.cxl.getD (s.arg 0) 0 = 0 → s.cxl.foldl (· + ·) 0 + s.ev.n ≤ cxlMost → s.Ends .cxlAdd 0x0C kOk none fun t =>
        t = { s.ended t with cxl := s.cxl.set (s.arg 0) s.ev.n, dead := t.dead, reserves := t.reserves, spaces := t.spaces } ∧
        s.arg 0 ∉ t.dead ∧
        ∀ x, s.reserves.look 0 = some x → t.reserves.look 0 = some { x with len := cxlBase + t.cxlBytes / 4096 * 4096 }) ∧
      let left := (s.cxl.set (s.arg 0) 0).foldl (· + ·) 0 * 7 / 8
      let goes := fun (off : Nat) => cxlPort s.cxl off == s.arg 0 || decide (left ≤ off)
      (s.cxl.getD (s.arg 0) 0 = 0 → s.Ends .cxlRemove 0x0D s.openStatus none s.sameBut) ∧
      (s.cxl.getD (s.arg 0) 0 ≠ 0 → s.cxlUsed goes = true → s.Ends .cxlRemove 0x0D kState none s.sameBut) ∧
      (s.cxl.getD (s.arg 0) 0 ≠ 0 → s.cxlUsed goes = false → s.Ends .cxlRemove 0x0D kOk none fun t =>
        t.cxl = s.cxl.set (s.arg 0) 0 ∧ s.Cleared (fun a => cxlBase ≤ a ∧ goes (a - cxlBase) = true) t ∧
        ∀ x, s.reserves.look 0 = some x → t.reserves.look 0 = some { x with len := cxlBase + t.cxlBytes / 4096 * 4096 })) ∧
    (64 ≤ s.arg 0 → s.Ends .connUp 0x08 kBadcmd none s.sameBut ∧ s.Ends .connDown 0x09 kBadcmd none s.sameBut) ∧
    (s.arg 0 < 64 →
      let made : Conn :=
        { up := s.arg 1 != 0, paths := s.arg 1, peer := (s.fw.args.drop 2).take 4, sendSeq := 0, recvSeq := 0,
          credits := Config.initialCredits, given := Config.initialGrants, inMsgs := [], outMsgs := [] }
      let up : State := { s with conns := s.conns.put (s.arg 0) made, outbox := s.outbox ++ [.credit (s.arg 0) Config.initialGrants] }
      (s.arg 1 < 2 ^ 18 → s.connUp (s.arg 0) = true → s.Ends .connUp 0x08 kState none s.sameBut) ∧
      (s.arg 1 < 2 ^ 18 → s.connUp (s.arg 0) = false → s.Ends .connUp 0x08 kOk none up.sameBut) ∧
      (s.conns.look (s.arg 0) = none → s.Ends .connDown 0x09 s.openStatus none s.sameBut) ∧
      (s.conns.look (s.arg 0) ≠ none → NMap.rising s.conns = true → NMap.rising s.regs = true → s.Ends .connDown 0x09 kOk none fun t =>
        t.conns.look (s.arg 0) = none ∧ (∀ i r, t.regs.look i = some r → r.conn ≠ s.arg 0) ∧
        (∀ i r, s.regs.look i = some r → r.conn ≠ s.arg 0 → t.regs.look i = some r) ∧ t.mem = s.mem))) ∧
  (∀ (s s1 : State) (root pa : Nat) (code : Cap) (l : Launch), s.state ≠ 0 → s.arg 2 < 2 ^ 20 → s.arg 3 % 8 = 0 →
    s.arg 3 ≤ 2 ^ 24 → s.arg 5 < 256 → s.root = some root →
    ((0, s.arg 2) ∉ s.pasids → s.Ends .loadRoot 0x02 s.openStatus none s.sameBut) ∧
    ((0, s.arg 2) ∈ s.pasids → s.ev.bytes.length = s.arg 3 →
      let gr := 2 ^ leastE 0 (s.arg 3)
      let units := (ceilDiv (s.arg 3) gr * gr + 4095) / 4096
      (s.takeUnits 0 units (max 1 (gr / 4096)) = none → s.Ends .loadRoot 0x02 kNomem none s.sameBut) ∧
      (s.takeUnits 0 units (max 1 (gr / 4096)) = some (pa, s1) → imageCap pa (s.arg 3) = some code →
        Memory.wf s.mem = true →
        let s2 := ({ s1 with outbox := s1.outbox ++ [Outbound.hostRead 0 (s.arg 2) (s.arg2 0) (s.arg 3)] } : State).writeMem 0 pa s.ev.bytes false
        s2.checkRecord root 0 (rootRecord code (bundleCap bundlePa) (s2.capOf pIvCx 2) (s.arg 4) (s.arg 5) (s.arg 6)) = .ok l →
        s.Ends .loadRoot 0x02 kOk none fun t => MemoryAfter s.mem pa s.ev.bytes t.mem ∧
          t.launches.look s.launchSeq = some { l with id := s.launchSeq } ∧ t.launchSeq = s.launchSeq + 1))) ∧
  (∀ (s : State) (root tag : Nat), s.root = some root → NMap.rising s.teams = true →
    (s.state ≠ 0 → s.fw.cmd = some (0x10, tag) → Happens .rootClear s fun t => t.fw = { s.fw with cmd := some (0x110, tag) } ∧
      ∀ n x, s.teams.look n = some x → x.ctx = root → ∃ u, t.teams.look n = some u ∧ u.dead = true) ∧
    ((∀ p ∈ s.teams, p.2.ctx = root → p.2.dead = true ∧ p.2.ops = []) → s.Ends .rootClear 0x110 kOk none fun t =>
      (∀ n x, s.teams.look n = some x → x.ctx = root → t.teams.look n = none) ∧
      ∀ x, s.ctxs.look root = some x → ∃ y, t.ctxs.look root = some y ∧ y = { x with slots := y.slots } ∧
        y.slots.map (·.pa) = x.slots.map (·.pa) ∧
        ∀ k ∈ y.slots, (∃ n u, s.teams.look n = some u ∧ u.ctx = root ∧ u.slotPa = k.pa) → k.busy = false))

/-- R387, R439, R441, R444, R446, R447: resets, bring-up, gating and the SPDM responder. A core that could take a
cluster of a Runnable context, of a launch or saved, is not gated. It rests on the model's own choices or readings of log entries 112,
113, 115, 116 and 117. -/
def Obligations.DeviceSteps : Prop :=
  (∀ (s : State), Happens .coldReset s (s.Restarted false) ∧ Happens .hotReset s (s.Restarted true)) ∧
  (∀ (s : State) (tag : Nat), s.fw.cmd = some (0x11, tag) →
    (s.arg 0 = 1 → Happens .reset s (s.Restarted true)) ∧ (s.arg 0 ≠ 1 → s.Ends .reset 0x11 kBadcmd none s.sameBut)) ∧
  (∀ (s : State) (x : Die), s.ev.die < 9 → s.dies[s.ev.die]? = some x → x.failed = false →
    let becomes := fun (t : State) (y : Die) => t.dies[s.ev.die]? = some y ∧ ∀ d, d ≠ s.ev.die → t.dies[d]? = s.dies[d]?
    (x.homeOk = false → s.ev.flag = true →
      (s.ev.flag2 = false → Happens .dieTestComplete s fun t => becomes t { x with failed := true } ∧ t.state = s.state) ∧
      (s.ev.flag2 = true → Happens .dieTestComplete s fun t => becomes t { x with homeOk := true } ∧
        (s.state = 0 → (∃ y ∈ (s.dies.take 9).eraseIdx s.ev.die, y.homeOk = false) → t.state = 0) ∧
        (s.state = 0 → (∀ y ∈ (s.dies.take 9).eraseIdx s.ev.die, y.homeOk = true) → t.state ≠ 0 ∧ t.root = some 7 ∧
          ∀ j < 600, (t.objs.look j).map (·.otype) = some (rootType j)))) ∧
    (x.homeOk = true → x.coresOk = false → s.ev.flag = false → s.ev.flag2 = true → Happens .dieTestComplete s fun t =>
      becomes t { x with coresOk := true } ∧
      (s.state ≠ 0 → ∀ p < 120, p ∉ x.absent → t.cores.look (coreNo ⟨s.ev.die, p⟩) = some Core.fresh ∧
        ∀ cs, s.csets.look 1 = some cs → ∃ cs', t.csets.look 1 = some cs' ∧
          NMap.look cs'.cores (coreNo ⟨s.ev.die, p⟩) = some (120 * s.ev.die + p))) ∧
    (x.homeOk = true → x.coresOk = true → x.full = false → s.ev.flag = false → s.state ≠ 0 →
      Happens .dieTestComplete s fun t => becomes t { x with full := true, clock := 850 })) ∧
  (∀ (s : State) (k : Core), s.cores.look (coreNo s.ev.core) = some k →
    (k.team = none → k.gated = false → k.retiring = false → s.couldTake s.ev.core = false → Happens .powerGate s fun t =>
      t = { s with cores := t.cores, coh := t.coh } ∧ (∀ p ∈ t.coh.l1, p.1 % 2048 ≠ coreNo s.ev.core) ∧
      t.cores.look (coreNo s.ev.core) = some { k with gated := true, world := 0 }) ∧
    (k.gated = true → Happens .coreWake s fun t => t = { s with cores := t.cores } ∧
      t.cores.look (coreNo s.ev.core) = some { k with gated := false, cycle := 0, window := 0, charged := [], shares := [] })) ∧
  (∀ (s : State) (n : Nat),
    (∀ l, (n, l) ∈ s.launches → s.waiting l = true → onRect s.ev.core l.cw l.ch (s.fitsAt l) = true → exec .powerGate s = .next s) ∧
    (∀ t, (n, t) ∈ s.teams → t.st = .saved → s.couldReturn t = true → t.w = widthOf s.ev.core →
      onRect s.ev.core t.cw t.ch (fun nw => s.rectFree t.ctx t.sched t.groups.length t.carve nw t.cw t.ch) = true →
      exec .powerGate s = .next s)) ∧
  (∀ (s : State) (e : Instr) (code need next : Nat) (bs : List Byte), s.spdmOf e = some (code, need, next, bs) →
    let n := 8 * s.spdm.version + s.spdm.stage
    (need ≤ s.spdm.stage → exec e s = .next
      { s with outbox := s.outbox ++ [.spdm (Config.spdmBytes code n bs)], spdm := { s.spdm with stage := next } }) ∧
    (s.spdm.stage < need → exec e s = .next { s with outbox := s.outbox ++ [.spdm (Config.spdmBytes 0 n bs)] })) ∧
  (∀ (s : State),
    exec .getVersion s = .next { s with outbox := s.outbox ++ [.spdm (Config.spdmBytes 0x84 0 [])], spdm := ⟨0, 1⟩ } ∧
    (s.ev.n = 0x12 ∨ s.ev.n = 0x13 → 1 ≤ s.spdm.stage → exec .getCapabilities s = .next { s with
      outbox := s.outbox ++ [.spdm (Config.spdmBytes 0xE1 (8 * s.ev.n + s.spdm.stage) [])], spdm := ⟨s.ev.n, 2⟩ }))

/-! ## The machine as a whole -/

/-- R59, R76: a word with a reserved encoding, and one out of reach under N and W, raises ILLEGAL in every lane of its
span, whatever their guards, and does nothing else. It rests on the model's own choices or readings of log entry 24. -/
def Obligations.IllegalWords : Prop :=
  (∀ (ins : Instr) (s : State) (i : Issue), s.issue = some i → illegalAt ins i.t.nreg i.w = true →
    ∃ t, exec ins s = .next t ∧ i.Raises (i.x.lanes.map fun l => (l, bit 0)) [] t) ∧
  (∀ (s : State) (i : Issue), s.issue = some i →
    ∃ t, exec .reservedOpcode s = .next t ∧ i.Raises (i.x.lanes.map fun l => (l, bit 0)) [] t) ∧
  ∀ (w : DWord) (n width : Nat),
    (∀ r, decode w = .error r → (decodeAt w n width).1 = .reservedOpcode) ∧
    ∀ x, decode w = .ok x → (decodeAt w n width).1 = if illegalAt x.i n width then .reservedOpcode else x.i

/-- R58, R62, R168, R171, R182: when the bytes at the PC of the span that holds the issue slot decode to an instruction, the
step is that instruction's, with the literal or the block that follows it, once its words have passed through the core's L1; then the
core's cycle passes. It rests on the model's own choices or readings of log entries 25, 66 and 136. -/
def Obligations.StepRunsDecoded : Prop :=
  (∀ (s : State) (c : CoreId) (id : Nat) (t : Team) (h : Held) (g : Group) (e : PcEntry) (w lit : DWord) (blk : List DWord),
    s.SlotDue c id t h g e → s.holdsWord id t c (g.codeOf e.pccx) e.pc w →
    s.holdsRest id t c (g.codeOf e.pccx) e.pc (decodeAt w t.nreg (widthOf c)).1 lit blk →
    ∃ others s', s.Beside s' ∧ s'.teams = s.teams ∧
      step { s with turn := some (.core c) } = afterWord c (exec (decodeAt w t.nreg (widthOf c)).1
        (s'.inIssue ⟨c, id, h.g, h.pccx, h.pc, e.mask, w, (decodeAt w t.nreg (widthOf c)).2, lit, blk⟩ others))) ∧
  ∀ (s : State) (c : CoreId), ((s.tick c).core c).cycle = (s.core c).cycle + 1 ∧ (s.tick c).mem = s.mem

/-- R61-R80: words of the manual's worked examples decode to the instructions they stand for. -/
def Obligations.WordsDecode : Prop :=
  decodeTableWord 64 0xF80E0E000000000F = some (.trap 7) ∧
  decodeTableWord 64 0xF82E00000000000F = some .exit ∧
  decodeTableWord 64 0xF81E00000000000F = some .bkpt ∧
  decodeTableWord 64 0xD08E06040C00000F = some (.capBound (.w 3) (.w 2) (.v 3)) ∧
  decodeTableWord 64 0xE81E003E0100000F = some (.tend (some (.w 31)) .device)

/-- R60-R80: every well-formed instruction has a word, and the word decodes to that instruction, with every operand and control
field; the steps of the part have none. -/
def Obligations.EncodeThenDecode : Prop :=
  ∀ (x : Ins), x.wf = true →
    (unitStep x.i = false → x.i ∉ outsideSteps → ∃ w, encode x.i x.c = some w ∧ decode w = .ok x) ∧
    (unitStep x.i = true ∨ x.i ∈ outsideSteps → encode x.i x.c = none)

/-- R7, R447: what a step leaves of the bytes of memory and of the scratchpads is again in the form that `Memory.wf`
states: addresses rising, no zero byte listed. It rests on the model's own choices or readings of log entry 4. -/
def Obligations.MemoryForm : Prop :=
  ∀ (s t : State), Memory.wf s.mem = true → (∀ p ∈ s.teams, Memory.wf p.2.sp = true) → step s = .next t →
    Memory.wf t.mem = true ∧ ∀ p ∈ t.teams, Memory.wf p.2.sp = true

/-- R447: the part after a cold reset: service state ROM, memory clear, no object, no team, every range in mode P, slot
0 Armed and the others Empty, and memory in the form that every step keeps. -/
def Obligations.ResetState : Prop :=
  State.reset.state = 0 ∧ (∀ a, Memory.byte State.reset.mem a = 0) ∧ State.reset.tags = [] ∧ State.reset.objs = [] ∧
  State.reset.teams = [] ∧ State.reset.sessions = [] ∧ (∀ a, State.reset.modeOf a = 0) ∧
  (∀ w, (State.reset.slotOf w).st = if w = 0 then .armed else .empty) ∧ (∀ w, (State.reset.slotOf w).sessions = 0) ∧
  State.reset.errlog = [] ∧ State.reset.pasids = [] ∧ State.reset.conns = [] ∧ State.reset.fw.cmd = none ∧
  Memory.wf State.reset.mem = true ∧ ∀ p ∈ State.reset.teams, Memory.wf p.2.sp = true

/-- R20, R21, R25-R27, R32, R256: what one register write does to a thread: the register reads as written, a data write clears
its quad's tag, a quad's write carries its tag, and every other register keeps its value. -/
def Obligations.RegisterWrites : Prop :=
  (∀ (t : Thread) (n : Nat) (w : Word), n < t.v.length →
    t.apply (.v n w) = { t with v := (t.apply (.v n w)).v, vtag := (t.apply (.v n w)).vtag, held := w :: t.held } ∧
    (t.apply (.v n w)).rdV n = w ∧ (∀ k, k ≠ n → (t.apply (.v n w)).rdV k = t.rdV k) ∧
    ((t.apply (.v n w)).quad (n / 4)).tag = false ∧
    ∀ m, m ≠ n / 4 → (t.apply (.v n w)).quad m = t.quad m) ∧
  (∀ (t : Thread) (m : Nat) (c : Cap), 4 * m + 3 < t.v.length → m < t.vtag.length →
    t.apply (.quad m c) = { t with v := (t.apply (.quad m c)).v, vtag := (t.apply (.quad m c)).vtag,
                                   held := (t.apply (.quad m c)).held } ∧
    (t.apply (.quad m c)).quad m = c ∧ ∀ j, j ≠ m → (t.apply (.quad m c)).quad j = t.quad j) ∧
  (∀ (t : Thread) (n : Nat) (w : Word), n < t.o.length → t.oval.length = t.o.length →
    let u := t.apply (.o n w)
    u = { t with o := u.o, oval := u.oval, held := w :: t.held } ∧ u.o[n]? = some w ∧ u.oval[n]? = some true ∧
      ∀ k, k ≠ n → u.o[k]? = t.o[k]? ∧ u.oval[k]? = t.oval[k]?) ∧
  (∀ (t : Thread) (n : Fin 7) (b : Bool), t.p.length = 7 →
    let u := t.apply (.p n b)
    u = { t with p := u.p } ∧ flagAt u.p n.val = b ∧ ∀ k, k ≠ n.val → flagAt u.p k = flagAt t.p k) ∧
  (∀ (t : Thread) (k : Fin 4) (w : BitVec 16), t.x.length = 4 →
    let u := t.apply (.x k w)
    u = { t with x := u.x, held := u.held } ∧ u.x[k.val]? = some w ∧ ∀ j, j ≠ k.val → u.x[j]? = t.x[j]?) ∧
  (∀ (t : Thread) (w : Word), (t.apply (.fps w)).fps = w ∧ (t.apply (.fpsOr w)).fps = t.fps ||| w) ∧
  (∀ (t : Thread) (w : Word), ∃ u, t.setItem 5 w = some u ∧ u.fps = w &&& 0x1F#32 ∧ u = { t with fps := u.fps, held := u.held }) ∧
  (∀ (t : Thread) (w : Word) (k : Nat), t.x.length = 4 → k < 2 → ∃ u, t.setItem (6 + k) w = some u ∧
    u = { t with x := u.x, held := u.held } ∧ u.x[2 * k]? = some (w.extractLsb' 0 16 &&& 0xFF7F#16) ∧
    u.x[2 * k + 1]? = some (w.extractLsb' 16 16 &&& 0xFF7F#16) ∧ ∀ j, j / 2 ≠ k → u.x[j]? = t.x[j]?) ∧
  ∀ (g : Group) (lane n : Nat) (w : Word) (c : Cap), n < g.s.length →
    (g.apply lane (.s n w)) = { g with s := (g.apply lane (.s n w)).s } ∧ (g.apply lane (.s n w)).s[n]? = some w ∧
    (∀ k, k ≠ n → (g.apply lane (.s n w)).s[k]? = g.s[k]?) ∧
    (n < g.k.length → (g.apply lane (.k n c)) = { g with k := (g.apply lane (.k n c)).k } ∧
      (g.apply lane (.k n c)).k[n]? = some c ∧ ∀ j, j ≠ n → (g.apply lane (.k n c)).k[j]? = g.k[j]?)

/-- R223-R226: two products on one bank give the same entries, the same status word and the same count in either order.
-/
def Obligations.ProductsCommute : Prop :=
  ∀ (t : Team) (b : Bank) (m1 r1 n1 s1 a1 m2 r2 n2 s2 a2 : Nat), NMap.rising b.entries = true →
    let x := t.stage (t.stage b m1 r1 n1 s1 a1) m2 r2 n2 s2 a2
    let y := t.stage (t.stage b m2 r2 n2 s2 a2) m1 r1 n1 s1 a1
    (∀ n, x.entry n = y.entry n) ∧ x.word = y.word ∧ x.count = y.count

/-- R125, R126, R134, R136-R138, R140: no capability word gives authority that its source lacks: bounds never widen,
permissions are never added, and a tagged result is well formed. -/
def Obligations.AuthorityNeverGrows : Prop :=
  (∀ (c : Cap), c.tag = true → c.wellFormed = true →
    (∀ a, (c.move a).addr = a ∧
      ((c.move a).tag = true ↔ c.bblk ≤ (a.toNat / c.blk : Nat) ∧ (a.toNat / c.blk : Nat) ≤ c.bblk + 3) ∧
      ((c.move a).tag = true → (c.move a).decode = c.decode ∧ (c.move a).wellFormed = true ∧ (c.move a).perms = c.perms ∧
        (c.move a).space = c.space ∧ (c.move a).otype = c.otype)) ∧
    (∀ n ex d, c.bound n ex = .ok d → d.tag = true ∧ d.wellFormed = true ∧ d.perms = c.perms ∧ d.space = c.space ∧
      d.addr = c.addr ∧ c.decode.1 ≤ d.decode.1 ∧ d.decode.1 ≤ c.addr.toNat ∧ c.addr.toNat + n ≤ d.decode.2 ∧
      d.decode.2 ≤ c.decode.2 ∧ (ex = true → d.decode = (c.addr.toNat, c.addr.toNat + n))) ∧
    (∀ m, (c.withPerms (c.perms &&& m)).decode = c.decode ∧ (c.withPerms (c.perms &&& m)).perms &&& ~~~ c.perms = 0) ∧
    (∀ y d, capSealBy c y = .ok d → d.tag = true ∧ d.decode = c.decode ∧ d.perms = c.perms ∧ d.space = c.space ∧
      d.otype = y.addr.toNat) ∧
    (∀ y d, capUnsealBy c y = .ok d → d.tag = true ∧ d.decode = c.decode ∧ d.perms &&& ~~~ c.perms = 0 ∧ d.otype = 0)) ∧
  ∀ (a p d : Cap), capMintBy a p = .ok d → d.tag = true ∧ d.bits = p.bits ∧ d.wellFormed = true ∧ d.space = a.space ∧
    d.perms &&& ~~~ a.perms = 0 ∧ a.decode.1 ≤ d.decode.1 ∧ d.decode.2 ≤ a.decode.2
end

