-- ==== Sys2Proof/Laws/Lanes.lean ====
section
/-! SUPPORT. What the issue of a word does to one thread (R11, R18-R23, R27, R28, R61): `Thread.issueLane` and
`Thread.issueMember` meet `Thread.Acted` and `Thread.Passed`. -/

namespace Sys2Proof.Machine

open Sys2Proof

theorem getD_set_ne {α : Type} (l : List α) {n m : Nat} (x d : α) (h : m ≠ n) : (l.set n x).getD m d = l.getD m d := by
  rw [List.getD_eq_getElem?_getD, List.getD_eq_getElem?_getD, List.getElem?_set_ne (Ne.symm h)]

theorem flagAt_set_false (l : List Bool) (n : Nat) : flagAt (l.set n false) n = false := by
  unfold flagAt
  rw [List.getD_eq_getElem?_getD, List.getElem?_set]
  rw [if_pos rfl]
  split_ifs <;> rfl

theorem flagAt_set_false_of (l : List Bool) (n m : Nat) (h : flagAt l m = false) : flagAt (l.set n false) m = false := by
  by_cases e : m = n
  · subst e; exact flagAt_set_false l m
  · unfold flagAt at *
    rw [getD_set_ne _ _ _ e]; exact h

theorem staleBy_home (hs : List Home) (l : Latch) : (staleBy hs l).home = l.home := by
  unfold staleBy; split_ifs <;> rfl

/-- One more home. -/
theorem staleBy_snoc (hs : List Home) (h : Home) (l : Latch) :
    staleBy (hs ++ [h]) l = if (staleBy hs l).home = some h then { staleBy hs l with stale := true } else staleBy hs l := by
  rw [staleBy_home]
  unfold staleBy
  by_cases c : ∃ w ∈ hs, l.home = some w
  · obtain ⟨w, hw, e⟩ := c
    have c1 : ∃ w ∈ hs ++ [h], l.home = some w := ⟨w, List.mem_append_left _ hw, e⟩
    have c2 : ∃ w ∈ hs, l.home = some w := ⟨w, hw, e⟩
    rw [if_pos c1, if_pos c2]
    split_ifs <;> rfl
  · rw [if_neg c]
    by_cases e : l.home = some h
    · have c1 : ∃ w ∈ hs ++ [h], l.home = some w := ⟨h, by simp, e⟩
      rw [if_pos e, if_pos c1]
    · rw [if_neg e, if_neg]
      rintro ⟨w, hw, e'⟩
      rcases List.mem_append.1 hw with hw | hw
      · exact c ⟨w, hw, e'⟩
      · rw [List.mem_singleton.1 hw] at e'; exact e e'

/-! ### Reading registers dead and making latches stale (R19, R23) -/

theorem Thread.spent_refl (t : Thread) : t.Spent [] [] t where
  rest := rfl
  size := ⟨rfl, rfl⟩
  regs := fun _ _ => rfl
  tags := fun _ _ => rfl
  untagged := fun _ h => by simp at h
  latches := by
    have : staleBy [] = id := by funext l; simp [staleBy]
    simp [this]

theorem Thread.Spent.stale {t k : Thread} {dead : List Nat} {wrote : List Home} (s : t.Spent dead wrote k) (h : Home) :
    t.Spent dead (wrote ++ [h]) (k.stale h) where
  rest := by
    unfold Thread.stale
    rw [s.rest]
  size := s.size
  regs := s.regs
  tags := s.tags
  untagged := s.untagged
  latches := by
    unfold Thread.stale
    simp only [s.latches, List.map_map, ← List.append_assoc]
    exact List.map_congr_left fun l _ => (staleBy_snoc _ h l).symm

theorem Thread.Spent.staleAll {t k : Thread} {dead : List Nat} {wrote : List Home} (s : t.Spent dead wrote k)
    (hs : List Home) : t.Spent dead (wrote ++ hs) (hs.foldl Thread.stale k) := by
  induction hs generalizing wrote k with
  | nil => simpa using s
  | cons h r ih => simpa using ih (s.stale h)

theorem Thread.Spent.kill1 {t k : Thread} {dead : List Nat} (s : t.Spent dead [] k) (n : Nat) (w : Word) :
    t.Spent (dead ++ [n]) [] ({ (k.wrV n w) with held := k.held }.stale (.v n)) where
  rest := by
    unfold Thread.stale Thread.wrV
    rw [s.rest]
  size := by
    have := s.size
    simpa [Thread.stale, Thread.wrV] using this
  regs := by
    intro m hm
    simp only [List.mem_append, List.mem_singleton, not_or] at hm
    have := s.regs m hm.1
    unfold Thread.rdV at *
    simp only [Thread.stale, Thread.wrV]
    rw [getD_set_ne _ _ _ hm.2]
    exact this
  tags := by
    intro m hm
    have h1 := s.tags m fun j hj => hm j (by simp [hj])
    have h2 := hm n (by simp)
    unfold flagAt at *
    simp only [Thread.stale, Thread.wrV]
    rw [getD_set_ne _ _ _ (Ne.symm h2)]
    exact h1
  untagged := by
    intro m hm
    simp only [Thread.stale, Thread.wrV]
    rcases List.mem_append.1 hm with hm | hm
    · exact flagAt_set_false_of _ _ _ (s.untagged m hm)
    · rw [List.mem_singleton.1 hm]; exact flagAt_set_false _ _
  latches := by
    have hb := s.latches
    simp only [List.append_nil] at hb
    simp only [Thread.stale, Thread.wrV, hb, List.map_map, List.map_append, List.map_cons, List.map_nil, List.append_nil]
    exact List.map_congr_left fun l _ => (staleBy_snoc _ (.v n) l).symm

theorem Thread.Spent.kill {t k : Thread} {dead : List Nat} (s : t.Spent dead [] k) (draw : Nat) (l : List Nat) :
    t.Spent (dead ++ l) [] (k.kill draw l) := by
  induction l generalizing dead k draw with
  | nil => simpa [Thread.kill] using s
  | cons n r ih =>
    have := ih (s.kill1 n (undefWord draw k (k.rdV n))) (draw + 1)
    simpa [Thread.kill] using this

/-! ### The latch chain, and the writes of the issue cycle -/

theorem Thread.foldl_shift (k : Thread) (ready : Nat) (l : List (Word × Option Home)) :
    ∃ h, l.foldl (fun t p => t.shift p.1 p.2 ready) k = { k with b := pushLatches ready k.b l, held := h } := by
  induction l generalizing k with
  | nil => exact ⟨k.held, rfl⟩
  | cons p r ih =>
    obtain ⟨h, e⟩ := ih (k.shift p.1 p.2 ready)
    exact ⟨h, by simpa [Thread.shift, pushLatches] using e⟩

theorem Thread.apply_held (k : Thread) (h : List Word) (u : Upd) :
    { ({ k with held := h }.apply u) with held := [] } = { (k.apply u) with held := [] } := by
  cases u <;> rfl

theorem Thread.foldl_apply_held (l : List Upd) (k m : Thread) (e : { k with held := [] } = { m with held := [] }) :
    { (l.foldl Thread.apply k) with held := [] } = { (l.foldl Thread.apply m) with held := [] } := by
  induction l generalizing k m with
  | nil => exact e
  | cons u r ih =>
    apply ih
    rw [← Thread.apply_held k [], ← Thread.apply_held m [], e]

theorem Thread.foldl_apply_words (l : List Upd) (k : Thread) : (l.foldl Thread.apply k).words = k.words := by
  induction l generalizing k with
  | nil => rfl
  | cons u r ih =>
    rw [List.foldl_cons, ih]
    cases u <;> rfl

theorem Thread.foldl_apply_xfer (l : List Upd) (k : Thread) : (l.foldl Thread.apply k).xfer = k.xfer := by
  induction l generalizing k with
  | nil => rfl
  | cons u r ih =>
    rw [List.foldl_cons, ih]
    cases u <;> rfl

theorem Thread.foldl_apply_fenced (l : List Upd) (k : Thread) :
    (l.foldl Thread.apply k).fenced = k.fenced ∧ (l.foldl Thread.apply k).fetchGates = k.fetchGates := by
  induction l generalizing k with
  | nil => exact ⟨rfl, rfl⟩
  | cons u r ih =>
    rw [List.foldl_cons, (ih _).1, (ih _).2]
    cases u <;> exact ⟨rfl, rfl⟩

theorem Thread.foldl_apply_gates (l : List Upd) (k : Thread) : (l.foldl Thread.apply k).gates = k.gates := by
  induction l generalizing k with
  | nil => rfl
  | cons u r ih =>
    rw [List.foldl_cons, ih]
    cases u <;> rfl

/-- An issued word leaves what its thread's next accesses follow. -/
theorem Thread.Acted.gates {t u : Thread} {dead : List Nat} {r : LaneOut} {cycle op : Nat} {next : DWord}
    {sf : Option (Fin 12)} {count : Bool} (h : t.Acted dead r cycle op next sf count u) : u.gates = t.gates := by
  obtain ⟨k, hk, hu⟩ := h
  have h1 := congrArg Thread.gates hu
  have h2 : k.gates = t.gates := by rw [hk.rest]
  simpa only [Thread.bare, Thread.foldl_apply_gates, h2] using h1

theorem Thread.Passed.gates {t u : Thread} {cycle : Nat} {next : DWord} {count : Bool}
    (h : t.Passed cycle next count u) : u.gates = t.gates := (congrArg Thread.gates h :)

/-- What the issue of a word does in a lane in which it acts. -/
theorem Thread.issueLane_acted (t : Thread) (draw cycle op : Nat) (sf : Option (Fin 12)) (dead : List Nat) (r : LaneOut)
    (next : DWord) (count : Bool) (u : Thread)
    (hu : u.bare = (((t.issueLane draw cycle sf dead r).issueMember cycle (r.next.getD next) count).transfer op r).bare) :
    t.Acted dead r cycle op next sf count u := by
  have s0 : t.Spent dead [] (t.kill draw dead) := by simpa using t.spent_refl.kill draw dead
  have s1 := s0.staleAll (r.upds.flatMap Upd.homes)
  simp only [List.nil_append] at s1
  refine ⟨_, s1, ?_⟩
  obtain ⟨h, e⟩ := Thread.foldl_shift ((r.upds.flatMap Upd.homes).foldl Thread.stale (t.kill draw dead))
    (cycle + aluLatency) r.latch
  have hw : (t.kill draw dead).words = t.words := by rw [s0.rest]
  have hw1 : ((r.upds.flatMap Upd.homes).foldl Thread.stale (t.kill draw dead)).words = t.words := by rw [s1.rest]
  have hx1 : ((r.upds.flatMap Upd.homes).foldl Thread.stale (t.kill draw dead)).xfer = t.xfer := by rw [s1.rest]
  have hf1 : ((r.upds.flatMap Upd.homes).foldl Thread.stale (t.kill draw dead)).fenced = t.fenced := by rw [s1.rest]
  have hg1 : ((r.upds.flatMap Upd.homes).foldl Thread.stale (t.kill draw dead)).fetchGates = t.fetchGates := by rw [s1.rest]
  simp only [Thread.issueLane, e] at hu
  have key := Thread.foldl_apply_held r.now
    { ((r.upds.flatMap Upd.homes).foldl Thread.stale (t.kill draw dead)) with
      b := pushLatches (cycle + 4) ((r.upds.flatMap Upd.homes).foldl Thread.stale (t.kill draw dead)).b r.latch, held := h }
    { ((r.upds.flatMap Upd.homes).foldl Thread.stale (t.kill draw dead)) with
      b := pushLatches (cycle + 4) ((r.upds.flatMap Upd.homes).foldl Thread.stale (t.kill draw dead)).b r.latch,
      held := u.held } rfl
  simp only [aluLatency] at hu
  dsimp only
  revert hu key
  generalize hx : List.foldl Thread.apply _ r.now = x
  generalize List.foldl Thread.apply _ r.now = y
  intro hu key
  have kw : x.words = t.words := by rw [← hx, Thread.foldl_apply_words]; exact hw1
  have kx : x.xfer = t.xfer := by rw [← hx, Thread.foldl_apply_xfer]; exact hx1
  have kf : x.fenced = t.fenced := by rw [← hx, (Thread.foldl_apply_fenced _ _).1]; exact hf1
  have kg : x.fetchGates = t.fetchGates := by rw [← hx, (Thread.foldl_apply_fenced _ _).2]; exact hg1
  have hy : y = { x with held := y.held } := by
    have := congrArg (fun z : Thread => { z with held := y.held }) key
    exact this.symm
  rw [hy]
  cases hp : r.park with
  | none =>
    rw [hp] at hu
    have hh : u.held = if r.fps = 0 then x.held else (x.fps ||| r.fps) :: x.held := (congrArg Thread.held hu :)
    rw [hu, hh, ← kw, ← kx, ← kf, ← kg]
    rfl
  | some p =>
    rw [hp] at hu
    have hh : u.held = if r.fps = 0 then x.held else (x.fps ||| r.fps) :: x.held := (congrArg Thread.held hu :)
    rw [hu, hh, ← kw, ← kx, ← kf, ← kg]
    rfl

/-- A member lane that is not visited. -/
theorem Thread.issueMember_passed (t : Thread) (cycle : Nat) (next : DWord) (count : Bool) (u : Thread)
    (hu : u.bare = (t.issueMember cycle next count).bare) : t.Passed cycle next count u := hu

end Sys2Proof.Machine
end

