-- ==== Sys2Proof/Laws/Tables.lean ====
section
/-! SUPPORT. Laws of the sparse tables and of memory: what a read gives after a write, and that memory operations keep
the canonical form. -/

namespace Sys2Proof.Machine

open Sys2Proof

/-! ### Tables -/

@[simp] theorem NMap.look_put {α : Type} (m : NMap α) (n : Nat) (v : α) : (m.put n v).look n = some v := by
  induction m with
  | nil => simp [NMap.put, NMap.look]
  | cons p r ih =>
    obtain ⟨k, a⟩ := p
    unfold NMap.put
    split_ifs with h1 h2
    · simp [NMap.look]
    · simp [NMap.look]
    · simp only [NMap.look]
      rw [if_neg (fun h => h2 h.symm)]
      exact ih

theorem NMap.look_put_ne {α : Type} (m : NMap α) {n j : Nat} (v : α) (h : j ≠ n) : (m.put n v).look j = m.look j := by
  induction m with
  | nil => simp [NMap.put, NMap.look, Ne.symm h]
  | cons p r ih =>
    obtain ⟨k, a⟩ := p
    unfold NMap.put
    split_ifs with h1 h2
    · simp [NMap.look, Ne.symm h]
    · subst h2; simp [NMap.look, Ne.symm h]
    · simp only [NMap.look, ih]

theorem NMap.look_mapv {α : Type} (m : NMap α) (f : Nat → α → α) (n : Nat) :
    (m.mapv f).look n = (m.look n).map (f n) := by
  induction m with
  | nil => rfl
  | cons p r ih =>
    obtain ⟨k, a⟩ := p
    simp only [NMap.mapv, List.map_cons, NMap.look]
    split_ifs with h
    · subst h; rfl
    · exact ih

@[simp] theorem NMap.look_upd {α : Type} (m : NMap α) (n : Nat) (f : α → α) :
    (m.upd n f).look n = (m.look n).map f := by
  unfold NMap.upd
  split <;> simp [*]

theorem NMap.look_upd_ne {α : Type} (m : NMap α) {n j : Nat} (f : α → α) (h : j ≠ n) : (m.upd n f).look j = m.look j := by
  unfold NMap.upd
  split
  · rfl
  · exact NMap.look_put_ne m _ h

/-! ### Rising keys -/

theorem NMap.rising_cons {α : Type} (a : Nat × α) (r : NMap α) :
    NMap.rising (a :: r) = true ↔ (∀ b ∈ r.head?, a.1 < b.1) ∧ NMap.rising r = true := by
  cases r with
  | nil => simp [NMap.rising]
  | cons b r => simp [NMap.rising]

theorem NMap.rising_iff {α : Type} (m : NMap α) : NMap.rising m = true ↔ m.Pairwise fun a b => a.1 < b.1 := by
  induction m with
  | nil => simp [NMap.rising]
  | cons a r ih =>
    rw [NMap.rising_cons, ih, List.pairwise_cons]
    constructor
    · rintro ⟨h, hr⟩
      refine ⟨fun b hb => ?_, hr⟩
      cases r with
      | nil => simp at hb
      | cons c r =>
        have hc : a.1 < c.1 := h c (by simp)
        rcases List.mem_cons.1 hb with rfl | hb
        · exact hc
        · exact lt_trans hc ((List.pairwise_cons.1 hr).1 b hb)
    · rintro ⟨h, hr⟩
      exact ⟨fun b hb => h b (List.mem_of_mem_head? hb), hr⟩

theorem NMap.mem_put {α : Type} {m : NMap α} {n : Nat} {v : α} {p : Nat × α} (h : p ∈ m.put n v) :
    p = (n, v) ∨ p ∈ m := by
  induction m with
  | nil => simp [NMap.put] at h; exact .inl h
  | cons q r ih =>
    obtain ⟨k, a⟩ := q
    unfold NMap.put at h
    split_ifs at h with h1 h2
    · simp only [List.mem_cons] at h ⊢; tauto
    · simp only [List.mem_cons] at h ⊢; tauto
    · simp only [List.mem_cons] at h ⊢
      rcases h with h | h
      · tauto
      · rcases ih h with h | h <;> tauto

theorem NMap.mem_del {α : Type} {m : NMap α} {n : Nat} {p : Nat × α} (h : p ∈ m.del n) : p ∈ m := by
  induction m with
  | nil => simp [NMap.del] at h
  | cons q r ih =>
    obtain ⟨k, a⟩ := q
    unfold NMap.del at h
    split_ifs at h with h1
    · exact List.mem_cons_of_mem _ h
    · simp only [List.mem_cons] at h ⊢
      rcases h with h | h
      · exact .inl h
      · exact .inr (ih h)

theorem NMap.rising_put {α : Type} {m : NMap α} (h : NMap.rising m = true) (n : Nat) (v : α) :
    NMap.rising (m.put n v) = true := by
  rw [NMap.rising_iff] at *
  induction m with
  | nil => simp [NMap.put]
  | cons q r ih =>
    obtain ⟨k, a⟩ := q
    obtain ⟨h1, h2⟩ := List.pairwise_cons.1 h
    unfold NMap.put
    split_ifs with c1 c2
    · refine List.pairwise_cons.2 ⟨fun b hb => ?_, h⟩
      rcases List.mem_cons.1 hb with rfl | hb
      · exact c1
      · exact lt_trans c1 (h1 b hb)
    · subst c2
      exact List.pairwise_cons.2 ⟨fun b hb => h1 b hb, h2⟩
    · refine List.pairwise_cons.2 ⟨fun b hb => ?_, ih h2⟩
      rcases NMap.mem_put hb with rfl | hb
      · show k < n
        omega
      · exact h1 b hb

theorem NMap.rising_del {α : Type} {m : NMap α} (h : NMap.rising m = true) (n : Nat) :
    NMap.rising (m.del n) = true := by
  rw [NMap.rising_iff] at *
  induction m with
  | nil => simp [NMap.del]
  | cons q r ih =>
    obtain ⟨k, a⟩ := q
    obtain ⟨h1, h2⟩ := List.pairwise_cons.1 h
    unfold NMap.del
    split_ifs
    · exact h2
    · exact List.pairwise_cons.2 ⟨fun b hb => h1 b (NMap.mem_del hb), ih h2⟩

/-- In a table with rising keys, dropping a key leaves nothing there. -/
theorem NMap.look_del {α : Type} {m : NMap α} (h : NMap.rising m = true) (n : Nat) : (m.del n).look n = none := by
  rw [NMap.rising_iff] at h
  induction m with
  | nil => rfl
  | cons q r ih =>
    obtain ⟨k, a⟩ := q
    obtain ⟨h1, h2⟩ := List.pairwise_cons.1 h
    unfold NMap.del
    split_ifs with hk
    · subst hk
      clear ih
      have : ∀ l : NMap α, (∀ b ∈ l, k < b.1) → NMap.look l k = none := by
        intro l hl
        induction l with
        | nil => rfl
        | cons b l il =>
          obtain ⟨kb, ab⟩ := b
          have hb : k < kb := hl (kb, ab) (by simp)
          simp only [NMap.look]
          rw [if_neg (by omega)]
          exact il fun b hb => hl b (by simp [hb])
      exact this r h1
    · simp only [NMap.look]
      rw [if_neg hk]
      exact ih h2

theorem NMap.look_del_ne {α : Type} (m : NMap α) {n j : Nat} (h : j ≠ n) : (m.del n).look j = m.look j := by
  induction m with
  | nil => rfl
  | cons q r ih =>
    obtain ⟨k, a⟩ := q
    unfold NMap.del
    split_ifs with hk
    · subst hk
      simp [NMap.look, Ne.symm h]
    · simp only [NMap.look, ih]

/-! ### Memory -/

theorem Memory.wf_iff (m : Memory) : Memory.wf m = true ↔ NMap.rising m = true ∧ ∀ c ∈ m, c.2 ≠ 0 := by
  simp [Memory.wf]

theorem Memory.wf_nil : Memory.wf [] = true := rfl

theorem Memory.wf_setByte {m : Memory} (h : Memory.wf m = true) (a : Nat) (b : Byte) :
    Memory.wf (Memory.setByte m a b) = true := by
  rw [Memory.wf_iff] at *
  unfold Memory.setByte
  split_ifs with hb
  · exact ⟨NMap.rising_del h.1 a, fun c hc => h.2 c (NMap.mem_del hc)⟩
  · refine ⟨NMap.rising_put h.1 a b, fun c hc => ?_⟩
    rcases NMap.mem_put hc with rfl | hc
    · exact hb
    · exact h.2 c hc

theorem Memory.wf_setBytes {m : Memory} (h : Memory.wf m = true) (a : Nat) (l : List Byte) :
    Memory.wf (Memory.setBytes m a l) = true := by
  induction l generalizing m a with
  | nil => exact h
  | cons b r ih => exact ih (Memory.wf_setByte h a b) (a + 1)

theorem Memory.wf_filter {m : Memory} (h : Memory.wf m = true) (p : Host.Cell → Bool) :
    Memory.wf (m.filter p) = true := by
  rw [Memory.wf_iff, NMap.rising_iff] at *
  exact ⟨h.1.filter p, fun c hc => h.2 c (List.mem_of_mem_filter hc)⟩

theorem Memory.wf_clear {m : Memory} (h : Memory.wf m = true) (a n : Nat) : Memory.wf (Memory.clear m a n) = true :=
  Memory.wf_filter h _

/-- R7, R447: a byte read back where it was written. -/
theorem Memory.byte_setByte {m : Memory} (h : Memory.wf m = true) (a : Nat) (b : Byte) :
    Memory.byte (Memory.setByte m a b) a = b := by
  unfold Memory.byte Memory.setByte
  split_ifs with hb
  · rw [NMap.look_del ((Memory.wf_iff m).1 h).1, hb]; rfl
  · rw [NMap.look_put]; rfl

theorem Memory.byte_setByte_ne (m : Memory) {a j : Nat} (b : Byte) (h : j ≠ a) :
    Memory.byte (Memory.setByte m a b) j = Memory.byte m j := by
  unfold Memory.byte Memory.setByte
  split_ifs
  · rw [NMap.look_del_ne m h]
  · rw [NMap.look_put_ne m b h]

/-- A write of bytes leaves every byte outside them alone. -/
theorem Memory.byte_setBytes_out (m : Memory) (a : Nat) (l : List Byte) {j : Nat} (h : j < a ∨ a + l.length ≤ j) :
    Memory.byte (Memory.setBytes m a l) j = Memory.byte m j := by
  induction l generalizing m a with
  | nil => rfl
  | cons b r ih =>
    rw [List.length_cons] at h
    rw [Memory.setBytes, ih _ (a + 1) (by omega), Memory.byte_setByte_ne m b (by omega)]

/-- A written byte reads back. -/
theorem Memory.byte_setBytes_in {m : Memory} (hm : Memory.wf m = true) (a : Nat) (l : List Byte) {k : Nat}
    (h : k < l.length) : Memory.byte (Memory.setBytes m a l) (a + k) = l.getD k 0 := by
  induction l generalizing m a k with
  | nil => simp at h
  | cons b r ih =>
    cases k with
    | zero =>
      rw [Memory.setBytes, Memory.byte_setBytes_out _ _ _ (by omega)]
      simpa using Memory.byte_setByte hm a b
    | succ k =>
      have := ih (Memory.wf_setByte hm a b) (a + 1) (k := k) (by simpa using h)
      rw [Memory.setBytes, show a + (k + 1) = a + 1 + k by omega, this]
      simp

theorem Memory.bytes_length (m : Memory) (a n : Nat) : (Memory.bytes m a n).length = n := by
  induction n generalizing a with
  | zero => rfl
  | succ n ih => simp [Memory.bytes, ih]

theorem Memory.bytes_getD (m : Memory) (a n k : Nat) (h : k < n) :
    (Memory.bytes m a n).getD k 0 = Memory.byte m (a + k) := by
  induction n generalizing a k with
  | zero => omega
  | succ n ih =>
    cases k with
    | zero => simp [Memory.bytes]
    | succ k =>
      have := ih (a + 1) k (by omega)
      simp only [Memory.bytes, List.getD_cons_succ, this]
      congr 1; omega

/-- Bytes written read back whole. -/
theorem Memory.bytes_setBytes {m : Memory} (hm : Memory.wf m = true) (a : Nat) (l : List Byte) :
    Memory.bytes (Memory.setBytes m a l) a l.length = l := by
  apply List.ext_getElem
  · exact Memory.bytes_length _ _ _
  · intro k h1 h2
    have h3 := Memory.bytes_getD (Memory.setBytes m a l) a l.length k h2
    rw [Memory.byte_setBytes_in hm a l h2] at h3
    simpa [List.getD_eq_getElem?_getD, List.getElem?_eq_getElem, h1, h2] using h3

/-- Two states of memory that differ outside a range give the same bytes in it. -/
theorem Memory.bytes_congr {m m' : Memory} {a n : Nat} (h : ∀ j, a ≤ j → j < a + n → Memory.byte m j = Memory.byte m' j) :
    Memory.bytes m a n = Memory.bytes m' a n := by
  induction n generalizing a with
  | zero => rfl
  | succ n ih =>
    rw [Memory.bytes, Memory.bytes, h a (le_refl a) (by omega), ih fun j h1 h2 => h j (by omega) (by omega)]

end Sys2Proof.Machine
end

