-- ==== Sys2Proof/Laws/Placement.lean ====
section
/-! SUPPORT. What the PCC and PC tables may change (R13, R162-R166): of a thread, only how it holds its code
capability; of its group, only the tables, the queue and the count of R166. -/

namespace Sys2Proof.Machine

open Sys2Proof

/-- `h` is `g` after some placements: nothing else of it has changed. -/
def Group.Placed (g h : Group) : Prop :=
  h = { g with threads := h.threads, pcc := h.pcc, pct := h.pct, queue := h.queue, joining := h.joining, crowd := h.crowd } ∧
    ∀ l, (h.threads.look l).map Thread.bare = (g.threads.look l).map Thread.bare

theorem Group.Placed.refl (g : Group) : g.Placed g := ⟨rfl, fun _ => rfl⟩

theorem Group.Placed.trans {a b c : Group} (h : a.Placed b) (k : b.Placed c) : a.Placed c := by
  refine ⟨?_, fun l => (k.2 l).trans (h.2 l)⟩
  rw [k.1, h.1]

theorem Group.placed_upThread (g : Group) (lane : Nat) (f : Thread → Thread) (hf : ∀ t, (f t).bare = t.bare) :
    g.Placed (g.upThread lane f) := by
  refine ⟨rfl, fun l => ?_⟩
  by_cases h : l = lane
  · subst h
    simp only [Group.upThread, NMap.look_upd, Option.map_map]
    congr 1
    funext t
    exact hf t
  · simp only [Group.upThread, NMap.look_upd_ne _ _ h]

theorem Group.placed_mapThreads (g : Group) (f : Nat → Thread → Thread) (hf : ∀ l t, (f l t).bare = t.bare) :
    g.Placed (g.mapThreads f) := by
  refine ⟨rfl, fun l => ?_⟩
  simp only [Group.mapThreads, NMap.look_mapv, Option.map_map]
  congr 1
  funext t
  exact hf l t

theorem Group.placed_pccSweep (g : Group) : g.Placed g.pccSweep := ⟨rfl, fun _ => rfl⟩

theorem Group.placed_freeEntry (g : Group) (i : Nat) : g.Placed (g.freeEntry i) := by
  unfold Group.freeEntry
  split
  · exact .refl g
  · exact ⟨rfl, fun _ => rfl⟩

theorem Group.placed_leaveLine (g : Group) (lane : Nat) : g.Placed (g.leaveLine lane) := ⟨rfl, fun _ => rfl⟩

theorem Group.placed_enqueue (g : Group) (lane : Nat) : g.Placed (g.enqueue lane) := ⟨rfl, fun _ => rfl⟩

theorem Group.placed_unhouse (g : Group) (lane : Nat) : g.Placed (g.unhouse lane) := by
  unfold Group.unhouse
  dsimp only
  split
  · exact .trans ⟨rfl, fun _ => rfl⟩ (Group.placed_freeEntry _ _)
  · exact ⟨rfl, fun _ => rfl⟩

theorem Group.placed_house (g : Group) (lane pccx : Nat) (pc : DWord) : g.Placed (g.house lane pccx pc) := by
  unfold Group.house
  split
  · exact ⟨rfl, fun _ => rfl⟩
  · split
    · exact ⟨rfl, fun _ => rfl⟩
    · exact Group.placed_enqueue _ _

theorem Group.placed_pccGive (g : Group) (lane : Nat) (c : Cap) (i : Nat) : g.Placed (g.pccGive lane c i) :=
  .trans (b := { g with pcc := g.pcc.set i (some c) }) ⟨rfl, fun _ => rfl⟩
    (.trans (Group.placed_upThread _ lane (fun t => { t with pccx := i, want := none, backed := none }) fun _ => rfl)
      (Group.placed_pccSweep _))

theorem Group.placed_pccTake {g h : Group} {lane : Nat} {c : Cap} (e : g.pccTake lane c = some h) : g.Placed h := by
  unfold Group.pccTake at e
  have base : g.Placed ((g.upThread lane fun t => { t with want := some c }).pccSweep) :=
    .trans (Group.placed_upThread _ lane (fun t => { t with want := some c }) fun _ => rfl) (Group.placed_pccSweep _)
  dsimp only at e
  split at e
  · cases e; exact Group.placed_pccGive _ _ _ _
  · split at e
    · cases e; exact base.trans (Group.placed_pccGive _ _ _ _)
    · split at e
      · cases e
      · cases e
        refine base.trans (.trans (Group.placed_mapThreads _ _ fun l t => ?_) (Group.placed_pccGive _ _ _ _))
        split <;> rfl

theorem Group.placed_pccEnter {g h : Group} {lane : Nat} (e : g.pccEnter lane = some h) : g.Placed h := by
  unfold Group.pccEnter at e
  split at e
  · exact Group.placed_pccTake e
  · cases e; exact .refl g

theorem Group.placed_place (g : Group) (lane : Nat) : g.Placed (g.place lane) := by
  unfold Group.place
  split
  · exact .refl g
  · split
    · exact .refl g
    · split
      · exact Group.placed_enqueue _ _
      · rename_i e
        have hg := Group.placed_pccEnter e
        split
        · exact hg
        · exact hg.trans (Group.placed_house _ _ _ _)

theorem Group.placed_placeMember (ei : Nat) (a : Group × Bool) (lane : Nat) : a.1.Placed (Group.placeMember ei a lane).1 := by
  unfold Group.placeMember
  split
  · exact .refl _
  · split
    · exact .refl _
    · split
      · exact Group.placed_enqueue _ _
      · rename_i e
        have hg := Group.placed_pccEnter e
        split
        · exact hg
        · dsimp only
          split
          · exact hg.trans ⟨rfl, fun _ => rfl⟩
          · split
            · exact hg.trans (Group.placed_house _ _ _ _)
            · exact hg.trans ⟨rfl, fun _ => rfl⟩

theorem Group.placed_foldl {f : Group → Nat → Group} (hf : ∀ (g : Group) (l : Nat), g.Placed (f g l)) (lanes : List Nat) (g : Group) :
    g.Placed (lanes.foldl f g) := by
  induction lanes generalizing g with
  | nil => exact .refl g
  | cons l r ih => exact (hf g l).trans (ih (f g l))

theorem Group.placed_foldl_pair {f : Group × Bool → Nat → Group × Bool} (hf : ∀ (a : Group × Bool) (l : Nat), a.1.Placed (f a l).1)
    (lanes : List Nat) (a : Group × Bool) : a.1.Placed (lanes.foldl f a).1 := by
  induction lanes generalizing a with
  | nil => exact .refl a.1
  | cons l r ih => exact (hf a l).trans (ih (f a l))

theorem Group.placed_placeSpan (g : Group) (ei : Nat) (lanes : List Nat) : g.Placed (g.placeSpan ei lanes) := by
  unfold Group.placeSpan
  dsimp only
  split
  · exact Group.placed_foldl Group.placed_place lanes g
  · have start : g.Placed { g with pct := g.pct.modify ei fun e => e.map fun e => { e with mask := [] } } :=
      ⟨rfl, fun _ => rfl⟩
    have all := start.trans (Group.placed_foldl_pair (Group.placed_placeMember ei) lanes (_, false))
    split
    · exact all.trans (Group.placed_pccSweep _)
    · exact (all.trans (Group.placed_freeEntry _ ei)).trans (Group.placed_pccSweep _)

end Sys2Proof.Machine
end

