-- ==== Sys2Proof/Laws/Commit.lean ====
section
/-! SUPPORT. What an issued word does, said once: `Issue.commit` meets `Issue.Commits`, and so do the words built on
it, with what each adds to its team. -/

namespace Sys2Proof.Machine

open Sys2Proof

/-- What stands in issue. -/
theorem State.issue_some {s : State} {i : Issue} (h : s.issue = some i) :
    i.s = s ∧ s.sel = some i.x ∧ s.teams.look i.x.team = some i.t ∧ i.t.groups[i.x.g]? = some i.g ∧
      i.core = s.core i.x.core := by
  unfold State.issue at h
  split at h
  · cases h
  · split at h
    · cases h
    · split at h
      · cases h
      · cases h
        exact ⟨rfl, by assumption, by assumption, by assumption, rfl⟩

theorem onIssue_some {s : State} {i : Issue} (h : s.issue = some i) (k : Issue → State) : onIssue s k = .next (k i) := by
  simp [onIssue, h]

theorem onIssue_none {s : State} (h : s.issue = none) (k : Issue → State) : onIssue s k = .fault .noSpan := by
  simp [onIssue, h]

/-- The group of a commit before its placement. -/
theorem Group.Placed.threads_look {g h : Group} (p : g.Placed h) {l : Nat} {t : Thread} (e : g.threads.look l = some t) :
    ∃ u, h.threads.look l = some u ∧ u.bare = t.bare := by
  have := p.2 l
  rw [e] at this
  cases hu : h.threads.look l with
  | none => rw [hu] at this; cases this
  | some u =>
    rw [hu] at this
    exact ⟨u, rfl, Option.some.inj this⟩

theorem NMap.look_upd_if {α : Type} (m : NMap α) (n j : Nat) (f : α → α) :
    (m.upd n f).look j = (m.look j).map fun a => if j = n then f a else a := by
  by_cases h : j = n
  · subst h; simp
  · simp only [h, if_false, NMap.look_upd_ne _ _ h, Option.map_id']

/-- The group between the issue of a word and its placement. -/
def Issue.issuedGroup (i : Issue) (ins : Instr) (lat : Nat) (clearBy : Bool) (outs : List (Nat × LaneOut)) : Group :=
  let g := i.g.mapThreads fun l t =>
    if !i.x.lanes.contains l then t
    else
      match outs.find? (·.1 == l) with
      | none => t.issueMember i.core.cycle (i.x.pc + BitVec.ofNat 64 (wordLen ins)) i.t.desched
      | some (_, r) =>
        let t' := t.issueLane (i.s.draws + 128 * l) i.core.cycle (setsFlag clearBy lat i.x.ctl.sf r) (i.dead ins l t) r
        (t'.issueMember i.core.cycle (r.next.getD (i.x.pc + BitVec.ofNat 64 (wordLen ins))) i.t.desched).transfer i.t.nextOp r
  { g with issued := (g.issued + 1) % 2 ^ 32, skid := if i.t.st == .halting then g.skid + 1 else g.skid,
           crowd := if g.eligible.isSome then g.crowd + 1 else 0 }

/-- A commit is the placement of that group, put into its team. -/
theorem Issue.commit_eq (i : Issue) (ins : Instr) (kind : PendKind) (lat : Nat) (clearBy : Bool)
    (outs : List (Nat × LaneOut)) :
    ∃ g u, (i.issuedGroup ins lat clearBy outs).Placed g ∧
      u = { i.t with
            groups := (i.t.groups.set i.x.g g).mapIdx fun j gr => if j = i.x.g then gr else gr.mapThreads fun _ t => t.lose,
            pend := if (laterWrites clearBy i.x.ctl.sf outs).isEmpty then i.t.pend
                    else i.t.pend ++ [⟨i.core.cycle + lat, kind, i.x.g, laterWrites clearBy i.x.ctl.sf outs⟩],
            hold := i.nextHold (latchOnly outs) } ∧
      i.commit (wordLen ins) kind lat clearBy (i.dead ins) outs =
        { i.s.upTeam i.x.team (fun _ => u) with
          draws := i.s.draws + 16384, sel := none,
          ctxs := i.s.ctxs.upd i.t.ctx Ctx.issued } := by
  refine ⟨match i.g.entryOf i.x.pccx i.x.pc with
    | some e => (i.issuedGroup ins lat clearBy outs).placeSpan e i.x.lanes
    | none => i.x.lanes.foldl (fun g l => g.place l) (i.issuedGroup ins lat clearBy outs), _, ?_, rfl, rfl⟩
  split
  · exact Group.placed_placeSpan _ _ _
  · exact Group.placed_foldl Group.placed_place _ _

/-- R164, R28, R61, R18, R23: what committing a word does. -/
theorem Issue.commit_commits {s : State} {i : Issue} (hi : s.issue = some i) (ins : Instr) (kind : PendKind) (lat : Nat)
    (clearBy : Bool) (outs : List (Nat × LaneOut)) :
    i.Commits ins kind lat clearBy outs i.t (i.commit (wordLen ins) kind lat clearBy (i.dead ins) outs) := by
  obtain ⟨rfl, -, ht, hg, -⟩ := State.issue_some hi
  obtain ⟨g, u, hp, rfl, e⟩ := i.commit_eq ins kind lat clearBy outs
  rw [e]
  refine ⟨rfl, fun _ => rfl, fun n hn => NMap.look_upd_ne _ _ hn, fun n => NMap.look_upd_if _ _ _ _, _,
    (NMap.look_upd _ _ _).trans (congrArg (Option.map _) ht), ?_⟩
  · have hlen : i.x.g < i.t.groups.length := (List.getElem?_eq_some_iff.1 hg).1
    refine ⟨rfl, ?_, rfl, fun j hj => ?_, g, ?_, ?_⟩
    · dsimp only
      by_cases hw : laterWrites clearBy i.x.ctl.sf outs = []
      · simp [hw]
      · simp [hw]
    · simp only [List.getElem?_mapIdx, List.getElem?_set_ne (Ne.symm hj), if_neg hj]
    · simp [hlen]
    · refine ⟨?_, ?_, ?_, ?_, ?_, ?_⟩
      · rw [hp.1]; rfl
      · rw [hp.1]; rfl
      · intro l hl
        rw [hp.2]
        simp [Issue.issuedGroup, Group.mapThreads, NMap.look_mapv, hl]
      · intro l hl ho t et
        have e1 : (i.issuedGroup ins lat clearBy outs).threads.look l =
            some (t.issueMember i.core.cycle (i.x.pc + BitVec.ofNat 64 (wordLen ins)) i.t.desched) := by
          simp [Issue.issuedGroup, Group.mapThreads, NMap.look_mapv, et, hl, ho]
        obtain ⟨u, hu, hb⟩ := hp.threads_look e1
        exact ⟨u, hu, hb⟩
      · intro l hl p ho t et
        have e1 : ∃ v, (i.issuedGroup ins lat clearBy outs).threads.look l = some v ∧ v.bare =
            (((t.issueLane (i.s.draws + 128 * l) i.core.cycle (setsFlag clearBy lat i.x.ctl.sf p.2) (i.dead ins l t) p.2).issueMember
              i.core.cycle (p.2.next.getD (i.x.pc + BitVec.ofNat 64 (wordLen ins))) i.t.desched).transfer i.t.nextOp p.2).bare := by
          simp only [Issue.issuedGroup, Group.mapThreads, NMap.look_mapv, et, Option.map_some, List.contains_eq_mem, hl, decide_true, Bool.not_true, Bool.false_eq_true, if_false, ho]
          exact ⟨_, rfl, rfl⟩
        obtain ⟨v, hv, hb⟩ := e1
        obtain ⟨u, hu, hc⟩ := hp.threads_look hv
        exact ⟨u, hu, Thread.issueLane_acted _ _ _ _ _ _ _ _ _ _ (hc.trans hb)⟩
      · intro l hl
        have hq := hp.2 l
        rw [show (i.issuedGroup ins lat clearBy outs).threads.look l = none by
          simp [Issue.issuedGroup, Group.mapThreads, NMap.look_mapv, hl]] at hq
        exact Option.map_eq_none_iff.1 hq

end Sys2Proof.Machine
end

