-- ==== Sys2Proof/Laws/Raise.lean ====
section
/-! SUPPORT. What raising causes does, said once (R12, R249, R250, R252): `Issue.raise` and `Issue.raiseM` meet
`Issue.Raises`. -/

namespace Sys2Proof.Machine

open Sys2Proof

/-- What becomes of the issuing group. -/
theorem Issue.groupRaised (i : Issue) (causes : List (Nat × Word)) (g0 : Group)
    (hk : g0 = { i.g with skid := g0.skid, initiator := g0.initiator, exempt := g0.exempt, halted := g0.halted })
    (hi : (g0.initiator || g0.exempt) = true ↔
      (i.t.st = .running ∨ i.t.st = .yielding ∨ i.g.initiator = true ∨ i.g.exempt = true)) :
    i.GroupRaised causes
      (Group.halt (let gr := g0.mapThreads fun l th => { th with cause := th.cause ||| orAll ((causes.filter (·.1 == l)).map (·.2)) }
        { gr with cause := gr.cause ||| orAll (causes.map (·.2)) ||| (if gr.initiator || gr.exempt then 0 else cHalt) }) i.x.lanes) := by
  refine ⟨?_, ?_, ?_⟩
  · rw [hk]; rfl
  · show g0.cause ||| _ ||| (if (g0.initiator || g0.exempt) = true then 0 else cHalt) = _
    have : g0.cause = i.g.cause := by rw [hk]
    rw [this]
    by_cases h : (g0.initiator || g0.exempt) = true
    · rw [if_pos h, if_pos (hi.1 h)]
    · rw [if_neg h, if_neg fun c => h (hi.2 c)]
  · intro l
    have ht : g0.threads = i.g.threads := by rw [hk]
    simp only [Group.halt, Group.mapThreads, NMap.look_mapv, ht, Option.map_map]
    congr 1
    funext t
    by_cases h1 : t.st = .active <;> by_cases h2 : t.await = none <;> simp [h1, h2, Option.isNone_iff_eq_none]

theorem Team.settleHalt_eq (t : Team) : t.settleHalt =
    { t with st := if t.st = .halting ∧ ∀ h ∈ t.groups, h.halted = true then .draining else t.st } := by
  unfold Team.settleHalt
  by_cases h : t.st = .halting ∧ ∀ h ∈ t.groups, h.halted = true
  · rw [if_pos h, if_pos]
    simpa using h
  · rw [if_neg h, if_neg]
    simpa using h

/-- The raising of a word, in its team. -/
theorem Issue.teamRaised (i : Issue) (hg : i.t.groups[i.x.g]? = some i.g) (causes : List (Nat × Word))
    (pages : List PageFault) :
    i.TeamRaised causes pages (({ i.t with faults := i.t.faults ++ pages }).takeCause i.x.g i.x.lanes causes) := by
  have hlen : i.x.g < i.t.groups.length := (List.getElem?_eq_some_iff.1 hg).1
  by_cases hr : i.t.st = .running ∨ i.t.st = .yielding
  · have hb : (i.t.st == .running || i.t.st == .yielding) = true := by simpa using hr
    simp only [Team.takeCause, Team.broadcast, hb, if_true, Team.settleHalt_eq]
    refine ⟨rfl, ?_, ?_, _, ?_, i.groupRaised causes
      { i.g with skid := 0, halted := true, initiator := true, exempt := true } rfl ?_⟩
    · have hr3 : i.t.st = .running ∨ i.t.st = .yielding ∨ i.t.st = .halting := by tauto
      simp only [if_pos hr3]
      simp [Team.upGroup]
    · intro j hj
      have hne : ¬ (i.x.g = j) := fun h => hj h.symm
      simp only [if_pos hr, Team.upGroup, List.getElem?_modify, List.getElem?_mapIdx, if_neg hne]
      cases i.t.groups[j]? with
      | none => rfl
      | some h => simp [hne]
    · simp only [Team.upGroup, List.getElem?_modify, List.getElem?_mapIdx, hg, Option.map_some, if_true]
      simp
    · simp
      tauto
  · have hb : (i.t.st == .running || i.t.st == .yielding) = false := by simpa using hr
    simp only [Team.takeCause, Team.broadcast, hb, Bool.false_eq_true, if_false, Team.settleHalt_eq]
    refine ⟨rfl, ?_, ?_, _, ?_, i.groupRaised causes i.g rfl ?_⟩
    · by_cases hh : i.t.st = .halting
      · simp [Team.upGroup, hh]
      · have h3 : ¬ (i.t.st = .running ∨ i.t.st = .yielding ∨ i.t.st = .halting) := by tauto
        simp only [if_neg h3]
        simp [Team.upGroup, hh]
    · intro j hj
      have hne : ¬ (i.x.g = j) := fun h => hj h.symm
      simp only [if_neg hr, Team.upGroup, List.getElem?_modify, if_neg hne]
      cases i.t.groups[j]? <;> rfl
    · simp only [Team.upGroup, List.getElem?_modify, hg, if_true]
      rfl
    · simp
      tauto

/-- R12, R249, R259: what raising does to the machine. -/
theorem Issue.raise_raises {s : State} {i : Issue} (hi : s.issue = some i) (causes : List (Nat × Word)) :
    i.Raises causes [] (i.raise causes) := by
  obtain ⟨rfl, -, ht, hg, -⟩ := State.issue_some hi
  refine ⟨rfl, fun _ => rfl, fun n hn => NMap.look_upd_ne _ _ hn, _,
    (NMap.look_upd _ _ _).trans (congrArg (Option.map _) ht), ?_⟩
  have := i.teamRaised hg causes []
  simpa using this

/-- The refusals of some lanes' pages have had their effect. -/
theorem State.dropRefused_foldl (es : List (Nat × MErr)) (s : State) :
    ∃ q, es.foldl (fun s p => s.dropRefused p.2.host) s = { s with pageReqs := q } ∧
      ∀ r, r ∈ q ↔ r ∈ s.pageReqs ∧ ¬ (r.answer = some false ∧ ∃ p ∈ es, p.2.host = some (r.fn, r.pasid, r.iova)) := by
  induction es generalizing s with
  | nil => exact ⟨s.pageReqs, rfl, by simp⟩
  | cons p r ih =>
    obtain ⟨q, h1, h2⟩ := ih (s.dropRefused p.2.host)
    refine ⟨q, ?_, fun x => ?_⟩
    · rw [List.foldl_cons, h1]
      unfold State.dropRefused
      split <;> rfl
    · rw [h2]
      cases hp : p.2.host with
      | none => simp [State.dropRefused, hp]
      | some k =>
        obtain ⟨a, b, c⟩ := k
        simp only [State.dropRefused, List.mem_filter, List.mem_cons, exists_eq_or_imp, hp, Option.some.injEq,
          Bool.not_eq_eq_eq_not, Bool.not_true, Bool.and_eq_false_imp, beq_iff_eq, beq_eq_false_iff_ne, Prod.mk.injEq]
        constructor
        · rintro ⟨⟨h3, h4⟩, h5⟩
          refine ⟨h3, fun ⟨h6, h7⟩ => ?_⟩
          rcases h7 with h7 | h7
          · exact h4 ⟨h7.1.symm, h7.2.1.symm, h7.2.2.symm⟩ h6
          · exact h5 ⟨h6, h7⟩
        · rintro ⟨h3, h4⟩
          exact ⟨⟨h3, fun h6 h7 => h4 ⟨h7, .inl ⟨h6.1.symm, h6.2.1.symm, h6.2.2.symm⟩⟩⟩, fun h5 => h4 ⟨h5.1, .inr h5.2⟩⟩

/-- Asking for pages changes nothing but what is known of the host's pages. -/
theorem State.askPage_foldl (span : Option (Nat × Nat × DWord)) (ks : List (Nat × Nat × Nat)) (s : State) :
    let t := ks.foldl (fun s k => s.askPage span k) s
    t = { s with pageReqs := t.pageReqs, ats := t.ats, outbox := t.outbox, draws := t.draws } := by
  induction ks generalizing s with
  | nil => rfl
  | cons k r ih =>
    have h := ih (s.askPage span k)
    dsimp only at h ⊢
    rw [List.foldl_cons, h]
    obtain ⟨a, b, c⟩ := k
    unfold State.askPage
    dsimp only
    split
    · rfl
    · split <;> rfl

/-- R143, R367, R424: what failing checks do to the machine. -/
theorem Issue.raiseM_failsWith {s : State} {i : Issue} (hi : s.issue = some i) (es : List (Nat × MErr)) :
    i.FailsWith es (i.raiseM es) := by
  obtain ⟨rfl, -, ht, hg, -⟩ := State.issue_some hi
  refine ⟨fun hp => ?_, fun ⟨p, hp, hc⟩ => ?_⟩
  · have hw : es.any (·.2.waits) = false := by
      simp only [List.any_eq_false]
      intro p h
      simpa [MErr.waits] using hp p h
    obtain ⟨q, hq, hm⟩ := State.dropRefused_foldl es i.s
    refine ⟨q, ?_, hm⟩
    unfold Issue.raiseM
    rw [hw, hq]
    simp only [Bool.false_eq_true, if_false]
    refine ⟨rfl, fun _ => rfl, fun n hn => ?_, _, ?_,
      ({ i with s := { i.s with pageReqs := q } } : Issue).teamRaised hg _ (i.pagesOf es)⟩
    · exact (NMap.look_upd_ne _ _ hn).trans (NMap.look_upd_ne _ _ hn)
    · refine (NMap.look_upd _ _ _).trans ?_
      simp only [State.upTeam, NMap.look_upd, ht, Option.map_some]
      rfl
  · have hw : es.any (·.2.waits) = true := List.any_eq_true.2 ⟨p, hp, by simp [MErr.waits, hc]⟩
    unfold Issue.raiseM Issue.waitPages
    rw [hw]
    simp only [if_true]
    have h := State.askPage_foldl (some (i.x.team, i.x.g, i.x.pc)) ((es.filter (·.2.waits)).filterMap (·.2.host)) i.s
    dsimp only at h
    rw [h]

end Sys2Proof.Machine
end

