-- ==== Sys2Proof/Laws/State.lean ====
section
/-! SUPPORT. What each update of a state, a team or a group leaves of every field: one lemma per field and update, so
that no proof unfolds a record update. -/

namespace Sys2Proof.Machine

open Sys2Proof

/-! ### State.upTeam -/

@[simp] theorem State.upTeam_cores (s : State) (id : Nat) (h : Team → Team) : (s.upTeam id h).cores = s.cores := rfl
@[simp] theorem State.upTeam_dies (s : State) (id : Nat) (h : Team → Team) : (s.upTeam id h).dies = s.dies := rfl
@[simp] theorem State.upTeam_teams (s : State) (id : Nat) (h : Team → Team) : (s.upTeam id h).teams = s.teams.upd id h := rfl
@[simp] theorem State.upTeam_objs (s : State) (id : Nat) (h : Team → Team) : (s.upTeam id h).objs = s.objs := rfl
@[simp] theorem State.upTeam_ctxs (s : State) (id : Nat) (h : Team → Team) : (s.upTeam id h).ctxs = s.ctxs := rfl
@[simp] theorem State.upTeam_spaces (s : State) (id : Nat) (h : Team → Team) : (s.upTeam id h).spaces = s.spaces := rfl
@[simp] theorem State.upTeam_eps (s : State) (id : Nat) (h : Team → Team) : (s.upTeam id h).eps = s.eps := rfl
@[simp] theorem State.upTeam_scheds (s : State) (id : Nat) (h : Team → Team) : (s.upTeam id h).scheds = s.scheds := rfl
@[simp] theorem State.upTeam_lines (s : State) (id : Nat) (h : Team → Team) : (s.upTeam id h).lines = s.lines := rfl
@[simp] theorem State.upTeam_reserves (s : State) (id : Nat) (h : Team → Team) : (s.upTeam id h).reserves = s.reserves := rfl
@[simp] theorem State.upTeam_csets (s : State) (id : Nat) (h : Team → Team) : (s.upTeam id h).csets = s.csets := rfl
@[simp] theorem State.upTeam_answers (s : State) (id : Nat) (h : Team → Team) : (s.upTeam id h).answers = s.answers := rfl
@[simp] theorem State.upTeam_keys (s : State) (id : Nat) (h : Team → Team) : (s.upTeam id h).keys = s.keys := rfl
@[simp] theorem State.upTeam_slots (s : State) (id : Nat) (h : Team → Team) : (s.upTeam id h).slots = s.slots := rfl
@[simp] theorem State.upTeam_sessions (s : State) (id : Nat) (h : Team → Team) : (s.upTeam id h).sessions = s.sessions := rfl
@[simp] theorem State.upTeam_regs (s : State) (id : Nat) (h : Team → Team) : (s.upTeam id h).regs = s.regs := rfl
@[simp] theorem State.upTeam_qifs (s : State) (id : Nat) (h : Team → Team) : (s.upTeam id h).qifs = s.qifs := rfl
@[simp] theorem State.upTeam_root (s : State) (id : Nat) (h : Team → Team) : (s.upTeam id h).root = s.root := rfl
@[simp] theorem State.upTeam_creation (s : State) (id : Nat) (h : Team → Team) : (s.upTeam id h).creation = s.creation := rfl
@[simp] theorem State.upTeam_launches (s : State) (id : Nat) (h : Team → Team) : (s.upTeam id h).launches = s.launches := rfl
@[simp] theorem State.upTeam_launchSeq (s : State) (id : Nat) (h : Team → Team) : (s.upTeam id h).launchSeq = s.launchSeq := rfl
@[simp] theorem State.upTeam_accepted (s : State) (id : Nat) (h : Team → Team) : (s.upTeam id h).accepted = s.accepted := rfl
@[simp] theorem State.upTeam_turns (s : State) (id : Nat) (h : Team → Team) : (s.upTeam id h).turns = s.turns := rfl
@[simp] theorem State.upTeam_revs (s : State) (id : Nat) (h : Team → Team) : (s.upTeam id h).revs = s.revs := rfl
@[simp] theorem State.upTeam_revSeq (s : State) (id : Nat) (h : Team → Team) : (s.upTeam id h).revSeq = s.revSeq := rfl
@[simp] theorem State.upTeam_msgSeq (s : State) (id : Nat) (h : Team → Team) : (s.upTeam id h).msgSeq = s.msgSeq := rfl
@[simp] theorem State.upTeam_mem (s : State) (id : Nat) (h : Team → Team) : (s.upTeam id h).mem = s.mem := rfl
@[simp] theorem State.upTeam_tags (s : State) (id : Nat) (h : Team → Team) : (s.upTeam id h).tags = s.tags := rfl
@[simp] theorem State.upTeam_poison (s : State) (id : Nat) (h : Team → Team) : (s.upTeam id h).poison = s.poison := rfl
@[simp] theorem State.upTeam_stamps (s : State) (id : Nat) (h : Team → Team) : (s.upTeam id h).stamps = s.stamps := rfl
@[simp] theorem State.upTeam_modes (s : State) (id : Nat) (h : Team → Team) : (s.upTeam id h).modes = s.modes := rfl
@[simp] theorem State.upTeam_summary (s : State) (id : Nat) (h : Team → Team) : (s.upTeam id h).summary = s.summary := rfl
@[simp] theorem State.upTeam_cxl (s : State) (id : Nat) (h : Team → Team) : (s.upTeam id h).cxl = s.cxl := rfl
@[simp] theorem State.upTeam_lost (s : State) (id : Nat) (h : Team → Team) : (s.upTeam id h).lost = s.lost := rfl
@[simp] theorem State.upTeam_rows (s : State) (id : Nat) (h : Team → Team) : (s.upTeam id h).rows = s.rows := rfl
@[simp] theorem State.upTeam_dead (s : State) (id : Nat) (h : Team → Team) : (s.upTeam id h).dead = s.dead := rfl
@[simp] theorem State.upTeam_coh (s : State) (id : Nat) (h : Team → Team) : (s.upTeam id h).coh = s.coh := rfl
@[simp] theorem State.upTeam_events (s : State) (id : Nat) (h : Team → Team) : (s.upTeam id h).events = s.events := rfl
@[simp] theorem State.upTeam_fw (s : State) (id : Nat) (h : Team → Team) : (s.upTeam id h).fw = s.fw := rfl
@[simp] theorem State.upTeam_state (s : State) (id : Nat) (h : Team → Team) : (s.upTeam id h).state = s.state := rfl
@[simp] theorem State.upTeam_corrected (s : State) (id : Nat) (h : Team → Team) : (s.upTeam id h).corrected = s.corrected := rfl
@[simp] theorem State.upTeam_errlog (s : State) (id : Nat) (h : Team → Team) : (s.upTeam id h).errlog = s.errlog := rfl
@[simp] theorem State.upTeam_spdm (s : State) (id : Nat) (h : Team → Team) : (s.upTeam id h).spdm = s.spdm := rfl
@[simp] theorem State.upTeam_vfs (s : State) (id : Nat) (h : Team → Team) : (s.upTeam id h).vfs = s.vfs := rfl
@[simp] theorem State.upTeam_bars (s : State) (id : Nat) (h : Team → Team) : (s.upTeam id h).bars = s.bars := rfl
@[simp] theorem State.upTeam_atsOn (s : State) (id : Nat) (h : Team → Team) : (s.upTeam id h).atsOn = s.atsOn := rfl
@[simp] theorem State.upTeam_priOn (s : State) (id : Nat) (h : Team → Team) : (s.upTeam id h).priOn = s.priOn := rfl
@[simp] theorem State.upTeam_flr (s : State) (id : Nat) (h : Team → Team) : (s.upTeam id h).flr = s.flr := rfl
@[simp] theorem State.upTeam_pasids (s : State) (id : Nat) (h : Team → Team) : (s.upTeam id h).pasids = s.pasids := rfl
@[simp] theorem State.upTeam_vectors (s : State) (id : Nat) (h : Team → Team) : (s.upTeam id h).vectors = s.vectors := rfl
@[simp] theorem State.upTeam_pageReqs (s : State) (id : Nat) (h : Team → Team) : (s.upTeam id h).pageReqs = s.pageReqs := rfl
@[simp] theorem State.upTeam_ats (s : State) (id : Nat) (h : Team → Team) : (s.upTeam id h).ats = s.ats := rfl
@[simp] theorem State.upTeam_conns (s : State) (id : Nat) (h : Team → Team) : (s.upTeam id h).conns = s.conns := rfl
@[simp] theorem State.upTeam_leaving (s : State) (id : Nat) (h : Team → Team) : (s.upTeam id h).leaving = s.leaving := rfl
@[simp] theorem State.upTeam_outbox (s : State) (id : Nat) (h : Team → Team) : (s.upTeam id h).outbox = s.outbox := rfl
@[simp] theorem State.upTeam_remap (s : State) (id : Nat) (h : Team → Team) : (s.upTeam id h).remap = s.remap := rfl
@[simp] theorem State.upTeam_inputs (s : State) (id : Nat) (h : Team → Team) : (s.upTeam id h).inputs = s.inputs := rfl
@[simp] theorem State.upTeam_turn (s : State) (id : Nat) (h : Team → Team) : (s.upTeam id h).turn = s.turn := rfl
@[simp] theorem State.upTeam_sel (s : State) (id : Nat) (h : Team → Team) : (s.upTeam id h).sel = s.sel := rfl
@[simp] theorem State.upTeam_ev (s : State) (id : Nat) (h : Team → Team) : (s.upTeam id h).ev = s.ev := rfl
@[simp] theorem State.upTeam_asks (s : State) (id : Nat) (h : Team → Team) : (s.upTeam id h).asks = s.asks := rfl
@[simp] theorem State.upTeam_draws (s : State) (id : Nat) (h : Team → Team) : (s.upTeam id h).draws = s.draws := rfl

/-! ### State.upCore -/

@[simp] theorem State.upCore_cores (s : State) (c : CoreId) (h : Core → Core) : (s.upCore c h).cores = s.cores.put (coreNo c) (h (s.core c)) := rfl
@[simp] theorem State.upCore_dies (s : State) (c : CoreId) (h : Core → Core) : (s.upCore c h).dies = s.dies := rfl
@[simp] theorem State.upCore_teams (s : State) (c : CoreId) (h : Core → Core) : (s.upCore c h).teams = s.teams := rfl
@[simp] theorem State.upCore_objs (s : State) (c : CoreId) (h : Core → Core) : (s.upCore c h).objs = s.objs := rfl
@[simp] theorem State.upCore_ctxs (s : State) (c : CoreId) (h : Core → Core) : (s.upCore c h).ctxs = s.ctxs := rfl
@[simp] theorem State.upCore_spaces (s : State) (c : CoreId) (h : Core → Core) : (s.upCore c h).spaces = s.spaces := rfl
@[simp] theorem State.upCore_eps (s : State) (c : CoreId) (h : Core → Core) : (s.upCore c h).eps = s.eps := rfl
@[simp] theorem State.upCore_scheds (s : State) (c : CoreId) (h : Core → Core) : (s.upCore c h).scheds = s.scheds := rfl
@[simp] theorem State.upCore_lines (s : State) (c : CoreId) (h : Core → Core) : (s.upCore c h).lines = s.lines := rfl
@[simp] theorem State.upCore_reserves (s : State) (c : CoreId) (h : Core → Core) : (s.upCore c h).reserves = s.reserves := rfl
@[simp] theorem State.upCore_csets (s : State) (c : CoreId) (h : Core → Core) : (s.upCore c h).csets = s.csets := rfl
@[simp] theorem State.upCore_answers (s : State) (c : CoreId) (h : Core → Core) : (s.upCore c h).answers = s.answers := rfl
@[simp] theorem State.upCore_keys (s : State) (c : CoreId) (h : Core → Core) : (s.upCore c h).keys = s.keys := rfl
@[simp] theorem State.upCore_slots (s : State) (c : CoreId) (h : Core → Core) : (s.upCore c h).slots = s.slots := rfl
@[simp] theorem State.upCore_sessions (s : State) (c : CoreId) (h : Core → Core) : (s.upCore c h).sessions = s.sessions := rfl
@[simp] theorem State.upCore_regs (s : State) (c : CoreId) (h : Core → Core) : (s.upCore c h).regs = s.regs := rfl
@[simp] theorem State.upCore_qifs (s : State) (c : CoreId) (h : Core → Core) : (s.upCore c h).qifs = s.qifs := rfl
@[simp] theorem State.upCore_root (s : State) (c : CoreId) (h : Core → Core) : (s.upCore c h).root = s.root := rfl
@[simp] theorem State.upCore_creation (s : State) (c : CoreId) (h : Core → Core) : (s.upCore c h).creation = s.creation := rfl
@[simp] theorem State.upCore_launches (s : State) (c : CoreId) (h : Core → Core) : (s.upCore c h).launches = s.launches := rfl
@[simp] theorem State.upCore_launchSeq (s : State) (c : CoreId) (h : Core → Core) : (s.upCore c h).launchSeq = s.launchSeq := rfl
@[simp] theorem State.upCore_accepted (s : State) (c : CoreId) (h : Core → Core) : (s.upCore c h).accepted = s.accepted := rfl
@[simp] theorem State.upCore_turns (s : State) (c : CoreId) (h : Core → Core) : (s.upCore c h).turns = s.turns := rfl
@[simp] theorem State.upCore_revs (s : State) (c : CoreId) (h : Core → Core) : (s.upCore c h).revs = s.revs := rfl
@[simp] theorem State.upCore_revSeq (s : State) (c : CoreId) (h : Core → Core) : (s.upCore c h).revSeq = s.revSeq := rfl
@[simp] theorem State.upCore_msgSeq (s : State) (c : CoreId) (h : Core → Core) : (s.upCore c h).msgSeq = s.msgSeq := rfl
@[simp] theorem State.upCore_mem (s : State) (c : CoreId) (h : Core → Core) : (s.upCore c h).mem = s.mem := rfl
@[simp] theorem State.upCore_tags (s : State) (c : CoreId) (h : Core → Core) : (s.upCore c h).tags = s.tags := rfl
@[simp] theorem State.upCore_poison (s : State) (c : CoreId) (h : Core → Core) : (s.upCore c h).poison = s.poison := rfl
@[simp] theorem State.upCore_stamps (s : State) (c : CoreId) (h : Core → Core) : (s.upCore c h).stamps = s.stamps := rfl
@[simp] theorem State.upCore_modes (s : State) (c : CoreId) (h : Core → Core) : (s.upCore c h).modes = s.modes := rfl
@[simp] theorem State.upCore_summary (s : State) (c : CoreId) (h : Core → Core) : (s.upCore c h).summary = s.summary := rfl
@[simp] theorem State.upCore_cxl (s : State) (c : CoreId) (h : Core → Core) : (s.upCore c h).cxl = s.cxl := rfl
@[simp] theorem State.upCore_lost (s : State) (c : CoreId) (h : Core → Core) : (s.upCore c h).lost = s.lost := rfl
@[simp] theorem State.upCore_rows (s : State) (c : CoreId) (h : Core → Core) : (s.upCore c h).rows = s.rows := rfl
@[simp] theorem State.upCore_dead (s : State) (c : CoreId) (h : Core → Core) : (s.upCore c h).dead = s.dead := rfl
@[simp] theorem State.upCore_coh (s : State) (c : CoreId) (h : Core → Core) : (s.upCore c h).coh = s.coh := rfl
@[simp] theorem State.upCore_events (s : State) (c : CoreId) (h : Core → Core) : (s.upCore c h).events = s.events := rfl
@[simp] theorem State.upCore_fw (s : State) (c : CoreId) (h : Core → Core) : (s.upCore c h).fw = s.fw := rfl
@[simp] theorem State.upCore_state (s : State) (c : CoreId) (h : Core → Core) : (s.upCore c h).state = s.state := rfl
@[simp] theorem State.upCore_corrected (s : State) (c : CoreId) (h : Core → Core) : (s.upCore c h).corrected = s.corrected := rfl
@[simp] theorem State.upCore_errlog (s : State) (c : CoreId) (h : Core → Core) : (s.upCore c h).errlog = s.errlog := rfl
@[simp] theorem State.upCore_spdm (s : State) (c : CoreId) (h : Core → Core) : (s.upCore c h).spdm = s.spdm := rfl
@[simp] theorem State.upCore_vfs (s : State) (c : CoreId) (h : Core → Core) : (s.upCore c h).vfs = s.vfs := rfl
@[simp] theorem State.upCore_bars (s : State) (c : CoreId) (h : Core → Core) : (s.upCore c h).bars = s.bars := rfl
@[simp] theorem State.upCore_atsOn (s : State) (c : CoreId) (h : Core → Core) : (s.upCore c h).atsOn = s.atsOn := rfl
@[simp] theorem State.upCore_priOn (s : State) (c : CoreId) (h : Core → Core) : (s.upCore c h).priOn = s.priOn := rfl
@[simp] theorem State.upCore_flr (s : State) (c : CoreId) (h : Core → Core) : (s.upCore c h).flr = s.flr := rfl
@[simp] theorem State.upCore_pasids (s : State) (c : CoreId) (h : Core → Core) : (s.upCore c h).pasids = s.pasids := rfl
@[simp] theorem State.upCore_vectors (s : State) (c : CoreId) (h : Core → Core) : (s.upCore c h).vectors = s.vectors := rfl
@[simp] theorem State.upCore_pageReqs (s : State) (c : CoreId) (h : Core → Core) : (s.upCore c h).pageReqs = s.pageReqs := rfl
@[simp] theorem State.upCore_ats (s : State) (c : CoreId) (h : Core → Core) : (s.upCore c h).ats = s.ats := rfl
@[simp] theorem State.upCore_conns (s : State) (c : CoreId) (h : Core → Core) : (s.upCore c h).conns = s.conns := rfl
@[simp] theorem State.upCore_leaving (s : State) (c : CoreId) (h : Core → Core) : (s.upCore c h).leaving = s.leaving := rfl
@[simp] theorem State.upCore_outbox (s : State) (c : CoreId) (h : Core → Core) : (s.upCore c h).outbox = s.outbox := rfl
@[simp] theorem State.upCore_remap (s : State) (c : CoreId) (h : Core → Core) : (s.upCore c h).remap = s.remap := rfl
@[simp] theorem State.upCore_inputs (s : State) (c : CoreId) (h : Core → Core) : (s.upCore c h).inputs = s.inputs := rfl
@[simp] theorem State.upCore_turn (s : State) (c : CoreId) (h : Core → Core) : (s.upCore c h).turn = s.turn := rfl
@[simp] theorem State.upCore_sel (s : State) (c : CoreId) (h : Core → Core) : (s.upCore c h).sel = s.sel := rfl
@[simp] theorem State.upCore_ev (s : State) (c : CoreId) (h : Core → Core) : (s.upCore c h).ev = s.ev := rfl
@[simp] theorem State.upCore_asks (s : State) (c : CoreId) (h : Core → Core) : (s.upCore c h).asks = s.asks := rfl
@[simp] theorem State.upCore_draws (s : State) (c : CoreId) (h : Core → Core) : (s.upCore c h).draws = s.draws := rfl

/-! ### State.count -/

@[simp] theorem State.count_cores (s : State) (ctx n : Nat) : (s.count ctx n).cores = s.cores := rfl
@[simp] theorem State.count_dies (s : State) (ctx n : Nat) : (s.count ctx n).dies = s.dies := rfl
@[simp] theorem State.count_teams (s : State) (ctx n : Nat) : (s.count ctx n).teams = s.teams := rfl
@[simp] theorem State.count_objs (s : State) (ctx n : Nat) : (s.count ctx n).objs = s.objs := rfl
@[simp] theorem State.count_ctxs (s : State) (ctx n : Nat) : (s.count ctx n).ctxs = s.ctxs.upd ctx fun c => { c with counters := c.counters.modify n (· + 1) } := rfl
@[simp] theorem State.count_spaces (s : State) (ctx n : Nat) : (s.count ctx n).spaces = s.spaces := rfl
@[simp] theorem State.count_eps (s : State) (ctx n : Nat) : (s.count ctx n).eps = s.eps := rfl
@[simp] theorem State.count_scheds (s : State) (ctx n : Nat) : (s.count ctx n).scheds = s.scheds := rfl
@[simp] theorem State.count_lines (s : State) (ctx n : Nat) : (s.count ctx n).lines = s.lines := rfl
@[simp] theorem State.count_reserves (s : State) (ctx n : Nat) : (s.count ctx n).reserves = s.reserves := rfl
@[simp] theorem State.count_csets (s : State) (ctx n : Nat) : (s.count ctx n).csets = s.csets := rfl
@[simp] theorem State.count_answers (s : State) (ctx n : Nat) : (s.count ctx n).answers = s.answers := rfl
@[simp] theorem State.count_keys (s : State) (ctx n : Nat) : (s.count ctx n).keys = s.keys := rfl
@[simp] theorem State.count_slots (s : State) (ctx n : Nat) : (s.count ctx n).slots = s.slots := rfl
@[simp] theorem State.count_sessions (s : State) (ctx n : Nat) : (s.count ctx n).sessions = s.sessions := rfl
@[simp] theorem State.count_regs (s : State) (ctx n : Nat) : (s.count ctx n).regs = s.regs := rfl
@[simp] theorem State.count_qifs (s : State) (ctx n : Nat) : (s.count ctx n).qifs = s.qifs := rfl
@[simp] theorem State.count_root (s : State) (ctx n : Nat) : (s.count ctx n).root = s.root := rfl
@[simp] theorem State.count_creation (s : State) (ctx n : Nat) : (s.count ctx n).creation = s.creation := rfl
@[simp] theorem State.count_launches (s : State) (ctx n : Nat) : (s.count ctx n).launches = s.launches := rfl
@[simp] theorem State.count_launchSeq (s : State) (ctx n : Nat) : (s.count ctx n).launchSeq = s.launchSeq := rfl
@[simp] theorem State.count_accepted (s : State) (ctx n : Nat) : (s.count ctx n).accepted = s.accepted := rfl
@[simp] theorem State.count_turns (s : State) (ctx n : Nat) : (s.count ctx n).turns = s.turns := rfl
@[simp] theorem State.count_revs (s : State) (ctx n : Nat) : (s.count ctx n).revs = s.revs := rfl
@[simp] theorem State.count_revSeq (s : State) (ctx n : Nat) : (s.count ctx n).revSeq = s.revSeq := rfl
@[simp] theorem State.count_msgSeq (s : State) (ctx n : Nat) : (s.count ctx n).msgSeq = s.msgSeq := rfl
@[simp] theorem State.count_mem (s : State) (ctx n : Nat) : (s.count ctx n).mem = s.mem := rfl
@[simp] theorem State.count_tags (s : State) (ctx n : Nat) : (s.count ctx n).tags = s.tags := rfl
@[simp] theorem State.count_poison (s : State) (ctx n : Nat) : (s.count ctx n).poison = s.poison := rfl
@[simp] theorem State.count_stamps (s : State) (ctx n : Nat) : (s.count ctx n).stamps = s.stamps := rfl
@[simp] theorem State.count_modes (s : State) (ctx n : Nat) : (s.count ctx n).modes = s.modes := rfl
@[simp] theorem State.count_summary (s : State) (ctx n : Nat) : (s.count ctx n).summary = s.summary := rfl
@[simp] theorem State.count_cxl (s : State) (ctx n : Nat) : (s.count ctx n).cxl = s.cxl := rfl
@[simp] theorem State.count_lost (s : State) (ctx n : Nat) : (s.count ctx n).lost = s.lost := rfl
@[simp] theorem State.count_rows (s : State) (ctx n : Nat) : (s.count ctx n).rows = s.rows := rfl
@[simp] theorem State.count_dead (s : State) (ctx n : Nat) : (s.count ctx n).dead = s.dead := rfl
@[simp] theorem State.count_coh (s : State) (ctx n : Nat) : (s.count ctx n).coh = s.coh := rfl
@[simp] theorem State.count_events (s : State) (ctx n : Nat) : (s.count ctx n).events = s.events := rfl
@[simp] theorem State.count_fw (s : State) (ctx n : Nat) : (s.count ctx n).fw = s.fw := rfl
@[simp] theorem State.count_state (s : State) (ctx n : Nat) : (s.count ctx n).state = s.state := rfl
@[simp] theorem State.count_corrected (s : State) (ctx n : Nat) : (s.count ctx n).corrected = s.corrected := rfl
@[simp] theorem State.count_errlog (s : State) (ctx n : Nat) : (s.count ctx n).errlog = s.errlog := rfl
@[simp] theorem State.count_spdm (s : State) (ctx n : Nat) : (s.count ctx n).spdm = s.spdm := rfl
@[simp] theorem State.count_vfs (s : State) (ctx n : Nat) : (s.count ctx n).vfs = s.vfs := rfl
@[simp] theorem State.count_bars (s : State) (ctx n : Nat) : (s.count ctx n).bars = s.bars := rfl
@[simp] theorem State.count_atsOn (s : State) (ctx n : Nat) : (s.count ctx n).atsOn = s.atsOn := rfl
@[simp] theorem State.count_priOn (s : State) (ctx n : Nat) : (s.count ctx n).priOn = s.priOn := rfl
@[simp] theorem State.count_flr (s : State) (ctx n : Nat) : (s.count ctx n).flr = s.flr := rfl
@[simp] theorem State.count_pasids (s : State) (ctx n : Nat) : (s.count ctx n).pasids = s.pasids := rfl
@[simp] theorem State.count_vectors (s : State) (ctx n : Nat) : (s.count ctx n).vectors = s.vectors := rfl
@[simp] theorem State.count_pageReqs (s : State) (ctx n : Nat) : (s.count ctx n).pageReqs = s.pageReqs := rfl
@[simp] theorem State.count_ats (s : State) (ctx n : Nat) : (s.count ctx n).ats = s.ats := rfl
@[simp] theorem State.count_conns (s : State) (ctx n : Nat) : (s.count ctx n).conns = s.conns := rfl
@[simp] theorem State.count_leaving (s : State) (ctx n : Nat) : (s.count ctx n).leaving = s.leaving := rfl
@[simp] theorem State.count_outbox (s : State) (ctx n : Nat) : (s.count ctx n).outbox = s.outbox := rfl
@[simp] theorem State.count_remap (s : State) (ctx n : Nat) : (s.count ctx n).remap = s.remap := rfl
@[simp] theorem State.count_inputs (s : State) (ctx n : Nat) : (s.count ctx n).inputs = s.inputs := rfl
@[simp] theorem State.count_turn (s : State) (ctx n : Nat) : (s.count ctx n).turn = s.turn := rfl
@[simp] theorem State.count_sel (s : State) (ctx n : Nat) : (s.count ctx n).sel = s.sel := rfl
@[simp] theorem State.count_ev (s : State) (ctx n : Nat) : (s.count ctx n).ev = s.ev := rfl
@[simp] theorem State.count_asks (s : State) (ctx n : Nat) : (s.count ctx n).asks = s.asks := rfl
@[simp] theorem State.count_draws (s : State) (ctx n : Nat) : (s.count ctx n).draws = s.draws := rfl

/-! ### State.upEp -/

@[simp] theorem State.upEp_cores (s : State) (e : Nat) (h : Endpoint → Endpoint) : (s.upEp e h).cores = s.cores := rfl
@[simp] theorem State.upEp_dies (s : State) (e : Nat) (h : Endpoint → Endpoint) : (s.upEp e h).dies = s.dies := rfl
@[simp] theorem State.upEp_teams (s : State) (e : Nat) (h : Endpoint → Endpoint) : (s.upEp e h).teams = s.teams := rfl
@[simp] theorem State.upEp_objs (s : State) (e : Nat) (h : Endpoint → Endpoint) : (s.upEp e h).objs = s.objs := rfl
@[simp] theorem State.upEp_ctxs (s : State) (e : Nat) (h : Endpoint → Endpoint) : (s.upEp e h).ctxs = s.ctxs := rfl
@[simp] theorem State.upEp_spaces (s : State) (e : Nat) (h : Endpoint → Endpoint) : (s.upEp e h).spaces = s.spaces := rfl
@[simp] theorem State.upEp_eps (s : State) (e : Nat) (h : Endpoint → Endpoint) : (s.upEp e h).eps = s.eps.upd e h := rfl
@[simp] theorem State.upEp_scheds (s : State) (e : Nat) (h : Endpoint → Endpoint) : (s.upEp e h).scheds = s.scheds := rfl
@[simp] theorem State.upEp_lines (s : State) (e : Nat) (h : Endpoint → Endpoint) : (s.upEp e h).lines = s.lines := rfl
@[simp] theorem State.upEp_reserves (s : State) (e : Nat) (h : Endpoint → Endpoint) : (s.upEp e h).reserves = s.reserves := rfl
@[simp] theorem State.upEp_csets (s : State) (e : Nat) (h : Endpoint → Endpoint) : (s.upEp e h).csets = s.csets := rfl
@[simp] theorem State.upEp_answers (s : State) (e : Nat) (h : Endpoint → Endpoint) : (s.upEp e h).answers = s.answers := rfl
@[simp] theorem State.upEp_keys (s : State) (e : Nat) (h : Endpoint → Endpoint) : (s.upEp e h).keys = s.keys := rfl
@[simp] theorem State.upEp_slots (s : State) (e : Nat) (h : Endpoint → Endpoint) : (s.upEp e h).slots = s.slots := rfl
@[simp] theorem State.upEp_sessions (s : State) (e : Nat) (h : Endpoint → Endpoint) : (s.upEp e h).sessions = s.sessions := rfl
@[simp] theorem State.upEp_regs (s : State) (e : Nat) (h : Endpoint → Endpoint) : (s.upEp e h).regs = s.regs := rfl
@[simp] theorem State.upEp_qifs (s : State) (e : Nat) (h : Endpoint → Endpoint) : (s.upEp e h).qifs = s.qifs := rfl
@[simp] theorem State.upEp_root (s : State) (e : Nat) (h : Endpoint → Endpoint) : (s.upEp e h).root = s.root := rfl
@[simp] theorem State.upEp_creation (s : State) (e : Nat) (h : Endpoint → Endpoint) : (s.upEp e h).creation = s.creation := rfl
@[simp] theorem State.upEp_launches (s : State) (e : Nat) (h : Endpoint → Endpoint) : (s.upEp e h).launches = s.launches := rfl
@[simp] theorem State.upEp_launchSeq (s : State) (e : Nat) (h : Endpoint → Endpoint) : (s.upEp e h).launchSeq = s.launchSeq := rfl
@[simp] theorem State.upEp_accepted (s : State) (e : Nat) (h : Endpoint → Endpoint) : (s.upEp e h).accepted = s.accepted := rfl
@[simp] theorem State.upEp_turns (s : State) (e : Nat) (h : Endpoint → Endpoint) : (s.upEp e h).turns = s.turns := rfl
@[simp] theorem State.upEp_revs (s : State) (e : Nat) (h : Endpoint → Endpoint) : (s.upEp e h).revs = s.revs := rfl
@[simp] theorem State.upEp_revSeq (s : State) (e : Nat) (h : Endpoint → Endpoint) : (s.upEp e h).revSeq = s.revSeq := rfl
@[simp] theorem State.upEp_msgSeq (s : State) (e : Nat) (h : Endpoint → Endpoint) : (s.upEp e h).msgSeq = s.msgSeq := rfl
@[simp] theorem State.upEp_mem (s : State) (e : Nat) (h : Endpoint → Endpoint) : (s.upEp e h).mem = s.mem := rfl
@[simp] theorem State.upEp_tags (s : State) (e : Nat) (h : Endpoint → Endpoint) : (s.upEp e h).tags = s.tags := rfl
@[simp] theorem State.upEp_poison (s : State) (e : Nat) (h : Endpoint → Endpoint) : (s.upEp e h).poison = s.poison := rfl
@[simp] theorem State.upEp_stamps (s : State) (e : Nat) (h : Endpoint → Endpoint) : (s.upEp e h).stamps = s.stamps := rfl
@[simp] theorem State.upEp_modes (s : State) (e : Nat) (h : Endpoint → Endpoint) : (s.upEp e h).modes = s.modes := rfl
@[simp] theorem State.upEp_summary (s : State) (e : Nat) (h : Endpoint → Endpoint) : (s.upEp e h).summary = s.summary := rfl
@[simp] theorem State.upEp_cxl (s : State) (e : Nat) (h : Endpoint → Endpoint) : (s.upEp e h).cxl = s.cxl := rfl
@[simp] theorem State.upEp_lost (s : State) (e : Nat) (h : Endpoint → Endpoint) : (s.upEp e h).lost = s.lost := rfl
@[simp] theorem State.upEp_rows (s : State) (e : Nat) (h : Endpoint → Endpoint) : (s.upEp e h).rows = s.rows := rfl
@[simp] theorem State.upEp_dead (s : State) (e : Nat) (h : Endpoint → Endpoint) : (s.upEp e h).dead = s.dead := rfl
@[simp] theorem State.upEp_coh (s : State) (e : Nat) (h : Endpoint → Endpoint) : (s.upEp e h).coh = s.coh := rfl
@[simp] theorem State.upEp_events (s : State) (e : Nat) (h : Endpoint → Endpoint) : (s.upEp e h).events = s.events := rfl
@[simp] theorem State.upEp_fw (s : State) (e : Nat) (h : Endpoint → Endpoint) : (s.upEp e h).fw = s.fw := rfl
@[simp] theorem State.upEp_state (s : State) (e : Nat) (h : Endpoint → Endpoint) : (s.upEp e h).state = s.state := rfl
@[simp] theorem State.upEp_corrected (s : State) (e : Nat) (h : Endpoint → Endpoint) : (s.upEp e h).corrected = s.corrected := rfl
@[simp] theorem State.upEp_errlog (s : State) (e : Nat) (h : Endpoint → Endpoint) : (s.upEp e h).errlog = s.errlog := rfl
@[simp] theorem State.upEp_spdm (s : State) (e : Nat) (h : Endpoint → Endpoint) : (s.upEp e h).spdm = s.spdm := rfl
@[simp] theorem State.upEp_vfs (s : State) (e : Nat) (h : Endpoint → Endpoint) : (s.upEp e h).vfs = s.vfs := rfl
@[simp] theorem State.upEp_bars (s : State) (e : Nat) (h : Endpoint → Endpoint) : (s.upEp e h).bars = s.bars := rfl
@[simp] theorem State.upEp_atsOn (s : State) (e : Nat) (h : Endpoint → Endpoint) : (s.upEp e h).atsOn = s.atsOn := rfl
@[simp] theorem State.upEp_priOn (s : State) (e : Nat) (h : Endpoint → Endpoint) : (s.upEp e h).priOn = s.priOn := rfl
@[simp] theorem State.upEp_flr (s : State) (e : Nat) (h : Endpoint → Endpoint) : (s.upEp e h).flr = s.flr := rfl
@[simp] theorem State.upEp_pasids (s : State) (e : Nat) (h : Endpoint → Endpoint) : (s.upEp e h).pasids = s.pasids := rfl
@[simp] theorem State.upEp_vectors (s : State) (e : Nat) (h : Endpoint → Endpoint) : (s.upEp e h).vectors = s.vectors := rfl
@[simp] theorem State.upEp_pageReqs (s : State) (e : Nat) (h : Endpoint → Endpoint) : (s.upEp e h).pageReqs = s.pageReqs := rfl
@[simp] theorem State.upEp_ats (s : State) (e : Nat) (h : Endpoint → Endpoint) : (s.upEp e h).ats = s.ats := rfl
@[simp] theorem State.upEp_conns (s : State) (e : Nat) (h : Endpoint → Endpoint) : (s.upEp e h).conns = s.conns := rfl
@[simp] theorem State.upEp_leaving (s : State) (e : Nat) (h : Endpoint → Endpoint) : (s.upEp e h).leaving = s.leaving := rfl
@[simp] theorem State.upEp_outbox (s : State) (e : Nat) (h : Endpoint → Endpoint) : (s.upEp e h).outbox = s.outbox := rfl
@[simp] theorem State.upEp_remap (s : State) (e : Nat) (h : Endpoint → Endpoint) : (s.upEp e h).remap = s.remap := rfl
@[simp] theorem State.upEp_inputs (s : State) (e : Nat) (h : Endpoint → Endpoint) : (s.upEp e h).inputs = s.inputs := rfl
@[simp] theorem State.upEp_turn (s : State) (e : Nat) (h : Endpoint → Endpoint) : (s.upEp e h).turn = s.turn := rfl
@[simp] theorem State.upEp_sel (s : State) (e : Nat) (h : Endpoint → Endpoint) : (s.upEp e h).sel = s.sel := rfl
@[simp] theorem State.upEp_ev (s : State) (e : Nat) (h : Endpoint → Endpoint) : (s.upEp e h).ev = s.ev := rfl
@[simp] theorem State.upEp_asks (s : State) (e : Nat) (h : Endpoint → Endpoint) : (s.upEp e h).asks = s.asks := rfl
@[simp] theorem State.upEp_draws (s : State) (e : Nat) (h : Endpoint → Endpoint) : (s.upEp e h).draws = s.draws := rfl

/-! ### State.upSlot -/

@[simp] theorem State.upSlot_cores (s : State) (w : Nat) (h : KeySlot → KeySlot) : (s.upSlot w h).cores = s.cores := rfl
@[simp] theorem State.upSlot_dies (s : State) (w : Nat) (h : KeySlot → KeySlot) : (s.upSlot w h).dies = s.dies := rfl
@[simp] theorem State.upSlot_teams (s : State) (w : Nat) (h : KeySlot → KeySlot) : (s.upSlot w h).teams = s.teams := rfl
@[simp] theorem State.upSlot_objs (s : State) (w : Nat) (h : KeySlot → KeySlot) : (s.upSlot w h).objs = s.objs := rfl
@[simp] theorem State.upSlot_ctxs (s : State) (w : Nat) (h : KeySlot → KeySlot) : (s.upSlot w h).ctxs = s.ctxs := rfl
@[simp] theorem State.upSlot_spaces (s : State) (w : Nat) (h : KeySlot → KeySlot) : (s.upSlot w h).spaces = s.spaces := rfl
@[simp] theorem State.upSlot_eps (s : State) (w : Nat) (h : KeySlot → KeySlot) : (s.upSlot w h).eps = s.eps := rfl
@[simp] theorem State.upSlot_scheds (s : State) (w : Nat) (h : KeySlot → KeySlot) : (s.upSlot w h).scheds = s.scheds := rfl
@[simp] theorem State.upSlot_lines (s : State) (w : Nat) (h : KeySlot → KeySlot) : (s.upSlot w h).lines = s.lines := rfl
@[simp] theorem State.upSlot_reserves (s : State) (w : Nat) (h : KeySlot → KeySlot) : (s.upSlot w h).reserves = s.reserves := rfl
@[simp] theorem State.upSlot_csets (s : State) (w : Nat) (h : KeySlot → KeySlot) : (s.upSlot w h).csets = s.csets := rfl
@[simp] theorem State.upSlot_answers (s : State) (w : Nat) (h : KeySlot → KeySlot) : (s.upSlot w h).answers = s.answers := rfl
@[simp] theorem State.upSlot_keys (s : State) (w : Nat) (h : KeySlot → KeySlot) : (s.upSlot w h).keys = s.keys := rfl
@[simp] theorem State.upSlot_slots (s : State) (w : Nat) (h : KeySlot → KeySlot) : (s.upSlot w h).slots = s.slots.modify w h := rfl
@[simp] theorem State.upSlot_sessions (s : State) (w : Nat) (h : KeySlot → KeySlot) : (s.upSlot w h).sessions = s.sessions := rfl
@[simp] theorem State.upSlot_regs (s : State) (w : Nat) (h : KeySlot → KeySlot) : (s.upSlot w h).regs = s.regs := rfl
@[simp] theorem State.upSlot_qifs (s : State) (w : Nat) (h : KeySlot → KeySlot) : (s.upSlot w h).qifs = s.qifs := rfl
@[simp] theorem State.upSlot_root (s : State) (w : Nat) (h : KeySlot → KeySlot) : (s.upSlot w h).root = s.root := rfl
@[simp] theorem State.upSlot_creation (s : State) (w : Nat) (h : KeySlot → KeySlot) : (s.upSlot w h).creation = s.creation := rfl
@[simp] theorem State.upSlot_launches (s : State) (w : Nat) (h : KeySlot → KeySlot) : (s.upSlot w h).launches = s.launches := rfl
@[simp] theorem State.upSlot_launchSeq (s : State) (w : Nat) (h : KeySlot → KeySlot) : (s.upSlot w h).launchSeq = s.launchSeq := rfl
@[simp] theorem State.upSlot_accepted (s : State) (w : Nat) (h : KeySlot → KeySlot) : (s.upSlot w h).accepted = s.accepted := rfl
@[simp] theorem State.upSlot_turns (s : State) (w : Nat) (h : KeySlot → KeySlot) : (s.upSlot w h).turns = s.turns := rfl
@[simp] theorem State.upSlot_revs (s : State) (w : Nat) (h : KeySlot → KeySlot) : (s.upSlot w h).revs = s.revs := rfl
@[simp] theorem State.upSlot_revSeq (s : State) (w : Nat) (h : KeySlot → KeySlot) : (s.upSlot w h).revSeq = s.revSeq := rfl
@[simp] theorem State.upSlot_msgSeq (s : State) (w : Nat) (h : KeySlot → KeySlot) : (s.upSlot w h).msgSeq = s.msgSeq := rfl
@[simp] theorem State.upSlot_mem (s : State) (w : Nat) (h : KeySlot → KeySlot) : (s.upSlot w h).mem = s.mem := rfl
@[simp] theorem State.upSlot_tags (s : State) (w : Nat) (h : KeySlot → KeySlot) : (s.upSlot w h).tags = s.tags := rfl
@[simp] theorem State.upSlot_poison (s : State) (w : Nat) (h : KeySlot → KeySlot) : (s.upSlot w h).poison = s.poison := rfl
@[simp] theorem State.upSlot_stamps (s : State) (w : Nat) (h : KeySlot → KeySlot) : (s.upSlot w h).stamps = s.stamps := rfl
@[simp] theorem State.upSlot_modes (s : State) (w : Nat) (h : KeySlot → KeySlot) : (s.upSlot w h).modes = s.modes := rfl
@[simp] theorem State.upSlot_summary (s : State) (w : Nat) (h : KeySlot → KeySlot) : (s.upSlot w h).summary = s.summary := rfl
@[simp] theorem State.upSlot_cxl (s : State) (w : Nat) (h : KeySlot → KeySlot) : (s.upSlot w h).cxl = s.cxl := rfl
@[simp] theorem State.upSlot_lost (s : State) (w : Nat) (h : KeySlot → KeySlot) : (s.upSlot w h).lost = s.lost := rfl
@[simp] theorem State.upSlot_rows (s : State) (w : Nat) (h : KeySlot → KeySlot) : (s.upSlot w h).rows = s.rows := rfl
@[simp] theorem State.upSlot_dead (s : State) (w : Nat) (h : KeySlot → KeySlot) : (s.upSlot w h).dead = s.dead := rfl
@[simp] theorem State.upSlot_coh (s : State) (w : Nat) (h : KeySlot → KeySlot) : (s.upSlot w h).coh = s.coh := rfl
@[simp] theorem State.upSlot_events (s : State) (w : Nat) (h : KeySlot → KeySlot) : (s.upSlot w h).events = s.events := rfl
@[simp] theorem State.upSlot_fw (s : State) (w : Nat) (h : KeySlot → KeySlot) : (s.upSlot w h).fw = s.fw := rfl
@[simp] theorem State.upSlot_state (s : State) (w : Nat) (h : KeySlot → KeySlot) : (s.upSlot w h).state = s.state := rfl
@[simp] theorem State.upSlot_corrected (s : State) (w : Nat) (h : KeySlot → KeySlot) : (s.upSlot w h).corrected = s.corrected := rfl
@[simp] theorem State.upSlot_errlog (s : State) (w : Nat) (h : KeySlot → KeySlot) : (s.upSlot w h).errlog = s.errlog := rfl
@[simp] theorem State.upSlot_spdm (s : State) (w : Nat) (h : KeySlot → KeySlot) : (s.upSlot w h).spdm = s.spdm := rfl
@[simp] theorem State.upSlot_vfs (s : State) (w : Nat) (h : KeySlot → KeySlot) : (s.upSlot w h).vfs = s.vfs := rfl
@[simp] theorem State.upSlot_bars (s : State) (w : Nat) (h : KeySlot → KeySlot) : (s.upSlot w h).bars = s.bars := rfl
@[simp] theorem State.upSlot_atsOn (s : State) (w : Nat) (h : KeySlot → KeySlot) : (s.upSlot w h).atsOn = s.atsOn := rfl
@[simp] theorem State.upSlot_priOn (s : State) (w : Nat) (h : KeySlot → KeySlot) : (s.upSlot w h).priOn = s.priOn := rfl
@[simp] theorem State.upSlot_flr (s : State) (w : Nat) (h : KeySlot → KeySlot) : (s.upSlot w h).flr = s.flr := rfl
@[simp] theorem State.upSlot_pasids (s : State) (w : Nat) (h : KeySlot → KeySlot) : (s.upSlot w h).pasids = s.pasids := rfl
@[simp] theorem State.upSlot_vectors (s : State) (w : Nat) (h : KeySlot → KeySlot) : (s.upSlot w h).vectors = s.vectors := rfl
@[simp] theorem State.upSlot_pageReqs (s : State) (w : Nat) (h : KeySlot → KeySlot) : (s.upSlot w h).pageReqs = s.pageReqs := rfl
@[simp] theorem State.upSlot_ats (s : State) (w : Nat) (h : KeySlot → KeySlot) : (s.upSlot w h).ats = s.ats := rfl
@[simp] theorem State.upSlot_conns (s : State) (w : Nat) (h : KeySlot → KeySlot) : (s.upSlot w h).conns = s.conns := rfl
@[simp] theorem State.upSlot_leaving (s : State) (w : Nat) (h : KeySlot → KeySlot) : (s.upSlot w h).leaving = s.leaving := rfl
@[simp] theorem State.upSlot_outbox (s : State) (w : Nat) (h : KeySlot → KeySlot) : (s.upSlot w h).outbox = s.outbox := rfl
@[simp] theorem State.upSlot_remap (s : State) (w : Nat) (h : KeySlot → KeySlot) : (s.upSlot w h).remap = s.remap := rfl
@[simp] theorem State.upSlot_inputs (s : State) (w : Nat) (h : KeySlot → KeySlot) : (s.upSlot w h).inputs = s.inputs := rfl
@[simp] theorem State.upSlot_turn (s : State) (w : Nat) (h : KeySlot → KeySlot) : (s.upSlot w h).turn = s.turn := rfl
@[simp] theorem State.upSlot_sel (s : State) (w : Nat) (h : KeySlot → KeySlot) : (s.upSlot w h).sel = s.sel := rfl
@[simp] theorem State.upSlot_ev (s : State) (w : Nat) (h : KeySlot → KeySlot) : (s.upSlot w h).ev = s.ev := rfl
@[simp] theorem State.upSlot_asks (s : State) (w : Nat) (h : KeySlot → KeySlot) : (s.upSlot w h).asks = s.asks := rfl
@[simp] theorem State.upSlot_draws (s : State) (w : Nat) (h : KeySlot → KeySlot) : (s.upSlot w h).draws = s.draws := rfl

/-! ### State.upDie -/

@[simp] theorem State.upDie_cores (s : State) (d : Nat) (h : Die → Die) : (s.upDie d h).cores = s.cores := rfl
@[simp] theorem State.upDie_dies (s : State) (d : Nat) (h : Die → Die) : (s.upDie d h).dies = s.dies.modify d h := rfl
@[simp] theorem State.upDie_teams (s : State) (d : Nat) (h : Die → Die) : (s.upDie d h).teams = s.teams := rfl
@[simp] theorem State.upDie_objs (s : State) (d : Nat) (h : Die → Die) : (s.upDie d h).objs = s.objs := rfl
@[simp] theorem State.upDie_ctxs (s : State) (d : Nat) (h : Die → Die) : (s.upDie d h).ctxs = s.ctxs := rfl
@[simp] theorem State.upDie_spaces (s : State) (d : Nat) (h : Die → Die) : (s.upDie d h).spaces = s.spaces := rfl
@[simp] theorem State.upDie_eps (s : State) (d : Nat) (h : Die → Die) : (s.upDie d h).eps = s.eps := rfl
@[simp] theorem State.upDie_scheds (s : State) (d : Nat) (h : Die → Die) : (s.upDie d h).scheds = s.scheds := rfl
@[simp] theorem State.upDie_lines (s : State) (d : Nat) (h : Die → Die) : (s.upDie d h).lines = s.lines := rfl
@[simp] theorem State.upDie_reserves (s : State) (d : Nat) (h : Die → Die) : (s.upDie d h).reserves = s.reserves := rfl
@[simp] theorem State.upDie_csets (s : State) (d : Nat) (h : Die → Die) : (s.upDie d h).csets = s.csets := rfl
@[simp] theorem State.upDie_answers (s : State) (d : Nat) (h : Die → Die) : (s.upDie d h).answers = s.answers := rfl
@[simp] theorem State.upDie_keys (s : State) (d : Nat) (h : Die → Die) : (s.upDie d h).keys = s.keys := rfl
@[simp] theorem State.upDie_slots (s : State) (d : Nat) (h : Die → Die) : (s.upDie d h).slots = s.slots := rfl
@[simp] theorem State.upDie_sessions (s : State) (d : Nat) (h : Die → Die) : (s.upDie d h).sessions = s.sessions := rfl
@[simp] theorem State.upDie_regs (s : State) (d : Nat) (h : Die → Die) : (s.upDie d h).regs = s.regs := rfl
@[simp] theorem State.upDie_qifs (s : State) (d : Nat) (h : Die → Die) : (s.upDie d h).qifs = s.qifs := rfl
@[simp] theorem State.upDie_root (s : State) (d : Nat) (h : Die → Die) : (s.upDie d h).root = s.root := rfl
@[simp] theorem State.upDie_creation (s : State) (d : Nat) (h : Die → Die) : (s.upDie d h).creation = s.creation := rfl
@[simp] theorem State.upDie_launches (s : State) (d : Nat) (h : Die → Die) : (s.upDie d h).launches = s.launches := rfl
@[simp] theorem State.upDie_launchSeq (s : State) (d : Nat) (h : Die → Die) : (s.upDie d h).launchSeq = s.launchSeq := rfl
@[simp] theorem State.upDie_accepted (s : State) (d : Nat) (h : Die → Die) : (s.upDie d h).accepted = s.accepted := rfl
@[simp] theorem State.upDie_turns (s : State) (d : Nat) (h : Die → Die) : (s.upDie d h).turns = s.turns := rfl
@[simp] theorem State.upDie_revs (s : State) (d : Nat) (h : Die → Die) : (s.upDie d h).revs = s.revs := rfl
@[simp] theorem State.upDie_revSeq (s : State) (d : Nat) (h : Die → Die) : (s.upDie d h).revSeq = s.revSeq := rfl
@[simp] theorem State.upDie_msgSeq (s : State) (d : Nat) (h : Die → Die) : (s.upDie d h).msgSeq = s.msgSeq := rfl
@[simp] theorem State.upDie_mem (s : State) (d : Nat) (h : Die → Die) : (s.upDie d h).mem = s.mem := rfl
@[simp] theorem State.upDie_tags (s : State) (d : Nat) (h : Die → Die) : (s.upDie d h).tags = s.tags := rfl
@[simp] theorem State.upDie_poison (s : State) (d : Nat) (h : Die → Die) : (s.upDie d h).poison = s.poison := rfl
@[simp] theorem State.upDie_stamps (s : State) (d : Nat) (h : Die → Die) : (s.upDie d h).stamps = s.stamps := rfl
@[simp] theorem State.upDie_modes (s : State) (d : Nat) (h : Die → Die) : (s.upDie d h).modes = s.modes := rfl
@[simp] theorem State.upDie_summary (s : State) (d : Nat) (h : Die → Die) : (s.upDie d h).summary = s.summary := rfl
@[simp] theorem State.upDie_cxl (s : State) (d : Nat) (h : Die → Die) : (s.upDie d h).cxl = s.cxl := rfl
@[simp] theorem State.upDie_lost (s : State) (d : Nat) (h : Die → Die) : (s.upDie d h).lost = s.lost := rfl
@[simp] theorem State.upDie_rows (s : State) (d : Nat) (h : Die → Die) : (s.upDie d h).rows = s.rows := rfl
@[simp] theorem State.upDie_dead (s : State) (d : Nat) (h : Die → Die) : (s.upDie d h).dead = s.dead := rfl
@[simp] theorem State.upDie_coh (s : State) (d : Nat) (h : Die → Die) : (s.upDie d h).coh = s.coh := rfl
@[simp] theorem State.upDie_events (s : State) (d : Nat) (h : Die → Die) : (s.upDie d h).events = s.events := rfl
@[simp] theorem State.upDie_fw (s : State) (d : Nat) (h : Die → Die) : (s.upDie d h).fw = s.fw := rfl
@[simp] theorem State.upDie_state (s : State) (d : Nat) (h : Die → Die) : (s.upDie d h).state = s.state := rfl
@[simp] theorem State.upDie_corrected (s : State) (d : Nat) (h : Die → Die) : (s.upDie d h).corrected = s.corrected := rfl
@[simp] theorem State.upDie_errlog (s : State) (d : Nat) (h : Die → Die) : (s.upDie d h).errlog = s.errlog := rfl
@[simp] theorem State.upDie_spdm (s : State) (d : Nat) (h : Die → Die) : (s.upDie d h).spdm = s.spdm := rfl
@[simp] theorem State.upDie_vfs (s : State) (d : Nat) (h : Die → Die) : (s.upDie d h).vfs = s.vfs := rfl
@[simp] theorem State.upDie_bars (s : State) (d : Nat) (h : Die → Die) : (s.upDie d h).bars = s.bars := rfl
@[simp] theorem State.upDie_atsOn (s : State) (d : Nat) (h : Die → Die) : (s.upDie d h).atsOn = s.atsOn := rfl
@[simp] theorem State.upDie_priOn (s : State) (d : Nat) (h : Die → Die) : (s.upDie d h).priOn = s.priOn := rfl
@[simp] theorem State.upDie_flr (s : State) (d : Nat) (h : Die → Die) : (s.upDie d h).flr = s.flr := rfl
@[simp] theorem State.upDie_pasids (s : State) (d : Nat) (h : Die → Die) : (s.upDie d h).pasids = s.pasids := rfl
@[simp] theorem State.upDie_vectors (s : State) (d : Nat) (h : Die → Die) : (s.upDie d h).vectors = s.vectors := rfl
@[simp] theorem State.upDie_pageReqs (s : State) (d : Nat) (h : Die → Die) : (s.upDie d h).pageReqs = s.pageReqs := rfl
@[simp] theorem State.upDie_ats (s : State) (d : Nat) (h : Die → Die) : (s.upDie d h).ats = s.ats := rfl
@[simp] theorem State.upDie_conns (s : State) (d : Nat) (h : Die → Die) : (s.upDie d h).conns = s.conns := rfl
@[simp] theorem State.upDie_leaving (s : State) (d : Nat) (h : Die → Die) : (s.upDie d h).leaving = s.leaving := rfl
@[simp] theorem State.upDie_outbox (s : State) (d : Nat) (h : Die → Die) : (s.upDie d h).outbox = s.outbox := rfl
@[simp] theorem State.upDie_remap (s : State) (d : Nat) (h : Die → Die) : (s.upDie d h).remap = s.remap := rfl
@[simp] theorem State.upDie_inputs (s : State) (d : Nat) (h : Die → Die) : (s.upDie d h).inputs = s.inputs := rfl
@[simp] theorem State.upDie_turn (s : State) (d : Nat) (h : Die → Die) : (s.upDie d h).turn = s.turn := rfl
@[simp] theorem State.upDie_sel (s : State) (d : Nat) (h : Die → Die) : (s.upDie d h).sel = s.sel := rfl
@[simp] theorem State.upDie_ev (s : State) (d : Nat) (h : Die → Die) : (s.upDie d h).ev = s.ev := rfl
@[simp] theorem State.upDie_asks (s : State) (d : Nat) (h : Die → Die) : (s.upDie d h).asks = s.asks := rfl
@[simp] theorem State.upDie_draws (s : State) (d : Nat) (h : Die → Die) : (s.upDie d h).draws = s.draws := rfl

/-! ### State.upCoh -/

@[simp] theorem State.upCoh_cores (s : State) (h : Coherence → Coherence) : (s.upCoh h).cores = s.cores := rfl
@[simp] theorem State.upCoh_dies (s : State) (h : Coherence → Coherence) : (s.upCoh h).dies = s.dies := rfl
@[simp] theorem State.upCoh_teams (s : State) (h : Coherence → Coherence) : (s.upCoh h).teams = s.teams := rfl
@[simp] theorem State.upCoh_objs (s : State) (h : Coherence → Coherence) : (s.upCoh h).objs = s.objs := rfl
@[simp] theorem State.upCoh_ctxs (s : State) (h : Coherence → Coherence) : (s.upCoh h).ctxs = s.ctxs := rfl
@[simp] theorem State.upCoh_spaces (s : State) (h : Coherence → Coherence) : (s.upCoh h).spaces = s.spaces := rfl
@[simp] theorem State.upCoh_eps (s : State) (h : Coherence → Coherence) : (s.upCoh h).eps = s.eps := rfl
@[simp] theorem State.upCoh_scheds (s : State) (h : Coherence → Coherence) : (s.upCoh h).scheds = s.scheds := rfl
@[simp] theorem State.upCoh_lines (s : State) (h : Coherence → Coherence) : (s.upCoh h).lines = s.lines := rfl
@[simp] theorem State.upCoh_reserves (s : State) (h : Coherence → Coherence) : (s.upCoh h).reserves = s.reserves := rfl
@[simp] theorem State.upCoh_csets (s : State) (h : Coherence → Coherence) : (s.upCoh h).csets = s.csets := rfl
@[simp] theorem State.upCoh_answers (s : State) (h : Coherence → Coherence) : (s.upCoh h).answers = s.answers := rfl
@[simp] theorem State.upCoh_keys (s : State) (h : Coherence → Coherence) : (s.upCoh h).keys = s.keys := rfl
@[simp] theorem State.upCoh_slots (s : State) (h : Coherence → Coherence) : (s.upCoh h).slots = s.slots := rfl
@[simp] theorem State.upCoh_sessions (s : State) (h : Coherence → Coherence) : (s.upCoh h).sessions = s.sessions := rfl
@[simp] theorem State.upCoh_regs (s : State) (h : Coherence → Coherence) : (s.upCoh h).regs = s.regs := rfl
@[simp] theorem State.upCoh_qifs (s : State) (h : Coherence → Coherence) : (s.upCoh h).qifs = s.qifs := rfl
@[simp] theorem State.upCoh_root (s : State) (h : Coherence → Coherence) : (s.upCoh h).root = s.root := rfl
@[simp] theorem State.upCoh_creation (s : State) (h : Coherence → Coherence) : (s.upCoh h).creation = s.creation := rfl
@[simp] theorem State.upCoh_launches (s : State) (h : Coherence → Coherence) : (s.upCoh h).launches = s.launches := rfl
@[simp] theorem State.upCoh_launchSeq (s : State) (h : Coherence → Coherence) : (s.upCoh h).launchSeq = s.launchSeq := rfl
@[simp] theorem State.upCoh_accepted (s : State) (h : Coherence → Coherence) : (s.upCoh h).accepted = s.accepted := rfl
@[simp] theorem State.upCoh_turns (s : State) (h : Coherence → Coherence) : (s.upCoh h).turns = s.turns := rfl
@[simp] theorem State.upCoh_revs (s : State) (h : Coherence → Coherence) : (s.upCoh h).revs = s.revs := rfl
@[simp] theorem State.upCoh_revSeq (s : State) (h : Coherence → Coherence) : (s.upCoh h).revSeq = s.revSeq := rfl
@[simp] theorem State.upCoh_msgSeq (s : State) (h : Coherence → Coherence) : (s.upCoh h).msgSeq = s.msgSeq := rfl
@[simp] theorem State.upCoh_mem (s : State) (h : Coherence → Coherence) : (s.upCoh h).mem = s.mem := rfl
@[simp] theorem State.upCoh_tags (s : State) (h : Coherence → Coherence) : (s.upCoh h).tags = s.tags := rfl
@[simp] theorem State.upCoh_poison (s : State) (h : Coherence → Coherence) : (s.upCoh h).poison = s.poison := rfl
@[simp] theorem State.upCoh_stamps (s : State) (h : Coherence → Coherence) : (s.upCoh h).stamps = s.stamps := rfl
@[simp] theorem State.upCoh_modes (s : State) (h : Coherence → Coherence) : (s.upCoh h).modes = s.modes := rfl
@[simp] theorem State.upCoh_summary (s : State) (h : Coherence → Coherence) : (s.upCoh h).summary = s.summary := rfl
@[simp] theorem State.upCoh_cxl (s : State) (h : Coherence → Coherence) : (s.upCoh h).cxl = s.cxl := rfl
@[simp] theorem State.upCoh_lost (s : State) (h : Coherence → Coherence) : (s.upCoh h).lost = s.lost := rfl
@[simp] theorem State.upCoh_rows (s : State) (h : Coherence → Coherence) : (s.upCoh h).rows = s.rows := rfl
@[simp] theorem State.upCoh_dead (s : State) (h : Coherence → Coherence) : (s.upCoh h).dead = s.dead := rfl
@[simp] theorem State.upCoh_coh (s : State) (h : Coherence → Coherence) : (s.upCoh h).coh = h s.coh := rfl
@[simp] theorem State.upCoh_events (s : State) (h : Coherence → Coherence) : (s.upCoh h).events = s.events := rfl
@[simp] theorem State.upCoh_fw (s : State) (h : Coherence → Coherence) : (s.upCoh h).fw = s.fw := rfl
@[simp] theorem State.upCoh_state (s : State) (h : Coherence → Coherence) : (s.upCoh h).state = s.state := rfl
@[simp] theorem State.upCoh_corrected (s : State) (h : Coherence → Coherence) : (s.upCoh h).corrected = s.corrected := rfl
@[simp] theorem State.upCoh_errlog (s : State) (h : Coherence → Coherence) : (s.upCoh h).errlog = s.errlog := rfl
@[simp] theorem State.upCoh_spdm (s : State) (h : Coherence → Coherence) : (s.upCoh h).spdm = s.spdm := rfl
@[simp] theorem State.upCoh_vfs (s : State) (h : Coherence → Coherence) : (s.upCoh h).vfs = s.vfs := rfl
@[simp] theorem State.upCoh_bars (s : State) (h : Coherence → Coherence) : (s.upCoh h).bars = s.bars := rfl
@[simp] theorem State.upCoh_atsOn (s : State) (h : Coherence → Coherence) : (s.upCoh h).atsOn = s.atsOn := rfl
@[simp] theorem State.upCoh_priOn (s : State) (h : Coherence → Coherence) : (s.upCoh h).priOn = s.priOn := rfl
@[simp] theorem State.upCoh_flr (s : State) (h : Coherence → Coherence) : (s.upCoh h).flr = s.flr := rfl
@[simp] theorem State.upCoh_pasids (s : State) (h : Coherence → Coherence) : (s.upCoh h).pasids = s.pasids := rfl
@[simp] theorem State.upCoh_vectors (s : State) (h : Coherence → Coherence) : (s.upCoh h).vectors = s.vectors := rfl
@[simp] theorem State.upCoh_pageReqs (s : State) (h : Coherence → Coherence) : (s.upCoh h).pageReqs = s.pageReqs := rfl
@[simp] theorem State.upCoh_ats (s : State) (h : Coherence → Coherence) : (s.upCoh h).ats = s.ats := rfl
@[simp] theorem State.upCoh_conns (s : State) (h : Coherence → Coherence) : (s.upCoh h).conns = s.conns := rfl
@[simp] theorem State.upCoh_leaving (s : State) (h : Coherence → Coherence) : (s.upCoh h).leaving = s.leaving := rfl
@[simp] theorem State.upCoh_outbox (s : State) (h : Coherence → Coherence) : (s.upCoh h).outbox = s.outbox := rfl
@[simp] theorem State.upCoh_remap (s : State) (h : Coherence → Coherence) : (s.upCoh h).remap = s.remap := rfl
@[simp] theorem State.upCoh_inputs (s : State) (h : Coherence → Coherence) : (s.upCoh h).inputs = s.inputs := rfl
@[simp] theorem State.upCoh_turn (s : State) (h : Coherence → Coherence) : (s.upCoh h).turn = s.turn := rfl
@[simp] theorem State.upCoh_sel (s : State) (h : Coherence → Coherence) : (s.upCoh h).sel = s.sel := rfl
@[simp] theorem State.upCoh_ev (s : State) (h : Coherence → Coherence) : (s.upCoh h).ev = s.ev := rfl
@[simp] theorem State.upCoh_asks (s : State) (h : Coherence → Coherence) : (s.upCoh h).asks = s.asks := rfl
@[simp] theorem State.upCoh_draws (s : State) (h : Coherence → Coherence) : (s.upCoh h).draws = s.draws := rfl

/-! ### Team.upGroup -/

@[simp] theorem Team.upGroup_core (t : Team) (g : Nat) (h : Group → Group) : (t.upGroup g h).core = t.core := rfl
@[simp] theorem Team.upGroup_w (t : Team) (g : Nat) (h : Group → Group) : (t.upGroup g h).w = t.w := rfl
@[simp] theorem Team.upGroup_ctx (t : Team) (g : Nat) (h : Group → Group) : (t.upGroup g h).ctx = t.ctx := rfl
@[simp] theorem Team.upGroup_launch (t : Team) (g : Nat) (h : Group → Group) : (t.upGroup g h).launch = t.launch := rfl
@[simp] theorem Team.upGroup_cluster (t : Team) (g : Nat) (h : Group → Group) : (t.upGroup g h).cluster = t.cluster := rfl
@[simp] theorem Team.upGroup_idx (t : Team) (g : Nat) (h : Group → Group) : (t.upGroup g h).idx = t.idx := rfl
@[simp] theorem Team.upGroup_cx (t : Team) (g : Nat) (h : Group → Group) : (t.upGroup g h).cx = t.cx := rfl
@[simp] theorem Team.upGroup_cy (t : Team) (g : Nat) (h : Group → Group) : (t.upGroup g h).cy = t.cy := rfl
@[simp] theorem Team.upGroup_gx (t : Team) (g : Nat) (h : Group → Group) : (t.upGroup g h).gx = t.gx := rfl
@[simp] theorem Team.upGroup_gy (t : Team) (g : Nat) (h : Group → Group) : (t.upGroup g h).gy = t.gy := rfl
@[simp] theorem Team.upGroup_cw (t : Team) (g : Nat) (h : Group → Group) : (t.upGroup g h).cw = t.cw := rfl
@[simp] theorem Team.upGroup_ch (t : Team) (g : Nat) (h : Group → Group) : (t.upGroup g h).ch = t.ch := rfl
@[simp] theorem Team.upGroup_sched (t : Team) (g : Nat) (h : Group → Group) : (t.upGroup g h).sched = t.sched := rfl
@[simp] theorem Team.upGroup_world (t : Team) (g : Nat) (h : Group → Group) : (t.upGroup g h).world = t.world := rfl
@[simp] theorem Team.upGroup_epoch (t : Team) (g : Nat) (h : Group → Group) : (t.upGroup g h).epoch = t.epoch := rfl
@[simp] theorem Team.upGroup_mates (t : Team) (g : Nat) (h : Group → Group) : (t.upGroup g h).mates = t.mates := rfl
@[simp] theorem Team.upGroup_nreg (t : Team) (g : Nat) (h : Group → Group) : (t.upGroup g h).nreg = t.nreg := rfl
@[simp] theorem Team.upGroup_mrf (t : Team) (g : Nat) (h : Group → Group) : (t.upGroup g h).mrf = t.mrf := rfl
@[simp] theorem Team.upGroup_spad (t : Team) (g : Nat) (h : Group → Group) : (t.upGroup g h).spad = t.spad := rfl
@[simp] theorem Team.upGroup_st (t : Team) (g : Nat) (h : Group → Group) : (t.upGroup g h).st = t.st := rfl
@[simp] theorem Team.upGroup_faultStop (t : Team) (g : Nat) (h : Group → Group) : (t.upGroup g h).faultStop = t.faultStop := rfl
@[simp] theorem Team.upGroup_desched (t : Team) (g : Nat) (h : Group → Group) : (t.upGroup g h).desched = t.desched := rfl
@[simp] theorem Team.upGroup_cut (t : Team) (g : Nat) (h : Group → Group) : (t.upGroup g h).cut = t.cut := rfl
@[simp] theorem Team.upGroup_whole (t : Team) (g : Nat) (h : Group → Group) : (t.upGroup g h).whole = t.whole := rfl
@[simp] theorem Team.upGroup_cutStep (t : Team) (g : Nat) (h : Group → Group) : (t.upGroup g h).cutStep = t.cutStep := rfl
@[simp] theorem Team.upGroup_groups (t : Team) (g : Nat) (h : Group → Group) : (t.upGroup g h).groups = t.groups.modify g h := rfl
@[simp] theorem Team.upGroup_sp (t : Team) (g : Nat) (h : Group → Group) : (t.upGroup g h).sp = t.sp := rfl
@[simp] theorem Team.upGroup_spTags (t : Team) (g : Nat) (h : Group → Group) : (t.upGroup g h).spTags = t.spTags := rfl
@[simp] theorem Team.upGroup_owner (t : Team) (g : Nat) (h : Group → Group) : (t.upGroup g h).owner = t.owner := rfl
@[simp] theorem Team.upGroup_named (t : Team) (g : Nat) (h : Group → Group) : (t.upGroup g h).named = t.named := rfl
@[simp] theorem Team.upGroup_ties (t : Team) (g : Nat) (h : Group → Group) : (t.upGroup g h).ties = t.ties := rfl
@[simp] theorem Team.upGroup_ops (t : Team) (g : Nat) (h : Group → Group) : (t.upGroup g h).ops = t.ops := rfl
@[simp] theorem Team.upGroup_nextOp (t : Team) (g : Nat) (h : Group → Group) : (t.upGroup g h).nextOp = t.nextOp := rfl
@[simp] theorem Team.upGroup_pend (t : Team) (g : Nat) (h : Group → Group) : (t.upGroup g h).pend = t.pend := rfl
@[simp] theorem Team.upGroup_mx (t : Team) (g : Nat) (h : Group → Group) : (t.upGroup g h).mx = t.mx := rfl
@[simp] theorem Team.upGroup_deque (t : Team) (g : Nat) (h : Group → Group) : (t.upGroup g h).deque = t.deque := rfl
@[simp] theorem Team.upGroup_ring (t : Team) (g : Nat) (h : Group → Group) : (t.upGroup g h).ring = t.ring := rfl
@[simp] theorem Team.upGroup_ringBytes (t : Team) (g : Nat) (h : Group → Group) : (t.upGroup g h).ringBytes = t.ringBytes := rfl
@[simp] theorem Team.upGroup_ringOld (t : Team) (g : Nat) (h : Group → Group) : (t.upGroup g h).ringOld = t.ringOld := rfl
@[simp] theorem Team.upGroup_ringCount (t : Team) (g : Nat) (h : Group → Group) : (t.upGroup g h).ringCount = t.ringCount := rfl
@[simp] theorem Team.upGroup_refill (t : Team) (g : Nat) (h : Group → Group) : (t.upGroup g h).refill = t.refill := rfl
@[simp] theorem Team.upGroup_spawns (t : Team) (g : Nat) (h : Group → Group) : (t.upGroup g h).spawns = t.spawns := rfl
@[simp] theorem Team.upGroup_free (t : Team) (g : Nat) (h : Group → Group) : (t.upGroup g h).free = t.free := rfl
@[simp] theorem Team.upGroup_freed (t : Team) (g : Nat) (h : Group → Group) : (t.upGroup g h).freed = t.freed := rfl
@[simp] theorem Team.upGroup_steal (t : Team) (g : Nat) (h : Group → Group) : (t.upGroup g h).steal = t.steal := rfl
@[simp] theorem Team.upGroup_idleAt (t : Team) (g : Nat) (h : Group → Group) : (t.upGroup g h).idleAt = t.idleAt := rfl
@[simp] theorem Team.upGroup_searched (t : Team) (g : Nat) (h : Group → Group) : (t.upGroup g h).searched = t.searched := rfl
@[simp] theorem Team.upGroup_doneCap (t : Team) (g : Nat) (h : Group → Group) : (t.upGroup g h).doneCap = t.doneCap := rfl
@[simp] theorem Team.upGroup_slotPa (t : Team) (g : Nat) (h : Group → Group) : (t.upGroup g h).slotPa = t.slotPa := rfl
@[simp] theorem Team.upGroup_lastG (t : Team) (g : Nat) (h : Group → Group) : (t.upGroup g h).lastG = t.lastG := rfl
@[simp] theorem Team.upGroup_run (t : Team) (g : Nat) (h : Group → Group) : (t.upGroup g h).run = t.run := rfl
@[simp] theorem Team.upGroup_contended (t : Team) (g : Nat) (h : Group → Group) : (t.upGroup g h).contended = t.contended := rfl
@[simp] theorem Team.upGroup_ageCtr (t : Team) (g : Nat) (h : Group → Group) : (t.upGroup g h).ageCtr = t.ageCtr := rfl
@[simp] theorem Team.upGroup_hold (t : Team) (g : Nat) (h : Group → Group) : (t.upGroup g h).hold = t.hold := rfl
@[simp] theorem Team.upGroup_slot (t : Team) (g : Nat) (h : Group → Group) : (t.upGroup g h).slot = t.slot := rfl
@[simp] theorem Team.upGroup_wrote (t : Team) (g : Nat) (h : Group → Group) : (t.upGroup g h).wrote = t.wrote := rfl
@[simp] theorem Team.upGroup_sfuBusy (t : Team) (g : Nat) (h : Group → Group) : (t.upGroup g h).sfuBusy = t.sfuBusy := rfl
@[simp] theorem Team.upGroup_memBusy (t : Team) (g : Nat) (h : Group → Group) : (t.upGroup g h).memBusy = t.memBusy := rfl
@[simp] theorem Team.upGroup_deschedAt (t : Team) (g : Nat) (h : Group → Group) : (t.upGroup g h).deschedAt = t.deschedAt := rfl
@[simp] theorem Team.upGroup_placedAt (t : Team) (g : Nat) (h : Group → Group) : (t.upGroup g h).placedAt = t.placedAt := rfl
@[simp] theorem Team.upGroup_message (t : Team) (g : Nat) (h : Group → Group) : (t.upGroup g h).message = t.message := rfl
@[simp] theorem Team.upGroup_faults (t : Team) (g : Nat) (h : Group → Group) : (t.upGroup g h).faults = t.faults := rfl
@[simp] theorem Team.upGroup_pageAsync (t : Team) (g : Nat) (h : Group → Group) : (t.upGroup g h).pageAsync = t.pageAsync := rfl
@[simp] theorem Team.upGroup_dead (t : Team) (g : Nat) (h : Group → Group) : (t.upGroup g h).dead = t.dead := rfl

/-! ### Team.addOp -/

@[simp] theorem Team.addOp_core (t : Team) (o : Op) : (t.addOp o).core = t.core := rfl
@[simp] theorem Team.addOp_w (t : Team) (o : Op) : (t.addOp o).w = t.w := rfl
@[simp] theorem Team.addOp_ctx (t : Team) (o : Op) : (t.addOp o).ctx = t.ctx := rfl
@[simp] theorem Team.addOp_launch (t : Team) (o : Op) : (t.addOp o).launch = t.launch := rfl
@[simp] theorem Team.addOp_cluster (t : Team) (o : Op) : (t.addOp o).cluster = t.cluster := rfl
@[simp] theorem Team.addOp_idx (t : Team) (o : Op) : (t.addOp o).idx = t.idx := rfl
@[simp] theorem Team.addOp_cx (t : Team) (o : Op) : (t.addOp o).cx = t.cx := rfl
@[simp] theorem Team.addOp_cy (t : Team) (o : Op) : (t.addOp o).cy = t.cy := rfl
@[simp] theorem Team.addOp_gx (t : Team) (o : Op) : (t.addOp o).gx = t.gx := rfl
@[simp] theorem Team.addOp_gy (t : Team) (o : Op) : (t.addOp o).gy = t.gy := rfl
@[simp] theorem Team.addOp_cw (t : Team) (o : Op) : (t.addOp o).cw = t.cw := rfl
@[simp] theorem Team.addOp_ch (t : Team) (o : Op) : (t.addOp o).ch = t.ch := rfl
@[simp] theorem Team.addOp_sched (t : Team) (o : Op) : (t.addOp o).sched = t.sched := rfl
@[simp] theorem Team.addOp_world (t : Team) (o : Op) : (t.addOp o).world = t.world := rfl
@[simp] theorem Team.addOp_epoch (t : Team) (o : Op) : (t.addOp o).epoch = t.epoch := rfl
@[simp] theorem Team.addOp_mates (t : Team) (o : Op) : (t.addOp o).mates = t.mates := rfl
@[simp] theorem Team.addOp_nreg (t : Team) (o : Op) : (t.addOp o).nreg = t.nreg := rfl
@[simp] theorem Team.addOp_mrf (t : Team) (o : Op) : (t.addOp o).mrf = t.mrf := rfl
@[simp] theorem Team.addOp_spad (t : Team) (o : Op) : (t.addOp o).spad = t.spad := rfl
@[simp] theorem Team.addOp_st (t : Team) (o : Op) : (t.addOp o).st = t.st := rfl
@[simp] theorem Team.addOp_faultStop (t : Team) (o : Op) : (t.addOp o).faultStop = t.faultStop := rfl
@[simp] theorem Team.addOp_desched (t : Team) (o : Op) : (t.addOp o).desched = t.desched := rfl
@[simp] theorem Team.addOp_cut (t : Team) (o : Op) : (t.addOp o).cut = t.cut := rfl
@[simp] theorem Team.addOp_whole (t : Team) (o : Op) : (t.addOp o).whole = t.whole := rfl
@[simp] theorem Team.addOp_cutStep (t : Team) (o : Op) : (t.addOp o).cutStep = t.cutStep := rfl
@[simp] theorem Team.addOp_groups (t : Team) (o : Op) : (t.addOp o).groups = t.groups := rfl
@[simp] theorem Team.addOp_sp (t : Team) (o : Op) : (t.addOp o).sp = t.sp := rfl
@[simp] theorem Team.addOp_spTags (t : Team) (o : Op) : (t.addOp o).spTags = t.spTags := rfl
@[simp] theorem Team.addOp_owner (t : Team) (o : Op) : (t.addOp o).owner = t.owner := rfl
@[simp] theorem Team.addOp_named (t : Team) (o : Op) : (t.addOp o).named = t.named := rfl
@[simp] theorem Team.addOp_ties (t : Team) (o : Op) : (t.addOp o).ties = t.ties := rfl
@[simp] theorem Team.addOp_ops (t : Team) (o : Op) : (t.addOp o).ops = t.ops ++ [{ o with id := t.nextOp, gates := o.lanes.flatMap fun l => (t.gatesAt o.g l).map fun k => (l, k) }] := rfl
@[simp] theorem Team.addOp_nextOp (t : Team) (o : Op) : (t.addOp o).nextOp = t.nextOp + 1 := rfl
@[simp] theorem Team.addOp_pend (t : Team) (o : Op) : (t.addOp o).pend = t.pend := rfl
@[simp] theorem Team.addOp_mx (t : Team) (o : Op) : (t.addOp o).mx = t.mx := rfl
@[simp] theorem Team.addOp_deque (t : Team) (o : Op) : (t.addOp o).deque = t.deque := rfl
@[simp] theorem Team.addOp_ring (t : Team) (o : Op) : (t.addOp o).ring = t.ring := rfl
@[simp] theorem Team.addOp_ringBytes (t : Team) (o : Op) : (t.addOp o).ringBytes = t.ringBytes := rfl
@[simp] theorem Team.addOp_ringOld (t : Team) (o : Op) : (t.addOp o).ringOld = t.ringOld := rfl
@[simp] theorem Team.addOp_ringCount (t : Team) (o : Op) : (t.addOp o).ringCount = t.ringCount := rfl
@[simp] theorem Team.addOp_refill (t : Team) (o : Op) : (t.addOp o).refill = t.refill := rfl
@[simp] theorem Team.addOp_spawns (t : Team) (o : Op) : (t.addOp o).spawns = t.spawns := rfl
@[simp] theorem Team.addOp_free (t : Team) (o : Op) : (t.addOp o).free = t.free := rfl
@[simp] theorem Team.addOp_freed (t : Team) (o : Op) : (t.addOp o).freed = t.freed := rfl
@[simp] theorem Team.addOp_steal (t : Team) (o : Op) : (t.addOp o).steal = t.steal := rfl
@[simp] theorem Team.addOp_idleAt (t : Team) (o : Op) : (t.addOp o).idleAt = t.idleAt := rfl
@[simp] theorem Team.addOp_searched (t : Team) (o : Op) : (t.addOp o).searched = t.searched := rfl
@[simp] theorem Team.addOp_doneCap (t : Team) (o : Op) : (t.addOp o).doneCap = t.doneCap := rfl
@[simp] theorem Team.addOp_slotPa (t : Team) (o : Op) : (t.addOp o).slotPa = t.slotPa := rfl
@[simp] theorem Team.addOp_lastG (t : Team) (o : Op) : (t.addOp o).lastG = t.lastG := rfl
@[simp] theorem Team.addOp_run (t : Team) (o : Op) : (t.addOp o).run = t.run := rfl
@[simp] theorem Team.addOp_contended (t : Team) (o : Op) : (t.addOp o).contended = t.contended := rfl
@[simp] theorem Team.addOp_ageCtr (t : Team) (o : Op) : (t.addOp o).ageCtr = t.ageCtr := rfl
@[simp] theorem Team.addOp_hold (t : Team) (o : Op) : (t.addOp o).hold = t.hold := rfl
@[simp] theorem Team.addOp_slot (t : Team) (o : Op) : (t.addOp o).slot = t.slot := rfl
@[simp] theorem Team.addOp_wrote (t : Team) (o : Op) : (t.addOp o).wrote = t.wrote := rfl
@[simp] theorem Team.addOp_sfuBusy (t : Team) (o : Op) : (t.addOp o).sfuBusy = t.sfuBusy := rfl
@[simp] theorem Team.addOp_memBusy (t : Team) (o : Op) : (t.addOp o).memBusy = t.memBusy := rfl
@[simp] theorem Team.addOp_deschedAt (t : Team) (o : Op) : (t.addOp o).deschedAt = t.deschedAt := rfl
@[simp] theorem Team.addOp_placedAt (t : Team) (o : Op) : (t.addOp o).placedAt = t.placedAt := rfl
@[simp] theorem Team.addOp_message (t : Team) (o : Op) : (t.addOp o).message = t.message := rfl
@[simp] theorem Team.addOp_faults (t : Team) (o : Op) : (t.addOp o).faults = t.faults := rfl
@[simp] theorem Team.addOp_pageAsync (t : Team) (o : Op) : (t.addOp o).pageAsync = t.pageAsync := rfl
@[simp] theorem Team.addOp_dead (t : Team) (o : Op) : (t.addOp o).dead = t.dead := rfl

/-! ### Group.upThread -/

@[simp] theorem Group.upThread_threads (g : Group) (lane : Nat) (h : Thread → Thread) : (g.upThread lane h).threads = g.threads.upd lane h := rfl
@[simp] theorem Group.upThread_s (g : Group) (lane : Nat) (h : Thread → Thread) : (g.upThread lane h).s = g.s := rfl
@[simp] theorem Group.upThread_sw (g : Group) (lane : Nat) (h : Thread → Thread) : (g.upThread lane h).sw = g.sw := rfl
@[simp] theorem Group.upThread_k (g : Group) (lane : Nat) (h : Thread → Thread) : (g.upThread lane h).k = g.k := rfl
@[simp] theorem Group.upThread_g (g : Group) (lane : Nat) (h : Thread → Thread) : (g.upThread lane h).g = g.g := rfl
@[simp] theorem Group.upThread_cause (g : Group) (lane : Nat) (h : Thread → Thread) : (g.upThread lane h).cause = g.cause := rfl
@[simp] theorem Group.upThread_pcc (g : Group) (lane : Nat) (h : Thread → Thread) : (g.upThread lane h).pcc = g.pcc := rfl
@[simp] theorem Group.upThread_pct (g : Group) (lane : Nat) (h : Thread → Thread) : (g.upThread lane h).pct = g.pct := rfl
@[simp] theorem Group.upThread_queue (g : Group) (lane : Nat) (h : Thread → Thread) : (g.upThread lane h).queue = g.queue := rfl
@[simp] theorem Group.upThread_joining (g : Group) (lane : Nat) (h : Thread → Thread) : (g.upThread lane h).joining = g.joining := rfl
@[simp] theorem Group.upThread_houseDue (g : Group) (lane : Nat) (h : Thread → Thread) : (g.upThread lane h).houseDue = g.houseDue := rfl
@[simp] theorem Group.upThread_age (g : Group) (lane : Nat) (h : Thread → Thread) : (g.upThread lane h).age = g.age := rfl
@[simp] theorem Group.upThread_issued (g : Group) (lane : Nat) (h : Thread → Thread) : (g.upThread lane h).issued = g.issued := rfl
@[simp] theorem Group.upThread_crowd (g : Group) (lane : Nat) (h : Thread → Thread) : (g.upThread lane h).crowd = g.crowd := rfl
@[simp] theorem Group.upThread_engRec (g : Group) (lane : Nat) (h : Thread → Thread) : (g.upThread lane h).engRec = g.engRec := rfl
@[simp] theorem Group.upThread_skid (g : Group) (lane : Nat) (h : Thread → Thread) : (g.upThread lane h).skid = g.skid := rfl
@[simp] theorem Group.upThread_initiator (g : Group) (lane : Nat) (h : Thread → Thread) : (g.upThread lane h).initiator = g.initiator := rfl
@[simp] theorem Group.upThread_halted (g : Group) (lane : Nat) (h : Thread → Thread) : (g.upThread lane h).halted = g.halted := rfl
@[simp] theorem Group.upThread_exempt (g : Group) (lane : Nat) (h : Thread → Thread) : (g.upThread lane h).exempt = g.exempt := rfl

/-! ### Group.mapThreads -/

@[simp] theorem Group.mapThreads_threads (g : Group) (h : Nat → Thread → Thread) : (g.mapThreads h).threads = g.threads.mapv h := rfl
@[simp] theorem Group.mapThreads_s (g : Group) (h : Nat → Thread → Thread) : (g.mapThreads h).s = g.s := rfl
@[simp] theorem Group.mapThreads_sw (g : Group) (h : Nat → Thread → Thread) : (g.mapThreads h).sw = g.sw := rfl
@[simp] theorem Group.mapThreads_k (g : Group) (h : Nat → Thread → Thread) : (g.mapThreads h).k = g.k := rfl
@[simp] theorem Group.mapThreads_g (g : Group) (h : Nat → Thread → Thread) : (g.mapThreads h).g = g.g := rfl
@[simp] theorem Group.mapThreads_cause (g : Group) (h : Nat → Thread → Thread) : (g.mapThreads h).cause = g.cause := rfl
@[simp] theorem Group.mapThreads_pcc (g : Group) (h : Nat → Thread → Thread) : (g.mapThreads h).pcc = g.pcc := rfl
@[simp] theorem Group.mapThreads_pct (g : Group) (h : Nat → Thread → Thread) : (g.mapThreads h).pct = g.pct := rfl
@[simp] theorem Group.mapThreads_queue (g : Group) (h : Nat → Thread → Thread) : (g.mapThreads h).queue = g.queue := rfl
@[simp] theorem Group.mapThreads_joining (g : Group) (h : Nat → Thread → Thread) : (g.mapThreads h).joining = g.joining := rfl
@[simp] theorem Group.mapThreads_houseDue (g : Group) (h : Nat → Thread → Thread) : (g.mapThreads h).houseDue = g.houseDue := rfl
@[simp] theorem Group.mapThreads_age (g : Group) (h : Nat → Thread → Thread) : (g.mapThreads h).age = g.age := rfl
@[simp] theorem Group.mapThreads_issued (g : Group) (h : Nat → Thread → Thread) : (g.mapThreads h).issued = g.issued := rfl
@[simp] theorem Group.mapThreads_crowd (g : Group) (h : Nat → Thread → Thread) : (g.mapThreads h).crowd = g.crowd := rfl
@[simp] theorem Group.mapThreads_engRec (g : Group) (h : Nat → Thread → Thread) : (g.mapThreads h).engRec = g.engRec := rfl
@[simp] theorem Group.mapThreads_skid (g : Group) (h : Nat → Thread → Thread) : (g.mapThreads h).skid = g.skid := rfl
@[simp] theorem Group.mapThreads_initiator (g : Group) (h : Nat → Thread → Thread) : (g.mapThreads h).initiator = g.initiator := rfl
@[simp] theorem Group.mapThreads_halted (g : Group) (h : Nat → Thread → Thread) : (g.mapThreads h).halted = g.halted := rfl
@[simp] theorem Group.mapThreads_exempt (g : Group) (h : Nat → Thread → Thread) : (g.mapThreads h).exempt = g.exempt := rfl

end Sys2Proof.Machine
end

