-- ==== Sys2Proof/Laws/Words.lean ====
section
/-! SUPPORT. The shapes of instruction words, said once each (R11, R12, R18, R59, R91): what a word answers when its
operands are in reach and readable, when a lane raises, and when it is illegal. -/

namespace Sys2Proof.Machine

open Sys2Proof

/-! ### Lanes -/

/-- `Issue.each` over a list of lanes, lane by lane. -/
def eachLane {ε α : Type} (f : Nat → Thread → Except ε α) :
    List (Nat × Thread) → Except (List (Nat × ε)) (List (Nat × α))
  | [] => .ok []
  | p :: r =>
    match f p.1 p.2, eachLane f r with
    | .ok a, .ok as => .ok ((p.1, a) :: as)
    | .ok _, .error es => .error es
    | .error e, .ok _ => .error [(p.1, e)]
    | .error e, .error es => .error ((p.1, e) :: es)

theorem Issue.each_eq {ε α : Type} (i : Issue) (f : Nat → Thread → Except ε α) : i.each f = eachLane f i.visited := by
  unfold Issue.each
  generalize i.visited = vs
  have key : ∀ vs : List (Nat × Thread),
      (eachLane f vs = .ok ((vs.map fun p => (p.1, f p.1 p.2)).filterMap fun p => p.2.toOption.map fun a => (p.1, a)) ∧
        ((vs.map fun p => (p.1, f p.1 p.2)).filterMap fun p => match p.2 with | .error c => some (p.1, c) | .ok _ => none) = []) ∨
      (∃ e es, eachLane f vs = .error (e :: es) ∧
        ((vs.map fun p => (p.1, f p.1 p.2)).filterMap fun p => match p.2 with | .error c => some (p.1, c) | .ok _ => none) = e :: es) := by
    intro vs
    induction vs with
    | nil => exact .inl ⟨rfl, rfl⟩
    | cons p r ih =>
      cases hf : f p.1 p.2 with
      | ok a =>
        rcases ih with ⟨h1, h2⟩ | ⟨e, es, h1, h2⟩
        · exact .inl ⟨by simp [eachLane, hf, h1, Except.toOption], by simpa [hf] using h2⟩
        · exact .inr ⟨e, es, by simp [eachLane, hf, h1], by simpa [hf] using h2⟩
      | error c =>
        rcases ih with ⟨h1, h2⟩ | ⟨e, es, h1, h2⟩
        · exact .inr ⟨(p.1, c), [], by simp [eachLane, hf, h1], by simpa [hf] using h2⟩
        · exact .inr ⟨(p.1, c), e :: es, by simp [eachLane, hf, h1], by simpa [hf] using h2⟩
  rcases key vs with ⟨h1, h2⟩ | ⟨e, es, h1, h2⟩
  · rw [h1]
    refine (if_pos (List.isEmpty_iff.2 h2)).trans (congrArg Except.ok ?_)
    refine List.filterMap_congr fun q _ => ?_
    cases q.2 <;> rfl
  · rw [h1]
    refine (if_neg ?_).trans (congrArg Except.error h2)
    intro h
    rw [List.isEmpty_iff] at h
    exact absurd (h2.symm.trans h) (by simp)

theorem eachLane_congr {ε α : Type} {f g : Nat → Thread → Except ε α} {vs : List (Nat × Thread)}
    (h : ∀ p ∈ vs, f p.1 p.2 = g p.1 p.2) : eachLane f vs = eachLane g vs := by
  induction vs with
  | nil => rfl
  | cons p r ih => simp only [eachLane, h p (by simp), ih fun q hq => h q (by simp [hq])]

theorem Issue.each_congr {ε α : Type} (i : Issue) {f g : Nat → Thread → Except ε α}
    (h : ∀ p ∈ i.visited, f p.1 p.2 = g p.1 p.2) : i.each f = i.each g := by
  rw [i.each_eq, i.each_eq, eachLane_congr h]

/-- When every visited lane can be evaluated, the results come in lane order. -/
theorem Issue.each_ok {ε α : Type} (i : Issue) {f : Nat → Thread → Except ε α} {r : Nat → Thread → α}
    (h : ∀ p ∈ i.visited, f p.1 p.2 = .ok (r p.1 p.2)) : i.each f = .ok (i.visited.map fun p => (p.1, r p.1 p.2)) := by
  rw [i.each_eq]
  revert h
  generalize i.visited = vs
  intro h
  induction vs with
  | nil => rfl
  | cons p l ih => simp [eachLane, h p (by simp), ih fun q hq => h q (by simp [hq])]

/-- The results of an evaluation, lane by lane. -/
theorem Issue.each_ok_inv {ε α : Type} (i : Issue) {f : Nat → Thread → Except ε α} {outs : List (Nat × α)}
    (h : i.each f = .ok outs) : ∀ p ∈ i.visited, ∃ a, f p.1 p.2 = .ok a ∧ (p.1, a) ∈ outs := by
  rw [i.each_eq] at h
  revert h
  generalize i.visited = vs
  intro h
  induction vs generalizing outs with
  | nil => simp
  | cons p l ih =>
    unfold eachLane at h
    split at h
    · rename_i a as h1 h2
      cases h
      intro q hq
      rcases List.mem_cons.1 hq with rfl | hq
      · exact ⟨a, h1, by simp⟩
      · obtain ⟨b, h3, h4⟩ := ih h2 q hq
        exact ⟨b, h3, by simp [h4]⟩
    · cases h
    · cases h
    · cases h

/-- Lanes evaluated by a function and then changed. -/
theorem Issue.each_map {ε α β : Type} (i : Issue) {f : Nat → Thread → Except ε α} {h : Nat → Thread → Except ε β}
    (g : Nat → α → β) (hh : ∀ l t, h l t = (f l t).map (g l)) {outs : List (Nat × α)} (e : i.each f = .ok outs) :
    i.each h = .ok (outs.map fun p => (p.1, g p.1 p.2)) := by
  rw [i.each_eq] at *
  revert e
  generalize i.visited = vs
  intro e
  induction vs generalizing outs with
  | nil => cases e; rfl
  | cons p l ih =>
    unfold eachLane at e
    split at e
    · rename_i a as h1 h2
      cases e
      simp [eachLane, hh, h1, ih h2, Except.map]
    · cases e
    · cases e
    · cases e

/-! ### Words -/

theorem wordDo_ok {s : State} {i : Issue} (hi : s.issue = some i) {ins : Instr}
    (hl : illegalAt ins i.t.nreg i.w = false) (k : Issue → State) : wordDo ins s k = .next (k i) := by
  simp [wordDo, onIssue_some hi, hl]

theorem wordDo_illegal {s : State} {i : Issue} (hi : s.issue = some i) {ins : Instr}
    (hl : illegalAt ins i.t.nreg i.w = true) (k : Issue → State) : wordDo ins s k = .next i.illegal := by
  simp [wordDo, onIssue_some hi, hl]

theorem laneWord_ok {s : State} {i : Issue} (hi : s.issue = some i) {ins : Instr}
    (hl : illegalAt ins i.t.nreg i.w = false) (kind : PendKind) (lat : Nat)
    {f : Issue → Nat → Thread → Except Word LaneOut} {outs : List (Nat × LaneOut)} (he : i.each (f i) = .ok outs) :
    ∃ t, laneWord ins kind lat s f = .next t ∧ i.Commits ins kind lat true outs i.t t :=
  ⟨_, by simp only [laneWord, wordDo_ok hi hl, he], Issue.commit_commits hi ins kind lat true outs⟩

theorem laneWord_error {s : State} {i : Issue} (hi : s.issue = some i) {ins : Instr}
    (hl : illegalAt ins i.t.nreg i.w = false) (kind : PendKind) (lat : Nat)
    {f : Issue → Nat → Thread → Except Word LaneOut} {cs : List (Nat × Word)} (he : i.each (f i) = .error cs) :
    ∃ t, laneWord ins kind lat s f = .next t ∧ i.Raises cs [] t :=
  ⟨_, by simp only [laneWord, wordDo_ok hi hl, he], Issue.raise_raises hi cs⟩

/-- A change of the issuing team that leaves the committed fields alone. -/
theorem Issue.Commits.upTeam {i : Issue} {ins : Instr} {kind : PendKind} {lat : Nat} {clearBy : Bool}
    {outs : List (Nat × LaneOut)} {base : Team} {t : State} (h : i.Commits ins kind lat clearBy outs base t)
    (f : Team → Team)
    (hf : ∀ u : Team, i.TeamAfter ins kind lat clearBy outs base u →
      f u = { f base with groups := u.groups, pend := u.pend, hold := u.hold }) :
    i.Commits ins kind lat clearBy outs (f base) (t.upTeam i.x.team f) := by
  obtain ⟨u, hu, a⟩ := h.team
  refine ⟨?_, h.mem, fun n hn => (NMap.look_upd_ne _ _ hn).trans (h.teams n hn), h.ctxs, f u,
    (NMap.look_upd _ _ _).trans (congrArg (Option.map f) hu), ?_⟩
  · have hr := h.rest
    unfold State.upTeam
    rw [hr]
  · have hk : f u = { f base with groups := u.groups, pend := u.pend, hold := u.hold } := hf u a
    have hg : (f u).groups = u.groups := by rw [hk]
    have hp : (f u).pend = u.pend := by rw [hk]
    have hh : (f u).hold = u.hold := by rw [hk]
    refine ⟨?_, ?_, ?_, ?_, ?_⟩
    · rw [hg, hp, hh]; exact hk
    · rw [hp]; exact a.pend
    · rw [hh]; exact a.hold
    · rw [hg]; exact a.others
    · rw [hg]; exact a.group

/-- An issued word leaves what the next accesses of every thread of its team follow. -/
theorem Issue.TeamAfter.gatesAt {i : Issue} {ins : Instr} {kind : PendKind} {lat : Nat} {clearBy : Bool}
    {outs : List (Nat × LaneOut)} {base u : Team} (hg : i.t.groups[i.x.g]? = some i.g)
    (a : i.TeamAfter ins kind lat clearBy outs base u) (g l : Nat) : u.gatesAt g l = i.t.gatesAt g l := by
  unfold Team.gatesAt Team.thread
  by_cases hj : g = i.x.g
  · subst hj
    obtain ⟨h, hh, k⟩ := a.group
    rw [hg, hh]
    simp only [Option.bind_some]
    cases ht : i.g.threads.look l with
    | none => rw [k.absent l ht]
    | some t =>
      by_cases hl : l ∈ i.x.lanes
      · cases ho : outs.find? (·.1 == l) with
        | none => obtain ⟨v, hv, p⟩ := k.passed l hl ho t ht; rw [hv]; exact Thread.Passed.gates p
        | some p => obtain ⟨v, hv, q⟩ := k.acted l hl p ho t ht; rw [hv]; exact Thread.Acted.gates q
      · have ho := k.outside l hl
        rw [ht] at ho
        cases hv : h.threads.look l with
        | none => rw [hv] at ho; cases ho
        | some v => rw [hv] at ho; exact (congrArg Thread.gates (Option.some.inj ho) :)
  · rw [a.others g hj]
    cases i.t.groups[g]? with
    | none => rfl
    | some gr =>
      simp only [Option.map_some, Option.bind_some, Group.mapThreads, NMap.look_mapv]
      cases gr.threads.look l <;> rfl

theorem Issue.commitOp_commits {s : State} {i : Issue} (hi : s.issue = some i) (ins : Instr)
    (outs : List (Nat × LaneOut)) (o : Op) :
    i.Commits ins .alu 0 false outs (i.t.withOp (!outs.isEmpty) o) (i.commitOp ins outs o) := by
  have h := Issue.commit_commits hi ins .alu 0 false outs
  unfold Issue.commitOp Team.withOp
  cases outs with
  | nil => simpa using h
  | cons a r =>
    simp only [List.isEmpty_cons, Bool.not_false, if_true, Bool.false_eq_true, if_false]
    refine h.upTeam (·.addOp o) fun u a => ?_
    have hk := a.kept
    have hg : u.gatesAt = i.t.gatesAt := funext fun g => funext fun l => a.gatesAt (State.issue_some hi).2.2.2.1 g l
    have ho : u.ops = i.t.ops := by rw [hk]
    have hn : u.nextOp = i.t.nextOp := by rw [hk]
    simp only [Team.addOp, hg, ho, hn]
    rw [hk]

end Sys2Proof.Machine
end

