-- ==== Sys2Proof/Safety.lean ====
section
/-! DEFINITION. What counts as a safe run: the machine keeps its data in canonical form, and stops nowhere. -/

namespace Sys2Proof.Machine

open Sys2Proof

/-- Physical memory is in canonical form (Memory.wf). -/
def State.memOk (s : State) : Prop := Memory.wf s.mem = true

/-- A step that ends in a next state. -/
def runs (s : State) : Prop := ∃ t, step s = .next t

/-- The state is reached by `n` steps. -/
def reaches : Nat → State → State → Prop
  | 0, s, t => s = t
  | n + 1, s, t => ∃ u, step s = .next u ∧ reaches n u t

end Sys2Proof.Machine
end

