-- ==== Sys2Proof/Tests/Lab.lean ====
section
/-! SUPPORT. Checks of the model: refused ill-formed words, decoded worked words, and for every statement states and
operands that meet its hypotheses. -/

namespace Sys2Proof.Tests

open Sys2Proof Sys2Proof.Machine

/-! ### A small machine -/

/-- A data capability of a space with every permission. -/
def dataCap (space base len : Nat) : Cap := (Cap.exact 0x3FFF space base len).getD Cap.zero

/-- The objects of the small machine: number, type. -/
def labTypes : List (Nat × Nat) :=
  [(0, 12), (1, 6), (2, 7), (3, 4), (4, 2), (5, 3), (6, 1), (7, 8), (8, 5), (9, 11), (10, 12), (11, 13), (12, 4), (20, 1)]

/-- The capability of an object of the small machine. -/
def objCap (n : Nat) : Cap := Cap.object 0x3FFF ((NMap.look labTypes n).getD 0) n 0

/-- k0 to k15: memory, the share, the objects, a sealing capability, a sealed one, and code. -/
def labCaps : List Cap :=
  [dataCap 0 0x10000 0x10000, dataCap 1 0 0x10000, objCap 1, objCap 2, objCap 3, objCap 4, objCap 5, objCap 6, objCap 7,
   objCap 8, objCap 9, objCap 10, objCap 11, dataCap 0 64 4032, (dataCap 0 0x10000 0x10000).withOtype 64, fetchCode]

/-- The thread of the small machine: vn holds n, but for the quads from w16 up, which hold capabilities. -/
def labThread : Thread :=
  let t : Thread := { Thread.fresh 128 0x1000 0 with v := (List.range 128).map (BitVec.ofNat 32 ·), oval := List.replicate 16 true }
  ([(16, objCap 2), (17, objCap 12), (18, objCap 4), (19, objCap 5)].foldl (fun (t : Thread) p => t.wrQuad p.1 p.2) t)

def labGroup : Group :=
  { Group.fresh 0 with
    threads := [(0, labThread)], k := labCaps, pcc := (List.replicate 8 none).set 0 (some fetchCode),
    pct := (List.replicate 16 none).set 0 (some ⟨0, 0x1000, [0], 0⟩) }

/-- A team on core (0, 0) in the root context. -/
def labTeam : Team := { Team.fresh ⟨0, 0⟩ 20 128 8 1 1 with groups := [labGroup], mates := [0], sched := 3 }

/-- A Stopped team of the same context. -/
def labStopped : Team := { labTeam with core := some ⟨0, 1⟩, st := .stopped, mates := [10] }

def labCtx (depth : Nat) (parent : Option Nat) (st : CtxSt) : Ctx :=
  { fetchCtx with depth := depth, parent := parent, st := st, cset := 2, sched := 3, space := 4, reserve := 1 }

/-- The small machine: a root context with one running team, a created child, and one object of each kind. The line at 0x10000
stands in the L2 of the teams' die, Modified. -/
def lab : State :=
  { State.reset with
    state := 2, root := some 20, cores := [(0, { Core.fresh with team := some 0 }), (1, { Core.fresh with team := some 10 })],
    teams := [(0, labTeam), (10, labStopped)], objs := labTypes.map fun p => (p.1, ⟨p.2, 0, none⟩),
    ctxs := [(6, labCtx 1 (some 20) .created), (20, labCtx 0 none .runnable)],
    spaces := [(4, { fetchSpace with owner := 20 })],
    scheds := [(3, ⟨none, 65536, 0, 0, 4096, some 20⟩), (12, ⟨some 3, 0, 0, 0, 4096, none⟩)],
    reserves := [(1, ⟨0x100000, 0x1000000, [], []⟩)], csets := [(2, ⟨[(0, 0), (1, 1)], 0⟩)],
    eps := [(5, ⟨0, [], [], [], [], 0⟩)], lines := [(8, ⟨0, .unbound, none, 0, 0⟩)], keys := [(7, 0)],
    sessions := [(9, ⟨1, 0, 20, 0, [], 0, .opened, dataCap 0 0x12000 0x1000, 0, []⟩)],
    answers := [(11, ⟨some (10, 0, 0), 0, 16, none, none, none, some (0, 0, 0), none, none, false⟩)],
    coh := { State.reset.coh with dir := [(0x400, .exclusive 0)], l2 := [(lineKey 0x400 0, ⟨.modified, 0, 0⟩)] } }

/-- An instruction of the small machine's team in issue. -/
def labIssue (s : State) (c : Ctl) : State :=
  { s with sel := some ⟨⟨0, 0⟩, 0, 0, 0, 0x1000, [0], 0, c, 0x1000100001, []⟩ }

/-- A control field that names flag 0. -/
def flagged : Ctl := { Ctl.none with sf := some 0 }

/-- The hypotheses that the statements about words have in common, and the rule's own: `ok` tells of the span in issue
whether it meets them. -/
def meets (ins : Instr) (s : State) (ok : Issue → Bool) : Bool :=
  match (labIssue s flagged).issue with
  | some i => !illegalAt ins i.t.nreg i.w && !i.visited.isEmpty && ok i
  | none => false

/-- Every visited lane passes the rule, or some visited lane fails it. -/
def passes {ε α : Type} (f : Issue → Nat → Thread → Except ε α) (i : Issue) : Bool :=
  match i.each (f i) with | .ok _ => true | .error _ => false
def fails {ε α : Type} (f : Issue → Nat → Thread → Except ε α) (i : Issue) : Bool := !passes f i

def va (n : Fin 128) : SrcD := ⟨.v n, false⟩
def pa (n : Fin 64) : PSrcD := ⟨.v n, false⟩

/-! ### Words that compute -/

def intSamples : List Instr :=
  [.add (.v 1) (va 2) (va 3), .sub (.v 1) (va 2) (va 3), .addSatI32 (.v 1) (va 2) (va 3), .subSatI32 (.v 1) (va 2) (va 3),
   .mul (.o 0) (va 2) (va 3), .mulhiI32 (.v 1) (va 2) (va 3), .mulhiN32 (.v 1) (va 2) (va 3), .mad (.v 1) (va 2) (va 3) (.v 4),
   .minI32 .latch (va 2) (va 3), .minN32 (.v 1) (va 2) (va 3), .maxI32 (.v 1) (va 2) (va 3), .maxN32 (.v 1) (va 2) (va 3),
   .absI32 (.v 1) (va 2), .neg (.v 1) (va 2), .and (.v 1) (va 2) (va 3), .or (.v 1) (va 2) (va 3), .xor (.v 1) (va 2) (va 3),
   .andn (.v 1) (va 2) (va 3), .not (.v 1) (va 2), .shl (.v 1) (va 2) (va 3), .shr (.v 1) (va 2) (va 3),
   .sar (.v 1) (va 2) (va 3), .rotl (.v 1) (va 2) (va 3), .popc (.v 1) (va 2), .clz (.v 1) (va 2), .brev (.v 1) (va 2),
   .bfeN32 (.v 1) (va 2) (va 3), .bfeI32 (.v 1) (va 2) (va 3), .bfi (.v 1) (va 2) (va 3) (.v 4),
   .bsel (.v 1) (va 2) (va 3) (.v 4), .sel (.v 1) (va 2) (va 3) (.pos 0), .mov (.v 127) (va 2)]

def pairSamples : List Instr :=
  [.add64 (.v 1) (pa 2) (pa 3), .sub64 (.v 1) (pa 2) (pa 3), .mul64 (.v 1) (pa 2) (pa 3), .shl64 (.v 1) (pa 2) (va 3),
   .srl64 (.v 1) (pa 2) (va 3), .sra64 (.v 63) (pa 2) (va 3)]

def floatSamples : List Instr :=
  [.fadd (.v 1) (va 2) (va 3) .rne, .fsub (.v 1) (va 2) (va 3) .rz, .fmul (.v 1) (va 2) (va 3) .rd,
   .ffma (.v 1) (va 2) (va 3) (.v 4), .fmin (.v 1) (va 2) (va 3), .fmax (.v 1) (va 2) (va 3), .fminp (.v 1) (va 2) (va 3),
   .fmaxp (.v 1) (va 2) (va 3), .fabs (.v 1) (va 2), .fneg (.v 1) (va 2), .fcopysign (.v 1) (va 2) (va 3),
   .frnd (.v 1) (va 2) .ru, .fscale (.v 1) (va 2) (va 3) .rne, .fgetexp (.v 1) (va 2), .fgetman (.v 1) (va 2),
   .hadd2Bf16 (.v 1) (va 2) (va 3), .hmul2Bf16 (.v 1) (va 2) (va 3), .hfma2Bf16 (.v 1) (va 2) (va 3) (.v 4),
   .hadd2F16 (.v 1) (va 2) (va 3), .hmul2F16 (.v 1) (va 2) (va 3), .hfma2F16 (.v 1) (va 2) (va 3) (.v 4),
   .hdot2Bf16 (.v 1) (va 2) (va 3) (.v 4), .hdot2F16 (.v 1) (va 2) (va 3) (.v 4), .pk (.v 1) (va 2) .e4m3 0 true .rne,
   .upk (.v 1) (va 2) .bf16 1, .cvtF32I32 (.v 1) (va 2) .rne, .cvtF32N32 (.v 1) (va 2) .rne, .cvtI32F32 (.v 1) (va 2) true .rz,
   .cvtN32F32 (.v 1) (va 2) true .rz, .pairedWord false ⟨.add, .v 1, .v 2, .v 3⟩ ⟨.mov, .v 4, .v 2, .zero⟩,
   .pairedWord true ⟨.fadd, .v 1, .v 2, .v 3⟩ ⟨.fneg, .o 4, .v 2, .zero⟩]

def longSamples : List Instr :=
  [.divI32 (.v 1) (va 2) (va 3), .divN32 (.v 1) (va 2) (va 3), .remI32 (.v 1) (va 2) (va 3), .remN32 (.v 1) (va 2) (va 3),
   .fdiv (.v 1) (va 2) (va 3), .frcp (.v 1) (va 2), .frsq (.v 1) (va 2), .fsqrt (.v 1) (va 2), .fexp2 (.v 1) (va 2),
   .flog2 (.v 1) (va 2), .fsin (.v 1) (va 2), .fcos (.v 1) (va 2)]

def predSamples : List Instr :=
  [.setpI32 0 (va 2) (va 3) .eq, .setpN32 1 (va 2) (va 3) .lt, .setpF32 2 (va 2) (va 3) .num, .setpI64 3 (pa 2) (pa 3) .ge,
   .setpN64 6 (pa 2) (pa 3) .gt, .pand 0 (.pos 1) .always, .por 0 (.pos 1) (.neg 2), .pxor 0 (.pos 1) .never, .pnot 0 (.neg 6),
   .v2p 0x7F (va 2)]

def crossSamples : List Instr :=
  [.lxAt (.v 1) (va 2) (va 3) 0, .lxShift (.v 1) (va 2) (va 3) 6, .lxRot (.v 1) (va 2) (va 3) 1, .lxFlip (.v 1) (va 2) (va 3) 2,
   .pollAny 0 (.pos 1) 0, .pollAll 0 (.pos 1) 0, .pollMask (.v 2) (.pos 1) 0, .peers (.v 2) (va 2) 0, .redAddI32 (.v 1) (va 2) 0,
   .redAddF32 (.v 1) (va 2) 0, .redMinI32 (.v 1) (va 2) 0, .redMaxI32 (.v 1) (va 2) 0, .redMinF32 (.v 1) (va 2) 0,
   .redMaxF32 (.v 1) (va 2) 0, .redAnd (.v 1) (va 2) 0, .redOr (.v 1) (va 2) 0, .redXor (.v 1) (va 2) 0,
   .scanAddI32 (.v 1) (va 2) 0, .scanAddI32X (.v 1) (va 2) 0, .scanAddF32 (.v 1) (va 2) 0, .bcast (.v 1) (va 2) 0, .elect 0 0,
   .sample (.v 1) (va 2) (va 3) 0]

def controlSamples : List Instr := [.bra 4 0, .call 4 0, .jmpc (.k 15), .ret (.k 15), .callc (.k 15), .exit]

def capSamples : List Instr :=
  [.capAddr 1 (.k 0), .capBase 1 (.k 0), .capLen 1 (.k 0), .capPerm (.v 1) (.k 0), .capType (.v 1) (.k 14), .capTag (.v 1) (.k 0),
   .capSeta (.w 1) (.k 0) .lit, .capAdd (.k 0) (.k 0) (.v 2), .capBound (.w 1) (.k 0) .zero, .capBoundx (.w 1) (.k 0) .zero,
   .capMask (.w 1) (.k 0) (.v 2), .capSeal (.w 1) (.k 0) (.k 13), .capUnseal (.w 1) (.k 14) (.k 13), .capUntag (.w 1) (.k 14),
   .capMov (.w 1) (.k 14), .capDiff 1 (.k 0) (.k 13), .capRlen 1 (.v 2), .capAmask 1 (.v 2), .capMint (.w 1) (.k 0) (.k 0)]

/-- The lane rules of the words above. -/
def ruleOf (ins : Instr) : Option LaneRule :=
  (intRule ins).orElse fun _ => (pairRule ins).orElse fun _ => (floatRule ins).orElse fun _ => (predRule ins).orElse fun _ =>
    (p2vRule ins).orElse fun _ => (capRule ins).orElse fun _ => controlRule ins

/-- Every sample meets the hypotheses of the statement about its rule. -/
def laneSeen (rule : Instr → Option LaneRule) (ins : Instr) : Bool :=
  match rule ins with | some f => meets ins lab (passes f) | none => false


/-- The small machine with other values in main registers. -/
def labV (vs : List (Nat × Word)) : State :=
  { lab with teams := lab.teams.upd 0 fun t => t.upThread 0 0 fun th => vs.foldl (fun (th : Thread) p => th.wrV p.1 p.2) th }

/-- The small machine with a changed team or group. -/
def labT (f : Team → Team) : State := { lab with teams := lab.teams.upd 0 f }
def labG (f : Group → Group) : State := labT (·.upGroup 0 f)

/-- The small machine whose operand cache is invalid. -/
def labOc : State := labT (·.upThread 0 0 fun th => { th with oval := List.replicate 16 false })

def oc : SrcD := ⟨.o 0, false⟩

def raiseSamples : List Instr :=
  [.add (.v 1) oc (va 3), .shl64 (.v 1) (pa 2) oc, .fadd (.v 1) (va 2) oc .rne, .setpI32 0 oc (va 3) .eq,
   .capAdd (.w 1) (.k 14) (.v 2), .capBound (.w 1) (.k 14) .zero, .capSeal (.w 1) (.k 0) (.w 0), .capMint (.w 1) (.w 0) (.k 0),
   .jmpc (.w 0), .ret (.k 6), .callc (.w 0)]

def scalarSamples : List Instr :=
  [.sadd 0 (.v 2) (.v 3), .ssub 0 (.v 2) (.v 3), .smul 0 (.v 2) (.v 3), .sand 0 (.v 2) (.v 3), .sor 0 (.v 2) (.v 3),
   .sxor 0 (.v 2) (.v 3), .sshl 0 (.v 2) (.v 3), .sshr 0 (.v 2) (.v 3), .ssar 0 (.v 2) (.v 3), .sminI32 0 (.v 2) (.v 3),
   .smaxI32 63 (.v 2) (.v 3), .v2s 0 (.v 2), .swin (.v 2), .sread (.s 1) 11]

def fileSamples : List Instr := [.sread (.reg (.v 1)) 0, .swrite (.v 2), .xset 3 (.v 2), .ocfill 0 4 16, .ocspill 4 0 16]

def idleSamples : List Instr :=
  [.nop, .prefetch (.k 0) .zero .normal, .tbar 7, .carve 0 (.v 2) 0, .tend none .team, .tend (some (.k 0)) .system]

def memSamples : List Instr :=
  [.ldB8 (.v 1) (.k 0) .zero (.relaxed true .normal), .ldB16 (.v 1) (.k 0) .zero (.relaxed true .keep),
   .ldB32 (.o 1) (.k 0) .zero (.acquire .cluster), .ldB64 1 (.k 0) .zero (.sequential .device), .ldB128 1 (.k 0) .zero (.relaxed false .normal),
   .ldc (.w 1) (.k 0) .zero (.relaxed false .normal), .stB8 (.v 2) (.k 0) .zero .team .relaxed, .stB16 (.v 2) (.k 0) .zero .team .release,
   .stB32 (.v 2) (.k 1) .zero .team .sequential, .stB64 (.v 2) (.k 0) .zero .team .relaxed, .stB128 2 (.k 0) .zero .team .relaxed,
   .stc (.k 0) (.k 0) .zero .team .relaxed, .atomAdd (some (.v 1)) (.k 0) (.v 2) .team .relaxed, .atomMinI32 none (.k 0) (.v 2) .team .acquire,
   .atomMinN32 none (.k 0) (.v 2) .team .release, .atomMaxI32 none (.k 0) (.v 2) .team .acqRel, .atomMaxN32 none (.k 0) (.v 2) .team .sequential,
   .atomAnd none (.k 0) (.v 2) .team .relaxed, .atomOr none (.k 0) (.v 2) .team .relaxed, .atomXor none (.k 0) (.v 2) .team .relaxed,
   .atomXchg none (.k 0) (.v 2) .team .relaxed, .atomCas none (.k 0) 2 .team .relaxed, .atomAdd64 none (.k 0) (.v 2) .team .relaxed,
   .atomCas64 none (.k 0) 2 .team .relaxed, .atomCas128 none (.k 0) 2 .team .relaxed, .atomFaddF32 none (.k 0) (.v 2) .team .relaxed]

def parkSamples : List Instr := [.waitown (.v 8) (.k 1) .zero, .waitgen (.v 2) (.k 1) .zero, .evwait (.v 2) (.k 0) .zero .device, .join (.k 0) .zero .team]

def copySamples : List (Instr × List (Nat × Word)) :=
  [(.cpin (.k 1) (.k 0) (.v 1) .team false, [(2, 0x400), (3, 0x400)]), (.cpout (.k 0) (.k 1) (.v 1) .team true, [(2, 0x400), (3, 0x400)]),
   (.cpx (.k 1) (.k 1) (.v 1) .team false, [(2, 0x400), (3, 0x400)]), (.cpfill (.k 1) .zero (.v 1) .team, [(2, 0x400), (3, 0x400)])]

/-- The bank views of an open chain. -/
def labOpen : Matrix := { Matrix.fresh with viewBank := Matrix.fresh.viewBank.set 0 ⟨true, 24, 24, 0, 0, 0⟩, viewFmt := Matrix.fresh.viewFmt.set 0 (some 24) }

def matrixSamples : List (Instr × State) :=
  [(.mldb 24 (.k 1) (.v 2), labV [(2, 0x8000)]), (.mbeg 24 24 0 0 (.v 0), lab),
   (.mend (.v 2) (.k 1) none, { labV [(2, 0x8000)] with teams := (labV [(2, 0x8000)]).teams.upd 0 fun t => { t with mx := labOpen } }),
   (.mzero (.v 3), lab)]

def messageSamples : List Instr := [.post 1 (.k 6) none, .postTry (some 0) 1 (.k 6) none, .take 1 (.k 6) 16, .answer 1 (.k 12) none, .settle 1 (.k 12) (.k 6) 16 false]

def makeSamples : List Instr := [.objmake (.w 1) (.k 2) (.v 3), .ctxnew (.w 1) (.k 2) 16, .schnew (.w 1) (.k 4) (.v 2), .asnew (.w 1) (.k 2), .troyOpen (.w 1) (.k 8) (.k 0)]

def statusSamples : List Instr :=
  [.ctxcfg (.v 1) (.k 7) (.ceil (.v 3)), .ctxcfg (.v 1) (.k 7) (.fault (.k 6)), .ctxcfg (.v 1) (.k 7) (.cset (.k 3)),
   .ctxcfg (.v 2) (.k 7) (.cnt 7), .schset 0 (.v 1) (.k 4) (.v 2), .lnbind (.v 1) (.k 9) (some (.k 6)), .lnbind (.v 1) (.k 9) none, .lnack (.v 1) (.k 9)]

def commandSamples : List Instr :=
  [.ctxrun (.v 1) (.k 7) none, .ctxstop (.v 1) (.k 7) true, .ctxkill (.v 1) (.k 7), .asmap (.v 1) (.k 5) 1, .asunmap (.v 1) (.k 5) 1,
   .revoke (.v 1) (.k 2) .none, .revoke (.v 1) (.k 0) (.event (.k 0)), .attest 1 none (.k 0), .troyClose (.v 1) (.k 10)]

def frameSamples : List Instr :=
  [.tread (.reg (.v 1)) (.k 11) .zero, .tread (.cap (.w 1)) (.k 11) (.v 2), .twrite (.reg (.v 2)) (.k 11) (.v 3), .tclr (.v 2) (.k 11) .zero, .tresume (.v 1) (.k 11)]

def kernelSeen (rule : Instr → Option KernelRule) (s : State) (ins : Instr) : Bool :=
  match rule ins with | some f => meets ins s (passes f) | none => false

/-- The small machine with a request to map one page in v8 to v15. -/
def labMap : State :=
  labT (·.upThread 0 0 fun th =>
    ([(8, 0x20000), (9, 0), (10, 0x108), (11, 0)].foldl (fun (th : Thread) (p : Nat × Word) => th.wrV p.1 p.2) th).wrQuad 3 (dataCap 0 0x10000 0x1000))

/-- Frame selectors: an item of group 0 and lane 0. -/
def labSel : State := labV [(2, 0x100080), (3, 0x100080)]

/-- A code capability of 64 bytes. -/
def smallCode : Cap := (Cap.exact 0x3FFF 0 0x11000 64).getD Cap.zero

/-- The small machine with a launch record at the address of k0. -/
def labRecord : State :=
  let r := rootRecord smallCode (dataCap 0 0x12000 64) (objCap 3) 0 1 0x8180
  let s : State := lab.writeMem 0 0x10000 r.bytes false
  { s with tags := [0x1000, 0x1001, 0x1003], ctxs := s.ctxs.upd 20 fun c => { c with measured := [smallCode.code.bits] } }

end Sys2Proof.Tests
end

