-- ==== Sys2Proof/Tests/Events.lean ====
section
/-! SUPPORT. For every statement about steps that are no words, states that meet its hypotheses. -/

namespace Sys2Proof.Tests

open Sys2Proof Sys2Proof.Machine

set_option maxRecDepth 20000

/-! ### Writes and accesses -/

/-- The small machine with one operation in flight; it is the operation that the step names. -/
def opOf (k : OpKind) : Op := ⟨0, 0, [0], none, 0, 0x1000, 0, .group, false, false, false, k, []⟩
def flyTeam (k : OpKind) : Team := { labTeam with ops := [opOf k], nextOp := 1 }
def labFly (k : OpKind) : State := { lab with teams := [(0, flyTeam k), (10, labStopped)] }

theorem labFly_flying (k : OpKind) : (labFly k).Flying 0 (flyTeam k) (opOf k) := ⟨rfl, rfl⟩

/-- The access of lane 0 to 4 bytes. -/
def acc4 (loc : Loc) : Access :=
  ⟨0, loc, 4, 0x10000, 0x12345678, 0, false, Cap.zero, match loc with | .spad _ _ => 2 | _ => 0⟩

/-- A connection that is up. -/
def upConn (out : List OutMsg) : Conn := ⟨true, 1, [0, 0, 0, 0], 0, 0, 256, 256, [], out⟩

def labPend (k : PendKind) (u : Upd) : State := labT ({ · with pend := [⟨0, k, 0, [(0, u)]⟩] })

theorem seen_timed_writes :
    ∃ t g, (labPend .alu (.v 1 5)).evTeam = some (0, t) ∧ t.pend = [] ++ ⟨0, .alu, 0, [(0, .v 1 5)]⟩ :: [] ∧
      0 ≤ (labPend .alu (.v 1 5)).evCycle ∧ t.groups[0]? = some g := ⟨_, _, rfl, rfl, by decide, rfl⟩
theorem seen_landing :
    (labFly (.land [(0, .v 1 5)])).nothingDue (flyTeam (.land [(0, .v 1 5)])) ∧
      (flyTeam (.land [(0, .v 1 5)])).landsLater (opOf (.land [(0, .v 1 5)])) [(0, .v 1 5)] = false :=
  ⟨(by intro p h; cases h), by decide⟩
def loadOf (loc : Loc) : OpKind := .load [acc4 loc] [(0, .v 1)] false false []
theorem seen_loads :
    [Loc.mem 0x10000, .spad 10 0, .host 0 1 0x1000, .remote 0 90 0].all (fun l =>
      let s := { labFly (loadOf l) with pasids := [(0, 1)] }
      s.may 0 (flyTeam (loadOf l)) (opOf (loadOf l)) [(acc4 l).touch false]) = true ∧
    [Loc.mem 0x10000, .spad 10 0].all (fun l => ((labFly (loadOf l)).readFor 0 0 l 4 0).isOk) = true := by decide
theorem seen_loads_elsewhere :
    ((.host 0 1 0x1000 : Loc).isRemote = false ∧ (0, 1) ∉ lab.pasids) ∧ lab.connUp 0 = false ∧
    (let s := { lab with conns := [(0, upConn [])] }
     s.conns.look 0 = some (upConn []) ∧ (upConn []).up = true ∧ 1 ≤ (upConn []).credits ∧ s.sent 0 0 0 0 0 = false) := by decide
theorem seen_load_fails :
    let s := { labFly (loadOf (.mem 0x10000)) with poison := [0x400] }
    s.may 0 (flyTeam (loadOf (.mem 0x10000))) (opOf (loadOf (.mem 0x10000))) [(acc4 (.mem 0x10000)).touch false] = true ∧
      (s.readFor 0 0 (.mem 0x10000) 4 0).isOk = false := by decide
theorem seen_load_values :
    (linesOf 0x10000 4).filterMap (lab.lineErr 0) = [] ∧ (∀ l ∈ linesOf 0x10000 4, lab.coh.stale.look (lineKey l 0) = none) ∧
      (NMap.look [(lineKey 0x400 1, lab.lineData 0x400)] (lineKey 0x400 1)).isSome = true := by decide

def storeOf (loc : Loc) : OpKind := .store [acc4 loc] false
theorem seen_stores :
    [Loc.mem 0x10000, .spad 10 0, .spad 0 0].all (fun l =>
      (labFly (storeOf l)).may 0 (flyTeam (storeOf l)) (opOf (storeOf l)) [(acc4 l).touch true]
        && ((labFly (storeOf l)).storeErr l 4).isNone && !lowerLane [acc4 l] (acc4 l)) = true ∧
    Memory.wf lab.mem = true ∧ Memory.wf labStopped.sp = true ∧ Memory.wf labTeam.sp = true := by decide
theorem seen_store_fails : (lab.storeErr (.host 0 1 0x1000) 4).isSome = true := by decide
theorem seen_share_not_remote : needW.nr = true := by decide
theorem seen_fence : (labFly .fence).inOrder (flyTeam .fence) (opOf .fence) (opOf .fence).lanes = true ∧
    (labFly .fence).fenceOwes 0 (flyTeam .fence) (opOf .fence) = false := by decide
def atomOf (loc : Loc) : OpKind := .rmw .add [acc4 loc] [(0, .v 1)] []
theorem seen_atomics :
    [Loc.mem 0x10000, .spad 10 0, .spad 0 0].all (fun l =>
      (labFly (atomOf l)).may 0 (flyTeam (atomOf l)) (opOf (atomOf l)) [(acc4 l).touch true]) = true ∧
    (linesOf 0x10000 4).filterMap ((labFly (atomOf (.mem 0x10000))).lineErr 0) = [] ∧
    ({ lab with poison := [0x400] }.readFor 0 0 (.mem 0x10000) 4 0).isOk = false := by decide
theorem seen_event_word : (0 : BitVec 128).toNat < 2 ^ 64 ∧ (BitVec.ofNat 128 (2 ^ 20 - 1)).toNat < 2 ^ 20 := by decide

/-- A frame of a task that starts at the code of the small machine. -/
def labFrame : Frame := ⟨fetchCode, Cap.zero, Cap.zero, List.replicate 16 7, 0, 0xB, 0⟩

theorem seen_spawn :
    let k : OpKind := .spawn [(0, labFrame, none)]
    (labFly k).inOrder (flyTeam k) (opOf k) [0] = true ∧ (labFly k).gated (flyTeam k) (opOf k) 0 = false ∧
      (labFly k).may 0 (flyTeam k) (opOf k) [] = true ∧ (flyTeam k).refill = false ∧ (flyTeam k).dequeCount < 32 := by decide
theorem seen_host_access : acc4 (.host 0 1 0x1000) ∈ (opOf (loadOf (.host 0 1 0x1000))).accs := by decide

/-! ### Tables of a core -/

theorem seen_hold_ends :
    let s : State := { labT ({ · with hold := some ⟨0, 4, [0]⟩ }) with cores := [(0, { Core.fresh with team := some 0, cycle := 5 })] }
    (s.evTeam.bind fun p => p.2.hold) = some ⟨0, 4, [0]⟩ ∧ 4 < s.evCycle := by decide
theorem seen_affinity_ends :
    ((labT ({ · with run := 32, lastG := some 0 })).evTeam.map fun p => (p.2.run, p.2.lastG, decide (p.2.ageCtr < 0xFFFFFFF0))) =
      some (32, some 0, true) := by decide
theorem seen_displacement :
    (((labG ({ · with crowd := 1024 })).evTeam.bind fun p => p.2.groups[0]?).map Group.crowd) = some 1024 := by decide
theorem seen_housing :
    (((labG ({ · with queue := [0], houseDue := true, pct := List.replicate 16 none })).evTeam.bind fun p => p.2.groups[0]?).map
      fun g => (g.houseDue, g.canHouse)) = some (true, true) := by decide
theorem seen_entry_free :
    let s := labG fun g => { g.upThread 0 fun th => { th with want := some (dataCap 0 0x10000 64) } with queue := [0] }
    ∃ t g th, s.evTeam = some (0, t) ∧ t.groups[0]? = some g ∧ g.threads.look 0 = some th ∧ s.ev.lane ∈ g.line ∧
      th.wantsPcc = some (dataCap 0 0x10000 64) ∧ ∃ e ∈ g.pcc, e = none ∨ e = some (dataCap 0 0x10000 64) :=
  ⟨_, _, _, rfl, rfl, rfl, by decide, rfl, none, by decide, .inl rfl⟩

/-! ### Waits, barriers and ends -/

/-- A thread parked on a word of memory or of the share. -/
def parkOf (kind : Nat) (cap : Cap) (addr : Nat) (val : Word) : Park :=
  ⟨kind, cap, addr, val, .device, true, some 0, some 0, 0, 0, 0, 0x1008, false⟩
def parkedThread (p : Park) : Thread := { labThread with st := .parked, park := some p }
def labParked (p : Park) : State := labG ({ · with threads := [(0, parkedThread p)] })
def parkedGroup (p : Park) : Group := { labGroup with threads := [(0, parkedThread p)] }
def parkedTeam (p : Park) : Team := { labTeam with groups := [parkedGroup p] }

theorem seen_waitne :
    let p := parkOf 1 (dataCap 0 0x10000 64) 0x10000 1
    (labParked p).WaitEnds 0 (parkedTeam p) (parkedGroup p) (parkedThread p) p 1 4 [0, 1, 2] true
      (fun m p => BitVec.ofNat 32 m ≠ p.val) :=
  ⟨rfl, .inl rfl, rfl, rfl, rfl, rfl, rfl, _, _, _, rfl, rfl, by decide, by decide⟩
theorem seen_waitgen :
    let p := parkOf 3 (dataCap 1 0 64) 0 0
    (labParked p).WaitEnds 0 (parkedTeam p) (parkedGroup p) (parkedThread p) p 3 8 [1, 2] false
      (fun m p => genReached m p.val = true) :=
  ⟨rfl, .inl rfl, rfl, rfl, rfl, rfl, rfl, _, _, _, rfl, rfl, by decide, by decide⟩
theorem seen_join :
    let p := parkOf 7 (dataCap 0 0x10000 64) 0x10000 0
    (labParked p).WaitEnds 0 (parkedTeam p) (parkedGroup p) (parkedThread p) p 7 4 [0] true (fun m _ => m = 0) :=
  ⟨rfl, .inl rfl, rfl, rfl, rfl, rfl, rfl, _, _, _, rfl, rfl, by decide, by decide⟩
theorem seen_evwait :
    let p := parkOf 8 (dataCap 0 0x10000 64) 0x10000 0
    (labParked p).WaitEnds 0 (parkedTeam p) (parkedGroup p) (parkedThread p) p 8 8 [0] true
      (fun m p => genReached m p.val = true) :=
  ⟨rfl, .inl rfl, rfl, rfl, rfl, rfl, rfl, _, _, _, rfl, rfl, by decide, by decide⟩
theorem seen_waitown :
    let p := parkOf 2 (dataCap 1 0 64) 0 64
    (labParked p).evTeam = some (0, parkedTeam p) ∧ (labParked p).returned 0 (parkedTeam p) p.cap p.addr p.val.toNat = true :=
  ⟨rfl, by decide⟩

/-- The team whose one thread waits at team barrier 3, or at a carve. -/
def atBarrier (kind : Nat) (w : Word) : Park := { parkOf kind Cap.zero 0 w with obj := 3 }

theorem seen_team_barrier :
    ((labParked (atBarrier 5 3)).evTeam.map fun p => p.2.barrierReady) = some (some 3) := by decide
theorem seen_carve :
    let s := labParked { parkOf 6 Cap.zero 0 0 with obj := 0x8180 }
    ((s.evTeam.map fun p => (p.2.barrierReady.isSome, s.carveTaken p.1 p.2)) = some (true, some 0x8180)) := by decide
theorem seen_convergence :
    let p := { parkOf 4 Cap.zero 0 0 with obj := 0 }
    let g := { parkedGroup p with g := (parkedGroup p).g.set 0 ⟨1, 1, true, false, true, none⟩ }
    (({ labTeam with groups := [g] } : Team).convReady 0 g).isSome = true := by decide

/-- A thread that waits on its own flags. -/
def awaitsThread (a : Await) : Thread := { labThread with await := some a }
def awaitsTeam (a : Await) : Team := { labTeam with groups := [{ labGroup with threads := [(0, awaitsThread a)] }] }
def labAwaits (a : Await) : State := { lab with teams := [(0, awaitsTeam a), (10, labStopped)] }

theorem seen_own_flags (a : Await) :
    (labAwaits a).AwaitEnds 0 (awaitsTeam a) { labGroup with threads := [(0, awaitsThread a)] } (awaitsThread a) a :=
  ⟨rfl, rfl, rfl, rfl, by simp [awaitsThread]; decide⟩
theorem seen_tend :
    let s := labAwaits (.tend (some (dataCap 0 0x10000 64)) .device)
    let t := awaitsTeam (.tend (some (dataCap 0 0x10000 64)) .device)
    t.quiet 0 [0] = true ∧ Memory.wf s.mem = true ∧
    (let a : Access := ⟨0, .mem 0x10000, 4, 0x10000, 0xFFFFFFFF, 0, false, Cap.zero, 0⟩
     s.may 0 t { probe 0 0 0 (.mem 0x10000) 4 .device true t.nextOp (t.gatesAt 0 0) with rel := true, kind := .rmw .add [a] [] [] }
       [a.touch true] = true) ∧ (linesOf 0x10000 4).filterMap (s.lineErr (s.worldOf t)) = [] ∧
    ∃ pa keep, s.accessAt 0 t (s.worldOf t) (dataCap 0 0x10000 64) (pLD ||| pST) 0x10000 4 [0] (some .device) true true (needA .add) =
      .ok (.mem pa, keep) :=
  ⟨by decide, by decide, by decide, by decide, _, _, rfl⟩
theorem seen_joins :
    (lab.modify none 0 .add { acc4 (.mem 0x10000) with x := 1 }).isOk = true ∧
    (match lab.modify none 0 .add { acc4 (.mem 0x10000) with x := 1 } with
      | .ok (_, s) => (s.modify none 0 .add { acc4 (.mem 0x10000) with x := BitVec.ofNat 128 (2 ^ 32 - 1) }).isOk
      | .error _ => false) = true := by decide

/-! ### Tasks, copies and the matrix engine -/

theorem seen_task_start :
    let t := { labTeam with free := [1], deque := [labFrame] }
    t.st = .running ∧ t.nreg = 128 ∧ t.free = 1 :: [] ∧ t.deque = [] ++ [labFrame] ∧ labFrame.args.length = 16 ∧
      1 / t.width < t.groups.length := by decide
theorem seen_refill :
    let t := { labTeam with refill := true, ring := dataCap 0 0x10000 0x800, ringBytes := 0x800, ringCount := 1 }
    let s := labT fun _ => t
    t.dequeCount + min 16 t.ringCount ≤ 32 ∧
    ∃ fs, (List.range (min 16 t.ringCount)).mapM
      (fun j => s.readFrame 0 t (s.worldOf t) (t.ringCount - min 16 t.ringCount + j)) = .ok fs := ⟨by decide, _, rfl⟩

/-- A second running team beside an idle one, in its cluster or not. -/
def labIdle (mates : List Nat) (frames : List Frame) : State :=
  let idle := { labTeam with groups := [{ labGroup with threads := [] }], free := [0], mates := mates }
  { lab with teams := [(0, idle), (10, { labTeam with core := some ⟨0, 1⟩, mates := mates, deque := frames })] }

theorem seen_searches :
    ((labIdle [0, 10] []).evTeam.map fun p => (p.2.idle, (labIdle [0, 10] []).victims ⟨0, 0⟩ p.2 0)) =
      some (true, [coreNo ⟨0, 1⟩]) ∧
    ((labIdle [0] []).evTeam.map fun p => ((labIdle [0] []).victims ⟨0, 0⟩ p.2 0, (labIdle [0] []).victims ⟨0, 0⟩ p.2 1)) =
      some ([], [coreNo ⟨0, 1⟩]) ∧
    (labIdle [0] []).evTeam.map (fun p => ({ lab with teams := [(0, p.2)] }.victims ⟨0, 0⟩ p.2 0, { lab with teams := [(0, p.2)] }.victims ⟨0, 0⟩ p.2 1)) =
      some ([], []) := by decide
theorem seen_steal :
    let s := labIdle [0, 10] [labFrame]
    (s.evTeam.map fun p => decide (coreNo ⟨0, 1⟩ ∈ s.victims ⟨0, 0⟩ p.2 0)) = some true ∧
    (s.onCore ⟨0, 1⟩).map (fun p => (p.1, p.2.st, p.2.ringCount, p.2.deque)) = some (10, .running, 0, [labFrame]) ∧
    labFrame.eligible 0 = true := by decide
theorem seen_frame_arrival :
    let t := { labTeam with free := [1], steal := some ⟨0, [], some labFrame, true⟩ }
    t.st = .running ∧ t.free = 1 :: [] ∧ t.deque = [] ∧ 1 / t.width < t.groups.length ∧
      { t with free := [] }.free = [] := by decide

theorem seen_arrivals :
    let sp := Memory.setBytes [] 0 (numBytes (arrWord 0 64 48) 8)
    let w := Memory.num sp 0 8
    Memory.wf sp = true ∧ arrCount w + 15 < arrTarget w ∧ arrTarget w = arrCount w + 16 ∧ arrTarget w < arrCount w + 17 := by
  decide

/-- A fill of 64 bytes of the share of team 0, from the pattern of its source. -/
def labCopy (left : List (Nat × Nat)) (arrival : Option (Nat × Nat)) : Copy :=
  { dst := ⟨1, 0x400, dataCap 1 0x400 0x400⟩, src := none, pattern := 7, len := 64, left := left, word := 0, lane := 0,
    arrival := arrival, granules := [(0, 1)], tagMode := false, kind := 3, grant := true, begun := false, got := [], asked := 0 }
theorem seen_copy_piece :
    let c := labCopy [(0, 64)] none
    let k : OpKind := .copy c
    let s := labFly k
    let s0 := s.ownAll [(0, 1)]
    ∃ gs s1, cutLeft 0 64 [(0, 64)] = some [] ∧ s.granulesQuiet [(0, 1)] = true ∧
      s0.segs 0 (flyTeam k) c .group 65 0 64 = .ok gs ∧ (∀ g ∈ gs, g.remote = none ∧ g.src = none) ∧
      s0.copyRuns 0 (flyTeam k) c .group = [] ∧
      s0.may 0 (flyTeam k) (opOf k) (gs.flatMap c.touches) = true ∧
      ((((s0.note 0 (flyTeam k) (opOf k) (gs.flatMap c.touches)).fillLines (flyTeam k)
        ((gs.flatMap c.touches).filter (!·.write))).askSegs c gs).moveSegs 0 (flyTeam k) c .group gs) = .ok s1 :=
  ⟨_, _, by decide, by decide, rfl, by decide, by decide, by decide, rfl⟩

/-- A copy of 64 bytes from the share to memory; its source may be read ahead. -/
def readCopy (src dst : Side) : Copy := { labCopy [(0, 64)] none with src := some src, dst := dst, kind := 1 }
def shareSide : Side := ⟨1, 0x400, dataCap 1 0x400 0x400⟩
def memSide (va : Nat) : Side := ⟨0, va, dataCap 0 va 0x400⟩
theorem seen_read_ahead :
    let c := readCopy shareSide (memSide 0x10000)
    let k : OpKind := .copy c
    let s0 := (labFly k).ownAll [(0, 1)]
    ∃ gs bs, s0.segs 0 (flyTeam k) c .group 65 0 64 = .ok gs ∧ (∀ g ∈ gs, g.remote = none) ∧ c.tagMode = false ∧
      s0.may 0 (flyTeam k) (opOf k) ((gs.flatMap c.touches).filter (!·.write)) = true ∧
      gs.mapM (s0.segBytes (flyTeam k) c) = .ok bs :=
  ⟨_, _, rfl, by decide, by decide, by decide, rfl⟩

/-- The small machine with remote pages over connection 0. -/
def labRemote (k : OpKind) : State :=
  { labFly k with
    spaces := [(4, { fetchSpace with owner := 20, remote := [⟨0x200000000000, 0x1000, 0, 90, true, true, false, false⟩] })],
    conns := [(0, upConn [])] }
def remoteSide : Side := memSide 0x200000000000
theorem seen_remote_piece :
    [(readCopy remoteSide shareSide, false), ({ labCopy [(0, 64)] none with dst := remoteSide }, true)].all (fun p =>
      let k : OpKind := .copy p.1
      let s0 := (labRemote k).ownAll [(0, 1)]
      (labRemote k).granulesQuiet [(0, 1)] && (s0.copyRuns 0 (flyTeam k) p.1 .group).map (fun r => (r.off, r.len, r.conn, r.isW)) == [(0, 64, 0, p.2)]
        && match s0.segs 0 (flyTeam k) p.1 .group 65 0 64 with
          | .ok gs => s0.may 0 (flyTeam k) (opOf k) (gs.flatMap p.1.touches) && (gs.all fun g => g.src.isNone == p.2)
          | .error _ => false) = true ∧
    (labRemote .fence).sent 0 0 0 0 0 = false := by decide
theorem seen_moves :
    lab.storeErr (.mem 0x10000) 64 = none ∧ (labCopy [] none).ahead 0 64 = none ∧
      ({ labCopy [] none with got := (List.range 64).map fun k => (k, 1) }.ahead 0 64).isSome = true := by decide
theorem seen_granule_free :
    let c := labCopy [] none
    (labFly (.copy c)).teams.look 0 = some (flyTeam (.copy c)) ∧ c.arrival = none ∧ c.granules = [(0, 1)] ∧
      (labFly (.copy c)).copyNeeds 0 c [] = [] := ⟨rfl, rfl, rfl, rfl⟩
theorem seen_copy_aborts :
    let c := { labCopy [(0, 64)] none with dst := ⟨0, 0x300000000000, dataCap 0 0x300000000000 0x100⟩ }
    ((labFly (.copy c)).copyErr 0 (flyTeam (.copy c)) (opOf (.copy c)) c).isSome = true := by decide

def mopOf (k : MKind) : MOp := ⟨0, 0, [], [(0, 0)], [], 0x200, 0, 0x1000, 0, true, k⟩
def labQueue (k : MKind) (mx : Matrix) : State := labT ({ · with mx := { mx with queue := [mopOf k] } })
/-- Bank 0 with its grant, and open if asked. -/
def labBank (o : Bool) : Matrix := { Matrix.fresh with banks := Matrix.fresh.banks.set 0 ⟨o, 24, 24, 0, 0, 0, 0, 0, true, 0, []⟩ }

theorem seen_matrix_operations :
    [(.mldb 24 0 0 1 512 0, labBank false), (.mbeg 0 24 24 0 0 0, labBank false), (.mma 0 1 0 1 512 0, labBank true),
     (.mend 0 0 1 64 0 none, labBank true), (.mzero 0, labBank true), (.mrd [(0, 0, 0, 1)], labBank true),
     (.mstat [(0, .v 1, 0)], labBank true)].all
      (fun p : MKind × Matrix => decide ((labQueue p.1 p.2).evM.map (fun q => q.2.2) = some (mopOf p.1))) = true ∧
    (labBank true).banks[0]?.map (fun b => (b.grant, b.openC)) = some (true, true) := by decide
set_option exponentiation.threshold 3000 in
theorem seen_macro_loads :
    (labTeam.loadMacro 0 0 1 512 0).isSome = true ∧
    ({ labTeam with sp := Memory.setBytes [] 0 (List.replicate 256 0xFF) }.loadMacro 28 0 1 512 0) = none := by decide

/-! ### Grants, stops, saves and restores -/

theorem seen_current_grant :
    let s := labT ({ · with mx := { (labBank false) with banks := (labBank false).banks.modify 0 fun b => { b with grant := false, openC := true } } })
    NMap.rising s.teams = true ∧ (∀ t, s.teams.look 0 = some t → (0, .bank 0) ∈ t.grantReqs) ∧
      (s.teams.map fun p => p.2.grantReqs.length) = [1, 0] ∧
      0 < ({ labTeam with mx := labBank false }).mx.banks.length ∧ (s.dies[0]?.map fun d => decide (425 ≤ d.clock)) = some true := by
  refine ⟨by decide, ?_, by decide, by decide, by decide⟩
  intro t h
  cases h
  exact .head _
theorem seen_copy_grant : let k := labCopy [(0, 64)] none
    opOf (.copy k) ∈ (flyTeam (.copy k)).ops ∧ (opOf (.copy k)).id = 0 := by decide
theorem seen_async_cause :
    (labTeam.dead = false ∧ 0 < labTeam.groups.length) ∧
    (let c := { labCopy [(0, 64)] none with dst := memSide 0x300000000000 }
     (labFly (.copy c)).copyErr 0 (flyTeam (.copy c)) (opOf (.copy c)) c).isSome = true ∧
    ((labTeam.groups[0]?).isSome = true ∧
      (labQueue (.mldb 24 0 0 1 512 0) (labBank false)).evM.map (fun q => q.2.2) = some (mopOf (.mldb 24 0 0 1 512 0))) := by decide
/-- The small machine with its team in another state, a cause in its group. -/
def labAt (st : TState) (cause : Word) : State := labT fun t => { t with st := st, groups := [{ labGroup with cause := cause }] }

theorem seen_skid_limit :
    ((labAt .halting 0).evTeam.map fun p => (p.2.st, (p.2.groups[0]?).map Group.halted)) = some (.halting, some false) := by decide
theorem seen_stop_completes :
    ((labAt .draining 0).evTeam.map fun p => (p.2.drained, p.2.dead, p.2.hasStopping)) = some (true, false, false) ∧
    ((labAt .draining cEngine).evTeam.map fun p => (p.2.drained, p.2.dead, p.2.hasStopping)) = some (true, false, true) ∧
    ∀ p ∈ { labAt .draining cEngine with sessions := [] }.sessions, p.2.team = 0 → p.2.st ≠ .opened := by decide
theorem seen_fault_message :
    let s := { labAt .draining cEngine with
      ctxs := [(20, { labCtx 0 none .runnable with fault := some (objCap 5) })], sessions := [] }
    s.faultEp 20 = some 5 ∧ (s.eps.look 5).map Endpoint.takers = some [] ∧ (s.newObj 13 none).isSome = true ∧
      (s.evTeam.map fun p => (p.2.message, p.2.pageStop)) = some (none, none) := by decide
theorem seen_page_fault :
    ({ labTeam with faults := [⟨0, 0, 0, 4, 0x5000, 0⟩], groups := [{ labGroup with cause := cPage, initiator := true }] } : Team).pageStop.isSome = true ∧
      (lab.spaces.look 4).isSome = true := by decide
theorem seen_debt :
    let s := { labT ({ · with st := .yielding, desched := true }) with cores := [(0, { Core.fresh with team := some 0, cycle := 2 ^ 40 })] }
    (s.evTeam.map fun p => s.inDebt p.2 s.evCycle) = some true ∧ ∀ p ∈ s.ctxs, p.2.cutting = false := by decide

/-- Two teams of a context that is cut, at yields of the given steps. -/
def labCut (a b : BitVec 16) : State :=
  let at_ := fun (step : BitVec 16) => { labGroup with threads := [(0, { labThread with st := .stopped, stopKind := 2, step := step })] }
  let team := fun (step : BitVec 16) => { labTeam with cut := true, desched := true, st := .yielding, groups := [at_ step] }
  { lab with teams := [(0, team a), (10, { team b with core := some ⟨0, 1⟩ })], ev := { EvArg.none with id := 20 },
             ctxs := [(20, { labCtx 0 none .stopping with cut := true })] }

theorem seen_cut_rounds (a b : BitVec 16) (h : (a, b) ∈ [(3, 3), (3, 4)]) :
    (labCut a b).Cutting { labCtx 0 none .stopping with cut := true } := by
  fin_cases h <;> exact ⟨by decide, by decide, by decide, by decide, ⟨_, .head _, by decide, _, .head _, by decide⟩, by decide, by decide⟩
theorem seen_cut_steps :
    (∀ p ∈ (labCut 3 3).cutTeams 20, ∀ q ∈ p.2.allThreads, q.2.2.step = 3) ∧ (labCut 3 4).largestStep 20 = some 4 ∧
      ∃ p ∈ (labCut 3 4).cutTeams 20, ∃ q ∈ p.2.allThreads, q.2.2.step ≠ 4 := by decide

theorem seen_team_save :
    ((labAt .saving 0).evTeam.map fun p => (p.2.st, p.2.dead, p.2.cut, p.2.saves, p.2.cluster_ p.1)) =
      some (.saving, false, false, true, [0]) := by decide
theorem seen_saved_registers :
    let th := { labThread with st := .stopped, stopKind := 2, block := some (0x1C, 0, 0x10000000000) }
    let t := { labTeam with groups := [{ labGroup with threads := [(0, th)] }], st := .saving }
    t.thread 0 0 = some th ∧ th.atYield = true ∧ liveV (0x1C, 0, 0x10000000000) 2 = true ∧ liveGranule (0x1C, 0, 0x10000000000) 0 = true := by
  decide

/-- The small machine with its team saved. -/
def savedTeam : Team := { labTeam with st := .saved, core := none }
def labSaved : State :=
  { lab with teams := [(0, savedTeam)], cores := [(0, Core.fresh)], ev := { EvArg.none with id := 20 }, eps := [], answers := [] }

theorem seen_cluster_restore : labSaved.Returns [(0, savedTeam)] savedTeam :=
  ⟨by decide, by decide, by decide, ⟨_, rfl, by decide⟩, by decide, by decide, by decide, by decide, by decide, by decide, by decide, by decide⟩
theorem seen_team_restore : labSaved.Restorable 0 savedTeam ⟨0, 0⟩ :=
  ⟨by decide, by decide, by decide, ⟨_, rfl, by decide⟩, by decide, by decide, by decide, by decide, by decide, by decide, by decide⟩

/-! ### Launches, budgets and the kernel unit -/

/-- A launch of one team in the root context. -/
def labLaunch : Launch :=
  { id := 0, ctx := 20, code := smallCode, arg := Cap.zero, ring := Cap.zero, sched := 3, world := 0, done := none, waits := [],
    entry := 0, gx := 1, gy := 1, cw := 1, ch := 1, groups := 1, carve := 0x8180, ringBytes := 0, doneTarget := 0,
    accepted := false, ready := false, placed := 0, turn := 0, gates := [], digest := some (List.replicate 48 7) }

/-- The small machine with a launch and no team. -/
def labPlace (l : Launch) : State :=
  { lab with teams := [], launches := [(0, l)], cores := [(0, Core.fresh)], ctxs := [(20, labCtx 0 none .runnable)] }
def readyLaunch : Launch := { labLaunch with accepted := true, ready := true }

theorem seen_launch_accepted :
    (labPlace labLaunch).launches.look 0 = some labLaunch ∧ labLaunch.accepted = false ∧ labLaunch.digest.isSome = true ∧
      (labCtx 0 none .runnable).measured.contains smallCode.code.bits = false := by decide
theorem seen_done_word :
    (match lab.partAccess 20 0 (dataCap 0 0x10000 64) (pLD ||| pST) 8 (needA .evpub) with
      | .ok x => some x | .error _ => none) = some (Loc.mem 0x10000) := by decide
theorem seen_launch_ready :
    let l := { labLaunch with accepted := true, waits := [(dataCap 0 0x10000 64, 0)] }
    let s := labPlace l
    l.ready = false ∧
    (match s.partAccess 20 0 (dataCap 0 0x10000 64) pLD 8 { needR with nr := true } with | .ok x => some x | .error _ => none) =
      some (Loc.mem 0x10000) ∧
    (match s.readLoc 0 (.mem 0x10000) 8 0 with | .ok bs => genReached (wordOfBytes bs) 0 | .error _ => false) = true ∧
    s.extReads 9 (launchEvent 0 [.mem 0x10000]) = [] ∧ s.allowed 9 false (launchEvent 0 [.mem 0x10000]) = true ∧
    s.doneMay none = true ∧ s.publishMay 4 false (dataCap 0 0x10000 64) = true := by decide
theorem seen_cluster_shapes :
    coreNo (rectCore ⟨0, 0⟩ 2 1 0) ≠ coreNo (rectCore ⟨0, 0⟩ 2 1 1) ∧ 1 ≤ 2 * 1 ∧ 2 * 1 ≤ 120 ∧ [5, 6].Nodup := by decide
theorem seen_placement_dropped :
    (labPlace readyLaunch).waiting readyLaunch = true ∧
    { labPlace readyLaunch with slots := [] }.worldOk 0 = false ∧ { labPlace readyLaunch with slots := [] }.waiting readyLaunch = true := by
  decide
theorem seen_placement :
    (labPlace readyLaunch).worldOk 0 = true ∧ (labPlace readyLaunch).fitsAt readyLaunch ⟨0, 0⟩ = true ∧
    (∀ p ∈ (labPlace readyLaunch).launches, (labPlace readyLaunch).servedFirst p.2 readyLaunch = false) ∧
    ((labPlace readyLaunch).provide readyLaunch).isSome = true ∧ rectCore ⟨0, 0⟩ 1 1 0 = ⟨0, 0⟩ ∧ 0 < readyLaunch.groups ∧
      0 < widthOf ⟨0, 0⟩ ∧ widthOf ⟨0, 0⟩ ≤ 64 := by decide

/-- A team with no thread and nothing left to do. -/
def labSpent : State := labT fun t => { t with groups := [{ labGroup with threads := [] }], searched := true }
theorem seen_team_completes :
    (labSpent.evTeam.map fun p => (labSpent.completes p.2, p.2.dead, p.2.message)) = some (true, false, none) ∧
      NMap.rising labSpent.teams = true := by decide

theorem seen_window_ends :
    let s := { lab with cores := [(0, { Core.fresh with team := some 0, cycle := 2 ^ 20 })] }
    (s.core s.ev.core).window < s.evCycle / 2 ^ 20 ∧ NMap.rising s.scheds = true := by decide
theorem seen_allowance :
    let s := { lab with cores := [(0, { Core.fresh with team := some 0, charged := [(3, 2 ^ 20)] })], ev := { EvArg.none with id := 3 } }
    (s.evTeam.map fun p => s.spentSched (s.core s.ev.core) p.2) = some (some 3) := by decide

/-- A launch claims the core of a team of the small machine: more urgent, past its budget, or as urgent. -/
def labClaim (prio : Nat) (f : Team → Team) (cycle : Nat) (shares : List Nat) : State :=
  { labT f with launches := [(0, { readyLaunch with sched := 12, id := 0 })],
                cores := [(0, { Core.fresh with team := some 0, cycle := cycle, charged := [(3, 2 ^ 20)] })],
                scheds := [(3, ⟨none, shares.getD 0 0, 0, 1, 4096, some 20⟩), (12, ⟨none, 65536, 0, prio, 4096, none⟩)] }

theorem seen_claims :
    [labClaim 0 id 0 [65536], labClaim 5 ({ · with desched := true }) 0 [0], labClaim 1 ({ · with launch := 9 }) (2 ^ 17) [65536]].all
      (fun s => match s.evTeam, s.claimant with
        | some (_, t), some k => s.canTake k s.ev.core && !t.dead && (decide (s.schedPrio k.sched < s.prioOf t)
            || (t.desched && !s.chainAllows (s.core s.ev.core) (s.scheds.length + 1) t.sched)
            || (k.launch != t.launch && s.schedPrio k.sched == s.prioOf t && decide (t.placedAt + 2 ^ 17 ≤ s.evCycle)))
        | _, _ => false) = true := by decide

/-- Line 0 of the small machine in another state. -/
def labLine (st : LineSt) : State := { lab with lines := [(8, ⟨0, st, some 5, 0, 0⟩)] }
theorem seen_lines :
    (labLine .unbound).lines.find? (fun p => p.2.number == 0) = some (8, ⟨0, .unbound, some 5, 0, 0⟩) ∧
    (labLine (.awaiting true)).lines.find? (fun p => p.2.number == 0) = some (8, ⟨0, .awaiting true, some 5, 0, 0⟩) ∧
    (labLine .armed).lines.find? (fun p => p.2.number == 0) = some (8, ⟨0, .armed, some 5, 0, 0⟩) := by decide
theorem seen_quiet_endpoint : lab.quietEp 5 ∧ lab.genOf 5 = 0 ∧ lab.genOf 5 ≠ 1 := ⟨⟨_, rfl, rfl⟩, by decide, by decide⟩
theorem seen_stop_of_context :
    let s := { lab with ctxs := [(6, labCtx 1 (some 20) .stopping)], ev := { EvArg.none with id := 6 }, teams := [(10, { labStopped with core := none, ctx := 6 })] }
    (s.ctxs.look 6).map (s.stopDue 6) = some true ∧ (∀ p ∈ s.teams, p.2.core = none ∨ p.2.dead = true) ∧
      { labCtx 1 (some 20) .degraded with cut := true }.st = .degraded ∧
      s.stopDue 6 { labCtx 1 (some 20) .degraded with cut := true } = true := by decide
theorem seen_kill_of_context :
    let s := { lab with ctxs := [(6, labCtx 1 (some 20) .dead)], ev := { EvArg.none with id := 6 } }
    (s.ctxs.look 6).map Ctx.st = some .dead ∧ s.killed (s.subtree 6) = true ∧ NMap.rising s.ctxs = true ∧ NMap.rising s.teams = true := by
  decide
theorem seen_unmap_completes :
    let o := { opOf (.kernel 0 [(10, 1)] [(0, .v 1)]) with op10 := 0x30D }
    (labT ({ · with ops := [o] })).marksDone [(10, 1)] = true ∧ o.op10 = 0x30D := by decide

def labRev (active swept : Bool) (note : Option Cap) : Revocation := ⟨0, .range 4 0x10000 0x11000, 20, note, 4, 0, active, swept, 1⟩
theorem seen_revocations :
    ({ lab with revs := [labRev false false none] }.rev 0) = some (labRev false false none) ∧
    (∀ p ∈ lab.teams, ∀ o ∈ p.2.ops, o.hit (lab.coveredBy (labRev true false none) p.2.ctx) = false) ∧
    (∀ p ∈ lab.teams, p.2.dead = true → p.2.ops = []) ∧ lab.regs = [] ∧
    (objCap 5).space = 3 ∧ (objCap 5).tag = true ∧ lab.live (objCap 5) = true := by decide

/-! ### Troy, keys and retirement -/

theorem seen_absorb_completes :
    let d : Side := ⟨0, 0x10000, dataCap 0 0x10000 64⟩
    let k : OpKind := .absorb 9 0 d 16 []
    (labFly k).inOrder (flyTeam k) (opOf k) (opOf k).lanes = true ∧ (labFly k).granulesQuiet [] = true ∧
      ((labFly k).sessions.look 9).map Session.st = some .opened ∧ (labFly k).genOf 9 = 0 ∧
      ((labFly k).absorbBytes 0 (flyTeam k) d .group 0 16).isOk = true ∧
      (match { labFly k with poison := [0x400] }.absorbBytes 0 (flyTeam k) d .group 0 16 with | .ok _ => false | .error e => !e.waits) = true := by
  decide
theorem seen_seal_writes :
    let x := { (lab.sessions.look 9).getD ⟨1, 0, 20, 0, [], 0, .opened, Cap.zero, 0, []⟩ with st := .closing }
    x.st = .closing ∧ lab.recordWaits x.ctx x.slot x.buf 55 0 = none ∧
      (lab.writeRecord x.ctx x.slot x.buf 55 0 (List.replicate 64 0)).isOk = true ∧
      (match lab.writeRecord x.ctx x.slot Cap.zero 55 0 (List.replicate 64 0) with
        | .ok _ => false
        | .error s => (s.sessions.look 9).isSome) = true := by decide

/-- A request of the root to an endpoint of the firmware. -/
def fwMsg (ws : List Word) (q0 q1 : Cap) : Msg :=
  { words := ws ++ List.replicate (8 - ws.length) 0, q0 := q0, q1 := q1, ans := none, prio := 0, seq := 0, ctx := 20, born := 0, space := 4,
    sgen := 0, kernel := false, kind := 0, src := 0, pasid := 0, gates := [], slot := 0 }
def labAsk (kind : Nat) (m : Msg) : State :=
  { lab with eps := [(5, ⟨0, [], [], [], [], 0⟩), (30, ⟨0, [m], [], [], [], kind⟩)], keys := [(7, 3)],
             objs := lab.objs.put 30 ⟨3, 0, none⟩ |>.put 72 ⟨10, 0, none⟩ |>.put 90 ⟨9, 0, none⟩,
             qifs := [(0, ⟨false, 5, 0, 20, none, 0, 0, 0⟩)] }
theorem seen_key_requests :
    [(1 : Word), 2, 3].all (fun w => match (labAsk 1 (fwMsg [w] (objCap 7) Cap.zero)).fwTake 1 (· == w.toNat) with
      | some (m, s) => s.reqSlot m == some 3 && decide (3 < s.slots.length) && (s.slotOf 3).st == .empty
      | none => false) = true ∧
    (match ({ labAsk 1 (fwMsg [1] (objCap 7) Cap.zero) with keys := [(7, 0)] }).fwTake 1 (· == 1) with
      | some (m, s) => s.reqSlot m == some 0
      | none => false) = true ∧
    (match ({ labAsk 1 (fwMsg [2] (objCap 7) Cap.zero) with
        slots := lab.slots.modify 3 fun k => { k with st := .armed } }).fwTake 1 (· == 2) with
      | some (m, s) => s.reqSlot m == some 3 && (s.slotOf 3).st == .armed && s.sessions.all (fun p => p.2.slot != 3)
      | none => false) = true := by decide
theorem seen_destruction :
    let s := { lab with slots := lab.slots.modify 3 fun k => { k with st := .destroying }, ev := { EvArg.none with id := 3 } }
    s.ev.id < s.slots.length ∧ (s.slotOf s.ev.id).st = .destroying ∧ s.keyEngaged 3 = false ∧ NMap.rising s.coh.l2 = true ∧
      ∀ p ∈ s.teams, s.worldOf p.2 ≠ 3 := by decide
theorem seen_malformed_key_request :
    (match (labAsk 1 (fwMsg [1, 9] (objCap 7) Cap.zero)).fwTake 1 (· == 1) with
      | some (m, s) => s.reqSlot m == none && s.badKeyWords m == [kState, 0, 0]
      | none => false) = true := by decide
theorem seen_stamped_line :
    let s := { lab with modes := [(0x10000 / 65536, 2)], stamps := [(0x400, lab.stampOf 0)] }
    s.modeOf (64 * 0x400) ≠ 0 ∧ s.stamps.look 0x400 = some (s.stampOf 0) ∧
      ({ s with slots := s.slots.modify 0 fun k => { k with epoch := 9 } }.slotOf 0).epoch ≠ (s.slotOf 0).epoch := by decide
theorem seen_monitor :
    let s := { lab with ev := { EvArg.none with flag := true, flag2 := true } }
    s.present s.ev.core = true ∧ (s.core s.ev.core).retiring = false ∧ (s.dies[s.ev.core.die]?).isSome = true ∧
      ({ s with cores := [(0, Core.fresh)] }.core s.ev.core).team = none := by decide
theorem seen_spare :
    let s := { lab with cores := [(0, { Core.fresh with retiring := true }), (1, Core.fresh)] }
    (s.core s.ev.core).retiring = true ∧ (s.core s.ev.core).team = none ∧ (s.dies[0]?.map fun d => decide (0 < d.spares)) = some true ∧
      (s.slack (coreNo s.ev.core) fun _ => true).isSome = true := by decide

/-- The small machine with a context whose reserve of one unit loses it; the root's reserve has units free, or none. -/
def labLoss (used : List (Nat × Nat)) : State :=
  { lab with reserves := [(1, ⟨0x100000, 0x1000000, used, []⟩), (2, ⟨0x100000, 0x1000, [], []⟩)], objs := lab.objs.put 2 ⟨7, 0, some 1⟩,
             ctxs := [(6, { labCtx 1 (some 20) .created with reserve := 2 }), (20, labCtx 0 none .runnable)],
             lost := [(0x100000, 0x1000)], ev := { EvArg.none with addr := 0x100000, len := 0x1000 } }
theorem seen_channel :
    lab.available 0x10000 = true ∧ (labLoss []).available 0x100000 = true ∧ NMap.rising (labLoss []).reserves = true ∧
    ((labLoss []).reserves.look 2).map (fun x => (labLoss []).short 2 x 0x100000 0x1000) = some 1 ∧
    ((labLoss []).reserves.look 2).map (fun x => (labLoss []).short 2 x 0x200000 0x1000) = some 0 ∧
    ((labLoss []).replaceUnits 1 2 1).isSome = true ∧ ((labLoss [(0, 4096)]).replaceUnits 1 2 1).isSome = false ∧
    (labLoss []).reserveCounts 2 = true ∧ (labLoss []).nextShed = some 6 ∧ ((labLoss []).shed 6).reserveCounts 2 = false := by decide

/-! ### Coherence, host and fabric -/

/-- The small machine with a line in a directory, in a cache and in flight. -/
def labCoh (dir : NMap DirSt) (l2 : NMap L2Line) (flight : List CohFlight) : State :=
  { lab with coh := { lab.coh with dir := dir, l2 := l2, flight := flight }, ev := { EvArg.none with addr := 0x400, die := 1, n := 4 } }

theorem seen_requests :
    let s := labCoh [] [] []
    [1, 2].Pairwise (· < ·) ∧ s.unreadable 0x400 = false ∧ s.available (64 * 0x400) = true ∧
    (∀ d ∈ List.range 12, d ∈ [1, 2] ↔ d ≤ 9 ∧ (d = s.ev.die ∨ s.ev.n.testBit d = true) ∧ s.coh.lacks d 0x400 = true ∧
      s.coh.asking d 0x400 = false) ∧
    (let u := labCoh [(0x400, .shared [1, 2])] [(lineKey 0x400 1, ⟨.shared, 0, 0⟩), (lineKey 0x400 2, ⟨.shared, 0, 0⟩)] []
     ∀ d ∈ [1, 2], u.coh.canRead 0x400 d = true ∧ u.coh.canWrite 0x400 d = false ∧ u.coh.asking d 0x400 = false) := by decide
theorem seen_write_backs :
    [Moesi.modified, .owned].all (fun m =>
      (labCoh [] [(lineKey 0x400 1, ⟨m, 0, 0⟩)] []).coh.l2.look (lineKey 0x400 1) == some ⟨m, 0, 0⟩) = true := by decide
theorem seen_homes :
    (labCoh [(0x400, .shared [1, 2])] [] []).coh.dir.look 0x400 = some (.shared [1, 2]) ∧ (∃ d ∈ [1, 2], d ≠ 1) ∧ (∀ d ∈ [1], d = 1) ∧
    (labCoh [(0x400, .owned 3 [1])] [] []).coh.dir.look 0x400 = some (.owned 3 [1]) ∧ (∃ d ∈ addNum [1] 3, d ≠ 1) ∧
    (labCoh [(0x400, .exclusive 3)] [] []).coh.dir.look 0x400 = some (.exclusive 3) := by
  decide
theorem seen_replies :
    [CohKind.inv, .fwdS, .fwdX, .data, .grant, .ack, .stale].all (fun k =>
      ((labCoh [(0x400, .busy 2 0 [1, 3] none)] [(lineKey 0x400 1, ⟨.shared, 0, 0⟩)] [⟨k, 1, 0x400, 0, none⟩]).coh.arrives k 1 0x400).isSome) =
      true ∧
    1 ∈ [1, 3] ∧ (∃ d ∈ [1, 3], d ≠ 1) ∧
    [1, 2, 3].all (fun n => ((labCoh [(0x400, .shared [1, 2])] [] [⟨.ack, 1, 0x400, n, none⟩]).coh.arrives .ack 1 0x400) ==
      some ⟨.ack, 1, 0x400, n, none⟩) = true := by decide
theorem seen_line_arrives :
    let s := labCoh [(0x400, .exclusive 1)] [] [⟨.data, 1, 0x400, 1, none⟩]
    s.coh.arrives .data 1 0x400 = some ⟨.data, 1, 0x400, 1, none⟩ ∧ s.coh.collecting 1 0x400 = false ∧
    ((s.install 1 0x400 true 2).map fun u => (u.runOne 1 0x400).isNone) = some true ∧
    (s.coh.l2.filter fun p => p.1 % 10 == 1).length < l2Lines 1 := by decide

/-- A store of the small machine waits for a line that is on its way. -/
def labWaits : State :=
  { labFly (.store [acc4 (.mem 0x10000)] false) with
    coh := { lab.coh with l2 := [], flight := [⟨.grant, 0, 0x400, 0, none⟩] }, ev := { EvArg.none with addr := 0x400 } }
theorem seen_store_waits :
    labWaits.flying = 0 + 1 ∧ labWaits.coh.arrives .grant 0 0x400 = some ⟨.grant, 0, 0x400, 0, none⟩ ∧
      ((({ labWaits with coh := labWaits.coh.land ⟨.grant, 0, 0x400, 0, none⟩ } : State).install 0 0x400 true 0).bind
        (·.runOne 0 0x400)).isSome = true := by decide
theorem seen_outside_accesses :
    lab.inMemory 0x10000 4 = true ∧ Memory.wf lab.mem = true ∧ (linesOf 0x10000 4).filterMap (lab.lineErr 0) = [] ∧
    (∀ l ∈ linesOf 0x10000 4, lab.coh.engaged l = false) ∧ (∀ p ∈ lab.coh.dir, ∀ k ∈ p.2.holders, k ≤ 9) := by decide

/-- A write of `n` bytes in the notify page of interface 0, which the host has placed at 0x200000; `w` is its first word. -/
def labPacket (bound : Bool) (off n : Nat) (w : Nat) (pasids : List (Nat × Nat)) (held : Nat) : State :=
  let e := { ((lab.eps.look 5).getD ⟨0, [], [], [], [], 0⟩) with kq := List.replicate held { fwMsg [] Cap.zero Cap.zero with kind := 6 } }
  { lab with qifs := [(0, ⟨bound, 5, 0, 20, none, 0, 0, 0⟩)], pasids := pasids, eps := [(5, e)], bars := [(2, 0x200000)],
             ev := { EvArg.none with addr := 0x200000 + off, bytes := numBytes w 4 ++ List.replicate (n - 4) 0 } }

theorem seen_packets :
    [0, 0x3F, 0x40, 0xFF8].map (fun o => (labPacket true o 4 7 [] 0).notifyAt (labPacket true o 4 7 [] 0).ev.addr) =
      [some (0, 0), some (0, 0x3F), some (0, 0x40), some (0, 0xFF8)] ∧
    (labPacket true 0 63 7 [] 0).ev.bytes.length = 63 ∧ (labPacket true 0 64 (2 ^ 20) [] 0).ev.bytes.length = 64 ∧
    wordOfBytes ((labPacket true 0 64 (2 ^ 20) [] 0).ev.bytes.take 4) = 2 ^ 20 ∧
    wordOfBytes ((labPacket true 0 64 (2 ^ 20 - 1) [] 0).ev.bytes.take 4) = 2 ^ 20 - 1 ∧
    (0, 7) ∈ (labPacket true 0 64 7 [(0, 7)] 0).pasids ∧
    ((labPacket true 0 64 7 [(0, 7)] 32).eps.look 5).map (fun e => (e.kq.filter (isPacket 0)).length) = some 32 ∧
    ((labPacket true 0 64 7 [(0, 7)] 31).eps.look 5).map (fun e => ((e.kq.filter (isPacket 0)).length, e.takers.length)) = some (31, 0) := by
  decide
theorem seen_notify_pages :
    let s := labPacket true 0 4 7 [] 0
    (8 * 0 + 2, 0x200000) ∈ s.bars ∧ 0x1080 < barSize 0 2 ∧ (∀ k ∈ List.range 8, s.notifyAt (0x200080 + k) = some (0, 0x80 + k)) ∧
      s.notifyAt (0x200000 + 0x1080) = some (1, 0x80) := by decide
theorem seen_page_request :
    let s := { lab with pageReqs := [⟨0, 0, 7, 0x1000, none, none⟩] }
    (⟨0, 0, 7, 0x1000, none, none⟩ : PageReq) ∈ s.pageReqs ∧ s.ev.id = 0 := by decide
theorem seen_functions :
    let s := { lab with vfs := 1, qifs := [(8, ⟨true, 5, 0, 20, none, 0, 0, 0⟩)], ev := { EvArg.none with id := 1, n := 7 } }
    1 ≤ s.ev.id ∧ s.ev.id ≤ s.vfs ∧ s.ev.n < 8 ∧ (s.qifs.look 8).map QueueIf.bound = some true ∧ (s.eps.look 5).isSome = true ∧
      lab.vfs < 8 / 8 ∧ lab.ev.n ≤ 63 ∧ s.fnEnabled 1 = true ∧ barSize 1 0 ≠ 0 ∧ s.ev.id ∉ s.flr ∧
      s.hostBusy (fun f _ _ => f == 1) = false ∧ NMap.rising s.qifs = true ∧
      (labFly (loadOf (.host 1 7 0x1000))).hostBusy (fun f _ _ => f == 1) = true := by decide
theorem seen_vectors :
    (lab.vector 0 9).masked = true ∧ ({ lab with vectors := [(9, ⟨0xFEE00000, 7, false, false⟩)] }.vector 0 9).masked = false := by decide

/-- Connection 0 is up, with a message out, and registration 90 lies on it. -/
def labConn (r : Registration) (out : List OutMsg) : State :=
  { lab with conns := [(0, upConn out)], regs := [(90, r)], objs := lab.objs.put 90 ⟨9, 0, none⟩,
             ev := { EvArg.none with m := 90, len := 64, bytes := List.replicate 64 1 } }
def labReg (wd st : Bool) (len : Nat) : Registration := ⟨0, 4, 0x10000, len, true, st, false, false, wd, none⟩

/-- Where a message's bytes lie. -/
def placesOf (s : State) (n : Need) : Option (List (Loc × Nat × Bool)) :=
  match s.places 4 n 2 0x10000 0x10040 with | .ok l => some l | .error _ => none
theorem seen_fabric_arrivals :
    let s := labConn (labReg false true 64) []
    s.regAt 0 90 = some (90, labReg false true 64) ∧
    placesOf s { needW with nr := true, cap := false } = some [(.mem 0x10000, 64, true)] ∧
    placesOf s { needR with nr := true, cap := false } = some [(.mem 0x10000, 64, true)] ∧
    [labReg true true 64, labReg false true 63, labReg false false 64].all (fun r =>
      ((labConn r []).regAt 0 90).any fun p => p.2.withdrawing || decide (p.2.len < 64) || !p.2.st) = true ∧
    s.ev.bytes.length = 64 ∧ unitsOf false 64 ≤ (upConn []).given ∧ unitsOf true 64 ≤ (upConn []).given ∧ (upConn []).inMsgs = [] ∧
    s.extMay (fabricOrder 0) [⟨0x10000, List.replicate 64 1, false⟩] false = true ∧
    s.allowed 10 false (Agent.event (.external (fabricOrder 0)) [⟨0, .mem 0x10000, 64, false⟩]) = true ∧
    s.accepts 0 ⟨0, false, 90, 0, 64, [], false, false⟩ = true := by decide

/-- A load of a remote place whose message 5 is out. -/
def labOut (tries : Nat) : OutMsg := ⟨5, 0, 0, 0, 0, 4, 1, tries, 4, []⟩
def remoteLoad : OpKind := loadOf (.remote 0 90 0)
theorem seen_fabric_replies :
    let s := { labConn (labReg false true 64) [labOut 0] with teams := [(0, flyTeam remoteLoad)], ev := { EvArg.none with n := 5 } }
    (s.conns.look 0).bind (fun k => k.awaits s.ev.n) = some (labOut 0) ∧
      s.teams.look 0 = some (flyTeam remoteLoad) ∧ (flyTeam remoteLoad).findOp 0 = some (opOf remoteLoad) ∧
      countOf (joinAt (labOut 0).got 0 (List.replicate 3 0)) < (labOut 0).wire ∧ (labOut 0).got = [] := by decide
theorem seen_copy_replies :
    let c := labCopy [(0, 64)] none
    let m : OutMsg := { labOut 0 with len := 64, wire := 0 }
    let s := { labConn (labReg false true 64) [m] with teams := [(0, flyTeam (.copy c))] }
    s.replyMay m = true ∧ cutLeft m.off m.len c.left = some [] ∧ c.arrival = none ∧
      (flyTeam (.copy c)).findOp m.op = some (opOf (.copy c)) := by decide
theorem seen_retry_limit : Config.retryLimit < (labOut Config.retryLimit).tries + 1 ∧ (labOut 0).tries = 0 := ⟨Nat.lt_succ_self _, rfl⟩
theorem seen_withdrawal :
    let s := { labConn (labReg true true 64) [] with ev := { EvArg.none with id := 90 } }
    (s.regs.look s.ev.id).map (fun r => (r.withdrawing, r.reply)) = some (true, none) ∧ NMap.rising s.regs = true ∧
      (s.conns.look 0).map Conn.inMsgs = some [] := by decide

/-! ### Firmware and device -/

theorem seen_interface_requests :
    [(1 : Word), 2, 3, 4].all (fun w => match (labAsk 2 (fwMsg [w] (Cap.object 0x3FFF 10 72 0) Cap.zero)).fwTake 2 (· == w.toNat) with
      | some (m, s) => (s.reqQi m).isSome && m.zeroFrom 1 && m.q1.isZero
      | none => false) = true ∧
    (match (labAsk 2 (fwMsg [1, 31] (Cap.object 0x3FFF 10 72 0) (objCap 5))).fwTake 2 (· == 1) with
      | some (m, s) => (s.reqQi m).isSome && m.zeroFrom 2 && (s.reqObj m m.q1 [3] pIV).isSome && decide ((m.words.getD 1 0).toNat = 31)
      | none => false) = true ∧
    (match (labAsk 2 (fwMsg [4] (Cap.object 0x3FFF 10 72 0) (dataCap 0 0x10000 64))).fwTake 2 (· == 4) with
      | some (m, s) => eventCap m.q1 (pLD ||| pST) && !s.coveredIn m.space m.q1
      | none => false) = true := by decide
/-- Connection 0 up, and a request to the fabric endpoint. -/
def labFabric (m : Msg) (regs : NMap Registration) : State :=
  { labAsk 3 m with conns := [(0, upConn [])], regs := regs, root := some 20 }
theorem seen_registration_requests :
    (match (labFabric (fwMsg [1, 0] (dataCap 0 0x10000 64) Cap.zero) []).fwTake 3 (fun n => n == 0 || n == 1 || decide (4 < n)) with
      | some (m, s) => s.connUp 0 && m.zeroFrom 2 && m.q1.isZero && m.q0.has pCX && !s.coveredIn m.space m.q0 && (s.newObj 9 none).isSome
      | none => false) = true ∧
    (match (labFabric (fwMsg [1, 1] Cap.zero Cap.zero) []).fwTake 3 (fun n => n == 0 || n == 1 || decide (4 < n)) with
      | some (_, s) => !s.connUp 1
      | none => false) = true ∧
    (match (labFabric (fwMsg [2, 0, 9, 0, 15] Cap.zero Cap.zero) []).fwTake 3 (· == 2) with
      | some (m, s) => decide (s.root = some m.ctx) && s.connUp 0 && m.zeroFrom 5 && (s.spaces.look s.rootSpace).isSome
      | none => false) = true ∧
    [false, true].all (fun wd => match (labFabric (fwMsg [3] (Cap.object 0x3FFF 9 90 0) Cap.zero) [(90, labReg wd true 64)]).fwTake 3 (· == 3) with
      | some (m, s) => decide (s.reqObj m m.q0 [9] pRV = some 90) && m.zeroFrom 1 && m.q1.isZero && (s.regs.look 90).isSome
      | none => false) = true ∧
    (match (labFabric (fwMsg [4] (dataCap 0 hostBase 4096) Cap.zero) []).fwTake 3 (· == 4) with
      | some (m, s) => m.zeroFrom 1 && m.q0.tag && decide (m.q0.otype = 0) && decide (s.spaceOf m.ctx = s.rootSpace)
      | none => false) = true := by decide

/-- The small machine under a firmware command with its arguments. -/
def labCmd (op : Nat) (args : List Word) : State :=
  { lab with fw := { lab.fw with cmd := some (op, 3), args := args ++ List.replicate (64 - args.length) 0 } }

theorem seen_rom_commands :
    (commandOf .modeSet).isSome = true ∧ ({ labCmd 7 [] with state := 0 }).fw.cmd = some (7, 3) ∧ (labCmd 7 []).state ≠ 0 := by decide
theorem seen_certificates :
    (labCmd 10 [3]).arg 0 < 4 ∧ (labCmd 10 [4]).arg 0 = 4 + 0 ∧ ((labCmd 10 [4]).slotOf 0).st ≠ .empty ∧
      (labCmd 10 [67]).arg 0 = 4 + 63 ∧ ((labCmd 10 [67]).slotOf 63).st = .empty ∧ 68 ≤ (labCmd 10 [68]).arg 0 := by decide
theorem seen_host_pages :
    let s := labCmd 5 [0, 7, 0x1000, 0, 0, 0x1000, 1, 3]
    s.hostArgs = true ∧ s.arg 6 = 1 ∧ (s.spaces.look s.rootSpace).isSome = true ∧
      ((s.spaces.look s.rootSpace).map fun sp => sp.overlaps 0 (s.arg2 4) (4096 * s.arg 6)) = some false := by decide
theorem seen_modes :
    [(0, ⟨0, 0x10000000, [], []⟩), (0, ⟨0, 0x10000000, [(0x40, 1)], []⟩)].map (fun (p : Nat × Reserve) =>
      let s := { labCmd 7 [0x40000, 0, 1, 2] with reserves := [p] }
      (s.arg2 0 % 65536 == 0 && decide (s.arg 3 < 3) && NMap.rising s.modes, s.unitsFree (s.arg2 0 / 4096) (16 * s.arg 2))) =
    [(true, true), (true, false)] := by decide
theorem seen_cxl_and_connections :
    (labCmd 12 [3]).arg 0 < 4 ∧ (labCmd 12 [3]).cxl.getD 3 0 = 0 ∧ ({ labCmd 13 [3] with cxl := [0, 0, 0, 4096] }).cxl.getD 3 0 ≠ 0 ∧
      (labCmd 8 [63, 1]).arg 1 < 2 ^ 18 ∧ (labCmd 8 [63, 1]).connUp 63 = false ∧
      ({ labCmd 8 [0, 1] with conns := [(0, upConn [])] }).connUp 0 = true := by decide
theorem seen_root_commands :
    (labCmd 2 [0, 0, 7, 64]).root = some 20 ∧ (labCmd 2 [0, 0, 7, 64]).arg 3 % 8 = 0 ∧
      (0, 7) ∉ (labCmd 2 [0, 0, 7, 64]).pasids ∧ (imageCap 0x10000 64).isSome = true ∧ (labCmd 0x10 []).fw.cmd = some (0x10, 3) ∧
      ∀ p ∈ labSpent.teams, p.2.ctx = 20 → p.2.ops = [] := by decide
theorem seen_die_tests :
    (lab.dies[0]?).map (fun x => (x.failed, x.homeOk)) = some (false, false) ∧ (∃ y ∈ (lab.dies.take 9).eraseIdx 0, y.homeOk = false) := by
  decide
theorem seen_power :
    let s := { lab with cores := [(0, Core.fresh), (1, { Core.fresh with gated := true })] }
    (s.cores.look 0).map (fun k => (k.team, k.gated, k.retiring)) = some (none, false, false) ∧ s.couldTake s.ev.core = false ∧
      (s.cores.look 1).map Core.gated = some true := by decide
theorem seen_spdm : lab.spdmOf .getDigests ≠ none ∧ { lab with spdm := ⟨0x12, 3⟩ }.spdm.stage = 3 ∧ lab.spdm.stage < 3 := by
  refine ⟨?_, by decide, by decide⟩
  simp [State.spdmOf]

/-! ### Steps of a core, and the machine as a whole -/

/-- The small machine with a word at 0x1000 that holds the issue slot; its line is in the L2 of the teams' die. -/
def labSlot (w : Nat) : State :=
  { labT ({ · with slot := some ⟨0, 0, 0x1000, 0⟩ }) with
    mem := Memory.setBytes [] 0x1000 (numBytes w 8),
    coh := { lab.coh with dir := [(0x40, .shared [0]), (0x400, .exclusive 0)],
                          l2 := [(lineKey 0x40 0, ⟨.shared, 0, 0⟩), (lineKey 0x400 0, ⟨.modified, 0, 0⟩)] } }
theorem seen_slot :
    let s := labSlot 0x001808102A8A0095
    ∃ t g e, s.SlotDue ⟨0, 0⟩ 0 t ⟨0, 0, 0x1000, 0⟩ g e ∧ s.holdsWord 0 t ⟨0, 0⟩ (g.codeOf e.pccx) e.pc 0x001808102A8A0095 :=
  ⟨_, _, ⟨0, 0x1000, [0], 0⟩,
    ⟨rfl, by decide, rfl, rfl, rfl, rfl, rfl, by decide, rfl, rfl, .head _, ⟨rfl, rfl⟩, fun x hx _ _ => by
      have all : ∀ y ∈ labGroup.pct, y = none ∨ y = some ⟨0, 0x1000, [0], 0⟩ := by decide
      rcases all _ hx with h | h
      · cases h
      · exact Option.some.inj h, by decide, by decide⟩, _, _, rfl, by decide, by decide⟩
theorem seen_literal_word : usesLit (.mma 1 (.k 10) .litLo) = true ∧ usesLit .exit = false := by decide
theorem seen_illegal_word :
    ((labIssue (labT ({ · with nreg := 8 })) flagged).issue.map fun i => illegalAt (.add (.v 8) (va 2) (va 3)) i.t.nreg i.w) =
      some true := by decide
theorem seen_memory_form : Memory.wf lab.mem = true ∧ ∀ p ∈ lab.teams, Memory.wf p.2.sp = true := by decide
theorem seen_registers :
    1 < labThread.v.length ∧ 4 * 1 + 3 < labThread.v.length ∧ 1 < labThread.vtag.length ∧ 15 < labThread.o.length ∧
      labThread.oval.length = labThread.o.length ∧ labThread.p.length = 7 ∧ labThread.x.length = 4 ∧ 63 < labGroup.s.length ∧ 15 < labGroup.k.length := by decide
theorem seen_products : NMap.rising ((labBank true).banks.getD 0 Bank.closed).entries = true := by decide
theorem seen_authority :
    let c := dataCap 0 0x10000 0x10000
    let key := dataCap 0 64 4032
    c.tag = true ∧ c.wellFormed = true ∧ (c.bound 16 false).isOk = true ∧ (c.bound 16 true).isOk = true ∧
      (capSealBy c key).isOk = true ∧ (capUnsealBy (c.withOtype 64) key).isOk = true ∧ (capMintBy c c).isOk = true := by decide

/-! ### Other sides of the statements -/

theorem seen_kept_powered :
    let s := { labPlace readyLaunch with ev := { EvArg.none with core := ⟨0, 0⟩ } }
    (0, readyLaunch) ∈ s.launches ∧ s.waiting readyLaunch = true ∧ onRect s.ev.core 1 1 (s.fitsAt readyLaunch) = true ∧
    (let t := { savedTeam with st := .saved }
     let u := { labSaved with teams := [(0, t)] }
     u.couldReturn t = true ∧ t.w = widthOf u.ev.core ∧
       onRect u.ev.core t.cw t.ch (fun nw => u.rectFree t.ctx t.sched t.groups.length t.carve nw t.cw t.ch) = true) := by decide
theorem seen_register_pages :
    let s := { lab with bars := [(0, 0x800000)] }
    [0, 0xFC, 0x100, 0x102, 0x108, 0x10C, 0x200, 0x2FF, 0x1000, 0xFFFFF].all (fun o => s.barAt (0x800000 + o) == some (0, 0, o)) = true ∧
      s.barAt 0x900000 = none ∧ s.barAt 0x7FFFFF = none := by decide
theorem seen_interface_refusals :
    (match (labAsk 2 (fwMsg [1] (objCap 5) Cap.zero)).fwTake 2 (· == 1) with
      | some (m, s) => (s.reqQi m).isNone
      | none => false) = true ∧
    [(2 : Word), 3, 4].all (fun w => match (labAsk 2 (fwMsg [w] (Cap.object 0x3FFF 10 72 0) (objCap 5))).fwTake 2 (· == w.toNat) with
      | some (m, s) => (s.reqQi m).isSome && m.zeroFrom 1 && !m.q1.isZero && !eventCap m.q1 (pLD ||| pST)
      | none => false) = true := by decide
theorem seen_root_units :
    let s := { labCmd 2 [0, 0, 7, 64] with reserves := [(0, ⟨0x100000, 0x1000, [], []⟩)] }
    (s.takeUnits 0 1 1).isSome = true ∧ (s.takeUnits 0 2 1).isNone = true := by decide
theorem seen_host_atomics :
    let s := { lab with ev := { EvArg.none with flag := true, id := 10, addr := 0x10000, bytes := [1, 0, 0, 0] } }
    [(0, 4), (0, 8), (1, 4), (2, 4), (2, 8)].all (fun p => (hostAtomicOp p.1 p.2).isSome) = true ∧ (hostAtomicOp 1 8).isNone = true ∧
      s.ev.n = 0 ∧ s.extMay s.ev.id [⟨s.ev.addr, List.replicate 4 0, false⟩] true = true ∧ (s.readMem 0 s.ev.addr 4).isOk = true := by decide
theorem seen_reserve_revocation :
    let r : Revocation := ⟨0, .reserve 1, 20, none, 4, 0, true, false, 1⟩
    let s := { lab with revs := [r] }
    (s.reserves.look 1).isSome = true ∧ (s.rev 0).map (fun x => (x.active, x.swept)) = some (true, false) ∧
      (∀ p ∈ s.teams, ∀ q ∈ p.2.ops, q.hit (s.coveredBy r p.2.ctx) = false) ∧ (∀ p ∈ s.offspring 1, p.1 ≠ 1) ∧
      NMap.rising s.ctxs = true := by decide
end Sys2Proof.Tests
end

