-- ==== Sys2Proof/Tests/Slice0.lean ====
section
/-! SUPPORT. Checks of the model: ill-formed words refused, worked words decoded, and for every statement about words a
state and operands that meet its hypotheses. -/

namespace Sys2Proof.Tests

open Sys2Proof Sys2Proof.Machine

/-! ### Words: hypotheses that are met -/

set_option maxRecDepth 20000

theorem test_integer_words : intSamples.all (laneSeen intRule) = true := by decide
theorem test_pair_words : pairSamples.all (laneSeen pairRule) = true := by decide
theorem test_float_words : floatSamples.all (laneSeen floatRule) = true := by decide
theorem test_long_words :
    longSamples.all (fun w => match (divRule w).orElse fun _ => specialRule w with
      | some f => meets w lab (passes f) | none => false) = true := by decide
theorem test_predicate_words : predSamples.all (laneSeen predRule) = true := by decide
theorem test_p2v_word : laneSeen p2vRule (.p2v (.v 1)) = true := by decide
theorem test_capability_predicate_words :
    [Instr.capWithin 0 (.k 0) (.k 1), .capSame 6 (.k 0) (.k 0)].all
      (fun w => (capPredRule w).isSome && meets w lab fun _ => true) = true := by decide

/-- A span none of whose lanes its guard lets run. -/
def unguarded (ins : Instr) (s : State) : Bool :=
  match (labIssue s { Ctl.none with pr := some 0 }).issue with
  | some i => !illegalAt ins i.t.nreg i.w && i.visited.isEmpty
  | none => false

theorem test_setps_word :
    meets (.setps 6 (.v 2) (.v 3) .lt true) lab (fun i => match i.visited with
      | (l, th) :: _ => (i.src l th (.v 2)).isOk && (i.src l th (.v 3)).isOk | [] => false) = true ∧
    unguarded (.setps 0 (.v 2) (.v 3) .lt false) lab = true := by decide
theorem test_cross_lane_words :
    crossSamples.all (fun w => match crossRule w with
      | some r => meets w lab fun i => passes r.read i && decide (i.x.lanes.Pairwise (· < ·)) | none => false) = true := by
  decide
theorem test_control_words : controlSamples.all (laneSeen controlRule) = true := by decide
theorem test_jump_target :
    (labIssue lab flagged).issue.map (fun i => (i.visited.map (fun p => (i.cap p.2 (.k 15)).tag), (i.g.pcc.length == 8))) =
      some ([true], true) ∧ fetchCode.isTarget := by
  refine ⟨by decide, ?_⟩
  unfold Cap.isTarget
  decide
theorem test_capability_words : capSamples.all (laneSeen capRule) = true := by decide
theorem test_words_that_raise :
    raiseSamples.all (fun w => match ruleOf w with | some f => meets w labOc (fails f) | none => false) = true := by decide
theorem test_scalar_words :
    scalarSamples.all (fun w => match scalarRule w with | some r => meets w lab (passes r.writes) | none => false) = true ∧
    unguarded (.sadd 0 (.v 2) (.v 3)) lab = true := by decide
theorem test_file_words :
    fileSamples.all (fun w => match fileRule w with | some r => meets w lab (passes r.2) | none => false) = true := by decide
theorem test_idle_words :
    idleSamples.all (fun w => match idleRule w with | some r => meets w lab (passes r.2) | none => false) = true := by decide
theorem test_yield_word : meets (.yield 12) lab (fun i => !blockBad i.t.nreg i.x.blk) = true := by decide
theorem test_trap_words :
    [Instr.trap 7, .bkpt].all (fun w => meets w lab fun _ => true) = true ∧
    [Instr.trap 7, .bkpt].all (fun w => unguarded w lab) = true := by decide
theorem test_memory_words :
    memSamples.all (fun w => match memRule w with | some r => meets w lab (passes r.lane) | none => false) = true := by decide
theorem test_fence_word :
    meets (.fence .device .acqRel) lab (fun i => decide (scopeNo .device ≤ i.s.ceiling i.t.ctx)) = true ∧
    unguarded (.fence .system .relaxed) lab = true := by decide
theorem test_wait_words :
    parkSamples.all (fun w => match parkRule w, ownRule w with
      | some r, _ => meets w lab (passes r)
      | none, some r => meets w lab (passes r)
      | none, none => false) = true ∧
    meets (.waitne (.v 2) (.k 0) .zero .team true) lab (passes (·.waitneLane (.v 2) (.k 0) .zero .team true)) = true := by decide
theorem test_landing_words :
    [Instr.rndc (.v 1), .dqinfo (.v 1) 0, .dqinfo (.v 1) 3].all (fun w => match landRule w with
      | some f => meets w lab (passes f) | none => false) = true := by decide
theorem test_stepping_words :
    meets (.arrset (.v 2) (.k 1) .zero) lab (passes (·.arrLane (.v 2) (.k 1) .zero)) = true ∧
    meets (.evpub (.v 2) (.k 0) .zero .device) lab (passes (·.evpubLane (.v 2) (.k 0) .zero .device)) = true := by decide

/-- The small machine with a task frame in v64 to v95. -/
def labSpawn : State :=
  labT (·.upThread 0 0 fun th =>
    [(92, 0), (93, 8), (94, 0), (95, 0)].foldl (fun (th : Thread) (p : Nat × Word) => th.wrV p.1 p.2)
      (((th.wrQuad 16 fetchCode).wrQuad 17 (dataCap 0 0x10000 0x100)).wrQuad 18 Cap.zero))

theorem test_spawn_word : meets (.spawn 16) labSpawn (fun i => (i.spawnFrames 16).1.isEmpty) = true ∧
    meets (.spawn 0) lab (fun i => !(i.spawnFrames 0).1.isEmpty) = true := by decide

/-- The small machine with a convergence register armed for some lanes. -/
def labArmed (lanes : BitVec 128) (s : State) : State :=
  { s with teams := s.teams.upd 0 fun t => t.upGroup 0 fun g => { g with g := g.g.set 0 ⟨lanes, 0, true, false, false, none⟩ } }

theorem test_convergence_words :
    meets (.rbarInit 7) lab (fun _ => true) = true ∧ unguarded (.rbarInit 0) lab = true ∧
    meets (.rbarWait 0) (labArmed 1 lab) (fun i => (i.g.g.getD 0 Conv.idle).armed && !(i.g.g.getD 0 Conv.idle).sign) = true ∧
    meets (.rbarWait 1) lab (fun i => !(i.g.g.getD 1 Conv.idle).armed) = true := by decide

/-- What a copy word or an absorb asks for, with the causes. -/
def copyMade (r : CopyRule) (i : Issue) : Bool :=
  (i.copyAll (i.visited.map fun p => (p.1, r.asks i p.1 p.2)) r.scope r.tagMode r.dstSpaces r.srcSpaces r.kind).1.isEmpty
def absorbMade (sv b : CapSel) (x : Src) (i : Issue) : Bool :=
  (i.absorbAll .team (i.visited.map fun p => (p.1, i.cap p.2 sv, i.cap p.2 b, (i.src p.1 p.2 x).map BitVec.toNat))).1.isEmpty

theorem test_copy_words :
    copySamples.all (fun w => match copyRule w.1 with | some r => meets w.1 (labV w.2) (copyMade r) | none => false) = true ∧
    (match copyRule (.cpin (.k 6) (.k 0) (.v 1) .team false) with
      | some r => meets (.cpin (.k 6) (.k 0) (.v 1) .team false) lab fun i => !copyMade r i
      | none => false) = true := by decide
theorem test_absorb_word :
    meets (.troyAbs (.k 10) (.k 0) (.v 64) .team) lab (absorbMade (.k 10) (.k 0) (.v 64)) = true ∧
    meets (.troyAbs (.k 10) (.k 6) (.v 64) .team) lab (fun i => !absorbMade (.k 10) (.k 6) (.v 64) i) = true := by decide
theorem test_matrix_words :
    matrixSamples.all (fun w => match matrixRule w.1 with | some r => meets w.1 w.2 (passes r) | none => false) = true ∧
    unguarded (.mzero (.v 3)) lab = true ∧
    meets (.mrd 0 (.v 1)) lab (passes (·.mrdLane (.v 1))) = true ∧
    meets (.mstat (.v 1) (.v 2)) lab (passes (·.mstatLane (.v 1) (.v 2))) = true := by decide

/-- The small machine with an open chain on bank 0 and v4 a stage: bank 0, macro 0, one row, a stride of 2,048 bytes. -/
def labStage : State :=
  let s := labV [(4, 0x2000010)]
  { s with teams := s.teams.upd 0 fun t => { t with mx := labOpen } }

theorem test_signatures :
    (let seen := fun (s : State) (last : Bool) => meets (.mma 0 (.k 1) (.v 4)) s fun i =>
      match i.signAll 0 (.k 1) (.v 4) with
      | (some (v, c), []) =>
        let r := i.g.g.getD 0 Conv.idle
        ((r.expect &&& ~~~(r.arrived ||| laneMask (i.visited.map (·.1)))) == 0) == last && (i.finalCheck v c).isOk
      | _ => false
     seen (labArmed 1 labStage) true && seen (labArmed 3 labStage) false) = true := by decide
theorem test_message_words : messageSamples.all (kernelSeen messageRule lab) = true ∧
    kernelSeen askRule lab (.ask none 1 (.k 6) 16 false) = true := by decide
theorem test_making_words : makeSamples.all (kernelSeen makeRule lab) = true := by decide
theorem test_status_words : statusSamples.all (kernelSeen statusRule lab) = true := by decide
theorem test_command_words :
    commandSamples.all (fun w => kernelSeen commandRule (if w matches .asmap .. | .asunmap .. then labMap else lab) w) = true := by
  decide
theorem test_launch_word : kernelSeen commandRule labRecord (.launch (.k 0) .zero) = true := by decide

theorem test_frame_words : frameSamples.all (kernelSeen frameRule labSel) = true := by decide

/-! ### Words that raise -/

/-- A word of one of the rules whose visited lane fails. -/
def wordFails (s : State) (ins : Instr) : Bool :=
  match crossRule ins, scalarRule ins, fileRule ins, idleRule ins, memRule ins with
  | some r, _, _, _, _ => meets ins s (fails r.read)
  | _, some r, _, _, _ => meets ins s (fails r.writes)
  | _, _, some r, _, _ => meets ins s (fails r.2)
  | _, _, _, some r, _ => meets ins s (fails r.2)
  | _, _, _, _, some r => meets ins s (fails r.lane)
  | _, _, _, _, _ => false
def waitFails (s : State) (ins : Instr) : Bool :=
  match ownRule ins, parkRule ins with
  | some r, _ => meets ins s (fails r)
  | _, some r => meets ins s (fails r)
  | _, _ => false
def kernelFails (rule : Instr → Option KernelRule) (ins : Instr) : Bool :=
  match rule ins with | some f => meets ins lab (fails f) | none => false

/-- The small machine whose index registers reach past N. -/
def labX : State := labT (·.upThread 0 0 fun th => { th with x := List.replicate 4 0x7F7F })

theorem test_words_fail :
    [Instr.lxAt (.v 1) oc (va 3) 0, .sadd 0 (.o 0) (.v 3), .swrite (.o 0), .carve 0 (.o 0) 0,
     .ldB32 (.v 1) (.k 6) .zero (.relaxed true .normal)].all (wordFails labOc) = true ∧
    (match (divRule (.divI32 (.v 1) oc (va 3))) with | some r => meets (.divI32 (.v 1) oc (va 3)) labOc (fails r) | none => false) = true ∧
    meets (.setps 6 (.o 0) (.v 3) .lt true) labOc (fails fun i l t => i.src l t (.o 0)) = true ∧
    meets (.fence .system .acquire) { lab with ctxs := [(20, { labCtx 0 none .runnable with ceil := 3 })] }
      (fun i => decide (i.s.ceiling i.t.ctx < scopeNo .system)) = true := by decide
theorem test_waits_fail :
    [Instr.waitown (.v 8) (.k 6) .zero, .waitgen (.v 2) (.k 6) .zero, .evwait (.v 2) (.k 6) .zero .device, .join (.k 6) .zero .team].all
      (waitFails lab) = true ∧
    meets (.waitne (.v 2) (.k 6) .zero .team true) lab (fails (·.waitneLane (.v 2) (.k 6) .zero .team true)) = true := by decide
theorem test_operations_fail :
    (match landRule (.rndc (.vx 0 0)) with | some r => meets (.rndc (.vx 0 0)) labX (fails r) | none => false) = true ∧
    meets (.arrset (.v 2) (.k 6) .zero) lab (fails (·.arrLane (.v 2) (.k 6) .zero)) = true ∧
    meets (.evpub (.v 2) (.k 6) .zero .device) lab (fails (·.evpubLane (.v 2) (.k 6) .zero .device)) = true := by decide
theorem test_matrix_words_fail :
    [Instr.mldb 24 (.k 1) (.o 0), .mzero (.o 0), .mbeg 24 24 0 0 (.o 0), .mend (.o 0) (.k 1) none].all
      (fun w => match matrixRule w with | some r => meets w labOc (fails r) | none => false) = true ∧
    meets (.mrd 0 (.o 0)) labOc (fails (·.mrdLane (.o 0))) = true ∧
    meets (.mstat (.v 1) (.o 0)) labOc (fails (·.mstatLane (.v 1) (.o 0))) = true ∧
    meets (.mma 0 (.k 1) (.v 4)) labStage (fun i => !(i.signAll 0 (.k 1) (.v 4)).2.isEmpty) = true ∧
    meets (.mma 0 (.k 1) (.v 4)) (labArmed 1 (labV [(4, 0x2000010)])) (fun i => match i.signAll 0 (.k 1) (.v 4) with
      | (some (v, c), []) => !(i.finalCheck v c).isOk
      | _ => false) = true := by decide

/-- R443: a matrix word of a control core. -/
theorem test_control_core :
    isMatrixWord (.mzero (.v 3)) = true ∧
    ((labIssue lab flagged |> fun s => ({ s with sel := s.sel.map fun x => { x with core := ⟨9, 4⟩ } } : State)).issue.map fun i =>
      (i.x.core.die, illegalAt (.mzero (.v 3)) i.t.nreg i.w)) = some (9, false) := by decide
theorem test_kernel_words_fail :
    [(messageRule, Instr.post 1 (.k 0) none), (askRule, .ask none 1 (.k 0) 16 false), (makeRule, .asnew (.w 1) (.k 0)),
     (statusRule, .lnack (.v 1) (.k 0)), (commandRule, .ctxkill (.v 1) (.k 0)), (frameRule, .tclr (.v 2) (.k 0) .zero)].all
      (fun p => kernelFails p.1 p.2) = true := by decide

/-- 2.0, 3.0 and -1.0 (R34). -/
theorem test_finite_codes :
    (fpFinite 0x40000000 ∧ fpFinite 0x40400000 ∧ fpFinite 0xBF800000) ∧ 0 < fpVal 0x40000000 ∧ fpVal 0xBF800000 < 0 ∧ fpVal 0 = 0 := by
  have codes : (0x40000000 : Word).toNat = 0x40000000 ∧ (0xBF800000 : Word).toNat = 0xBF800000 ∧ (0 : Word).toNat = 0 := by decide
  refine ⟨⟨by unfold fpFinite; decide, by unfold fpFinite; decide, by unfold fpFinite; decide⟩, ?_, ?_, ?_⟩ <;>
    norm_num [fpVal, codes]


/-! ### Words of the manual's examples (03_encoding, 04, 05, 07, 08, 11, 12, 15, 16, 17) -/

/-- An F word from its fields (R60), with no guard, stall 0 and no wait. -/
def fWord (op dst a b : BitVec 8) (c : BitVec 6) (da db : BitVec 1) (sf : BitVec 4) : DWord :=
  0b00#2 ++ op ++ 7#3 ++ dst ++ a ++ b ++ c ++ da ++ db ++ 0#3 ++ 0#12 ++ sf

/-- An S word from its fields (R73), with no guard, stall 0 and no wait. -/
def sWord (op : BitVec 10) (a b c : BitVec 8) (misc : BitVec 6) (sf : BitVec 4) : DWord :=
  0b11#2 ++ op ++ 7#3 ++ a ++ b ++ c ++ misc ++ 0#3 ++ 0#12 ++ sf

def insOf (w : DWord) : Option Instr := match decode w with | .ok x => some x.i | .error _ => none
def rejectOf (w : DWord) : Option Reject := match decode w with | .ok _ => none | .error r => some r

/-- 03_encoding R61: the example of a guarded, waiting, dead-marked F word, with its control field. -/
theorem test_decode_add :
    decode 0x001808102A8A0095 =
      .ok { i := .add (.v 1) ⟨.v 2, false⟩ ⟨.v 5, true⟩, c := { pr := some 3, st := 2, wm := 0b000000001001, sf := some 5 } } := by decide

theorem test_decode_integer : [fWord 0x06 1 2 3 0x14 0 0 15, fWord 0x24 2 4 3 0x14 0 0 15, fWord 0x26 1 2 3 0x14 0 0 3].map insOf =
    [some (.mulhiN32 (.v 1) (va 2) (va 3)), some (.srl64 (.v 1) (pa 2) (va 3)), some (.divI32 (.v 1) (va 2) (va 3))] := by decide
theorem test_decode_float : [fWord 0x41 1 2 3 0 0 0 15, fWord 0x51 1 2 0x94 0x14 0 0 3, fWord 0x85 1 2 3 0x24 0 0 15].map insOf =
    [some (.fsub (.v 1) (va 2) (va 3) .rne), some (.frsq (.v 1) (va 2)), some (.hfma2F16 (.v 1) (va 2) (va 3) (.v 4))] := by
  decide
theorem test_decode_cvt : insOf 0x293830140020000F = some (.cvtI32F32 (.v 6) (va 2) true .rz) := by decide
theorem test_decode_setp : insOf 0x3038080CA003000F = some (.setpI32 1 (va 1) ⟨.zero, false⟩ .eq) := by decide
theorem test_decode_por : insOf 0x31B818081282000F = some (.por 3 (.pos 1) (.pos 2)) := by decide
theorem test_decode_peers : insOf 0x39F83014A0800001 = some (.peers (.v 6) (va 2) 4) := by decide
theorem test_decode_pair : insOf 0x4092188A1C2C1000 =
    some (.pairedWord false ⟨.add, .v 4, .v 1, .v 2⟩ ⟨.xor, .o 3, .v 1, .s 0⟩) := by decide
theorem test_decode_branch : [0x80200000_00C2000F, 0x80FFFFFFFF40000F].map insOf = [some (.bra 6 0), some (.bra (-6) 0)] := by
  decide
theorem test_decode_memory : [0xC02E100408880003, 0xC1AE00000108000F, 0xC0CF28253D10004F].map insOf =
    [some (.ldB32 (.v 8) (.w 2) (.v 4) (.acquire .cluster)), some (.fence .device .acquire),
     some (.atomAdd none (.w 18) .litLo .device .release)] := by decide
theorem test_decode_capability : insOf 0xD08E06040C00000F = some (.capBound (.w 3) (.w 2) (.v 3)) := by decide
theorem test_decode_copy : [0xD80E080B3C400002, 0xD80E948B3D00000F].map insOf =
    [some (.cpin (.w 4) (.w 5) .lit .team false), some (.cpin (.k 10) (.k 5) .lit .device false)] := by decide
theorem test_decode_team : [0xD91E18000000000F, sWord 0x18A 7 0 0 0 15, sWord 0x1C0 0xC0 2 3 0 15].map insOf =
    [some (.yield 12), some (.tbar 7), some (.sadd 0 (.v 2) (.v 3))] := by decide
theorem test_decode_matrix : [0xE01E040E06800001, 0xE02E028008000002, 0xE02E02953C00000F].map insOf =
    [some (.mbeg 2 7 1 0 (.v 3)), some (.mma 1 (.k 0) (.v 4)), some (.mma 1 (.k 10) .litLo)] := by decide
theorem test_decode_tasks : [0xE80E800000000002, 0xE81E003E0100000F, 0xE82E002529080003].map insOf =
    [some (.spawn 16), some (.tend (some (.w 31)) .device), some (.join (.w 18) .zero .device)] := by decide
theorem test_decode_kernel : [0xF02E108A08880001, 0xF1AE8C813C400043, 0xF1BE288C00000004].map insOf =
    [some (.ask (some 2) 1 (.k 5) 4 true), some (.troyAbs (.k 6) (.k 0) .litLo .team), some (.troyClose (.v 20) (.k 6))] := by decide
theorem test_decode_system : [0xF82E00000000000F, 0xF86E00000000000F, 0xF80E0E000000000F, 0xF81E00000000000F].map insOf =
    [some .exit, some .nop, some (.trap 7), some .bkpt] := by decide

/-! ### Ill-formed words -/

/-- For each check of R59 a word that breaks it and no other: a reserved half opcode; a reserved source; a reserved destination;
a reserved capability; an odd register pair; p7 as a destination; a reserved condition; an unused field; a dead bit on a
selector that names no main register; sf 12; a reserved ordering; a P word both halves of which write v4. -/
theorem test_ill_formed_words_refused :
    [0b01#2 ++ 0#1 ++ 20#5 ++ 4#6 ++ 33#6 ++ 34#6 ++ 0#5 ++ 5#6 ++ 33#6 ++ 34#6 ++ 0#3 ++ 0#12, fWord 0x00 1 0x9A 3 0x14 0 0 15, fWord 0x00 0x90 2 3 0x14 0 0 15, sWord 0x002 8 0x80 4 0 3,
     fWord 0x20 2 3 4 0x14 0 0 15, fWord 0xC8 7 1 0x94 0x14 0 0 15, fWord 0xC0 1 2 3 63 0 0 15, fWord 0x00 1 2 3 0 0 0 15,
     fWord 0x00 1 0x94 3 0x14 1 0 15, fWord 0x00 1 2 3 0x14 0 0 12, sWord 0x01A 0 0 0 0b100101 15,
     0b01#2 ++ 0#1 ++ 0#5 ++ 4#6 ++ 33#6 ++ 34#6 ++ 0#5 ++ 4#6 ++ 33#6 ++ 34#6 ++ 0#3 ++ 0#12].map rejectOf =
    [some .opcode, some .source, some .destination, some .capability, some .pair, some .predicate, some .code, some .unused,
     some .dead, some .flag, some .misc, some .pairing] := by decide

/-- R76: reserved opcodes of the F, B and S blocks. -/
theorem test_reserved_opcodes :
    [fWord 0x2A 1 2 3 0x14 0 0 15, 0x82E000000000000F, sWord 0x01D 1 0x40 2 0 15].map insOf =
      [some .reservedOpcode, some .reservedOpcode, some .reservedOpcode] := by decide

/-- WellFormed refuses an ill-formed term for each of its checks. -/
theorem test_ill_formed_terms_refused :
    [(Instr.add (.v 1) ⟨.zero, true⟩ (va 3)).problem Ctl.none, (Instr.add64 (.v 1) ⟨.lit, true⟩ (pa 3)).problem Ctl.none,
     (Instr.divI32 (.v 1) (va 2) (va 3)).problem Ctl.none, (Instr.bra 6 0).problem flagged,
     (Instr.divI32 .latch (va 2) (va 3)).problem flagged, (Instr.upk (.v 1) (va 2) .bf16 2).problem Ctl.none,
     (Instr.ocfill 10 0 7).problem flagged, (Instr.mbeg 21 0 0 0 (.v 0)).problem flagged,
     (Instr.ldB128 1 (.k 0) .zero (.relaxed true .normal)).problem flagged, (Instr.fence .device .relaxed).problem flagged,
     (Instr.nop).problem { Ctl.none with st := 1 },
     (Instr.pairedWord false ⟨.add, .v 4, .v 1, .v 2⟩ ⟨.xor, .v 4, .v 1, .zero⟩).problem Ctl.none] =
    [some .dead, some .dead, some .flag, some .flag, some .destination, some .code, some .code, some .code, some .misc,
     some .misc, some .unused, some .pairing] := by decide
theorem test_guarded_pair_refused :
    Ins.wf ⟨{ Ctl.none with pr := some 0 }, .pairedWord false ⟨.add, .v 4, .v 1, .v 2⟩ ⟨.xor, .o 3, .v 1, .zero⟩⟩ = false ∧
    Ins.wf ⟨Ctl.none, .pairedWord false ⟨.add, .v 4, .v 1, .v 2⟩ ⟨.xor, .o 3, .v 1, .zero⟩⟩ = true := by decide

/-- EncodeThenDecode: a well-formed word, and a step of the part. -/
theorem test_encoded_word :
    Ins.wf ⟨flagged, .divI32 (.v 1) (va 2) (va 3)⟩ = true ∧ unitStep (.divI32 (.v 1) (va 2) (va 3)) = false ∧
      .divI32 (.v 1) (va 2) (va 3) ∉ outsideSteps ∧ Ins.wf ⟨Ctl.none, .coldReset⟩ = true ∧ .coldReset ∈ outsideSteps := by
  decide

end Sys2Proof.Tests
end

section
namespace Sys2Proof.Machine

open Sys2Proof

/-! ### One register write (R20, R21, R25-R27, R32) -/

theorem flagAt_set_self {l : List Bool} {n : Nat} (h : n < l.length) (b : Bool) : flagAt (l.set n b) n = b := by
  simp [flagAt, h]

theorem flagAt_set_ne (l : List Bool) {n m : Nat} (b : Bool) (h : m ≠ n) : flagAt (l.set n b) m = flagAt l m :=
  getD_set_ne l b false h

theorem Thread.rdV_wrV_self {t : Thread} {n : Nat} (h : n < t.v.length) (w : Word) : (t.wrV n w).rdV n = w := by
  simp [Thread.rdV, Thread.wrV, h]

theorem Thread.rdV_wrV_ne (t : Thread) {n k : Nat} (w : Word) (h : k ≠ n) : (t.wrV n w).rdV k = t.rdV k :=
  getD_set_ne t.v w 0 h

/-- R20: a write of one register leaves every other quad, value and tag. -/
theorem Thread.quad_wrV_ne (t : Thread) {n m : Nat} (w : Word) (h : m ≠ n / 4) : (t.wrV n w).quad m = t.quad m := by
  have tag : flagAt (t.wrV n w).vtag m = flagAt t.vtag m := flagAt_set_ne t.vtag false h
  simp only [Thread.quad, tag, t.rdV_wrV_ne w (show 4 * m ≠ n by omega), t.rdV_wrV_ne w (show 4 * m + 1 ≠ n by omega),
    t.rdV_wrV_ne w (show 4 * m + 2 ≠ n by omega), t.rdV_wrV_ne w (show 4 * m + 3 ≠ n by omega)]

/-- The four words of a quad, joined again. -/
theorem quadWords_join (b : BitVec 128) :
    b.extractLsb' 96 32 ++ b.extractLsb' 64 32 ++ b.extractLsb' 32 32 ++ b.extractLsb' 0 32 = b := by
  ext i hi
  simp only [BitVec.getElem_append, BitVec.getElem_extractLsb']
  split_ifs
  all_goals (rw [← BitVec.getLsbD_eq_getElem]; congr 1; omega)

theorem Thread.rdV_wrQuad_self {t : Thread} {m j : Nat} (h : 4 * m + 3 < t.v.length) (c : Cap) (hj : j < 4) :
    (t.wrQuad m c).rdV (4 * m + j) = c.bits.extractLsb' (32 * j) 32 := by
  have hm : 4 * m + j < t.v.length := by omega
  have h0 : 4 * m < t.v.length := by omega
  interval_cases j <;> simp [Thread.rdV, Thread.wrQuad, Thread.wrV, h0, hm]

theorem Thread.quad_wrQuad_self {t : Thread} {m : Nat} (h : 4 * m + 3 < t.v.length) (ht : m < t.vtag.length) (c : Cap) :
    (t.wrQuad m c).quad m = c := by
  have tag : flagAt (t.wrQuad m c).vtag m = c.tag := flagAt_set_self (by simpa [Thread.wrV] using ht) c.tag
  have word := fun j => Thread.rdV_wrQuad_self (j := j) h c
  calc (t.wrQuad m c).quad m
      = ⟨c.bits.extractLsb' 96 32 ++ c.bits.extractLsb' 64 32 ++ c.bits.extractLsb' 32 32 ++ c.bits.extractLsb' 0 32, c.tag⟩ := by
        unfold Thread.quad
        rw [tag, word 3 (by omega), word 2 (by omega), word 1 (by omega), ← Nat.add_zero (4 * m), word 0 (by omega)]
    _ = c := by rw [quadWords_join]

/-- R20: a quad's write leaves every other quad. -/
theorem Thread.quad_wrQuad_ne (t : Thread) {m j : Nat} (c : Cap) (h : j ≠ m) : (t.wrQuad m c).quad j = t.quad j := by
  have tags : ∀ k : Thread, ({ k with vtag := k.vtag.set m c.tag } : Thread).quad j = k.quad j := fun k => by
    simp only [Thread.quad, flagAt_set_ne k.vtag c.tag h]
    rfl
  unfold Thread.wrQuad
  rw [tags, Thread.quad_wrV_ne _ _ (by omega), Thread.quad_wrV_ne _ _ (by omega), Thread.quad_wrV_ne _ _ (by omega),
    Thread.quad_wrV_ne _ _ (by omega)]

/-- R256: the pair of index registers that a frame write sets, and the other registers of the file. -/
theorem getElem?_set_pair {α : Type} {l : List α} {k : Nat} (h : 2 * k + 1 < l.length) (a b : α) :
    ((l.set (2 * k) a).set (2 * k + 1) b)[2 * k]? = some a ∧ ((l.set (2 * k) a).set (2 * k + 1) b)[2 * k + 1]? = some b ∧
      ∀ j, j / 2 ≠ k → ((l.set (2 * k) a).set (2 * k + 1) b)[j]? = l[j]? := by
  refine ⟨?_, ?_, fun j hj => ?_⟩
  · rw [List.getElem?_set_ne (by omega), List.getElem?_set_self (by omega)]
  · rw [List.getElem?_set_self (by simpa using h)]
  · rw [List.getElem?_set_ne (by omega), List.getElem?_set_ne (by omega)]

/-- Settles O58, one kind of register after the other, by the laws of list updates. -/
theorem registerWrites : Obligations.RegisterWrites := by
  unfold Obligations.RegisterWrites
  refine ⟨?data, ?quad, ?cache, ?pred, ?index, ?fps, ?frameFps, ?frameIndex, ?group⟩
  case data =>
    intro t n w h
    exact ⟨rfl, Thread.rdV_wrV_self h w, fun k hk => t.rdV_wrV_ne w hk, flagAt_set_false t.vtag (n / 4),
      fun m hm => t.quad_wrV_ne w hm⟩
  case quad =>
    intro t m c h ht
    exact ⟨rfl, Thread.quad_wrQuad_self h ht c, fun j hj => t.quad_wrQuad_ne c hj⟩
  case cache =>
    intro t n w h hv
    refine ⟨rfl, List.getElem?_set_self h, List.getElem?_set_self (hv ▸ h), fun k hk => ⟨?_, ?_⟩⟩
    · exact List.getElem?_set_ne (Ne.symm hk)
    · exact List.getElem?_set_ne (Ne.symm hk)
  case pred =>
    intro t n b h
    exact ⟨rfl, flagAt_set_self (by omega) b, fun k hk => flagAt_set_ne t.p b hk⟩
  case index =>
    intro t k w h
    exact ⟨rfl, List.getElem?_set_self (by omega), fun j hj => List.getElem?_set_ne (Ne.symm hj)⟩
  case fps => exact fun t w => ⟨rfl, rfl⟩
  case frameFps => exact fun t w => ⟨_, rfl, rfl, rfl⟩
  case frameIndex =>
    intro t w k h hk
    have set : t.setItem (6 + k) w = some { t with
        x := (t.x.set (2 * k) (w.extractLsb' 0 16 &&& 0xFF7F#16)).set (2 * k + 1) (w.extractLsb' 16 16 &&& 0xFF7F#16),
        held := (w.extractLsb' 16 16 &&& 0xFF7F#16).zeroExtend 32 :: (w.extractLsb' 0 16 &&& 0xFF7F#16).zeroExtend 32 :: t.held } := by
      interval_cases k <;> rfl
    obtain ⟨lo, hi, rest⟩ := getElem?_set_pair (l := t.x) (k := k) (by omega) (w.extractLsb' 0 16 &&& 0xFF7F#16)
      (w.extractLsb' 16 16 &&& 0xFF7F#16)
    exact ⟨_, set, rfl, lo, hi, rest⟩
  case group =>
    intro g lane n w c h
    exact ⟨rfl, List.getElem?_set_self h, fun k hk => List.getElem?_set_ne (Ne.symm hk), fun hn =>
      ⟨rfl, List.getElem?_set_self hn, fun j hj => List.getElem?_set_ne (Ne.symm hj)⟩⟩

end Sys2Proof.Machine
end

section
/-! SUPPORT. What a step does to one team, to one group of it and to one thread, said once, for the claims about steps. -/

namespace Sys2Proof.Machine

open Sys2Proof

/-! ### Steps, one team, one group -/

theorem happens_enabled {e : Instr} {s t : State} {o : Option State} {P : State → Prop} (he : exec e s = enabled s o)
    (ho : o = some t) (h : P t) : Happens e s P :=
  ⟨t, by rw [he, ho]; rfl, h⟩

theorem when_true {c : Bool} (h : c = true) (t : State) : when_ c t = some t := by simp [when_, h]

theorem State.evTeam_look {s : State} {id : Nat} {t : Team} (h : s.evTeam = some (id, t)) : s.teams.look id = some t := by
  unfold State.evTeam State.onCore at h
  obtain ⟨n, -, hn⟩ := Option.bind_eq_some_iff.1 h
  obtain ⟨u, hu, e⟩ := Option.map_eq_some_iff.1 hn
  cases e
  exact hu

theorem NMap.mem_of_look {α : Type} {m : NMap α} {n : Nat} {a : α} (h : m.look n = some a) : (n, a) ∈ m := by
  induction m with
  | nil => cases h
  | cons p r ih =>
    obtain ⟨k, b⟩ := p
    unfold NMap.look at h
    split_ifs at h with e
    · cases h; rw [e]; exact List.mem_cons_self
    · exact List.mem_cons_of_mem _ (ih h)

theorem OnlyTeam.refl {s : State} {id : Nat} {t : Team} (h : s.teams.look id = some t) : OnlyTeam s id t s :=
  ⟨rfl, fun _ _ => rfl, h⟩

theorem OnlyTeam.upTeam {s s' : State} {id : Nat} {u : Team} (h : OnlyTeam s id u s') (f : Team → Team) :
    OnlyTeam s id (f u) (s'.upTeam id f) where
  rest := by rw [h.rest]; rfl
  others := fun n hn => (NMap.look_upd_ne _ _ hn).trans (h.others n hn)
  team := by rw [State.upTeam_teams, NMap.look_upd, h.team, Option.map_some]

theorem OnlyTeam.withDraws {s s' : State} {id : Nat} {u : Team} (h : OnlyTeam s id u s') (d : Nat) :
    OnlyTeam s id u { s' with draws := d } where
  rest := by rw [h.rest]
  others := h.others
  team := h.team

theorem OnlyGroup.upGroup {t : Team} {g : Nat} {h : Group} (e : t.groups[g]? = some h) (f : Group → Group) :
    OnlyGroup t g (f h) (t.upGroup g f) where
  rest := rfl
  others := fun j hj => by simp [Team.upGroup, Ne.symm hj]
  group := by simp [Team.upGroup, e]

theorem Group.mapped_mapThreads (g : Group) (f : Thread → Thread) : g.Mapped f (g.mapThreads fun _ => f) :=
  ⟨rfl, fun l => NMap.look_mapv g.threads (fun _ => f) l⟩

/-- A step that changes one group of the team that it names. -/
theorem State.upGroup_only {s : State} {id g : Nat} {t : Team} {h : Group} (ht : s.teams.look id = some t)
    (hg : t.groups[g]? = some h) (f : Group → Group) :
    OnlyTeam s id (t.upGroup g f) (s.upGroup id g f) ∧ OnlyGroup t g (f h) (t.upGroup g f) :=
  ⟨(OnlyTeam.refl ht).upTeam (·.upGroup g f), .upGroup hg f⟩

end Sys2Proof.Machine
end

section
/-! SUPPORT. The PC table, the queue and the PCC table (R13, R162-R166): housing a lane and displacing an entry keep every lane's
standing. -/

namespace Sys2Proof.Machine

open Sys2Proof

/-! ### The queue and the entries -/

theorem mem_addNum {l : List Nat} {n x : Nat} : x ∈ addNum l n ↔ x = n ∨ x ∈ l := by
  induction l with
  | nil => simp [addNum]
  | cons k r ih =>
    unfold addNum
    split_ifs with h1 h2
    · simp
    · subst h2; simp
    · simp only [List.mem_cons, ih]; tauto

theorem mem_delNum {l : List Nat} {n x : Nat} : x ∈ delNum l n ↔ x ∈ l ∧ x ≠ n := by
  simp [delNum]

theorem mem_insertBy {key : Nat → Nat} {n x : Nat} {l : List Nat} : x ∈ insertBy key n l ↔ x = n ∨ x ∈ l := by
  induction l with
  | nil => simp [insertBy]
  | cons k r ih =>
    unfold insertBy
    split_ifs
    · simp
    · simp only [List.mem_cons, ih]; tauto

theorem Group.mem_line_enqueue {g : Group} {l m : Nat} : m ∈ (g.enqueue l).line ↔ m = l ∨ m ∈ g.line := by
  simp only [Group.enqueue, Group.line, Group.leaveLine, List.mem_append, mem_insertBy, mem_delNum]
  by_cases h : m = l <;> simp [h]

theorem Group.line_leaveLine (g : Group) (l : Nat) : (g.leaveLine l).line = delNum g.line l := by
  simp [Group.leaveLine, Group.line, delNum]

/-- Some entry of the table holds the lane. -/
def Group.housed (g : Group) (l : Nat) : Prop := ∃ (i : Nat) (e : PcEntry), g.pct[i]? = some (some e) ∧ l ∈ e.mask

theorem Group.stands_iff {g : Group} {l : Nat} : g.stands l ↔ l ∈ g.line ∨ g.housed l := by
  refine or_congr_right ⟨fun ⟨e, he, hl⟩ => ?_, fun ⟨i, e, he, hl⟩ => ⟨e, List.mem_of_getElem? he, hl⟩⟩
  obtain ⟨i, hi⟩ := List.mem_iff_getElem?.1 he
  exact ⟨i, e, hi, hl⟩

/-- The keys of the entries, in table order. -/
def Group.keys (g : Group) : List (Option (Nat × DWord)) := g.pct.map (Option.map fun e => (e.pccx, e.pc))

theorem Group.entryOf_keys (g : Group) (pccx : Nat) (pc : DWord) :
    g.entryOf pccx pc = g.keys.findIdx? fun k => match k with | some k => k.1 == pccx && k.2 == pc | none => false := by
  unfold Group.entryOf Group.keys
  rw [List.findIdx?_map]
  congr 1
  funext e
  cases e <;> rfl

theorem Group.isNone_keys (g : Group) : g.pct.any (·.isNone) = g.keys.any (·.isNone) := by
  unfold Group.keys
  rw [List.any_map]
  congr 1
  funext e
  cases e <;> rfl

/-- `h` is `g` with its entries and its queue arranged anew. -/
def Group.Arranged (g h : Group) : Prop := h = { g with pct := h.pct, queue := h.queue, joining := h.joining }

theorem Group.Arranged.refl (g : Group) : g.Arranged g := rfl

theorem Group.Arranged.trans {a b c : Group} (h : a.Arranged b) (k : b.Arranged c) : a.Arranged c := by
  unfold Group.Arranged at *
  rw [k, h]

theorem Group.Arranged.threads {g h : Group} (a : g.Arranged h) : h.threads = g.threads := by
  rw [a]

theorem Group.Arranged.crowd {g h : Group} (a : g.Arranged h) : h.crowd = g.crowd := by
  rw [a]

theorem Group.arranged_enqueue (g : Group) (l : Nat) : g.Arranged (g.enqueue l) := rfl

theorem Group.arranged_leaveLine (g : Group) (l : Nat) : g.Arranged (g.leaveLine l) := rfl

theorem Group.stands_enqueue {g : Group} {l m : Nat} : (g.enqueue l).stands m ↔ m = l ∨ g.stands m := by
  unfold Group.stands
  rw [Group.mem_line_enqueue, or_assoc]
  rfl

theorem Group.stands_leaveLine {g : Group} {l m : Nat} (h : (g.leaveLine l).stands m) : g.stands m := by
  refine h.imp (fun hm => ?_) id
  rw [Group.line_leaveLine] at hm
  exact (mem_delNum.1 hm).1

theorem Group.stands_of_leaveLine {g : Group} {l m : Nat} (hm : m ≠ l) (h : g.stands m) : (g.leaveLine l).stands m := by
  refine h.imp (fun hl => ?_) id
  rw [Group.line_leaveLine]
  exact mem_delNum.2 ⟨hl, hm⟩

/-- A lane joins the entry at an index. -/
def Group.joinEntry (g : Group) (i l : Nat) : Group :=
  { g with pct := g.pct.modify i fun e => e.map fun e => { e with mask := addNum e.mask l } }

theorem Group.keys_joinEntry (g : Group) (i l : Nat) : (g.joinEntry i l).keys = g.keys := by
  unfold Group.keys Group.joinEntry
  apply List.ext_getElem?
  intro j
  simp only [List.getElem?_map, List.getElem?_modify]
  cases g.pct[j]? with
  | none => rfl
  | some e => by_cases h : i = j <;> cases e <;> simp [h]

theorem Group.getElem?_joinEntry (g : Group) (i l j : Nat) : (g.joinEntry i l).pct[j]? =
    if i = j then (g.pct[j]?).map (Option.map fun e => { e with mask := addNum e.mask l }) else g.pct[j]? := by
  unfold Group.joinEntry
  rw [List.getElem?_modify]
  split_ifs <;> simp

theorem Group.housed_joinEntry {g : Group} {i l m : Nat} {e : PcEntry} (h : g.pct[i]? = some (some e)) :
    (g.joinEntry i l).housed m ↔ m = l ∨ g.housed m := by
  have joined : (g.joinEntry i l).pct[i]? = some (some { e with mask := addNum e.mask l }) := by
    rw [Group.getElem?_joinEntry, if_pos rfl, h]; rfl
  have other : ∀ j, i ≠ j → (g.joinEntry i l).pct[j]? = g.pct[j]? := fun j c => by
    rw [Group.getElem?_joinEntry, if_neg c]
  constructor
  · rintro ⟨j, x, hj, hm⟩
    by_cases c : i = j
    · subst c
      rw [joined] at hj
      cases hj
      exact (mem_addNum.1 hm).imp_right fun hm => ⟨i, e, h, hm⟩
    · exact .inr ⟨j, x, (other j c).symm.trans hj, hm⟩
  · rintro (rfl | ⟨j, x, hj, hm⟩)
    · exact ⟨i, _, joined, mem_addNum.2 (.inl rfl)⟩
    · by_cases c : i = j
      · subst c
        rw [h] at hj
        cases hj
        exact ⟨i, _, joined, mem_addNum.2 (.inr hm)⟩
      · exact ⟨j, x, (other j c).trans hj, hm⟩

theorem Group.entryOf_some {g : Group} {pccx i : Nat} {pc : DWord} (h : g.entryOf pccx pc = some i) :
    ∃ e, g.pct[i]? = some (some e) := by
  obtain ⟨hi, hp, -⟩ := List.findIdx?_eq_some_iff_getElem.1 h
  cases he : g.pct[i] with
  | none => rw [he] at hp; cases hp
  | some e => exact ⟨e, by rw [List.getElem?_eq_getElem hi, he]⟩

theorem Group.housed_setFree {g : Group} {i l m pccx n : Nat} {pc : DWord} (h : g.pct.findIdx? (·.isNone) = some i) :
    ({ g with pct := g.pct.set i (some ⟨pccx, pc, [l], n⟩) } : Group).housed m ↔ m = l ∨ g.housed m := by
  obtain ⟨hi, hp, -⟩ := List.findIdx?_eq_some_iff_getElem.1 h
  have set := List.getElem?_set_self (a := some (⟨pccx, pc, [l], n⟩ : PcEntry)) hi
  have other : ∀ j, i ≠ j → (g.pct.set i (some (⟨pccx, pc, [l], n⟩ : PcEntry)))[j]? = g.pct[j]? := fun j c =>
    List.getElem?_set_ne c
  constructor
  · rintro ⟨j, x, hj, hm⟩
    by_cases c : i = j
    · subst c
      cases set.symm.trans hj
      exact .inl (List.mem_singleton.1 hm)
    · exact .inr ⟨j, x, (other j c).symm.trans hj, hm⟩
  · rintro (rfl | ⟨j, x, hj, hm⟩)
    · exact ⟨i, _, set, List.mem_singleton.2 rfl⟩
    · refine ⟨j, x, (other j ?_).trans hj, hm⟩
      rintro rfl
      rw [List.getElem?_eq_getElem hi] at hj
      rw [Option.some.inj hj] at hp
      cases hp

/-- R164: what housing a lane gives: it stands, whichever way it is housed, and every other lane stands as before. -/
theorem Group.stands_house {g : Group} {l m pccx : Nat} {pc : DWord} : (g.house l pccx pc).stands m ↔ m = l ∨ g.stands m := by
  have entry : ∀ h : Group, h.line = g.line → (h.housed m ↔ m = l ∨ g.housed m) → (h.stands m ↔ m = l ∨ g.stands m) := by
    intro h hl hh
    rw [Group.stands_iff, Group.stands_iff, hl, hh]
    tauto
  unfold Group.house
  split
  · rename_i i hi
    obtain ⟨e, he⟩ := Group.entryOf_some hi
    exact entry _ rfl (Group.housed_joinEntry he)
  · split
    · rename_i i hi
      exact entry _ rfl (Group.housed_setFree hi)
    · exact Group.stands_enqueue

theorem Group.arranged_house (g : Group) (l pccx : Nat) (pc : DWord) : g.Arranged (g.house l pccx pc) := by
  unfold Group.house
  split
  · rfl
  · split <;> rfl

theorem Group.line_house_of_entry {g : Group} {l pccx : Nat} {pc : DWord} (h : (g.entryOf pccx pc).isSome = true) :
    (g.house l pccx pc).line = g.line ∧ (g.house l pccx pc).keys = g.keys := by
  obtain ⟨i, hi⟩ := Option.isSome_iff_exists.1 h
  unfold Group.house
  rw [hi]
  exact ⟨rfl, Group.keys_joinEntry g i l⟩

theorem Group.line_house_of_free {g : Group} {l pccx : Nat} {pc : DWord} (h : g.pct.any (·.isNone) = true) :
    (g.house l pccx pc).line = g.line := by
  unfold Group.house
  split
  · rfl
  · split
    · rfl
    · rename_i hn
      rw [List.findIdx?_eq_none_iff] at hn
      obtain ⟨e, he, hi⟩ := List.any_eq_true.1 h
      rw [hn e he] at hi
      cases hi

/-! ### Housing the queue (R165) -/

/-- R165 step 1: the lane has its PCC entry, and an entry has its key. -/
def Group.joins (g : Group) (l : Nat) : Bool :=
  match g.threads.look l with
  | some t => t.wantsPcc.isNone && (g.entryOf t.pccx t.pc).isSome
  | none => false

/-- R165 step 1 for one queued lane. -/
def Group.joinOne (g : Group) (l : Nat) : Group :=
  match g.threads.look l with
  | some t => if t.wantsPcc.isNone && (g.entryOf t.pccx t.pc).isSome then (g.leaveLine l).house l t.pccx t.pc else g
  | none => g

theorem Group.joinOne_cases (g : Group) (l : Nat) :
    (g.joins l = false ∧ g.joinOne l = g) ∨
    ∃ t : Thread, g.joins l = true ∧ (g.entryOf t.pccx t.pc).isSome = true ∧ g.joinOne l = (g.leaveLine l).house l t.pccx t.pc := by
  unfold Group.joins Group.joinOne
  cases g.threads.look l with
  | none => exact .inl ⟨rfl, rfl⟩
  | some t =>
    cases h : t.wantsPcc.isNone && (g.entryOf t.pccx t.pc).isSome with
    | false => exact .inl ⟨h, by simp [h]⟩
    | true => exact .inr ⟨t, h, (Bool.and_eq_true_iff.1 h).2, by simp [h]⟩

theorem Group.arranged_joinOne (g : Group) (l : Nat) : g.Arranged (g.joinOne l) := by
  rcases g.joinOne_cases l with ⟨-, e⟩ | ⟨t, -, -, e⟩
  · rw [e]; exact .refl g
  · rw [e]; exact (g.arranged_leaveLine l).trans (Group.arranged_house _ _ _ _)

theorem Group.keys_joinOne (g : Group) (l : Nat) : (g.joinOne l).keys = g.keys := by
  rcases g.joinOne_cases l with ⟨-, e⟩ | ⟨t, -, ht, e⟩
  · rw [e]
  · rw [e]; exact (Group.line_house_of_entry (g := g.leaveLine l) ht).2

theorem Group.stands_joinOne {g : Group} {l m : Nat} (h : g.stands l) : (g.joinOne l).stands m ↔ g.stands m := by
  rcases g.joinOne_cases l with ⟨-, e⟩ | ⟨t, -, -, e⟩
  · rw [e]
  · rw [e, Group.stands_house]
    constructor
    · rintro (rfl | hm)
      · exact h
      · exact Group.stands_leaveLine hm
    · intro hm
      by_cases c : m = l
      · exact .inl c
      · exact .inr (Group.stands_of_leaveLine c hm)

theorem Group.line_joinOne (g : Group) (l : Nat) :
    (g.joinOne l).line = g.line.filter fun m => !(m == l && g.joins m) := by
  rcases g.joinOne_cases l with ⟨hj, e⟩ | ⟨t, hj, ht, e⟩
  · rw [e]
    refine (List.filter_eq_self.2 fun m _ => ?_).symm
    by_cases c : m = l
    · rw [c, hj]; simp
    · simp [c]
  · rw [e, (Group.line_house_of_entry (g := g.leaveLine l) ht).1, Group.line_leaveLine, delNum]
    refine List.filter_congr fun m _ => ?_
    by_cases c : m = l
    · rw [c, hj]; simp
    · simp [bne, beq_eq_false_iff_ne.2 c]

theorem Group.joins_congr {g h : Group} (a : g.Arranged h) (k : h.keys = g.keys) : h.joins = g.joins := by
  funext l
  unfold Group.joins
  rw [a.threads]
  simp only [Group.entryOf_keys, k]

/-- R165 step 1 for a list of lanes that stand. -/
theorem Group.foldl_joinOne (ls : List Nat) (g : Group) (hs : ∀ l ∈ ls, g.stands l) :
    let h := ls.foldl Group.joinOne g
    g.Arranged h ∧ h.keys = g.keys ∧ (∀ m, h.stands m ↔ g.stands m) ∧
      h.line = g.line.filter fun m => !(ls.contains m && g.joins m) := by
  induction ls generalizing g with
  | nil => exact ⟨.refl g, rfl, fun _ => .rfl, by simp⟩
  | cons l r ih =>
    have stands : ∀ m, (g.joinOne l).stands m ↔ g.stands m := fun m => Group.stands_joinOne (hs l (by simp))
    obtain ⟨a, k, s, e⟩ := ih (g.joinOne l) fun x hx => (stands x).2 (hs x (by simp [hx]))
    refine ⟨(g.arranged_joinOne l).trans a, k.trans (g.keys_joinOne l), fun m => (s m).trans (stands m), e.trans ?_⟩
    rw [Group.line_joinOne, List.filter_filter, Group.joins_congr (g.arranged_joinOne l) (g.keys_joinOne l)]
    refine List.filter_congr fun m _ => ?_
    by_cases c : m = l <;> cases g.joins m <;> simp [c]

theorem Group.joinLine_spec (g : Group) :
    g.Arranged g.joinLine ∧ g.joinLine.keys = g.keys ∧ (∀ m, g.joinLine.stands m ↔ g.stands m) ∧
      g.joinLine.line = g.line.filter fun m => !g.joins m := by
  obtain ⟨a, k, s, e⟩ := Group.foldl_joinOne g.line g fun l hl => .inl hl
  refine ⟨a, k, s, e.trans (List.filter_congr fun m hm => ?_)⟩
  simp [hm]

theorem Group.eligible_some {g : Group} {l : Nat} (h : g.eligible = some l) :
    l ∈ g.line ∧ ∃ t, g.threads.look l = some t ∧ t.wantsPcc.isNone = true := by
  refine ⟨List.mem_of_find?_eq_some h, ?_⟩
  have := List.find?_some h
  cases ht : g.threads.look l with
  | none => rw [ht] at this; cases this
  | some t => rw [ht] at this; exact ⟨t, rfl, this⟩

/-- What R165 does to a queue: nothing more than its first step, or an entry that was free takes its first eligible lane. -/
theorem Group.houseQueue_cases (g : Group) :
    (g.houseQueue = g.joinLine ∧ (g.joinLine.eligible = none ∨ g.joinLine.pct.any (·.isNone) = false)) ∨
    ∃ (l : Nat) (t : Thread), l ∈ g.joinLine.line ∧ g.joinLine.pct.any (·.isNone) = true ∧
      g.houseQueue = ((g.joinLine.leaveLine l).house l t.pccx t.pc).joinLine := by
  unfold Group.houseQueue
  dsimp only
  cases he : g.joinLine.eligible with
  | none => exact .inl ⟨rfl, .inl rfl⟩
  | some l =>
    obtain ⟨hl, t, ht, -⟩ := Group.eligible_some he
    simp only [ht]
    cases hf : g.joinLine.pct.any (·.isNone) with
    | false => exact .inl ⟨by simp, .inr rfl⟩
    | true => exact .inr ⟨l, t, hl, rfl, by simp⟩

theorem Group.houseQueue_spec (g : Group) : g.Arranged g.houseQueue ∧ ∀ m, g.houseQueue.stands m ↔ g.stands m := by
  obtain ⟨a, -, s, -⟩ := g.joinLine_spec
  rcases g.houseQueue_cases with ⟨e, -⟩ | ⟨l, t, hl, -, e⟩
  · rw [e]; exact ⟨a, s⟩
  · obtain ⟨a2, -, s2, -⟩ := ((g.joinLine.leaveLine l).house l t.pccx t.pc).joinLine_spec
    rw [e]
    refine ⟨a.trans (((Group.arranged_leaveLine _ l).trans (Group.arranged_house _ _ _ _)).trans a2), fun m => ?_⟩
    rw [s2, Group.stands_house, ← s]
    constructor
    · rintro (rfl | hm)
      · exact .inl hl
      · exact Group.stands_leaveLine hm
    · intro hm
      by_cases c : m = l
      · exact .inl c
      · exact .inr (Group.stands_of_leaveLine c hm)

/-- R165: where some queued lane can be housed, the queue gets shorter. -/
theorem Group.houseQueue_shortens {g : Group} (h : g.canHouse = true) : g.houseQueue.line.length < g.line.length := by
  obtain ⟨a, k, -, e⟩ := g.joinLine_spec
  have free : g.joinLine.pct.any (·.isNone) = g.pct.any (·.isNone) := by rw [Group.isNone_keys, Group.isNone_keys, k]
  have le : g.joinLine.line.length ≤ g.line.length := by rw [e]; exact List.length_filter_le _ _
  have lt : ∀ l ∈ g.line, g.joins l = true → g.joinLine.line.length < g.line.length := fun l hl hj => by
    rw [e]
    exact List.length_filter_lt_length_iff_exists.2 ⟨l, hl, by simp [hj]⟩
  rcases g.houseQueue_cases with ⟨e1, hn⟩ | ⟨l, t, hl, hf, e1⟩
  · rw [e1]
    rcases Bool.or_eq_true_iff.1 h with hc | hc
    · obtain ⟨hp, he⟩ := Bool.and_eq_true_iff.1 hc
      obtain ⟨l, hl⟩ := Option.isSome_iff_exists.1 he
      obtain ⟨hm, t, ht, hw⟩ := Group.eligible_some hl
      rcases hn with hn | hn
      · refine lt l hm ?_
        by_contra c
        have still : l ∈ g.joinLine.line := by rw [e]; exact List.mem_filter.2 ⟨hm, by simpa using c⟩
        have := List.find?_eq_none.1 hn l still
        rw [a.threads, ht] at this
        exact this hw
      · rw [free, hp] at hn
        cases hn
    · obtain ⟨l, hl, hj⟩ := List.any_eq_true.1 hc
      exact lt l hl hj
  · rw [e1]
    calc ((g.joinLine.leaveLine l).house l t.pccx t.pc).joinLine.line.length
        ≤ ((g.joinLine.leaveLine l).house l t.pccx t.pc).line.length := by
          rw [(Group.joinLine_spec _).2.2.2]; exact List.length_filter_le _ _
      _ = (delNum g.joinLine.line l).length := by rw [Group.line_house_of_free (g := g.joinLine.leaveLine l) hf, Group.line_leaveLine]
      _ < g.joinLine.line.length := List.length_filter_lt_length_iff_exists.2 ⟨l, hl, by simp⟩
      _ ≤ g.line.length := le

/-! ### Displacing an entry (R166) -/

theorem Group.oldestEntry_some {g : Group} {i : Nat} {e : PcEntry} (h : g.oldestEntry = some (i, e)) :
    g.pct[i]? = some (some e) := by
  obtain ⟨⟨x, j⟩, hx, he⟩ := List.mem_filterMap.1 (List.mem_of_find?_eq_some h)
  obtain ⟨y, rfl, hy⟩ := Option.map_eq_some_iff.1 he
  cases hy
  exact List.mem_zipIdx_iff_getElem?.1 hx

/-- R164: where an entry frees, its lanes alone lose their standing in the table. -/
theorem Group.freeEntry_spec {g : Group} {i : Nat} {e : PcEntry} (h : g.pct[i]? = some (some e)) :
    g.freeEntry i = { g with pct := (g.freeEntry i).pct, crowd := 0 } ∧
      ∀ m, (g.freeEntry i).stands m ∨ m ∈ e.mask ↔ g.stands m := by
  have hd : g.pct.getD i none = some e := by rw [List.getD_eq_getElem?_getD, h]; rfl
  have freed : g.freeEntry i = { g with
      pct := (g.pct.set i none).map (Option.map fun (y : PcEntry) => if e.order < y.order then { y with order := y.order - 1 } else y),
      crowd := 0 } := by
    unfold Group.freeEntry
    rw [hd]
  have masks : ∀ y : PcEntry, (if e.order < y.order then { y with order := y.order - 1 } else y).mask = y.mask := fun y => by
    split_ifs <;> rfl
  have at_ : ∀ j, (g.freeEntry i).pct[j]? = (if i = j then some none else g.pct[j]?).map
      (Option.map fun (y : PcEntry) => if e.order < y.order then { y with order := y.order - 1 } else y) := fun j => by
    rw [freed, List.getElem?_map, List.getElem?_set]
    by_cases c : i = j
    · subst c
      simp [(List.getElem?_eq_some_iff.1 h).1]
    · simp [c]
  have line : (g.freeEntry i).line = g.line := by rw [freed]; rfl
  refine ⟨by rw [freed], fun m => ?_⟩
  rw [Group.stands_iff, Group.stands_iff, line, or_assoc]
  refine or_congr_right ⟨?_, ?_⟩
  · rintro (⟨j, x, hj, hm⟩ | hm)
    · rw [at_] at hj
      by_cases c : i = j
      · simp [c] at hj
      · rw [if_neg c] at hj
        obtain ⟨z, hz, hy⟩ := Option.map_eq_some_iff.1 hj
        obtain ⟨y, rfl, rfl⟩ := Option.map_eq_some_iff.1 hy
        exact ⟨j, y, hz, by rwa [masks] at hm⟩
    · exact ⟨i, e, h, hm⟩
  · rintro ⟨j, x, hj, hm⟩
    by_cases c : i = j
    · subst c
      rw [h] at hj
      cases hj
      exact .inr hm
    · exact .inl ⟨j, _, by rw [at_, if_neg c, hj]; rfl, by rwa [masks]⟩

theorem Group.foldl_enqueue (ls : List Nat) (g : Group) :
    g.Arranged (ls.foldl Group.enqueue g) ∧ ∀ m, (ls.foldl Group.enqueue g).stands m ↔ g.stands m ∨ m ∈ ls := by
  induction ls generalizing g with
  | nil => exact ⟨.refl g, by simp⟩
  | cons l r ih =>
    obtain ⟨a, s⟩ := ih (g.enqueue l)
    refine ⟨(g.arranged_enqueue l).trans a, fun m => (s m).trans ?_⟩
    rw [Group.stands_enqueue, List.mem_cons]
    tauto

/-- R166: a displacement keeps every lane's standing, and the count restarts. -/
theorem Group.displace_spec (g : Group) : g.Rehoused g.displace ∧ g.displace.crowd = 0 := by
  unfold Group.displace
  split
  · exact ⟨⟨rfl, fun _ => .rfl⟩, rfl⟩
  · rename_i i e he
    obtain ⟨fr, fs⟩ := Group.freeEntry_spec (Group.oldestEntry_some he)
    obtain ⟨qa, qs⟩ := Group.foldl_enqueue e.mask (g.freeEntry i)
    obtain ⟨ha, hs⟩ := ({ e.mask.foldl Group.enqueue (g.freeEntry i) with crowd := 0 } : Group).houseQueue_spec
    refine ⟨⟨?_, fun m => ?_⟩, ha.crowd⟩
    · unfold Group.Arranged at ha qa
      rw [ha, qa, fr]
    · exact (hs m).trans ((qs m).trans (fs m))

/-! ### PCC-table entries (R13) -/

theorem Group.look_pccGive (g : Group) (lane i : Nat) (c : Cap) (l : Nat) : (g.pccGive lane c i).threads.look l =
    (g.threads.look l).map fun t => if l = lane then { t with pccx := i, want := none, backed := none } else t :=
  NMap.look_upd_if g.threads lane l _

/-- R13: the entry that a thread takes holds its capability: a thread uses it. -/
theorem Group.pccGive_holds {g : Group} {lane i : Nat} {c : Cap} {t : Thread} (ht : g.threads.look lane = some t)
    (hi : i < g.pcc.length) : (g.pccGive lane c i).pcc[i]? = some (some c) := by
  have used : lane ∈ ({ g with pcc := g.pcc.set i (some c) }.upThread lane fun t =>
      { t with pccx := i, want := none, backed := none }).pccUsers i := by
    refine List.mem_map.2 ⟨(lane, { t with pccx := i, want := none, backed := none }), List.mem_filter.2 ⟨?_, by simp⟩, rfl⟩
    refine NMap.mem_of_look ?_
    rw [Group.upThread_threads, NMap.look_upd, ht, Option.map_some]
  unfold Group.pccGive Group.pccSweep
  rw [List.getElem?_mapIdx, Group.upThread_pcc, List.getElem?_set_self hi, Option.map_some,
    if_neg fun h => by rw [List.isEmpty_iff.1 h] at used; cases used]

/-- R13: where an entry holds the capability or is free, a waiting thread obtains one and no other thread is changed. -/
theorem Group.pccTake_of_entry {g : Group} {lane : Nat} {c : Cap} {t : Thread} (ht : g.threads.look lane = some t)
    (he : ∃ e ∈ g.pcc, e = none ∨ e = some c) :
    ∃ v i, g.pccTake lane c = some v ∧ v = { g with threads := v.threads, pcc := v.pcc } ∧ v.pcc[i]? = some (some c) ∧
      v.threads.look lane = some { t with pccx := i, want := none, backed := none } ∧
      ∀ l, l ≠ lane → v.threads.look l = g.threads.look l := by
  unfold Group.pccTake
  cases hf : g.pccFind c with
  | some i =>
    obtain ⟨hi, -⟩ := List.findIdx?_eq_some_iff_getElem.1 hf
    exact ⟨_, i, rfl, rfl, Group.pccGive_holds ht hi, by simp [Group.look_pccGive, ht], fun l hl => by simp [Group.look_pccGive, hl]⟩
  | none =>
    have free : none ∈ g.pcc := by
      obtain ⟨e, hm, rfl | rfl⟩ := he
      · exact hm
      · simpa using List.findIdx?_eq_none_iff.1 hf _ hm
    obtain ⟨j, hj⟩ := List.mem_iff_getElem?.1 free
    have swept : none ∈ (g.upThread lane fun t => { t with want := some c }).pccSweep.pcc := by
      refine List.mem_iff_getElem?.2 ⟨j, ?_⟩
      simp [Group.pccSweep, hj]
    have asked : (g.upThread lane fun t => { t with want := some c }).pccSweep.threads.look lane = some { t with want := some c } := by
      show (g.threads.upd lane _).look lane = _
      rw [NMap.look_upd, ht, Option.map_some]
    dsimp only
    cases hn : (g.upThread lane fun t => { t with want := some c }).pccSweep.pcc.findIdx? (·.isNone) with
    | none => exact absurd (List.findIdx?_eq_none_iff.1 hn _ swept) (by simp)
    | some i =>
      obtain ⟨hi, -⟩ := List.findIdx?_eq_some_iff_getElem.1 hn
      refine ⟨_, i, rfl, rfl, Group.pccGive_holds asked hi, by rw [Group.look_pccGive, asked]; simp, fun l hl => ?_⟩
      rw [Group.look_pccGive]
      simp only [hl, if_false, Option.map_id']
      exact NMap.look_upd_ne _ _ hl

/-! ### Affinity (R161, R168) -/

theorem Team.renew_below {t : Team} (h : t.ageCtr < 0xFFFFFFF0) (k : Nat) :
    t.renew k = { (t.upGroup k fun g => { g with age := t.ageCtr }) with ageCtr := t.ageCtr + 1 } := by
  unfold Team.renew
  rw [if_neg (by omega)]

/-- Settles O24, step by step: housing, displacing and a PCC entry by the laws of the tables above. -/
theorem tableSteps : Obligations.TableSteps := by
  unfold Obligations.TableSteps
  refine ⟨?hold, ?affinity, ?displace, ?house, ?pcc⟩
  case hold =>
    intro s id t h g ht hh hl hg
    refine happens_enabled (s := s) rfl (by simp only [ht, hh]; exact when_true (by simpa [State.evCycle] using hl) _) ?_
    let lost := fun g : Group => g.mapThreads fun _ th => th.lose
    have cleared := (OnlyTeam.refl (State.evTeam_look ht)).upTeam fun t => { t with hold := none }
    exact ⟨_, lost g, cleared.upTeam (·.upGroup h.g lost), .upGroup (t := { t with hold := none }) hg lost,
      g.mapped_mapThreads Thread.lose⟩
  case affinity =>
    intro s id t k ht hr hk ha
    refine happens_enabled (s := s) rfl (by simp only [ht]; exact when_true (by simpa using hr) _) ?_
    refine ⟨_, (OnlyTeam.refl (State.evTeam_look ht)).upTeam _, ?_, fun j => ?_⟩
    · simp only [hk, Team.renew_below ha]
      rfl
    · simp only [hk, Team.renew_below ha, Team.upGroup, List.getElem?_modify]
      by_cases c : k = j
      · subst c; simp
      · simp [c, Ne.symm c]
  case displace =>
    intro s id t g ht hg hc
    refine happens_enabled (s := s) rfl (by simp only [ht, hg]; exact when_true (by simpa using hc) _) ?_
    obtain ⟨only, group⟩ := State.upGroup_only (State.evTeam_look ht) hg Group.displace
    obtain ⟨re, crowd⟩ := g.displace_spec
    exact ⟨_, _, only, group, re, crowd⟩
  case house =>
    intro s id t g ht hg hd
    refine happens_enabled (s := s) rfl (by simp only [ht, hg]; exact when_true hd _) ?_
    obtain ⟨only, group⟩ := State.upGroup_only (State.evTeam_look ht) hg fun g => { g.houseQueue with houseDue := false }
    obtain ⟨a, st⟩ := g.houseQueue_spec
    refine ⟨_, _, only, group, ⟨?_, st⟩, rfl, fun hc => Group.houseQueue_shortens hc⟩
    unfold Group.Arranged at a
    rw [a]
  case pcc =>
    intro s id t g th c ht hg hth hl hw he
    obtain ⟨v, i, hv, kept, entry, self, others⟩ := Group.pccTake_of_entry hth he
    refine happens_enabled (s := s) rfl (t := s.upGroup id s.ev.g fun _ => v) ?_ ?_
    · simp [ht, hg, hth, hl, hw, hv]
    · obtain ⟨only, group⟩ := State.upGroup_only (State.evTeam_look ht) hg fun _ => v
      exact ⟨_, v, i, only, group, kept, entry, self, others⟩

end Sys2Proof.Machine
end

section
/-! SUPPORT. What an access leaves beside its bytes, said once (R182, R313, R319, R358, R424): events, counters and caches alone. -/

namespace Sys2Proof.Machine

open Sys2Proof

/-! ### Accesses that are noted -/

/-- Contexts are as they were, but for what they count. -/
def SameCtxs (a b : NMap Ctx) : Prop :=
  ∀ n, (b.look n).map (fun c => { c with counters := [] }) = (a.look n).map fun c => { c with counters := [] }

/-- `t` is `s` after accesses have been noted: memory, teams and what each die reads are as they were. -/
structure State.Noted (s t : State) : Prop where
  rest : t = { s with ctxs := t.ctxs, coh := t.coh, events := t.events, draws := t.draws }
  ctxs : SameCtxs s.ctxs t.ctxs
  stale : t.coh.stale = s.coh.stale

theorem State.Noted.refl (s : State) : s.Noted s := ⟨rfl, fun _ => rfl, rfl⟩

theorem State.Noted.trans {a b c : State} (h : a.Noted b) (k : b.Noted c) : a.Noted c where
  rest := by rw [k.rest, h.rest]
  ctxs := fun n => (k.ctxs n).trans (h.ctxs n)
  stale := k.stale.trans h.stale

theorem State.Noted.teams {s t : State} (h : s.Noted t) : t.teams = s.teams := by rw [h.rest]

theorem State.Noted.mem {s t : State} (h : s.Noted t) : t.mem = s.mem := by rw [h.rest]

theorem State.Noted.outbox {s t : State} (h : s.Noted t) : t.outbox = s.outbox := by rw [h.rest]

theorem State.Noted.foldl {α : Type} {f : State → α → State} (hf : ∀ (s : State) (a : α), s.Noted (f s a)) (l : List α) (s : State) :
    s.Noted (l.foldl f s) := by
  induction l generalizing s with
  | nil => exact .refl s
  | cons a r ih => exact (hf s a).trans (ih (f s a))

theorem State.noted_draws (s : State) (d : Nat) : s.Noted { s with draws := d } := ⟨rfl, fun _ => rfl, rfl⟩

theorem State.noted_countBy (s : State) (ctx n k : Nat) : s.Noted (s.countBy ctx n k) where
  rest := rfl
  ctxs := fun m => by
    simp only [State.countBy, NMap.look_upd_if, Option.map_map]
    congr 1
    funext c
    by_cases h : m = ctx <;> simp [h]
  stale := rfl

theorem State.noted_noteEv (s : State) (die : Nat) (early : Bool) (x : Ev) : s.Noted (s.noteEv die early x) := by
  unfold State.noteEv
  split
  · split <;> exact ⟨rfl, fun _ => rfl, rfl⟩
  · exact ⟨rfl, fun _ => rfl, rfl⟩

theorem State.noted_upCoh (s : State) (f : Coherence → Coherence) (h : (f s.coh).stale = s.coh.stale) : s.Noted (s.upCoh f) :=
  ⟨rfl, fun _ => rfl, h⟩

theorem State.noted_charge (s : State) (die ctx : Nat) (ts : List Touch) : s.Noted (s.charge_ die ctx ts) := by
  refine ((s.noted_countBy _ _ _).trans (State.noted_countBy _ _ _ _)).trans (.foldl (fun s k => ?_) _ _)
  cases s.coh.l2.look (lineKey k die) with
  | none => exact .refl s
  | some x =>
    dsimp only
    split
    · exact .refl s
    · exact ((s.noted_countBy _ _ _).trans (State.noted_countBy _ _ _ _)).trans (State.noted_upCoh _ _ rfl)

theorem State.noted_note (s : State) (id : Nat) (t : Team) (o : Op) (ts : List Touch) : s.Noted (s.note id t o ts) :=
  (s.noted_charge _ _ _).trans (.foldl (fun _ _ => State.noted_noteEv _ _ _ _) _ _)

theorem Coherence.stale_roomL1 (c : Coherence) (core : CoreId) (cap : Nat) : (c.roomL1 core cap).stale = c.stale := by
  unfold Coherence.roomL1
  dsimp only
  split
  · rfl
  · split <;> rfl

theorem Coherence.stale_fillL1 (c : Coherence) (core : CoreId) (cap line : Nat) : (c.fillL1 core cap line).stale = c.stale := by
  unfold Coherence.fillL1
  split
  · exact c.stale_roomL1 core cap
  · rfl

theorem Coherence.stale_foldl {α : Type} {f : Coherence → α → Coherence} (hf : ∀ c a, (f c a).stale = c.stale) (l : List α)
    (c : Coherence) : (l.foldl f c).stale = c.stale := by
  induction l generalizing c with
  | nil => rfl
  | cons a r ih => exact (ih (f c a)).trans (hf c a)

theorem State.noted_fillLines (s : State) (t : Team) (ts : List Touch) : s.Noted (s.fillLines t ts) := by
  unfold State.fillLines
  split
  · exact .refl s
  · refine .foldl (fun s x => ?_) _ _
    split
    · exact State.noted_upCoh _ _ (Coherence.stale_foldl (fun c l => c.stale_fillL1 _ _ l) _ _)
    · exact .refl s

theorem State.noted_sawReturn (s : State) (id : Nat) (t : Team) (g lane : Nat) (c : Cap) (addr n : Nat) :
    s.Noted (s.sawReturn id t g lane c addr n) := by
  unfold State.sawReturn
  split
  · exact .refl s
  · exact State.noted_noteEv _ _ _ _

/-! ### What a step leaves beside -/

theorem State.Noted.beside {s t : State} (h : s.Noted t) : s.Beside t where
  rest := by rw [h.rest]
  asks := ⟨[], by rw [h.outbox, List.append_nil], by simp⟩
  ctxs := h.ctxs

theorem State.Beside.trans {a b c : State} (h : a.Beside b) (k : b.Beside c) : a.Beside c where
  rest := by rw [k.rest, h.rest]
  asks := by
    obtain ⟨x, hx, ax⟩ := h.asks
    obtain ⟨y, hy, ay⟩ := k.asks
    refine ⟨x ++ y, by rw [hy, hx, List.append_assoc], fun q hq => ?_⟩
    exact (List.mem_append.1 hq).elim (ax q) (ay q)
  ctxs := fun n => (k.ctxs n).trans (h.ctxs n)

theorem State.beside_askHost (s : State) (l : Loc) (n : Nat) : s.Beside (s.askHost l n) := by
  cases l with
  | host fn pasid iova => exact ⟨rfl, ⟨_, rfl, fun q hq => ⟨fn, pasid, iova, n, List.mem_singleton.1 hq⟩⟩, fun _ => rfl⟩
  | mem | spad | remote | reply => exact (State.Noted.refl s).beside

theorem State.askHost_teams (s : State) (l : Loc) (n : Nat) : (s.askHost l n).teams = s.teams := by
  cases l <;> rfl

theorem TeamReads.of_beside {s s' : State} {id : Nat} {t : Team} (h : s.Beside s') (ht : s'.teams = s.teams)
    (hid : s.teams.look id = some t) : TeamReads s id t s' :=
  ⟨h, fun _ _ => by rw [ht], by rw [ht, hid]⟩

theorem TeamReads.upTeam {s s' : State} {id : Nat} {u : Team} (h : TeamReads s id u s') (f : Team → Team) :
    TeamReads s id (f u) (s'.upTeam id f) where
  beside := h.beside.trans ⟨rfl, ⟨[], by simp, by simp⟩, fun _ => rfl⟩
  others := fun n hn => (NMap.look_upd_ne _ _ hn).trans (h.others n hn)
  team := by rw [State.upTeam_teams, NMap.look_upd, h.team, Option.map_some]

end Sys2Proof.Machine
end

section
/-! SUPPORT. How a wait ends (R14, R157, R215, R216, R286, R292): the thread goes on, and the load that the part makes for it leaves
nothing else. -/

namespace Sys2Proof.Machine

open Sys2Proof

/-! ### Waking a thread (R14) -/

theorem Group.crowd_house (g : Group) (lane pccx : Nat) (pc : DWord) : (g.house lane pccx pc).crowd = g.crowd := by
  unfold Group.house
  split
  · rfl
  · split <;> rfl

theorem Group.crowd_pccTake {g h : Group} {lane : Nat} {c : Cap} (e : g.pccTake lane c = some h) : h.crowd = g.crowd := by
  unfold Group.pccTake at e
  dsimp only at e
  split at e
  · cases e; rfl
  · split at e
    · cases e; rfl
    · split at e
      · cases e
      · cases e; rfl

/-- R166: placing a thread counts no word. -/
theorem Group.crowd_place (g : Group) (lane : Nat) : (g.place lane).crowd = g.crowd := by
  have entered : ∀ h, g.pccEnter lane = some h → h.crowd = g.crowd := fun h e => by
    unfold Group.pccEnter at e
    split at e
    · exact Group.crowd_pccTake e
    · cases e; rfl
  unfold Group.place
  split
  · rfl
  · split
    · rfl
    · split
      · rfl
      · rename_i h e
        split
        · exact entered h e
        · exact (Group.crowd_house _ _ _ _).trans (entered h e)

/-- R14: a thread becomes Active at a PC, its flags now `f`. -/
def Thread.wakesTo (next : DWord) (f : List Bool) (th : Thread) : Thread := { th with st := .active, park := none, pc := next, f := f }

/-- The flags of a thread that wakes from a wait. -/
def Thread.wokenFlags (th : Thread) (p : Park) : List Bool := match p.sf with | some n => th.f.set n.val false | none => th.f

theorem Group.wake_eq {g : Group} {lane : Nat} {th : Thread} {p : Park} (ht : g.threads.look lane = some th)
    (hp : th.park = some p) : g.wake lane = (g.upThread lane (Thread.wakesTo p.next (th.wokenFlags p))).place lane := by
  unfold Group.wake
  simp only [ht, hp]
  rfl

/-- R14: what waking a parked thread does to its group. -/
theorem Group.wake_woken {g : Group} {lane : Nat} {th : Thread} {p : Park} (ht : g.threads.look lane = some th)
    (hp : th.park = some p) : g.Woken lane p (g.wake lane) := by
  rw [Group.wake_eq ht hp]
  generalize hu : g.upThread lane (Thread.wakesTo p.next (th.wokenFlags p)) = u
  have look : ∀ l, u.threads.look l = (g.threads.look l).map fun t => if l = lane then t.wakesTo p.next (th.wokenFlags p) else t :=
    fun l => by rw [← hu]; exact NMap.look_upd_if g.threads lane l _
  have placed := Group.placed_place u lane
  refine ⟨?_, fun t h => ?_, fun l hl => ?_⟩
  · rw [placed.1, Group.crowd_place, ← hu]; rfl
  · rw [ht] at h
    cases h
    obtain ⟨k, hk, hb⟩ := placed.threads_look (l := lane) (t := th.wakesTo p.next (th.wokenFlags p)) (by rw [look, ht]; simp)
    exact ⟨k, hk, hb⟩
  · rw [placed.2, look]
    simp [hl]

/-- A step that wakes the thread that it names, after `s'` has been reached with every team as it was. -/
theorem State.wake_reads {s s' : State} {id : Nat} {t : Team} {g : Group} {th : Thread} {p : Park} (ht : s.evTeam = some (id, t))
    (hg : t.groups[s.ev.g]? = some g) (hth : g.threads.look s.ev.lane = some th) (hp : th.park = some p) (hb : s.Beside s')
    (hs : s'.teams = s.teams) :
    ∃ u h, TeamReads s id u (s'.evWake id) ∧ OnlyGroup t s.ev.g h u ∧ g.Woken s.ev.lane p h := by
  have ev : s'.ev = s.ev := by rw [hb.rest]
  refine ⟨_, _, ?_, .upGroup hg (·.wake s.ev.lane), Group.wake_woken hth hp⟩
  unfold State.evWake
  rw [ev]
  exact (TeamReads.of_beside hb hs (State.evTeam_look ht)).upTeam (·.upGroup s.ev.g (·.wake s.ev.lane))

/-! ### The loads of parked threads -/

theorem State.probed_beside (s : State) (id : Nat) (t : Team) (o : Op) :
    s.Beside (s.probed id t o) ∧ (s.probed id t o).teams = s.teams := by
  have noted := (s.noted_note id t o (o.accs.map (·.touch false))).trans (State.noted_fillLines _ t (o.accs.map (·.touch false)))
  have asked : ∀ (l : List Access) (s : State), s.Beside (l.foldl (fun s a => s.askHost a.loc a.size) s) ∧
      (l.foldl (fun s a => s.askHost a.loc a.size) s).teams = s.teams := by
    intro l
    induction l with
    | nil => exact fun s => ⟨(State.Noted.refl s).beside, rfl⟩
    | cons a r ih =>
      intro s
      obtain ⟨b, e⟩ := ih (s.askHost a.loc a.size)
      exact ⟨(s.beside_askHost _ _).trans b, e.trans (s.askHost_teams _ _)⟩
  obtain ⟨b, e⟩ := asked o.accs _
  exact ⟨noted.beside.trans b, e.trans noted.teams⟩

theorem TState.wakes_iff {x : TState} : x.wakes = true ↔ x = .running ∨ x = .yielding := by
  cases x <;> simp [TState.wakes]

theorem State.evParked_some {s : State} {id : Nat} {t : Team} {g : Group} {th : Thread} {p : Park} (ht : s.evTeam = some (id, t))
    (hw : t.st = .running ∨ t.st = .yielding) (hg : t.groups[s.ev.g]? = some g) (hth : g.threads.look s.ev.lane = some th)
    (hst : th.st = .parked) (hp : th.park = some p) : s.evParked p.kind = some (id, t, p) := by
  have thread : t.thread s.ev.g s.ev.lane = some th := by
    unfold Team.thread
    rw [hg]
    exact hth
  unfold State.evParked
  simp [ht, TState.wakes_iff.2 hw, thread, hp, hst]

/-- R157, R216, R286, R292: where the condition of a wait holds of what its load reads, the thread goes on. -/
theorem State.wakeOn_wakes {s : State} {id : Nat} {t : Team} {g : Group} {th : Thread} {p : Park} {kind size : Nat}
    {spaces : List Nat} {sc : Option Scope} {ends : Nat → Park → Prop} {done : Nat → Park → Bool}
    (h : s.WaitEnds id t g th p kind size spaces sc.isSome ends) (hd : ∀ m p, ends m p → done m p = true) :
    ∃ s', s.wakeOn kind size spaces sc done = some s' ∧
      ∃ u h, TeamReads s id u s' ∧ OnlyGroup t s.ev.g h u ∧ g.Woken s.ev.lane p h := by
  obtain ⟨loc, keep, bs, hacc, hread, hmay, hends⟩ := h.reads
  have parked := State.evParked_some h.team h.wakes h.group h.thread h.parked h.park
  rw [h.kind] at parked
  have scope : (sc.map fun _ => p.scope) = if sc.isSome = true then some p.scope else none := by cases sc <;> rfl
  have after : ∃ u h, TeamReads s id u (({ s with draws := s.draws + 2048 }.probed id t
      (probe s.ev.g s.ev.lane p.cap.space loc size p.scope p.acq t.nextOp (t.gatesAt s.ev.g s.ev.lane))).evWake id) ∧
      OnlyGroup t s.ev.g h u ∧ g.Woken s.ev.lane p h := by
    obtain ⟨b, e⟩ := State.probed_beside { s with draws := s.draws + 2048 } id t _
    exact State.wake_reads h.team h.group h.thread h.park ((s.noted_draws _).beside.trans b) e
  refine ⟨_, ?_, after⟩
  unfold State.wakeOn
  simp only [parked, scope, hacc, hread]
  exact when_true (by rw [hmay, hd _ _ hends]; rfl) _

theorem genReached_iff (word : Nat) (k : Word) : genReached word k = true ↔
    ∃ d, d < 2 ^ 23 ∧ arrGen word % 2 ^ 24 = (k.toNat + d) % 2 ^ 24 := by
  have small : arrGen word < 2 ^ 24 := Nat.mod_lt _ (by norm_num)
  rw [genReached, decide_eq_true_iff]
  constructor
  · exact fun h => ⟨_, h, by omega⟩
  · rintro ⟨d, hd, e⟩
    omega

/-- Settles O25: the four waits on memory by `wakeOn`, the wait for granules by itself. -/
theorem waitsEnd : Obligations.WaitsEnd := by
  unfold Obligations.WaitsEnd
  refine ⟨fun s id t g th p => ⟨?ne, ?gen, ?join, ?event, ?own⟩, genReached_iff⟩
  case ne =>
    intro h
    obtain ⟨s', e, w⟩ := State.wakeOn_wakes (sc := some .system) (done := fun m p => BitVec.ofNat 32 m != p.val) h
      fun _ _ hm => bne_iff_ne.2 hm
    exact happens_enabled rfl e w
  case gen =>
    intro h
    obtain ⟨s', e, w⟩ := State.wakeOn_wakes (sc := none) (done := fun m p => genReached m p.val) h fun _ _ hm => hm
    exact happens_enabled rfl e w
  case join =>
    intro h
    obtain ⟨s', e, w⟩ := State.wakeOn_wakes (sc := some .system) (done := fun m _ => m == 0) h fun _ _ hm => beq_iff_eq.2 hm
    exact happens_enabled rfl e w
  case event =>
    intro h
    obtain ⟨s', e, w⟩ := State.wakeOn_wakes (sc := some .system) (done := fun m p => genReached m p.val) h fun _ _ hm => hm
    exact happens_enabled rfl e w
  case own =>
    intro ht hw hg hth hst hp hk hr
    have noted := s.noted_sawReturn id t s.ev.g s.ev.lane p.cap p.addr p.val.toNat
    have parked := State.evParked_some ht hw hg hth hst hp
    rw [hk] at parked
    refine happens_enabled rfl ?_ (State.wake_reads ht hg hth hp noted.beside noted.teams)
    simp only [parked]
    exact when_true hr _

end Sys2Proof.Machine
end

section
/-! SUPPORT. What a store to memory does, said once (R148, R150, R313, R320): its bytes stand, and beside them only what
`State.besideStore` names has changed. -/

namespace Sys2Proof.Machine

open Sys2Proof

/-- `t` is `s` but for what a store leaves beside teams and bytes. -/
structure State.Aside (s t : State) : Prop where
  beside : s.besideStore t
  teams : t.teams = s.teams
  mem : t.mem = s.mem

theorem State.besideStore.trans {a b c : State} (h : a.besideStore b) (k : b.besideStore c) : a.besideStore c := by
  unfold State.besideStore at *
  rw [k, h]

theorem State.Aside.refl (s : State) : s.Aside s := ⟨rfl, rfl, rfl⟩

theorem State.Aside.trans {a b c : State} (h : a.Aside b) (k : b.Aside c) : a.Aside c :=
  ⟨h.beside.trans k.beside, k.teams.trans h.teams, k.mem.trans h.mem⟩

theorem State.Noted.aside {s t : State} (h : s.Noted t) : s.Aside t :=
  ⟨by unfold State.besideStore; rw [h.rest], h.teams, h.mem⟩

theorem State.Aside.foldl {α : Type} {f : State → α → State} (hf : ∀ (s : State) (a : α), s.Aside (f s a)) (l : List α) (s : State) :
    s.Aside (l.foldl f s) := by
  induction l generalizing s with
  | nil => exact .refl s
  | cons a r ih => exact (hf s a).trans (ih (f s a))

theorem State.aside_upCoh (s : State) (f : Coherence → Coherence) : s.Aside (s.upCoh f) := ⟨rfl, rfl, rfl⟩

theorem State.noted_paid (s : State) (old : Coherence) : s.Noted (s.paid old) := by
  refine .foldl (fun s p => ?_) _ _
  split
  · exact .refl s
  · split
    · exact s.noted_countBy _ _ _
    · exact .refl s

theorem State.aside_seize (s : State) (die : Nat) (l : Loc) (n : Nat) : s.Aside (s.seize die l n) := by
  unfold State.seize
  split
  · refine .foldl (fun s k => ?_) _ _
    split
    · exact .refl s
    · exact (s.aside_upCoh _).trans (State.noted_paid _ _).aside
  · exact .refl s

theorem State.aside_touchLine (s : State) (w line : Nat) (whole : Bool) : s.Aside (s.touchLine w line whole) := by
  unfold State.touchLine
  dsimp only
  split <;> split <;> try split
  all_goals exact ⟨rfl, rfl, rfl⟩

theorem State.aside_noteTag (s : State) (w pa : Nat) : s.Aside (s.noteTag w pa) := by
  unfold State.noteTag
  dsimp only
  split
  · exact ⟨rfl, rfl, rfl⟩
  · split
    · exact .refl s
    · exact ⟨rfl, rfl, rfl⟩

/-- `t` is `s` with the bytes `bs` stored from `pa` up. -/
structure State.Stores (s : State) (pa : Nat) (bs : List Byte) (t : State) : Prop where
  beside : s.besideStore t
  teams : t.teams = s.teams
  mem : t.mem = Memory.setBytes s.mem pa bs

theorem State.Aside.stores {a b c : State} {pa : Nat} {bs : List Byte} (h : a.Aside b) (k : b.Stores pa bs c) :
    a.Stores pa bs c :=
  ⟨h.beside.trans k.beside, k.teams.trans h.teams, by rw [k.mem, h.mem]⟩

theorem State.Stores.aside {a b c : State} {pa : Nat} {bs : List Byte} (h : a.Stores pa bs b) (k : b.Aside c) :
    a.Stores pa bs c :=
  ⟨h.beside.trans k.beside, k.teams.trans h.teams, k.mem.trans h.mem⟩

theorem State.stores_bytes (s : State) (pa : Nat) (bs : List Byte) (tags : List Nat) :
    s.Stores pa bs { s with mem := Memory.setBytes s.mem pa bs, tags := tags } := ⟨rfl, rfl, rfl⟩

theorem State.stores_writeRaw (s : State) (w pa : Nat) (bs : List Byte) (tag : Bool) :
    s.Stores pa bs (s.writeRaw w pa bs tag) := by
  have lines : s.Aside ((linesOf pa bs.length).foldl (fun s l => s.touchLine w l
      (decide (pa ≤ 64 * l) && decide (64 * l + 64 ≤ pa + bs.length))) s) := .foldl (fun s l => s.aside_touchLine w l _) _ _
  unfold State.writeRaw
  dsimp only
  split
  · exact (lines.stores (State.stores_bytes _ pa bs _)).aside (State.aside_noteTag _ _ _)
  · exact lines.stores (State.stores_bytes _ pa bs _)

/-- R320, R383: a store of a team to memory. -/
theorem State.stores_storeAt (s : State) (t : Team) (atom : Bool) (pa : Nat) (bs : List Byte) (tag : Bool) :
    s.Stores pa bs (s.storeAt t atom (.mem pa) bs tag) := by
  have put := (s.aside_seize t.die (.mem pa) bs.length).stores
    ((State.stores_writeRaw _ ((s.seize t.die (.mem pa) bs.length).worldOf t) pa bs tag).aside (State.aside_upCoh _ (·.patch pa bs tag)))
  unfold State.storeAt
  dsimp only
  split
  · rename_i c p _ hl
    cases hl
    refine put.aside (.foldl (fun u k => ?_) _ _)
    split
    · exact u.aside_upCoh _
    · exact .refl u
  · exact put

/-- What memory reads after a store. -/
theorem Memory.after_setBytes {m : Memory} (h : Memory.wf m = true) (pa : Nat) (bs : List Byte) :
    MemoryAfter m pa bs (Memory.setBytes m pa bs) := by
  intro a
  split
  · rename_i c
    have := Memory.byte_setBytes_in h pa bs (k := a - pa) (by omega)
    rwa [show pa + (a - pa) = a by omega] at this
  · exact Memory.byte_setBytes_out m pa bs (by omega)

/-! ### Reading after an access has been noted -/

theorem State.Noted.viewBytes {s t : State} (h : s.Noted t) (die pa n : Nat) : t.viewBytes die pa n = s.viewBytes die pa n := by
  have byte : ∀ a, t.viewByte die a = s.viewByte die a := fun a => by
    unfold State.viewByte State.staleAt
    rw [h.stale, h.mem]
  induction n generalizing pa with
  | zero => rfl
  | succ n ih => simp only [State.viewBytes, byte, ih]

theorem State.Noted.lineErr {s t : State} (h : s.Noted t) (w line : Nat) : t.lineErr w line = s.lineErr w line := by
  rw [h.rest]
  rfl

/-- R150: bytes of memory that every line delivers. -/
theorem State.readFor_mem {s : State} {die w pa n k : Nat} (h : (linesOf pa n).filterMap (s.lineErr w) = []) :
    s.readFor die w (.mem pa) n k = .ok (s.viewBytes die pa n) := by
  simp only [State.readFor, h]

theorem State.Noted.readFor_mem {s t : State} (h : s.Noted t) {die w pa n k : Nat} (hl : (linesOf pa n).filterMap (s.lineErr w) = []) :
    t.readFor die w (.mem pa) n k = .ok (s.viewBytes die pa n) := by
  rw [State.readFor_mem, h.viewBytes]
  rw [← hl]
  exact congrArg (List.filterMap · _) (funext (h.lineErr w))

end Sys2Proof.Machine
end

section
/-! SUPPORT. How `yield`, `exit` and `tend` end (R15, R119, R217, R291): what a yield leaves undefined, and what becomes of a slot
whose thread has ended. -/

namespace Sys2Proof.Machine

open Sys2Proof

/-! ### Threads that wait on their own flags -/

theorem State.AwaitEnds.evAwait {s : State} {id : Nat} {t : Team} {g : Group} {th : Thread} {a : Await}
    (h : s.AwaitEnds id t g th a) : s.evAwait = some (id, t, th, a) := by
  have thread : t.thread s.ev.g s.ev.lane = some th := by
    unfold Team.thread
    rw [h.group]
    exact h.thread
  have clear : th.f.all (!·) = true := List.all_eq_true.2 fun b hb => by rw [h.flags b hb]; rfl
  unfold State.evAwait
  simp only [h.team, thread, h.awaits, clear, if_true]

/-! ### Taking a lane out of the PC table (R164) -/

theorem Group.freeEntry_threads (g : Group) (i : Nat) : (g.freeEntry i).threads = g.threads := by
  unfold Group.freeEntry
  split <;> rfl

theorem Group.unhouse_threads (g : Group) (lane : Nat) : (g.unhouse lane).threads = g.threads := by
  unfold Group.unhouse
  dsimp only
  split
  · exact Group.freeEntry_threads _ _
  · rfl

theorem Group.laneBecomes_refl {g : Group} {lane : Nat} {k : Thread} (h : g.threads.look lane = some k) :
    g.LaneBecomes lane k g :=
  ⟨rfl, by rw [h]; rfl, fun _ _ => rfl⟩

/-- A thread leaves its entry and is changed. -/
theorem Group.laneBecomes_unhouse {g : Group} {lane : Nat} {k : Thread} (h : g.threads.look lane = some k) (f : Thread → Thread) :
    g.LaneBecomes lane (f k) ((g.unhouse lane).upThread lane f) where
  kept := by rw [Group.upThread, (g.placed_unhouse lane).1]
  thread := by rw [Group.upThread_threads, NMap.look_upd, Group.unhouse_threads, h]; rfl
  others := fun l hl => by rw [Group.upThread_threads, NMap.look_upd_ne _ _ hl, Group.unhouse_threads]

/-! ### What a yield leaves (R15, R217, R262) -/

theorem Thread.yielded_spent (th : Thread) (d : Nat) (b : DWord × DWord × DWord) :
    th.Spent ((List.range th.v.length).filter fun n => !liveV b n) [] (th.spend d b) :=
  List.nil_append ((List.range th.v.length).filter fun n => !liveV b n) ▸ th.spent_refl.kill d _

theorem Group.look_yielded (g : Group) (lane d : Nat) (b : DWord × DWord × DWord) (l : Nat) :
    (g.yielded lane d b).threads.look l = (g.threads.look l).map fun t => if l = lane then t.yielded (d + 1024) b else t :=
  NMap.look_upd_if g.threads lane l _

/-- R15: a scalar register whose block is live keeps its value. -/
theorem Group.s_spend {g : Group} {d n : Nat} {live : Nat → Bool} (h : live (12 + n / 64) = true) :
    (g.spend d live).s[n]? = g.s[n]? := by
  unfold Group.spend
  rw [List.getElem?_map, List.getElem?_zipIdx]
  cases g.s[n]? <;> simp [h]

/-- R15: a capability register whose quarter is live keeps its value, and another one loses its tag. -/
theorem Group.k_spend (g : Group) (d n : Nat) (live : Nat → Bool) :
    (live (8 + n / 4) = true → (g.spend d live).k[n]? = g.k[n]?) ∧
      (live (8 + n / 4) = false → ∀ c, (g.spend d live).k[n]? = some c → c.tag = false) := by
  unfold Group.spend
  rw [List.getElem?_map, List.getElem?_zipIdx]
  cases g.k[n]? with
  | none => simp
  | some x =>
    refine ⟨fun h => by simp [h], fun h c hc => ?_⟩
    simp [h] at hc
    rw [← hc]

/-- R217, R260: a thread that stops at its own yield, with its step and its block. -/
def Thread.stopsAtYield (step : BitVec 16) (b : DWord × DWord × DWord) (th : Thread) : Thread :=
  { th with st := .stopped, stopKind := 2, pc := th.pc - 32, step := step, block := some b }

/-- A thread past its yield that stops with its group. -/
def Thread.stopsPast (th : Thread) : Thread := { th with st := .stopped, stopKind := 1 }

/-! ### A slot becomes Free (R14, R284, R296) -/

/-- The group of a slot that becomes Free. -/
def Group.withoutLane (g : Group) (lane : Nat) : Group := ({ (g.unhouse lane) with threads := g.threads.del lane } : Group).pccSweep

/-- R14, R296: what ending a thread does to its team; of the writes still due of its lane only those of the group stand. -/
theorem Team.freed_of_freeThread {t : Team} {g lane w : Nat} {gr : Group} (hg : t.groups[g]? = some gr)
    (hr : NMap.rising gr.threads = true) : t.Freed g lane w (t.freeThread g lane w) := by
  have only : OnlyGroup t g (gr.withoutLane lane) (t.upGroup g (·.withoutLane lane)) := .upGroup hg (·.withoutLane lane)
  have at_ : (t.freeThread g lane w).groups[g]? = some (gr.withoutLane lane) := only.group
  have else_ : ∀ j, j ≠ g → (t.freeThread g lane w).groups[j]? = t.groups[j]? := only.others
  refine ⟨rfl, ?_, by simp only [Team.freeThread, beq_iff_eq]; rfl, fun j l hjl => ?_, fun p hp hpg x hx hl => ?_⟩
  · unfold Team.thread
    rw [at_]
    exact NMap.look_del hr lane
  · unfold Team.thread
    by_cases hj : j = g
    · subst hj
      rw [at_, hg]
      exact congrArg _ (NMap.look_del_ne gr.threads (hjl.resolve_left fun h => h rfl))
    · rw [else_ j hj]
  · obtain ⟨q, -, rfl⟩ := List.mem_map.1 hp
    by_cases hq : q.g = g
    · rw [if_pos hq] at hx
      have kept := (List.mem_filter.1 hx).2
      rw [hl, bne_self_eq_false, Bool.false_or] at kept
      cases hu : x.2 with
      | s i w => exact ⟨i, w, Cap.zero, .inl rfl⟩
      | k i c => exact ⟨i, 0, c, .inr (.inl rfl)⟩
      | sw b => exact ⟨0, 0, Cap.zero, .inr (.inr ⟨b, rfl⟩)⟩
      | v | quad | o | p | x | fps | fpsOr | flag => rw [hu] at kept; cases kept
    · rw [if_neg hq] at hpg
      exact absurd hpg hq

/-- The step that ends a thread, after `s'` has been reached with every team as it was. -/
theorem State.freeThread_only {s s' : State} {id : Nat} {t : Team} {g lane w : Nat} {gr : Group} (h : s.teams.look id = some t)
    (hs : s'.teams = s.teams) (hg : t.groups[g]? = some gr) (hr : NMap.rising gr.threads = true) :
    ∃ u, (s'.upTeam id fun t => t.freeThread g lane w).teams.look id = some u ∧ t.Freed g lane w u ∧
      ∀ n, n ≠ id → (s'.upTeam id fun t => t.freeThread g lane w).teams.look n = s.teams.look n := by
  refine ⟨_, ?_, Team.freed_of_freeThread hg hr, fun n hn => ?_⟩
  · rw [State.upTeam_teams, NMap.look_upd, hs, h, Option.map_some]
  · rw [State.upTeam_teams, NMap.look_upd_ne _ _ hn, hs]

/-! ### The counter of a `tend` (R291) -/

theorem extract_low_ofNat (n : Nat) : (BitVec.ofNat 128 n).extractLsb' 0 32 = BitVec.ofNat 32 n := by
  apply BitVec.eq_of_toNat_eq
  rw [BitVec.extractLsb'_toNat, BitVec.toNat_ofNat, BitVec.toNat_ofNat, Nat.shiftRight_zero]
  exact Nat.mod_mod_of_dvd n ⟨2 ^ 96, by norm_num⟩

/-- R151: the sum that an atomic addition stores, modulo 2^32. -/
theorem Rmw.value_add (bs : List Byte) (x : Nat) (y : BitVec 128) :
    Rmw.add.value (valOf bs) (BitVec.ofNat 128 x) y = some (BitVec.ofNat 128 ((wordOfBytes bs + x) % 2 ^ 32)) := by
  unfold Rmw.value valOf
  dsimp only
  rw [extract_low_ofNat, extract_low_ofNat, ← BitVec.ofNat_add]
  refine congrArg some (BitVec.eq_of_toNat_eq ?_)
  rw [BitVec.toNat_setWidth, BitVec.toNat_ofNat, BitVec.toNat_ofNat]

/-- R291, R151: adding to a word of memory for a team: the sum stands, and nothing else but what a store leaves beside has changed. -/
theorem State.modify_add_mem {s : State} {t : Team} {w pa : Nat} {a : Access} {sum : BitVec 128} {bs : List Byte}
    (ha : a.loc = .mem pa)
    (hr : s.readFor t.die w (.mem pa) a.size (16 * a.lane) = .ok bs) (hv : Rmw.add.value (valOf bs) a.x a.y = some sum) :
    ∃ m s', s.modify (some t) w .add a = .ok (m, s') ∧ s.Stores pa (numBytes sum.toNat a.size) s' := by
  have stores := (s.noted_draws (s.draws + 2048)).aside.stores (State.stores_storeAt _ t true pa (numBytes sum.toNat a.size) false)
  refine ⟨valOf bs, _, ?_, stores⟩
  unfold State.modify
  simp only [ha, hr, hv]
  rfl

/-- R291: the access by which a `tend` takes 1 from its counter, and the operation that it is. -/
def State.tendAccess (s : State) (c : Cap) (pa : Nat) : Access :=
  ⟨s.ev.lane, .mem pa, 4, c.addr.toNat, 0xFFFFFFFF, 0, false, Cap.zero, 0⟩
def State.tendOp (s : State) (t : Team) (c : Cap) (sc : Scope) (pa : Nat) : Op :=
  { probe s.ev.g s.ev.lane 0 (.mem pa) 4 sc true t.nextOp (t.gatesAt s.ev.g s.ev.lane) with
    rel := true, kind := .rmw .add [s.tendAccess c pa] [] [] }

theorem State.tend_counted {s s' : State} {id : Nat} {t : Team} {g : Group} {th : Thread} {c : Cap} {sc : Scope} {pa : Nat}
    {keep : Bool} {old : BitVec 128} (h : s.AwaitEnds id t g th (.tend (some c) sc)) (hq : t.quiet s.ev.g [s.ev.lane] = true)
    (hacc : s.accessAt id t (s.worldOf t) c (pLD ||| pST) c.addr.toNat 4 [0] (some sc) true true (needA .add) = .ok (.mem pa, keep))
    (hmay : s.may id t (s.tendOp t c sc pa) [(s.tendAccess c pa).touch true] = true)
    (hs : (s.note id t (s.tendOp t c sc pa) [(s.tendAccess c pa).touch true]).modify (some t) (s.worldOf t) .add (s.tendAccess c pa) =
      .ok (old, s')) :
    exec .tendCompletion s = .next (s'.upTeam id fun t => t.freeThread s'.ev.g s'.ev.lane s'.evWidth) := by
  unfold State.tendOp State.tendAccess at *
  show execTendCompletion s = _
  unfold execTendCompletion
  simp only [h.evAwait, hq, hacc, hmay, hs]
  rfl

/-- Settles O27: the completion of a yield by what it leaves of its thread and group, those of `exit` and `tend` by `freeThread`. -/
theorem ownCompletions : Obligations.OwnCompletions := by
  unfold Obligations.OwnCompletions
  refine ⟨?yield, ?thread, ?group, ?exit, ?tend, ?counted⟩
  case yield =>
    intro s id t g th step w1 w2 w3 skid h
    have look : (g.yielded s.ev.lane s.draws (w1, w2, w3)).threads.look s.ev.lane =
        some (th.yielded (s.draws + 1024) (w1, w2, w3)) := by
      rw [Group.look_yielded, h.thread]
      simp
    refine happens_enabled rfl (by simp only [h.evAwait]; rfl) ?_
    refine ⟨_, _, ((OnlyTeam.refl (State.evTeam_look h.team)).withDraws (s.draws + 2048)).upTeam (·.upGroup s.ev.g _),
      .upGroup h.group _, ?_⟩
    split
    · exact Group.laneBecomes_unhouse look (Thread.stopsAtYield step (w1, w2, w3))
    · have wakes : ((t.st.wakes || (skid && t.st == TState.halting)) && !g.halted) = true ↔
          ((t.st = .running ∨ t.st = .yielding) ∨ (skid = true ∧ t.st = .halting)) ∧ g.halted = false := by
        rw [← TState.wakes_iff]
        simp
      by_cases c : ((t.st = .running ∨ t.st = .yielding) ∨ (skid = true ∧ t.st = .halting)) ∧ g.halted = false
      · rw [if_pos c, if_pos (wakes.2 c)]
        exact Group.laneBecomes_refl look
      · rw [if_neg c, if_neg fun h => c (wakes.1 h)]
        exact Group.laneBecomes_unhouse look Thread.stopsPast
  case thread =>
    intro th d b
    have spent := th.yielded_spent d b
    refine ⟨?_, rfl, rfl, fun v hv => List.eq_of_mem_replicate hv, fun x hx => List.eq_of_mem_replicate hx,
      fun n hn => ⟨fun hl => ?_, fun hl => ?_⟩⟩
    · unfold Thread.yielded Thread.forget
      rw [spent.rest]
    · exact spent.regs n (by simp [hl])
    · exact spent.untagged n (by simp [hl, hn])
  case group =>
    intro g lane d b
    refine ⟨rfl, fun l hl => by simp [Group.look_yielded, hl], fun n hx => Group.s_spend ?_, fun n => ⟨fun hx => ?_, fun hx => ?_⟩⟩
    · exact List.any_eq_true.2 hx
    · exact (Group.k_spend _ d n _).1 (List.any_eq_true.2 hx)
    · exact (Group.k_spend _ d n _).2 (List.any_eq_false.2 fun x hm => by simp [hx x hm])
  case exit =>
    intro s id t g th h hr
    refine happens_enabled rfl (by simp only [h.evAwait]; rfl) ?_
    exact ⟨_, (OnlyTeam.refl (State.evTeam_look h.team)).upTeam (·.freeThread s.ev.g s.ev.lane s.evWidth),
      Team.freed_of_freeThread h.group hr⟩
  case tend =>
    intro s id t g th sc h hr
    refine happens_enabled rfl (by simp only [h.evAwait]; rfl) ?_
    exact ⟨_, (OnlyTeam.refl (State.evTeam_look h.team)).upTeam fun _ => t.freeThread s.ev.g s.ev.lane s.evWidth,
      Team.freed_of_freeThread h.group hr⟩
  case counted =>
    intro s id t g th c sc pa keep h hr hq hacc hmay hl hm
    have noted := s.noted_note id t (s.tendOp t c sc pa) [(s.tendAccess c pa).touch true]
    obtain ⟨old, s', hs, st⟩ := State.modify_add_mem (a := s.tendAccess c pa) rfl (noted.readFor_mem hl) (Rmw.value_add _ _ _)
    have stored := noted.aside.stores st
    have ev : s'.ev = s.ev := by rw [stored.beside]
    obtain ⟨u, hu, freed, others⟩ := State.freeThread_only (State.evTeam_look h.team) stored.teams h.group hr
    refine ⟨_, State.tend_counted h hq hacc hmay hs, u, ?_, freed, ?_, ?_, ?_⟩
    · simpa only [State.evWidth, ev] using hu
    · simpa only [State.evWidth, ev] using others
    · exact stored.beside.trans rfl
    · rw [State.upTeam_mem, stored.mem, BitVec.toNat_ofNat, Nat.mod_eq_of_lt (lt_trans (Nat.mod_lt _ (by norm_num)) (by norm_num))]
      exact Memory.after_setBytes hm _ _

end Sys2Proof.Machine
end

section
/-! SUPPORT. How an operation ends (R18, R28, R247, R249, R252): its flag clears, and a cause that it meets late stops its group at
its word. -/

namespace Sys2Proof.Machine

open Sys2Proof

theorem Team.upGroup_groups_self {t : Team} {g : Nat} {h : Group} (e : t.groups[g]? = some h) (f : Group → Group) :
    (t.upGroup g f).groups[g]? = some (f h) := (OnlyGroup.upGroup e f).group

theorem Team.upGroup_groups_ne (t : Team) {g j : Nat} (h : j ≠ g) (f : Group → Group) :
    (t.upGroup g f).groups[j]? = t.groups[j]? := by
  simp [Team.upGroup, Ne.symm h]

theorem Team.thread_congr {t u : Team} {j : Nat} (h : u.groups[j]? = t.groups[j]?) (l : Nat) : u.thread j l = t.thread j l := by
  unfold Team.thread
  rw [h]

/-! ### The flag of an operation (R28) -/

/-- The flag of an operation clears in a thread. -/
def Thread.clearFlag (sf : Option (Fin 12)) (th : Thread) : Thread :=
  match sf with | none => th | some n => { th with f := th.f.set n.val false }

/-- The flag of an operation clears in its lanes. -/
def Group.clearFlag (lanes : List Nat) (sf : Option (Fin 12)) (gr : Group) : Group :=
  match sf with
  | none => gr
  | some n => lanes.foldl (fun gr l => gr.upThread l fun th => { th with f := th.f.set n.val false }) gr

theorem Team.clearOpFlag_eq (t : Team) (g : Nat) (lanes : List Nat) (sf : Option (Fin 12)) :
    t.clearOpFlag g lanes sf = t.upGroup g (Group.clearFlag lanes sf) := by
  cases sf with
  | none => simp [Team.clearOpFlag, Team.upGroup, show Group.clearFlag lanes none = id from rfl]
  | some n => rfl

theorem Group.clearFlag_spec (lanes : List Nat) (sf : Option (Fin 12)) (gr : Group) :
    Group.clearFlag lanes sf gr = { gr with threads := (Group.clearFlag lanes sf gr).threads } ∧
      ∀ l, (Group.clearFlag lanes sf gr).threads.look l =
        (gr.threads.look l).map fun th => if l ∈ lanes then th.clearFlag sf else th := by
  cases sf with
  | none => exact ⟨rfl, fun l => by simp [Group.clearFlag, Thread.clearFlag]⟩
  | some n =>
    unfold Group.clearFlag
    dsimp only
    induction lanes generalizing gr with
    | nil => exact ⟨rfl, fun l => by simp⟩
    | cons m r ih =>
      obtain ⟨kept, look⟩ := ih (gr.upThread m fun th => { th with f := th.f.set n.val false })
      refine ⟨by rw [List.foldl_cons, kept]; rfl, fun l => ?_⟩
      rw [List.foldl_cons, look, Group.upThread_threads, NMap.look_upd_if, Option.map_map]
      congr 1
      funext th
      by_cases h : l = m <;> by_cases hr : l ∈ r <;> simp [h, hr, Thread.clearFlag, Function.comp]

theorem Team.endOp_eq (t : Team) (o : Op) : t.endOp o =
    ({ t with ops := t.ops.filter fun x => x.id != o.id } : Team).upGroup o.g (Group.clearFlag o.lanes o.sf) :=
  Team.clearOpFlag_eq _ _ _ _

/-! ### Causes (R247, R249, R250) -/

/-- What a group that raises becomes. -/
def Group.takesCause (span : List Nat) (causes : List (Nat × Word)) (gr : Group) : Group :=
  let gr := gr.mapThreads fun l th => { th with cause := th.cause ||| orAll ((causes.filter (·.1 == l)).map (·.2)) }
  Group.halt { gr with cause := gr.cause ||| orAll (causes.map (·.2)) ||| (if gr.initiator || gr.exempt then 0 else cHalt) } span

theorem Team.takeCause_eq (t : Team) (g : Nat) (span : List Nat) (causes : List (Nat × Word)) : t.takeCause g span causes =
    Team.settleHalt { (t.broadcast (some g) []).upGroup g (Group.takesCause span causes) with faultStop := true } := rfl

/-- A group but for the marks of a halt. -/
def Group.Marked (g h : Group) : Prop := h = { g with skid := h.skid, halted := h.halted, initiator := h.initiator, exempt := h.exempt }

/-- R250: a halt's broadcast stops the team's issue, and of its groups it sets the marks of the halt alone. -/
theorem Team.broadcast_spec (t : Team) (i : Option Nat) (ex : List Nat) :
    t.broadcast i ex = { t with st := (t.broadcast i ex).st, hold := (t.broadcast i ex).hold, slot := (t.broadcast i ex).slot,
                                groups := (t.broadcast i ex).groups } ∧
    ((t.broadcast i ex).st ≠ .running ∧ (t.broadcast i ex).st ≠ .yielding) ∧
    (∀ j l, (t.broadcast i ex).thread j l = t.thread j l) ∧
    ∀ (j : Nat) (g : Group), t.groups[j]? = some g → ∃ h, (t.broadcast i ex).groups[j]? = some h ∧ g.Marked h := by
  unfold Team.broadcast
  split
  · refine ⟨rfl, ⟨nofun, nofun⟩, fun j l => ?_, fun j g hg => ?_⟩
    · unfold Team.thread
      rw [List.getElem?_mapIdx]
      cases t.groups[j]? <;> rfl
    · rw [List.getElem?_mapIdx, hg]
      exact ⟨_, rfl, rfl⟩
  · rename_i h
    refine ⟨rfl, ?_, fun _ _ => rfl, fun j g hg => ⟨g, hg, rfl⟩⟩
    rw [Bool.or_eq_true, beq_iff_eq, beq_iff_eq, not_or] at h
    exact h

/-- What becomes of a thread of a group that raises. -/
def Thread.takesCause (span : List Nat) (causes : List (Nat × Word)) (l : Nat) (th : Thread) : Thread :=
  { th with
    cause := th.cause ||| orAll ((causes.filter (·.1 == l)).map (·.2)),
    st := if th.st = .active ∧ th.await = none then .stopped else th.st,
    stopKind := if th.st = .active ∧ th.await = none then (if l ∈ span then 0 else 1) else th.stopKind }

theorem Group.takesCause_look (span : List Nat) (causes : List (Nat × Word)) (gr : Group) (l : Nat) :
    (gr.takesCause span causes).threads.look l = (gr.threads.look l).map (Thread.takesCause span causes l) := by
  simp only [Group.takesCause, Group.halt, Group.mapThreads, NMap.look_mapv, Option.map_map]
  congr 1
  funext th
  by_cases h1 : th.st = .active <;> by_cases h2 : th.await = none <;>
    simp [h1, h2, Option.isNone_iff_eq_none, Thread.takesCause]

/-- What raising causes leaves of a team. -/
theorem Team.takeCause_spec (t : Team) (g : Nat) (span : List Nat) (causes : List (Nat × Word)) :
    let u := t.takeCause g span causes
    u = { t with st := u.st, hold := u.hold, slot := u.slot, groups := u.groups, faultStop := true } ∧
    (u.st ≠ .running ∧ u.st ≠ .yielding) ∧ (∀ j l, j ≠ g → u.thread j l = t.thread j l) ∧
    ∀ gr, t.groups[g]? = some gr → ∃ h : Group, u.groups[g]? = some (h.takesCause span causes) ∧ gr.Marked h := by
  obtain ⟨kept, ⟨nr, ny⟩, threads, groups⟩ := t.broadcast_spec (some g) []
  rw [Team.takeCause_eq, Team.settleHalt_eq]
  refine ⟨?_, ?_, fun j l hj => ?_, fun gr hg => ?_⟩
  · unfold Team.upGroup
    rw [kept]
  · split
    · exact ⟨nofun, nofun⟩
    · exact ⟨nr, ny⟩
  · exact (Team.thread_congr (Team.upGroup_groups_ne _ hj _) l).trans (threads j l)
  · obtain ⟨h, hh, e⟩ := groups g gr hg
    exact ⟨h, Team.upGroup_groups_self hh _, e⟩

/-! ### A cause that an operation meets late (R247, R435) -/

/-- What becomes of a thread of a group when an operation of it ends with a late cause. -/
def Thread.failsLate (o : Op) (causes : List (Nat × Word)) (l : Nat) (th : Thread) : Thread :=
  let k := Thread.takesCause o.lanes causes l (if l ∈ o.lanes then th.backAt o else th)
  if l ∈ o.lanes then k.clearFlag o.sf else k

/-- R247: the threads of the operation's lanes stand at its word again. -/
theorem Thread.failsLate_spec (o : Op) (lane : Nat) (cause : Word) (l : Nat) (th : Thread) :
    let k := th.failsLate o [(lane, cause)] l
    k = { th with pc := k.pc, await := k.await, st := k.st, stopKind := k.stopKind, cause := k.cause, f := k.f } ∧
    k.cause = (if l = lane then th.cause ||| cause else th.cause) ∧
    (l ∉ o.lanes → k.pc = th.pc ∧ k.f = th.f) ∧
    (l ∈ o.lanes → (th.returns o → k.pc = o.pc ∧ k.st = .stopped ∧ k.stopKind = 0) ∧ (¬ th.returns o → k.pc = th.pc) ∧
      ∀ n, o.sf = some n → k.f = th.f.set n.val false) := by
  have here : orAll (([(lane, cause)].filter (·.1 == l)).map (·.2)) = if l = lane then cause else 0 := by
    by_cases h : l = lane
    · subst h; simp [orAll]
    · simp [orAll, Ne.symm h, h]
  have joined : (th.cause ||| if l = lane then cause else 0) = if l = lane then th.cause ||| cause else th.cause := by
    split_ifs <;> simp
  by_cases hl : l ∈ o.lanes
  · by_cases hr : th.returns o
    · have back : th.backAt o = { th with pc := o.pc, await := none, stopKind := 0 } := if_pos hr
      have stopped : th.st = .active ∨ th.st = .stopped := hr.2.imp_right And.left
      unfold Thread.failsLate
      simp only [if_pos hl, back, Thread.takesCause, here, joined, and_true]
      refine ⟨?_, ?_, fun h => absurd hl h, fun _ => ⟨fun _ => ?_, fun h => absurd hr h, fun n hn => ?_⟩⟩
      · cases o.sf <;> rfl
      · cases o.sf <;> rfl
      · rcases stopped with h | h <;> cases o.sf <;> simp [Thread.clearFlag, h]
      · rw [hn]; rfl
    · have back : th.backAt o = th := if_neg hr
      unfold Thread.failsLate
      simp only [if_pos hl, back, Thread.takesCause, here, joined]
      refine ⟨?_, ?_, fun h => absurd hl h, fun _ => ⟨fun h => absurd h hr, fun _ => ?_, fun n hn => ?_⟩⟩
      · cases o.sf <;> rfl
      · cases o.sf <;> rfl
      · cases o.sf <;> rfl
      · rw [hn]; rfl
  · unfold Thread.failsLate
    simp only [if_neg hl, Thread.takesCause, here, joined]
    exact ⟨trivial, trivial, fun _ => ⟨trivial, trivial⟩, fun h => absurd h hl⟩

/-- The threads of the lanes of an operation, back at its word. -/
def Group.backAt (o : Op) (g : Group) : Group := g.mapThreads fun l th => if o.lanes.contains l then th.backAt o else th

theorem Team.takeLate_eq (t : Team) (o : Op) (lane : Nat) (cause : Word) : t.takeLate o lane cause =
    { (t.upGroup o.g (Group.backAt o)).takeCause o.g o.lanes [(lane, cause)] with
      pageAsync := t.pageAsync || anyBit cause (cPage ||| cProt) } := by
  have kept := ((t.upGroup o.g (Group.backAt o)).takeCause_spec o.g o.lanes [(lane, cause)]).1
  have page : ((t.upGroup o.g (Group.backAt o)).takeCause o.g o.lanes [(lane, cause)]).pageAsync = t.pageAsync := by rw [kept]; rfl
  unfold Team.takeLate
  cases h : anyBit cause (cPage ||| cProt) with
  | true => rw [if_pos rfl, Bool.or_true]; rfl
  | false => rw [if_neg Bool.false_ne_true, Bool.or_false, ← page]; rfl

theorem Group.takesCause_cause (gr : Group) (span : List Nat) (lane : Nat) (cause : Word) :
    (gr.takesCause span [(lane, cause)]).cause = gr.cause ||| cause ||| (if gr.initiator || gr.exempt then 0 else cHalt) := by
  simp [Group.takesCause, Group.halt, orAll]

/-- Of the causes HALT is bit 24 alone. -/
theorem ite_cHalt_getLsbD (c : Bool) {n : Nat} (h : n ≠ 24) : (if c then 0 else cHalt : Word).getLsbD n = false := by
  cases c with
  | true => exact BitVec.getLsbD_zero
  | false =>
    have off : (2 ^ 24).testBit n = false := by rw [Nat.testBit_two_pow]; simpa using Ne.symm h
    rw [if_neg Bool.false_ne_true, cHalt, bit, BitVec.getLsbD_ofNat, off, Bool.and_false]

/-- R247, R249, R252, R435: what ending an operation with a late cause does to its team. -/
theorem Team.failedLate (t : Team) (o : Op) (lane : Nat) (cause : Word) :
    t.FailedLate o lane cause ((t.takeLate o lane cause).endOp o) := by
  obtain ⟨kept, stops, others, group⟩ := (t.upGroup o.g (Group.backAt o)).takeCause_spec o.g o.lanes [(lane, cause)]
  rw [Team.takeLate_eq, Team.endOp_eq]
  generalize hu : (t.upGroup o.g (Group.backAt o)).takeCause o.g o.lanes [(lane, cause)] = u at *
  refine ⟨?_, ⟨?_, stops⟩, rfl, ?_, fun j l hj => ?_, fun g hg => ?_⟩
  · show u.ops.filter _ = _
    rw [kept]; rfl
  · show u.faultStop = true
    rw [kept]
  · unfold Team.upGroup
    rw [kept]
    rfl
  · refine (Team.thread_congr (Team.upGroup_groups_ne _ hj _) l).trans ((others j l hj).trans ?_)
    exact Team.thread_congr (Team.upGroup_groups_ne t hj _) l
  · obtain ⟨h, hh, marked⟩ := group _ (Team.upGroup_groups_self hg _)
    obtain ⟨ckept, clook⟩ := Group.clearFlag_spec o.lanes o.sf (h.takesCause o.lanes [(lane, cause)])
    have look : ∀ l, (Group.clearFlag o.lanes o.sf (h.takesCause o.lanes [(lane, cause)])).threads.look l =
        (g.threads.look l).map (Thread.failsLate o [(lane, cause)] l) := fun l => by
      have ht : h.threads = (g.backAt o).threads := by rw [marked]
      rw [clook, Group.takesCause_look, ht, Group.backAt, Group.mapThreads_threads, NMap.look_mapv, Option.map_map, Option.map_map]
      congr 1
      funext th
      simp [Thread.failsLate]
    refine ⟨_, Team.upGroup_groups_self (t := { u with
      pageAsync := t.pageAsync || anyBit cause (cPage ||| cProt), ops := u.ops.filter fun x => x.id != o.id }) hh _, ?_⟩
    have cause_ : (Group.clearFlag o.lanes o.sf (h.takesCause o.lanes [(lane, cause)])).cause =
        g.cause ||| cause ||| (if h.initiator || h.exempt then 0 else cHalt) := by
      have hc : h.cause = g.cause := by rw [marked]; rfl
      rw [ckept, ← hc]
      exact h.takesCause_cause o.lanes lane cause
    refine ⟨?_, ?_, fun n hn => ?_, ?_, fun l => ⟨fun hn => by rw [look, hn]; rfl, fun th ht => ⟨_, by rw [look, ht]; rfl, ?_⟩⟩⟩
    · rw [ckept]; rfl
    · rw [cause_, BitVec.or_assoc _ g.cause cause, BitVec.or_comm _ (g.cause ||| cause), ← BitVec.or_assoc, BitVec.or_self]
    · rw [cause_, BitVec.getLsbD_or, ite_cHalt_getLsbD _ hn, Bool.or_false]
    · rw [ckept]
      show (h.s, h.k, h.sw, h.g) = _
      rw [marked]
      rfl
    · exact Thread.failsLate_spec o lane cause l th

/-- R252: the step that ends an operation with a late cause. -/
theorem State.failsLate_failOp {s s' : State} {id : Nat} {t : Team} (h : OnlyTeam s id t s') (o : Op) (lane : Nat) (cause : Word) :
    s.FailsLate id t o lane cause (s'.failOp id o lane cause) :=
  ⟨_, h.upTeam fun t => (t.takeLate o lane cause).endOp o, t.failedLate o lane cause⟩

end Sys2Proof.Machine
end

section
/-! SUPPORT. Timed writes, loads and results as they perform (R18, R23, R92, R143, R196, R424, R428). -/

namespace Sys2Proof.Machine

open Sys2Proof

/-! ### Timed writes (R18) -/

theorem takeDue_split {cycle : Nat} {k : PendKind} {a b : List Pend} {p : Pend} (hk : p.kind = k) (hd : p.due ≤ cycle)
    (ha : ∀ q ∈ a, q.kind = k → cycle < q.due) : takeDue cycle k (a ++ p :: b) = some (p, a ++ b) := by
  induction a with
  | nil => simp [takeDue, hk, hd]
  | cons q r ih =>
    have skip : ¬ (q.due ≤ cycle ∧ q.kind = k) := fun h => absurd (ha q (by simp) h.2) (not_lt.2 h.1)
    rw [List.cons_append, takeDue, if_neg skip, ih fun x hx => ha x (by simp [hx])]
    rfl

theorem exec_writeback {e : Instr} {k : PendKind} (h : writebackKind e = some k) (s : State) :
    exec e s = enabled s (s.writeback k) := by
  unfold writebackKind at h
  split at h <;> cases h <;> rfl

/-- The banks that a due write goes to (R173). -/
def Pend.aluBanks (p : Pend) (k : PendKind) : List Nat := if k = .alu then p.upds.flatMap fun u => u.2.banks else []

/-- The writes of a timed entry, in their group. -/
def State.writeGroup (s : State) (ctx : Nat) (us : List (Nat × Upd)) (g : Group) : Group :=
  us.foldl (fun h x => h.apply x.1 (s.settleUpd ctx x.2)) g

theorem State.writeback_due {s : State} {id : Nat} {t : Team} {k : PendKind} {a b : List Pend} {p : Pend}
    (ht : s.evTeam = some (id, t)) (hp : t.pend = a ++ p :: b) (hk : p.kind = k) (hd : p.due ≤ s.evCycle) (ha : ∀ q ∈ a, q.kind = k → s.evCycle < q.due) :
    s.writeback k = some ((s.upTeam id fun t => { t with pend := a ++ b, wrote := t.wrote ++ p.aluBanks k }).upGroup id p.g
      (s.writeGroup t.ctx p.upds)) := by
  have due : takeDue (s.core s.ev.core).cycle k t.pend = some (p, a ++ b) := hp ▸ takeDue_split hk hd ha
  unfold State.writeback
  simp only [ht, due, Option.map_some, List.foldl_map]
  rfl

/-! ### Results land (R18) -/

theorem State.nothingDue.landing {s : State} {t : Team} (h : s.nothingDue t) :
    (t.pend.any fun p => decide (p.due ≤ (s.core s.ev.core).cycle)) = false :=
  List.any_eq_false.2 fun p hp => by simpa [State.evCycle] using h p hp

/-- R373: which capabilities a filter covers depends on objects, spaces and the space of the context alone. -/
theorem outward_congr {s s' : State} (h : s'.spaces = s.spaces) (n sp target va : Nat) :
    outward s' n sp target va = outward s n sp target va := by
  induction n generalizing sp va with
  | zero => rfl
  | succ n ih => simp only [outward, h, ih]

theorem chainHas_congr {s s' : State} (h : s'.spaces = s.spaces) (n sp target : Nat) :
    chainHas s' n sp target = chainHas s n sp target := by
  induction n generalizing sp with
  | zero => rfl
  | succ n ih => simp only [chainHas, h, ih]

theorem madeFrom_congr {s s' : State} (h : s'.objs = s.objs) (n obj r : Nat) : madeFrom s' n obj r = madeFrom s n obj r := by
  induction n generalizing obj with
  | zero => rfl
  | succ n ih => simp only [madeFrom, h, ih]

theorem State.Beside.settleCap {s s' : State} (h : s.Beside s') (ctx : Nat) (c : Cap) :
    s'.settleCap ctx c = s.settleCap ctx c := by
  have space : s'.spaceOf ctx = s.spaceOf ctx := by
    have := congrArg (Option.map Ctx.space) (h.ctxs ctx)
    simp only [Option.map_map] at this
    unfold State.spaceOf
    cases ha : s'.ctxs.look ctx <;> cases hb : s.ctxs.look ctx <;> simp_all
  have spaces : s'.spaces = s.spaces := by rw [h.rest]
  have objs : s'.objs = s.objs := by rw [h.rest]
  have revs : s'.revs = s.revs := by rw [h.rest]
  have covered : ∀ rv, s'.coveredBy rv ctx c = s.coveredBy rv ctx c := fun rv => by
    unfold State.coveredBy State.inDomain
    simp only [space, spaces, objs, outward_congr spaces, chainHas_congr spaces, madeFrom_congr objs]
  unfold State.settleCap State.covered
  simp only [revs, covered]

theorem State.Beside.landGroup {s s' : State} (h : s.Beside s') (ctx : Nat) : s'.landGroup ctx = s.landGroup ctx := by
  have upd : s'.settleUpd ctx = s.settleUpd ctx := by
    funext u
    cases u <;> simp only [State.settleUpd, h.settleCap]
  unfold State.landGroup
  rw [upd]

theorem State.landUpds_eq {s : State} {id : Nat} {t : Team} (h : s.teams.look id = some t) (g : Nat) (us : List (Nat × Upd)) :
    s.landUpds id g us = s.upGroup id g (s.landGroup t.ctx us) := by
  unfold State.landUpds
  simp only [h, List.foldl_map]
  rfl

/-- The ceiling of the contexts of a creation is set. -/
def State.setCeil (s : State) (born n : Nat) : State :=
  { s with ctxs := s.ctxs.mapv fun _ (c : Ctx) => if c.creation = born then { c with ceil := n } else c }

theorem State.setCeil_look (s : State) (born n k : Nat) :
    (s.setCeil born n).ctxs.look k = (s.ctxs.look k).map fun c => if c.creation = born then { c with ceil := n } else c := by
  rw [State.setCeil, NMap.look_mapv]

/-! ### Loads (R143, R319, R424) -/

theorem State.askHost_outbox (s : State) (l : Loc) (n : Nat) : (s.askHost l n).outbox = s.outbox ++ match l with
    | .host fn pasid iova => [.hostRead fn pasid iova n]
    | _ => [] := by
  cases l <;> simp [State.askHost]

/-- The state of a load of one lane once its access is noted. -/
def State.loadNoted (s : State) (id : Nat) (t : Team) (o : Op) (a : Access) : State :=
  ((({ s with draws := s.draws + 2048 } : State).note id t o [a.touch false]).fillLines t [a.touch false]).askHost a.loc a.size

theorem State.loadNoted_beside (s : State) (id : Nat) (t : Team) (o : Op) (a : Access) :
    s.Beside (s.loadNoted id t o a) ∧ (s.loadNoted id t o a).teams = s.teams ∧
      (s.loadNoted id t o a).outbox = s.outbox ++ match a.loc with
        | .host fn pasid iova => [.hostRead fn pasid iova a.size]
        | _ => [] := by
  have noted := ((s.noted_draws (s.draws + 2048)).trans (State.noted_note _ id t o [a.touch false])).trans
    (State.noted_fillLines _ t [a.touch false])
  refine ⟨noted.beside.trans (State.beside_askHost _ _ _), (State.askHost_teams _ _ _).trans noted.teams, ?_⟩
  exact (State.askHost_outbox _ _ _).trans (congrArg (· ++ _) noted.outbox)

/-- What a load of one lane at a place in the part or of the host does. -/
theorem State.landLoad_here {s : State} {id : Nat} {t : Team} {o : Op} {acc : List Access} {dst : List (Nat × Dest)} {sx c : Bool}
    {got : List (Nat × Upd)} {a : Access} (ha : acc.find? (·.lane == s.ev.lane) = some a) (hm : s.may id t o [a.touch false] = true)
    (hl : a.loc.isRemote = false) :
    s.landLoad id t o acc dst sx c got = match s.readFor t.die (s.worldOf t) a.loc a.size (16 * a.lane) with
      | .error e => some (({ s with draws := s.draws + 2048 } : State).failOp id o a.lane e)
      | .ok bs =>
        let us := (destAt dst a.lane).upds a.size (valOf bs) (a.tag && s.tagFor t.die a.loc) sx
        let got := insertGot a.lane (us.map fun u => (a.lane, u)) got
        let left := acc.filter (·.lane != a.lane)
        some (if left.isEmpty then ((s.loadNoted id t o a).landUpds id o.g got).upTeam id (·.endOp o)
          else (s.loadNoted id t o a).upTeam id (·.putOp { o with kind := .load left dst sx c got })) := by
  unfold State.landLoad
  simp only [ha, hm, Bool.not_true, Bool.false_eq_true, if_false]
  split
  · rename_i h
    rw [h] at hl
    cases hl
  · rfl

theorem State.landLoad_remote {s : State} {id : Nat} {t : Team} {o : Op} {acc : List Access} {dst : List (Nat × Dest)} {sx c : Bool}
    {got : List (Nat × Upd)} {a : Access} {conn handle off : Nat} (ha : acc.find? (·.lane == s.ev.lane) = some a)
    (hm : s.may id t o [a.touch false] = true) (hl : a.loc = .remote conn handle off) :
    s.landLoad id t o acc dst sx c got =
      if !s.connUp conn then some (s.failOp id o a.lane cMemerr) else s.sendRead id o a conn handle off := by
  unfold State.landLoad
  simp only [ha, hm, hl, Bool.not_true, Bool.false_eq_true, if_false]

/-- R428, R430, R431: a read message is sent where its connection is up and has credit for it. -/
theorem State.sendRead_sent {s : State} {id : Nat} {o : Op} {a : Access} {conn handle off : Nat} {k : Conn}
    (hk : s.conns.look conn = some k) (hu : k.up = true) (hc : 1 ≤ k.credits) (hs : s.sent conn id o.id a.lane 0 = false) :
    ∃ s', s.sendRead id o a conn handle off = some s' ∧ s.ReadSent id o a conn handle off k s' := by
  have credit : (!k.up || decide (k.credits < unitsOf true a.size)) = false := by
    rw [hu, Bool.not_true, Bool.false_or]
    exact decide_eq_false (not_lt.2 hc)
  unfold State.sendRead State.sendRemote
  simp only [hs, hk, Option.isNone_none, credit, Bool.false_eq_true, if_false]
  exact ⟨_, rfl, rfl, rfl, NMap.look_put _ _ _, fun j hj => NMap.look_put_ne _ _ hj⟩

/-- A step of the landing buffer for an operation that the step names. -/
theorem execLandingWrite_at {s : State} {id : Nat} {t : Team} {o : Op} (hf : s.Flying id t o) (hd : s.nothingDue t) :
    exec .landingWrite s = enabled s (match o.kind with
      | .land us => if t.landsLater o us then none else some ((s.landUpds id o.g us).upTeam id (·.endOp o))
      | .load acc dst sext isCap got => s.landLoad id t o acc dst sext isCap got
      | .ceil born n us => some (((s.setCeil born n).landUpds id o.g us).upTeam id (·.endOp o))
      | .attest c bs m => some (match s.recordWaits t.ctx (s.worldOf t) c 60 0 with
          | some e => s.waitHost e
          | none => s.landAttest id t o c bs m)
      | _ => none) := by
  show execLandingWrite s = _
  unfold execLandingWrite
  simp only [hf.team, hd.landing, hf.op, Bool.false_eq_true, if_false]
  rfl

/-- Settles O19: timed writes, results, and loads of the part, of the host and of a peer, each by the law of its step above. -/
theorem registersLand : Obligations.RegistersLand := by
  unfold Obligations.RegistersLand
  refine ⟨?writeback, ?land, ?ceil, ?load⟩
  case writeback =>
    intro e k he s id t a b p g ht hp hk hd ha hg
    have wrote := (OnlyTeam.refl (State.evTeam_look ht)).upTeam fun t => { t with pend := a ++ b, wrote := t.wrote ++ p.aluBanks k }
    refine happens_enabled (exec_writeback he s) (State.writeback_due ht hp hk hd ha) ?_
    exact ⟨_, wrote.upTeam (·.upGroup p.g (s.writeGroup t.ctx p.upds)), rfl,
      .upGroup (t := { t with pend := a ++ b, wrote := t.wrote ++ p.aluBanks k }) hg (s.writeGroup t.ctx p.upds)⟩
  case land =>
    intro s id t o us hf hd hk hl
    have look := State.evTeam_look hf.team
    refine happens_enabled (execLandingWrite_at hf hd) (by simp only [hk, hl]; rfl) ?_
    rw [State.landUpds_eq look]
    exact ⟨((OnlyTeam.refl look).upTeam (·.upGroup o.g (s.landGroup t.ctx us))).upTeam (·.endOp o), rfl⟩
  case ceil =>
    intro s id t o born n us hf hd hk
    have look := State.evTeam_look hf.team
    refine happens_enabled (execLandingWrite_at hf hd) (by simp only [hk]; rfl) ?_
    have only := ((OnlyTeam.refl (s := s.setCeil born n) look).upTeam
      (·.upGroup o.g ((s.setCeil born n).landGroup t.ctx us))).upTeam (·.endOp o)
    rw [State.landUpds_eq (s := s.setCeil born n) look]
    exact ⟨rfl, only.others, ⟨_, only.team, by rw [Team.endOp_eq]; rfl⟩, s.setCeil_look born n⟩
  case load =>
    intro s id t o acc dst sx c got a hf hd hk ha hm
    have look := State.evTeam_look hf.team
    have step : exec .landingWrite s = enabled s (s.landLoad id t o acc dst sx c got) := by
      rw [execLandingWrite_at hf hd, hk]
    refine ⟨fun bs hl hr => ?_, fun e hl hr => ?_, fun fn pasid iova hl hn => ?_, fun conn handle off hl => ⟨fun hu => ?_, ?_⟩⟩
    · obtain ⟨beside, teams, outbox⟩ := s.loadNoted_beside id t o a
      have reads := TeamReads.of_beside beside teams look
      refine happens_enabled step (by rw [State.landLoad_here ha hm hl, hr]) ?_
      by_cases hleft : acc.filter (fun y => y.lane != a.lane) = []
      · rw [if_pos hleft, if_pos (List.isEmpty_iff.2 hleft), State.landUpds_eq (teams ▸ look), beside.landGroup]
        exact ⟨(reads.upTeam (·.upGroup o.g (s.landGroup t.ctx _))).upTeam (·.endOp o), outbox⟩
      · rw [if_neg hleft, if_neg (mt List.isEmpty_iff.1 hleft)]
        exact ⟨reads.upTeam (·.putOp _), outbox⟩
    · refine happens_enabled step (by rw [State.landLoad_here ha hm hl, hr]) ?_
      exact State.failsLate_failOp ((OnlyTeam.refl look).withDraws _) o a.lane e
    · have hr : s.readFor t.die (s.worldOf t) a.loc a.size (16 * a.lane) = .error cPage := by
        simp [State.readFor, State.hostErr, hl, hn]
      refine happens_enabled step (by rw [State.landLoad_here ha hm (by rw [hl]; rfl), hr]) ?_
      exact State.failsLate_failOp ((OnlyTeam.refl look).withDraws _) o a.lane cPage
    · refine happens_enabled step (by rw [State.landLoad_remote ha hm hl, hu]; rfl) ?_
      exact State.failsLate_failOp (OnlyTeam.refl look) o a.lane cMemerr
    · intro k hk hu hc hs
      obtain ⟨s', e, sent⟩ := State.sendRead_sent (handle := handle) (off := off) hk hu hc hs
      have up : s.connUp conn = true := by simp only [State.connUp, hk, hu]
      exact happens_enabled step (by rw [State.landLoad_remote ha hm hl, up]; exact e) sent

end Sys2Proof.Machine
end

section
/-! SUPPORT. What messages and answers leave of teams (R268, R347-R351): they write registers and wake threads; no team changes its core,
its state or a group's causes by them. -/

namespace Sys2Proof.Machine

open Sys2Proof

/-! ### What a delivery leaves of a group -/

theorem Group.Placed.cause {g h : Group} (p : g.Placed h) : h.cause = g.cause := by rw [p.1]

theorem Group.cause_place (g : Group) (lane : Nat) : (g.place lane).cause = g.cause := (g.placed_place lane).cause

theorem Group.cause_wake (g : Group) (lane : Nat) : (g.wake lane).cause = g.cause := by
  unfold Group.wake
  split
  · rfl
  · split
    · rfl
    · exact Group.cause_place _ lane

theorem Group.cause_applyLanding (g : Group) (lane : Nat) (u : Upd) : (g.applyLanding lane u).cause = g.cause := by
  cases u <;> rfl

theorem Group.cause_foldl_applyLanding (lane : Nat) (us : List Upd) (g : Group) :
    (us.foldl (fun g u => g.applyLanding lane u) g).cause = g.cause := by
  induction us generalizing g with
  | nil => rfl
  | cons u r ih => exact (ih _).trans (g.cause_applyLanding lane u)

/-! ### Teams that stand as they stood -/

/-- Where a team stands: its core, its state, and the causes of its groups. -/
def Team.standing (t : Team) : Option CoreId × TState × List Word := (t.core, t.st, t.groups.map Group.cause)

theorem Team.causeOf_eq (t : Team) (j : Nat) : t.causeOf j = t.standing.2.2[j]? := by
  simp [Team.causeOf, Team.standing]

theorem Team.standing_upGroup (t : Team) (g : Nat) {f : Group → Group} (hf : ∀ h, (f h).cause = h.cause) :
    (t.upGroup g f).standing = t.standing := by
  have causes : (t.groups.modify g f).map Group.cause = t.groups.map Group.cause := by
    refine List.ext_getElem? fun j => ?_
    rw [List.getElem?_map, List.getElem?_map, List.getElem?_modify]
    split <;> cases t.groups[j]? <;> simp [hf]
  simp only [Team.standing, Team.upGroup, causes]

/-- The cores are as they were and every team stands as it stood. -/
structure State.Stands (s s' : State) : Prop where
  cores : s'.cores = s.cores
  teams : ∀ n, (s'.teams.look n).map Team.standing = (s.teams.look n).map Team.standing

theorem State.Stands.core {s s' : State} (h : s.Stands s') (c : CoreId) : s'.core c = s.core c := by
  unfold State.core
  rw [h.cores]

theorem State.Stands.look {s s' : State} (h : s.Stands s') {n : Nat} {t : Team} (ht : s.teams.look n = some t) :
    ∃ u, s'.teams.look n = some u ∧ u.standing = t.standing :=
  Option.map_eq_some_iff.1 ((h.teams n).trans (congrArg (Option.map Team.standing) ht))

theorem State.Stands.refl (s : State) : s.Stands s := ⟨rfl, fun _ => rfl⟩

theorem State.Stands.trans {a b c : State} (h : a.Stands b) (k : b.Stands c) : a.Stands c :=
  ⟨k.cores.trans h.cores, fun n => (k.teams n).trans (h.teams n)⟩

theorem State.stands_of_eq {s s' : State} (hc : s'.cores = s.cores) (ht : s'.teams = s.teams) : s.Stands s' :=
  ⟨hc, fun _ => by rw [ht]⟩

theorem State.Stands.foldl {α : Type} {f : State → α → State} (hf : ∀ (s : State) (a : α), s.Stands (f s a)) (l : List α) (s : State) :
    s.Stands (l.foldl f s) := by
  induction l generalizing s with
  | nil => exact .refl s
  | cons a r ih => exact (hf s a).trans (ih (f s a))

theorem State.stands_upGroup (s : State) (id g : Nat) {f : Group → Group} (hf : ∀ h, (f h).cause = h.cause) :
    s.Stands (s.upGroup id g f) := by
  refine ⟨rfl, fun n => ?_⟩
  show ((s.teams.upd id _).look n).map _ = _
  rw [NMap.look_upd_if, Option.map_map]
  congr 1
  funext t
  by_cases h : n = id
  · rw [Function.comp, if_pos h, t.standing_upGroup g hf]
  · rw [Function.comp, if_neg h]

theorem State.stands_upThread (s : State) (id g lane : Nat) (f : Thread → Thread) : s.Stands (s.upThread id g lane f) :=
  s.stands_upGroup id g (f := (·.upThread lane f)) fun _ => rfl

theorem State.stands_upEp (s : State) (e : Nat) (f : Endpoint → Endpoint) : s.Stands (s.upEp e f) := State.stands_of_eq rfl rfl

theorem State.stands_answers (s : State) (x : NMap Answer) : s.Stands { s with answers := x } := State.stands_of_eq rfl rfl

/-! ### Slots in memory (R347, R382) -/

theorem State.Stores.stands {s t : State} {pa : Nat} {bs : List Byte} (h : s.Stores pa bs t) : s.Stands t :=
  State.stands_of_eq (by rw [h.beside]) h.teams

theorem State.Aside.stands {s t : State} (h : s.Aside t) : s.Stands t := State.stands_of_eq (by rw [h.beside]) h.teams

theorem State.stands_writeMem (s : State) (w pa : Nat) (bs : List Byte) (tag : Bool) : s.Stands (s.writeMem w pa bs tag) := by
  have noted := (s.noted_noteEv 9 false (Agent.part.event [⟨0, .mem pa, bs.length, true⟩])).aside.trans
    (State.aside_seize _ 9 (.mem pa) bs.length)
  have put := (noted.stores (State.stores_writeRaw _ w pa bs tag)).aside (State.aside_upCoh _ (·.patch pa bs tag))
  refine put.stands.trans (.foldl (fun u k => ?_) _ _)
  split
  · exact (u.aside_upCoh _).stands
  · exact .refl u

theorem State.stands_storeMsg (s : State) (pa : Nat) (m : Msg) : s.Stands (s.storeMsg pa m) := by
  unfold State.storeMsg
  dsimp only
  split <;> split
  · exact ((s.stands_writeMem _ _ _ _).trans (State.stands_writeMem _ _ _ _ _)).trans (State.stands_writeMem _ _ _ _ _)
  · exact (s.stands_writeMem _ _ _ _).trans (State.stands_writeMem _ _ _ _ _)
  · exact (s.stands_writeMem _ _ _ _).trans (State.stands_writeMem _ _ _ _ _)
  · exact s.stands_writeMem _ _ _ _

/-! ### Deliveries (R347) -/

theorem State.stands_deliverUpds (s : State) (id g lane : Nat) (us : List Upd) : s.Stands (s.deliverUpds id g lane us) := by
  unfold State.deliverUpds
  split
  · exact .refl s
  · exact s.stands_upGroup id g fun h => Group.cause_foldl_applyLanding lane _ h

theorem State.stands_setHolder (s : State) (m : Msg) (id g lane : Nat) : s.Stands (s.setHolder m id g lane) := by
  unfold State.setHolder
  dsimp only
  split <;> split <;> exact State.stands_of_eq rfl rfl

theorem State.stands_gate (s : State) (id g lane : Nat) (gs : List Gate) : s.Stands (s.gate id g lane gs) := by
  unfold State.gate
  split
  · exact s.stands_upThread _ _ _ _
  · exact .refl s

theorem State.stands_wake (s : State) (id g lane : Nat) : s.Stands (s.upGroup id g (·.wake lane)) :=
  s.stands_upGroup id g fun h => h.cause_wake lane

theorem State.stands_handOver (s : State) (m : Msg) (w : Waiter) : s.Stands (s.handOver m w) := by
  unfold State.handOver
  split
  · exact (((s.stands_deliverUpds _ _ _ _).trans (State.stands_setHolder _ m _ _ _)).trans (State.stands_gate _ _ _ _ _)).trans
      (State.stands_wake _ _ _ _)
  · exact .refl s

/-! ### Queues (R349, R350) -/

theorem State.stands_sendMsg {s s' : State} {e : Nat} {m : Msg} (h : s.sendMsg e m = some s') : s.Stands s' := by
  unfold State.sendMsg at h
  split at h
  · cases h
  · split at h
    · cases h
      exact (s.stands_upEp _ _).trans (State.stands_handOver _ _ _)
    · dsimp only [State.nextSeq] at h
      have numbered : s.Stands { s with msgSeq := s.msgSeq + 1 } := State.stands_of_eq rfl rfl
      split at h
      · cases h
        exact numbered.trans (State.stands_upEp _ _ _)
      · split at h
        · cases h
          exact (numbered.trans (State.stands_storeMsg _ _ _)).trans (State.stands_upEp _ _ _)
        · cases h

theorem State.stands_newObj {s s' : State} {o a : Nat} {made : Option Nat} (h : s.newObj o made = some (a, s')) :
    s.Stands s' := by
  unfold State.newObj at h
  dsimp only at h
  split at h
  · cases h
    exact State.stands_of_eq rfl rfl
  · cases h

theorem State.stands_enterPoster {s s' : State} {e : Nat} {w : Waiter} (h : s.enterPoster e w = some s') : s.Stands s' := by
  unfold State.enterPoster at h
  split at h
  · dsimp only at h
    split at h
    · split at h
      · cases h
      · rename_i n
        obtain ⟨s2, sent, rfl⟩ := Option.map_eq_some_iff.1 h
        have made := (s.stands_upEp e _).trans (State.stands_newObj n)
        have answered := (State.stands_answers _ _).trans (State.stands_sendMsg sent)
        exact (made.trans answered).trans (State.stands_upThread _ _ _ _ _)
    · obtain ⟨s2, sent, rfl⟩ := Option.map_eq_some_iff.1 h
      exact ((s.stands_upEp e _).trans (State.stands_sendMsg sent)).trans (State.stands_wake _ _ _ _)
  · cases h
    exact s.stands_upEp _ _

theorem State.stands_takeFirst {s s' : State} {e : Nat} {m : Msg} (h : s.takeFirst e = some (m, s')) : s.Stands s' := by
  unfold State.takeFirst at h
  split at h
  · cases h
  · split at h
    · cases h
    · cases h
      refine .trans ?_ (State.stands_upEp _ _ _)
      split
      · exact State.stands_of_eq rfl rfl
      · exact .refl s

theorem State.stands_serveEp (s : State) (e n : Nat) : s.Stands (s.serveEp e n) := by
  induction n generalizing s with
  | zero => exact .refl s
  | succ n ih =>
    unfold State.serveEp
    split
    · exact .refl s
    · split
      · rename_i taken
        exact (((State.stands_takeFirst taken).trans (State.stands_upEp _ _ _)).trans (State.stands_handOver _ _ _)).trans (ih _)
      · split
        · exact .refl s
        · split
          · exact .refl s
          · rename_i entered
            exact (State.stands_enterPoster entered).trans (ih _)

/-- R349: serving every endpoint leaves every team as it stands. -/
theorem State.stands_serveAll (s : State) : s.Stands s.serveAll :=
  .foldl (fun s (p : Nat × Endpoint) => s.stands_serveEp p.1 (p.2.takers.length + p.2.posters.length + 1)) s.eps s

/-! ### Answers (R268, R350) -/

theorem State.stands_dropAnswer (s : State) (a : Nat) : s.Stands (s.dropAnswer a) := by
  unfold State.dropAnswer
  dsimp only
  split <;> split <;> exact State.stands_of_eq rfl rfl

theorem State.stands_landAnswer (s : State) (a : Nat) (x : Answer) (id g l : Nat) (m : Msg) :
    s.Stands (s.landAnswer a x id g l m) := by
  unfold State.landAnswer
  dsimp only
  split
  · exact s.stands_dropAnswer a
  · exact (((s.stands_dropAnswer a).trans (State.stands_deliverUpds _ _ _ _ _)).trans (State.stands_gate _ _ _ _ _)).trans
      (State.stands_wake _ _ _ _)

/-- R268: the answers that land for a team leave every team as it stands. -/
theorem State.stands_landHeld (s : State) (id : Nat) : s.Stands (s.landHeld id) := by
  refine .foldl (fun s p => ?_) _ _
  split
  · split
    · exact s.stands_landAnswer _ _ _ _ _ _
    · exact .refl s
  · exact .refl s

end Sys2Proof.Machine
end

section
/-! SUPPORT. What a restore brings back (R161, R258, R267, R268, R384): a thread's registers, a group's causes with PREEMPT, and each
team of a cluster on its core of the rectangle. -/

namespace Sys2Proof.Machine

open Sys2Proof

/-! ### Threads (R258, R267) -/

/-- The registers of a thread, with its PC. -/
def Thread.file (th : Thread) : List Word × List Bool × List (BitVec 16) × Word × DWord := (th.v, th.p, th.x, th.fps, th.pc)

theorem Thread.file_restored (whole : Bool) (th : Thread) : (th.restored whole).file =
    (th.v, th.p, th.x, th.fps, if th.atYield = true ∧ whole = false then th.pc + 32 else th.pc) := by
  have cond : (th.atYield && !whole) = true ↔ th.atYield = true ∧ whole = false := by simp
  unfold Thread.restored
  by_cases h : (th.atYield && !whole) = true
  · rw [if_pos (cond.1 h)]
    exact congrArg Thread.file (if_pos h)
  · rw [if_neg (mt cond.2 h)]
    exact Eq.trans (congrArg Thread.file (if_neg h)) rfl

theorem Thread.file_resumed (th : Thread) : th.resumed.file = th.file := by
  unfold Thread.resumed
  dsimp only
  split
  · rfl
  · split
    · split <;> rfl
    · rfl

theorem Group.Placed.file {g h : Group} (p : g.Placed h) (l : Nat) :
    (h.threads.look l).map Thread.file = (g.threads.look l).map Thread.file := by
  have bare := congrArg (Option.map Thread.file) (p.2 l)
  rw [Option.map_map, Option.map_map] at bare
  exact bare

/-! ### Groups (R161, R258, R267) -/

/-- A group as a restore puts it, before its words run. -/
def Group.comesBack (whole : Bool) (age : Nat) (g : Group) : Group :=
  { (g.mapThreads fun _ th => th.restored whole) with age := age, cause := g.cause ||| cPreempt, crowd := 0 }

/-- A group with no span, none of its threads in a table. -/
def Group.unplaced (g : Group) : Group :=
  { g with pct := List.replicate 16 none, queue := [], joining := [], houseDue := false, halted := false,
           exempt := false, initiator := false, skid := 0, crowd := 0 }

/-- A group as its threads run again. -/
def Group.resumed (g : Group) : Group :=
  let h := g.unplaced.mapThreads fun _ th => th.resumed
  h.threads.foldl (fun g p => if p.2.st == .active then g.place p.1 else g) h

theorem Group.placed_foldl_place (ps : List (Nat × Thread)) (g : Group) :
    g.Placed (ps.foldl (fun g p => if p.2.st == .active then g.place p.1 else g) g) := by
  induction ps generalizing g with
  | nil => exact .refl g
  | cons p r ih =>
    rw [List.foldl_cons]
    split
    · exact (g.placed_place p.1).trans (ih _)
    · exact ih g

theorem Group.resumed_spec (g : Group) : g.resumed.cause = g.cause ∧
    ∀ l, (g.resumed.threads.look l).map Thread.file = (g.threads.look l).map Thread.file := by
  have placed := Group.placed_foldl_place (g.unplaced.mapThreads fun _ th => th.resumed).threads
    (g.unplaced.mapThreads fun _ th => th.resumed)
  refine ⟨placed.cause, fun l => (placed.file l).trans ?_⟩
  rw [Group.mapThreads_threads, NMap.look_mapv, Option.map_map]
  exact congrArg (Option.map · (g.threads.look l)) (funext Thread.file_resumed)

theorem Group.clean_spec (p : Cap → Bool) (g : Group) : (g.clean p).cause = g.cause ∧
    ∀ l, ((g.clean p).threads.look l).map Thread.file = (g.threads.look l).map Thread.file := by
  refine ⟨rfl, fun l => ?_⟩
  show ((g.threads.mapv fun _ th => th.clean p).look l).map _ = _
  rw [NMap.look_mapv, Option.map_map]
  rfl

theorem Group.comesBack_look (whole : Bool) (age : Nat) (g : Group) (l : Nat) :
    ((g.comesBack whole age).threads.look l).map Thread.file = (g.threads.look l).map fun th => (th.restored whole).file := by
  show ((g.threads.mapv fun _ th => th.restored whole).look l).map _ = _
  rw [NMap.look_mapv, Option.map_map]
  rfl

/-- What a restore brings back of a group `g`. -/
structure Group.Returned (whole : Bool) (g h : Group) : Prop where
  cause : h.cause = g.cause ||| cPreempt
  files : ∀ l, (h.threads.look l).map Thread.file = (g.threads.look l).map fun th => (th.restored whole).file

/-! ### Teams (R253, R258, R267) -/

theorem Team.restored_groups (t : Team) (c : CoreId) (cycle w j : Nat) :
    (t.restored c cycle w).groups[j]? = (t.groups[j]?).map (Group.comesBack t.whole j) := by
  show (t.groups.zipIdx.map fun p => Group.comesBack t.whole p.2 p.1)[j]? = _
  rw [List.getElem?_map, List.getElem?_zipIdx, Option.map_map, Nat.zero_add]
  rfl

/-- A restored team, its capabilities filtered, before its words run. -/
def Team.cleaned (t : Team) (p : Cap → Bool) (c : CoreId) (cycle w : Nat) : Team := (t.restored c cycle w).clean p

theorem Team.cleaned_groups (t : Team) (p : Cap → Bool) (c : CoreId) (cycle w j : Nat) :
    (t.cleaned p c cycle w).groups[j]? = (t.groups[j]?).map fun g => (g.comesBack t.whole j).clean p := by
  show ((t.restored c cycle w).groups.map (Group.clean p))[j]? = _
  rw [List.getElem?_map, t.restored_groups, Option.map_map]
  rfl

/-- A restored team as it stands on its core. -/
def Team.back (t : Team) (p : Cap → Bool) (c : CoreId) (cycle w n : Nat) : Team := ((t.cleaned p c cycle w).wakeUp w).asksAgain n

theorem anyBit_preempt (w : Word) : anyBit (w ||| cPreempt) stoppingMask = anyBit w stoppingMask := by
  have off : cPreempt &&& stoppingMask = 0 := by decide
  unfold anyBit
  rw [BitVec.and_or_distrib_right, off]
  simp

/-- R258: PREEMPT stops no team. -/
theorem Team.hasStopping_cleaned (t : Team) (p : Cap → Bool) (c : CoreId) (cycle w : Nat) :
    (t.cleaned p c cycle w).hasStopping = t.hasStopping := by
  show List.any ((t.groups.zipIdx.map fun q => q.1.comesBack t.whole q.2).map (Group.clean p))
    (fun g => anyBit g.cause stoppingMask) = _
  have causes : ∀ q : Group × Nat,
      anyBit ((q.1.comesBack t.whole q.2).clean p).cause stoppingMask = anyBit q.1.cause stoppingMask := fun q => anyBit_preempt q.1.cause
  have firsts := List.any_map (l := t.groups.zipIdx) (f := Prod.fst) (p := fun g : Group => anyBit g.cause stoppingMask)
  rw [List.zipIdx_map_fst] at firsts
  rw [List.map_map, List.any_map, Team.hasStopping, firsts]
  exact congrArg (List.any t.groups.zipIdx) (funext causes)

/-- What a restore on a core brings back of a team. -/
structure Team.Returned (t u : Team) (c : CoreId) : Prop where
  core : u.core = some c
  st : u.st = if t.hasStopping = true then .stopped else .running
  groups : ∀ j : Nat, ∃ f : Group → Group, u.groups[j]? = (t.groups[j]?).map f ∧ ∀ g : Group, g.Returned t.whole (f g)

theorem Group.returned_clean (p : Cap → Bool) (whole : Bool) (age : Nat) (g : Group) :
    g.Returned whole ((g.comesBack whole age).clean p) :=
  ⟨rfl, fun l => ((Group.clean_spec p _).2 l).trans (g.comesBack_look whole age l)⟩

theorem Group.Returned.resumed {whole : Bool} {g h : Group} (r : g.Returned whole h) : g.Returned whole h.resumed :=
  ⟨h.resumed_spec.1.trans r.cause, fun l => (h.resumed_spec.2 l).trans (r.files l)⟩

theorem Team.returned_back (t : Team) (p : Cap → Bool) (c : CoreId) (cycle w n : Nat) : t.Returned (t.back p c cycle w n) c := by
  have stopping := t.hasStopping_cleaned p c cycle w
  have groups := t.cleaned_groups p c cycle w
  unfold Team.back Team.wakeUp
  split
  next h =>
    exact ⟨rfl, by rw [if_pos (stopping ▸ h)]; rfl, fun j => ⟨_, groups j, Group.returned_clean p t.whole j⟩⟩
  next h =>
    refine ⟨rfl, by rw [if_neg (stopping ▸ h)]; rfl, fun j => ⟨_, ?_, fun g => (Group.returned_clean p t.whole j g).resumed⟩⟩
    show ((t.cleaned p c cycle w).groups.map Group.resumed)[j]? = _
    rw [List.getElem?_map, groups, Option.map_map]
    rfl

theorem Team.Returned.causeOf {t u : Team} {c : CoreId} (r : t.Returned u c) (j : Nat) :
    u.causeOf j = (t.causeOf j).map fun w => w ||| cPreempt := by
  obtain ⟨f, at_, returned⟩ := r.groups j
  unfold Team.causeOf
  rw [at_, Option.map_map, Option.map_map]
  exact congrArg (Option.map · t.groups[j]?) (funext fun g => (returned g).cause)

theorem Team.Returned.thread {t u : Team} {c : CoreId} (r : t.Returned u c) {j l : Nat} {th : Thread} (h : t.thread j l = some th) :
    ∃ k, u.thread j l = some k ∧ k.file = (th.restored t.whole).file := by
  obtain ⟨f, at_, returned⟩ := r.groups j
  obtain ⟨g, hg, hl⟩ := Option.bind_eq_some_iff.1 h
  have file := (returned g).files l
  rw [hl, Option.map_some] at file
  obtain ⟨k, hk, e⟩ := Option.map_eq_some_iff.1 file
  exact ⟨k, by rw [Team.thread, at_, hg]; exact hk, e⟩

/-! ### Cores (R267, R384) -/

theorem State.core_upCore_self (s : State) (c : CoreId) (f : Core → Core) : (s.upCore c f).core c = f (s.core c) := by
  rw [State.core, State.upCore_cores, NMap.look_put, Option.getD_some]

theorem State.core_upCore_ne (s : State) {c d : CoreId} (h : coreNo d ≠ coreNo c) (f : Core → Core) :
    (s.upCore c f).core d = s.core d := by
  rw [State.core, State.upCore_cores, NMap.look_put_ne _ _ h]
  rfl

/-- What coming back does: the team stands on its core, and no other team or core has changed. -/
structure State.Restored (s : State) (id : Nat) (t : Team) (c : CoreId) (s' : State) : Prop where
  kept : s'.mem = s.mem ∧ s'.eps = s.eps ∧ s'.answers = s.answers
  team : ∃ u, s'.teams.look id = some u ∧ t.Returned u c
  teams : ∀ n, n ≠ id → s'.teams.look n = s.teams.look n
  core : (s'.core c).team = some id ∧ (s'.core c).world = t.world
  cores : ∀ d, coreNo d ≠ coreNo c → s'.core d = s.core d

/-- The state in which a team takes its core: the L1 of a core whose world changes is empty. -/
def State.leftWorld (s : State) (c : CoreId) (world : Nat) : State :=
  if (s.core c).world = world then s else s.upCoh (·.emptyL1 c)

theorem State.leftWorld_eq (s : State) (c : CoreId) (world : Nat) :
    s.leftWorld c world = { s with coh := (s.leftWorld c world).coh } := by
  unfold State.leftWorld
  split <;> rfl

theorem State.claim_eq (s : State) (c : CoreId) (world id : Nat) : s.claim c world id =
    (s.leftWorld c world).upCore c fun k => { k with world := world, team := some id } := rfl

theorem State.restored_restore {s : State} {id : Nat} {t0 : Team} (h : s.teams.look id = some t0) (t : Team) (c : CoreId) :
    s.Restored id t c (s.restore id t c) := by
  have left := s.leftWorld_eq c t.world
  have teams : (s.claim c t.world id).teams = s.teams := by rw [s.claim_eq, left]; rfl
  have cores : (s.leftWorld c t.world).cores = s.cores := by rw [left]
  refine ⟨?_, ?_, fun n hn => ?_, ?_, fun d hd => ?_⟩
  · show (s.claim c t.world id).mem = _ ∧ (s.claim c t.world id).eps = _ ∧ (s.claim c t.world id).answers = _
    rw [s.claim_eq, left]
    exact ⟨rfl, rfl, rfl⟩
  · refine ⟨_, ?_, t.returned_back ((s.claim c t.world id).covered t.ctx) c ((s.claim c t.world id).core c).cycle (widthOf c)
      (s.claim c t.world id).asks⟩
    show ((s.claim c t.world id).teams.upd id _).look id = _
    rw [teams, NMap.look_upd, h, Option.map_some]
    rfl
  · show ((s.claim c t.world id).teams.upd id _).look n = _
    rw [teams, NMap.look_upd_ne _ _ hn]
  · have took := (s.leftWorld c t.world).core_upCore_self c fun k => { k with world := t.world, team := some id }
    exact ⟨congrArg Core.team took, congrArg Core.world took⟩
  · have stays := (s.leftWorld c t.world).core_upCore_ne hd fun k => { k with world := t.world, team := some id }
    refine stays.trans ?_
    unfold State.core
    rw [cores]

/-! ### Clusters (R267) -/

/-- What coming back of teams, each on the core that `f` names, does. -/
structure State.RestoredAll (s : State) (f : Team → CoreId) (ts : List (Nat × Team)) (s' : State) : Prop where
  kept : s'.mem = s.mem ∧ s'.eps = s.eps ∧ s'.answers = s.answers
  back : ∀ p ∈ ts, (∃ u, s'.teams.look p.1 = some u ∧ p.2.Returned u (f p.2)) ∧
    (s'.core (f p.2)).team = some p.1 ∧ (s'.core (f p.2)).world = p.2.world
  teams : ∀ n, (∀ p ∈ ts, n ≠ p.1) → s'.teams.look n = s.teams.look n
  cores : ∀ d, (∀ p ∈ ts, coreNo d ≠ coreNo (f p.2)) → s'.core d = s.core d

/-- The teams of a cluster come back one after the other. -/
def State.restoreAll (s : State) (f : Team → CoreId) (ts : List (Nat × Team)) : State :=
  ts.foldl (fun s p => s.restore p.1 p.2 (f p.2)) s

theorem State.restoredAll (f : Team → CoreId) {ts : List (Nat × Team)} {s : State} (held : ∀ p ∈ ts, ∃ t, s.teams.look p.1 = some t)
    (apart : ts.Pairwise fun p q => p.1 ≠ q.1 ∧ coreNo (f p.2) ≠ coreNo (f q.2)) : s.RestoredAll f ts (s.restoreAll f ts) := by
  induction ts generalizing s with
  | nil => exact ⟨⟨rfl, rfl, rfl⟩, fun _ hp => absurd hp List.not_mem_nil, fun _ _ => rfl, fun _ _ => rfl⟩
  | cons p r ih =>
    obtain ⟨here, rest⟩ := List.pairwise_cons.1 apart
    obtain ⟨t0, h0⟩ := held p List.mem_cons_self
    have first := State.restored_restore h0 p.2 (f p.2)
    have others : ∀ q ∈ r, ∃ t, (s.restore p.1 p.2 (f p.2)).teams.look q.1 = some t := fun q hq => by
      rw [first.teams q.1 (here q hq).1.symm]
      exact held q (List.mem_cons_of_mem _ hq)
    have after := ih others rest
    have core := after.cores (f p.2) fun q hq => (here q hq).2
    refine ⟨?_, fun q hq => ?_, fun n hn => ?_, fun d hd => ?_⟩
    · obtain ⟨m1, e1, a1⟩ := first.kept
      obtain ⟨m2, e2, a2⟩ := after.kept
      exact ⟨m2.trans m1, e2.trans e1, a2.trans a1⟩
    · rcases List.mem_cons.1 hq with rfl | hr
      · have team := after.teams q.1 fun x hx => (here x hx).1
        show (∃ u, ((s.restore q.1 q.2 (f q.2)).restoreAll f r).teams.look q.1 = some u ∧ _) ∧ _
        rw [team]
        refine ⟨first.team, ?_⟩
        exact ⟨(congrArg Core.team core).trans first.core.1, (congrArg Core.world core).trans first.core.2⟩
      · exact after.back q hr
    · exact (after.teams n fun q hq => hn q (List.mem_cons_of_mem _ hq)).trans (first.teams n (hn p List.mem_cons_self))
    · exact (after.cores d fun q hq => hd q (List.mem_cons_of_mem _ hq)).trans (first.cores d (hd p List.mem_cons_self))

/-- R268: the answers that wait for teams that run land. -/
def State.landAll (s : State) (ts : List (Nat × Team)) : State :=
  ts.foldl (fun s p => match s.teams.look p.1 with
    | some u => if u.st == .running then s.landHeld p.1 else s
    | none => s) s

theorem State.stands_landAll (s : State) (ts : List (Nat × Team)) : s.Stands (s.landAll ts) := by
  refine .foldl (fun s p => ?_) _ _
  split
  · split
    · exact s.stands_landHeld p.1
    · exact .refl s
  · exact .refl s

theorem State.landHeld_of_none {s : State} (h : s.answers = []) (id : Nat) : s.landHeld id = s := by
  rw [State.landHeld, h]
  rfl

theorem State.serveAll_of_none {s : State} (h : s.eps = []) : s.serveAll = s := by
  rw [State.serveAll, h]
  rfl

theorem State.landAll_of_none {s : State} (h : s.answers = []) (ts : List (Nat × Team)) : s.landAll ts = s := by
  induction ts with
  | nil => rfl
  | cons p r ih =>
    have land : (match s.teams.look p.1 with
      | some u => if u.st == .running then s.landHeld p.1 else s
      | none => s) = s := by
      rw [State.landHeld_of_none h]
      split
      · split <;> rfl
      · rfl
    unfold State.landAll
    rw [List.foldl_cons, land]
    exact ih

/-! ### The step (R16, R267, R282, R325, R384, R386) -/

/-- Teams that may come back together, the first of them `t`. -/
structure State.MayReturn (s : State) (ts : List (Nat × Team)) (t : Team) : Prop where
  teams : s.clusterTeams s.ev.id s.ev.m s.ev.n = ts
  first : ts.head?.map (·.2) = some t
  runs : ∃ x, s.ctxs.look t.ctx = some x ∧ x.st = .runnable
  world : s.worldOk t.world = true
  epoch : (s.slotOf t.world).epoch = t.epoch
  widths : ∀ p ∈ ts, p.2.w = widthOf s.ev.core2
  settled : ∀ p ∈ s.coh.stale, p.1 % 10 ≠ s.ev.core2.die
  room : s.rectFree t.ctx t.sched t.groups.length t.carve s.ev.core2 t.cw t.ch = true
  saved : ∀ p ∈ ts, p.2.st = .saved
  carves : ∀ p ∈ ts, carveOk (rectCore s.ev.core2 t.cw t.ch p.2.idx) p.2.groups.length p.2.carve = true

theorem State.Returns.mayReturn {s : State} {ts : List (Nat × Team)} {t : Team} (h : s.Returns ts t) : s.MayReturn ts t :=
  ⟨h.teams, h.first, h.runs, h.world, h.epoch, h.widths, h.settled, h.room, h.saved, h.carves⟩

theorem State.Restorable.mayReturn {s : State} {id : Nat} {t : Team} {c : CoreId} (h : s.Restorable id t c) :
    s.MayReturn [(id, t)] t where
  teams := h.alone
  first := rfl
  runs := h.runs
  world := h.world
  epoch := h.epoch
  widths := fun _ hp => List.mem_singleton.1 hp ▸ h.width
  settled := h.settled
  room := h.room
  saved := fun _ hp => List.mem_singleton.1 hp ▸ h.saved
  carves := fun _ hp => List.mem_singleton.1 hp ▸ h.core ▸ h.carve

/-- The core of a rectangle that a team's index names. -/
def Team.coreIn (t : Team) (nw : CoreId) (x : Team) : CoreId := rectCore nw t.cw t.ch x.idx

theorem State.MayReturn.step {s : State} {ts : List (Nat × Team)} {t : Team} (h : s.MayReturn ts t) :
    exec .teamRestore s = enabled s (some ((s.restoreAll (t.coreIn s.ev.core2) ts).landAll ts).serveAll) := by
  obtain ⟨p, head, rfl⟩ := Option.map_eq_some_iff.1 h.first
  obtain ⟨x, ctx, runs⟩ := h.runs
  have stale : (s.coh.stale.any fun q => q.1 % 10 == s.ev.core2.die) = false :=
    List.any_eq_false.2 fun q hq => by simpa using h.settled q hq
  have saved : (ts.all fun q => q.2.st == .saved) = true := List.all_eq_true.2 fun q hq => by simpa using h.saved q hq
  have widths : (ts.all fun q => q.2.w == widthOf s.ev.core2) = true :=
    List.all_eq_true.2 fun q hq => by simpa using h.widths q hq
  have carves := List.all_eq_true.2 h.carves
  show execTeamRestore s = _
  unfold execTeamRestore
  simp only [h.teams, head, ctx, runs, h.world, h.epoch, saved, widths, stale, h.room, carves,
    beq_self_eq_true, bne_self_eq_false, Bool.not_true, Bool.or_self, Bool.false_eq_true, if_false]
  rfl

theorem NMap.look_of_mem {α : Type} {m : NMap α} (h : NMap.rising m = true) {n : Nat} {a : α} (hm : (n, a) ∈ m) :
    m.look n = some a := by
  rw [NMap.rising_iff] at h
  induction m with
  | nil => cases hm
  | cons p r ih =>
    obtain ⟨below, rest⟩ := List.pairwise_cons.1 h
    rcases List.mem_cons.1 hm with rfl | hr
    · simp [NMap.look]
    · rw [NMap.look, if_neg (below _ hr).ne, ih rest hr]

theorem State.Returns.held {s : State} {ts : List (Nat × Team)} {t : Team} (h : s.Returns ts t) {p : Nat × Team} (hp : p ∈ ts) :
    s.teams.look p.1 = some p.2 :=
  NMap.look_of_mem h.rising (List.mem_filter.1 (h.teams ▸ hp)).1

theorem State.Returns.pairwise {s : State} {ts : List (Nat × Team)} {t : Team} (h : s.Returns ts t) :
    ts.Pairwise fun p q => p.1 ≠ q.1 ∧ coreNo (t.coreIn s.ev.core2 p.2) ≠ coreNo (t.coreIn s.ev.core2 q.2) := by
  have rising : ts.Pairwise fun p q => p.1 < q.1 := h.teams ▸ ((NMap.rising_iff _).1 h.rising).filter _
  exact rising.imp_of_mem fun hp hq below => ⟨below.ne, h.apart _ hp _ hq below.ne⟩

/-- Settles O38: the teams come back one after the other, each on its own core of the rectangle, and what waits for them then changes
neither cores nor causes nor states; where nothing waits, a thread is as its team's restore left it. -/
theorem teamsRestored : Obligations.TeamsRestored := by
  unfold Obligations.TeamsRestored
  refine ⟨fun s ts t h => ?_, fun s id t c h noEps noAnswers => ?_⟩
  · have all := State.restoredAll (t.coreIn s.ev.core2) (fun p hp => ⟨_, h.held hp⟩) h.pairwise
    have stands := (State.stands_landAll (s.restoreAll (t.coreIn s.ev.core2) ts) ts).trans (State.stands_serveAll _)
    refine happens_enabled h.mayReturn.step rfl ⟨fun n x hx => ?_, fun n hn => ?_⟩
    · obtain ⟨⟨u, team, returned⟩, owner, world⟩ := all.back _ hx
      obtain ⟨v, now, as⟩ := stands.look team
      have core := stands.core (t.coreIn s.ev.core2 x)
      refine ⟨(congrArg Core.team core).trans owner, (congrArg Core.world core).trans world, v, now, ?_, ?_, fun j => ?_⟩
      · exact (congrArg Prod.fst as).trans returned.core
      · exact (congrArg (·.2.1) as).trans returned.st
      · rw [v.causeOf_eq, as, ← u.causeOf_eq, returned.causeOf]
    · have same := congrArg (Option.map fun q => (q.1, q.2.1)) (stands.teams n)
      rw [Option.map_map, Option.map_map, all.teams n fun p hp e => hn p.2 (e ▸ hp)] at same
      exact same
  · have all := State.restoredAll (s := s) (t.coreIn s.ev.core2) (ts := [(id, t)])
      (fun p hp => ⟨t, List.mem_singleton.1 hp ▸ h.held⟩) (List.pairwise_singleton _ _)
    obtain ⟨mem, eps, answers⟩ := all.kept
    have step := h.mayReturn.step
    rw [State.landAll_of_none (answers.trans noAnswers), State.serveAll_of_none (eps.trans noEps)] at step
    obtain ⟨⟨u, team, returned⟩, owner, world⟩ := all.back _ (List.mem_singleton.2 rfl)
    rw [← show c = t.coreIn s.ev.core2 t from h.core] at returned owner world
    refine happens_enabled step rfl ⟨mem, fun n hn => all.teams n fun p hp => List.mem_singleton.1 hp ▸ hn, owner, world, u, team,
      returned.core, returned.st, returned.causeOf, fun j l th hth => ?_⟩
    obtain ⟨k, hk, file⟩ := returned.thread hth
    rw [Thread.file_restored] at file
    simp only [Thread.file, Prod.mk.injEq] at file
    exact ⟨k, hk, file⟩

end Sys2Proof.Machine
end

section
/-! SUPPORT. Words that act lane by lane, and the Long class, by what `exec` is on them; then the words of FP, packed and conversion
arithmetic (R101-R111). -/

namespace Sys2Proof.Machine

open Sys2Proof

/-! ### Words of a rule (R11, R12, R91) -/

/-- A rule holds of its words when `exec` evaluates it in every visited lane. -/
theorem laneWords_of_exec {rule : Instr → Option LaneRule} {kind : PendKind} {lat : Nat}
    (h : ∀ ins f, rule ins = some f → ∀ s, exec ins s = laneWord ins kind lat s f) :
    LaneWords rule kind lat ∧ LaneRaises rule := by
  refine ⟨fun ins f hf s i outs hi hl he => ?_, fun ins f hf s i cs hi hl he => ?_⟩
  · rw [h ins f hf]; exact laneWord_ok hi hl kind lat he
  · rw [h ins f hf]; exact laneWord_error hi hl kind lat he

theorem longWord_error {s : State} {i : Issue} (hi : s.issue = some i) {ins : Instr} (hl : illegalAt ins i.t.nreg i.w = false)
    {f : LongRule} {cs : List (Nat × Word)} (he : i.each (f i) = .error cs) :
    ∃ t, longWord ins s f = .next t ∧ i.Raises cs [] t :=
  ⟨_, by simp only [longWord, wordDo_ok hi hl, he], Issue.raise_raises hi cs⟩

theorem longWord_ok {s : State} {i : Issue} (hi : s.issue = some i) {ins : Instr} (hl : illegalAt ins i.t.nreg i.w = false)
    {f : LongRule} {rs : List (Nat × (List Upd × Word))} (he : i.each (f i) = .ok rs) :
    ∃ t, longWord ins s f = .next t ∧
      i.Commits ins .alu 0 false (rs.map fun p => (p.1, { LaneOut.nil with fps := p.2.2 }))
        { i.t.withOp (!rs.isEmpty) (i.op (rs.map (·.1)) 0 (landingOf (·.1) rs)) with
          sfuBusy := i.core.cycle + (i.x.lanes.length + 15) / 16 } t := by
  have commits := Issue.commitOp_commits hi ins (rs.map fun p => (p.1, { LaneOut.nil with fps := p.2.2 }))
    (i.op (rs.map (·.1)) 0 (landingOf (·.1) rs))
  rw [List.isEmpty_map] at commits
  refine ⟨_, (wordDo_ok hi hl _).trans (by rw [he]; rfl), commits.upTeam
    (fun t => { t with sfuBusy := i.core.cycle + (i.x.lanes.length + 15) / 16 }) fun u after => ?_⟩
  rw [after.kept]

/-! ### Shapes of floating-point words (R42, R101) -/

theorem srBits_eq (t : Thread) (m : RMode) : srBits t m = randomBits t m := by
  cases m <;> simp only [srBits, randomBits, reduceCtorEq, if_true, if_false]
  cases rdB t 0 <;> rfl

theorem fp1_eq (ins : Instr) (d : Dst) (a : SrcD) (m : RMode) (f : RMode → Nat → Word → Word × Word) (s : State) :
    fp1 ins d a m f s = laneWord ins .alu 4 s (fpRule1 d a m (f m)) := by
  simp only [fp1, srBits_eq]
  rfl

theorem fp2_eq (ins : Instr) (d : Dst) (a b : SrcD) (m : RMode) (f : RMode → Nat → Word → Word → Word × Word) (s : State) :
    fp2 ins d a b m f s = laneWord ins .alu 4 s (fpRule2 d a b m (f m)) := by
  simp only [fp2, srBits_eq]
  rfl

/-! ### Values of words (R102, R105, R107) -/

theorem packed2_eq (f : Nat → Nat → Nat × Word) : packed2 f = halves f := by
  funext a b
  simp only [packed2, halves, Nat.add_comm, Nat.mul_comm]
  rfl

theorem packed3_eq (f : Nat → Nat → Nat → Nat × Word) : packed3 f = halves3 f := by
  funext a b c
  simp only [packed3, halves3, Nat.add_comm, Nat.mul_comm]
  rfl

/-- Two words are equal when their signs and their other 31 bits are. -/
theorem word_eq_of_parts {x y : Word} (low : x.toNat % 2 ^ 31 = y.toNat % 2 ^ 31) (top : x.toNat / 2 ^ 31 = y.toNat / 2 ^ 31) :
    x = y :=
  BitVec.eq_of_toNat_eq (by omega)

theorem toNat_lowMask : (0x7FFFFFFF#32).toNat = 2 ^ 31 - 1 := by norm_num
theorem toNat_topBit : (0x80000000#32).toNat = 2 ^ 31 := by norm_num

theorem fabsW_eq (x : Word) : fabsW x = BitVec.ofNat 32 (x.toNat % 2 ^ 31) := by
  apply BitVec.eq_of_toNat_eq
  rw [fabsW, BitVec.toNat_and, toNat_lowMask, Nat.and_two_pow_sub_one_eq_mod, BitVec.toNat_ofNat]
  omega

theorem toNat_and_topBit (x : Word) : (x &&& 0x80000000#32).toNat = x.toNat / 2 ^ 31 * 2 ^ 31 := by
  have split : x.toNat / 2 ^ 31 = 0 ∨ x.toNat / 2 ^ 31 = 1 := by omega
  have low : (x &&& 0x80000000#32).toNat % 2 ^ 31 = 0 := by
    rw [BitVec.toNat_and, toNat_topBit, Nat.and_mod_two_pow, Nat.mod_self, Nat.and_zero]
  have top : (x &&& 0x80000000#32).toNat / 2 ^ 31 = x.toNat / 2 ^ 31 := by
    rw [BitVec.toNat_and, toNat_topBit, Nat.and_div_two_pow, Nat.div_self (by norm_num)]
    rcases split with h | h <;> rw [h] <;> rfl
  omega

theorem fnegW_eq (x : Word) : fnegW x = BitVec.ofNat 32 (x.toNat + 2 ^ 31) := by
  have split : x.toNat / 2 ^ 31 = 0 ∨ x.toNat / 2 ^ 31 = 1 := by omega
  have sum : (BitVec.ofNat 32 (x.toNat + 2 ^ 31)).toNat = (x.toNat + 2 ^ 31) % 2 ^ 32 := BitVec.toNat_ofNat _ _
  refine word_eq_of_parts ?_ ?_
  · rw [sum, fnegW, BitVec.toNat_xor, toNat_topBit, Nat.xor_mod_two_pow, Nat.mod_self, Nat.xor_zero]
    omega
  · rw [sum, fnegW, BitVec.toNat_xor, toNat_topBit, Nat.xor_div_two_pow, Nat.div_self (by norm_num)]
    rcases split with h | h
    · rw [h, Nat.zero_xor]; omega
    · rw [h, Nat.xor_self]; omega

theorem fcopysignW_eq (x y : Word) : fcopysignW x y = BitVec.ofNat 32 (x.toNat % 2 ^ 31 + y.toNat / 2 ^ 31 * 2 ^ 31) := by
  have split : y.toNat / 2 ^ 31 = 0 ∨ y.toNat / 2 ^ 31 = 1 := by omega
  have below : x.toNat % 2 ^ 31 < 2 ^ 31 := Nat.mod_lt _ (by norm_num)
  apply BitVec.eq_of_toNat_eq
  rw [fcopysignW, BitVec.toNat_or, toNat_and_topBit, BitVec.toNat_and, toNat_lowMask, Nat.and_two_pow_sub_one_eq_mod,
    Nat.or_comm, Nat.mul_comm, ← Nat.two_pow_add_eq_or_of_lt below, BitVec.toNat_ofNat]
  omega

/-! ### Fields of words (R38, R107) -/

theorem testBit_sum_bits (f : Nat → Bool) (n j : Nat) :
    (∑ k ∈ Finset.range n, if f k then 2 ^ k else 0) < 2 ^ n ∧
      (∑ k ∈ Finset.range n, if f k then 2 ^ k else 0).testBit j = (decide (j < n) && f j) := by
  induction n with
  | zero => simp
  | succ n ih =>
    obtain ⟨small, bits⟩ := ih
    rw [Finset.sum_range_succ]
    generalize (∑ k ∈ Finset.range n, if f k then 2 ^ k else 0) = a at small bits
    have sum : (a + if f n then 2 ^ n else 0) = 2 ^ n * (f n).toNat + a := by cases f n <;> simp [Nat.add_comm]
    rw [sum]
    refine ⟨?_, ?_⟩
    · have := Bool.toNat_le (f n)
      rw [pow_succ]
      nlinarith
    · rw [Nat.testBit_two_pow_mul_add _ small, bits]
      rcases lt_trichotomy j n with h | rfl | h
      · simp [h, Nat.lt_succ_of_lt h]
      · cases f j <;> simp
      · have : (f n).toNat.testBit (j - n) = false :=
          Nat.testBit_lt_two_pow (lt_of_le_of_lt (Bool.toNat_le _) (Nat.one_lt_two_pow (by omega)))
        simp [not_lt.2 h.le, show ¬ j < n + 1 by omega, this]

theorem getLsbD_bitsOf (f : Nat → Bool) (k : Nat) : (bitsOf f).getLsbD k = (decide (k < 32) && f k) := by
  rw [bitsOf, BitVec.getLsbD_ofNat, (testBit_sum_bits f 32 k).2, ← Bool.and_assoc, Bool.and_self]

/-- The bits of a number with one field replaced. -/
theorem testBit_replace (old lo width code j : Nat) :
    (old - old / 2 ^ lo % 2 ^ width * 2 ^ lo + code % 2 ^ width * 2 ^ lo).testBit j =
      if lo ≤ j ∧ j < lo + width then code.testBit (j - lo) else old.testBit j := by
  have parts : old - old / 2 ^ lo % 2 ^ width * 2 ^ lo + code % 2 ^ width * 2 ^ lo =
      2 ^ lo * (2 ^ width * (old / 2 ^ lo / 2 ^ width) + code % 2 ^ width) + old % 2 ^ lo := by
    have h1 := Nat.div_add_mod old (2 ^ lo)
    have h2 := Nat.div_add_mod (old / 2 ^ lo) (2 ^ width)
    have h3 : old = 2 ^ lo * (2 ^ width * (old / 2 ^ lo / 2 ^ width) + old / 2 ^ lo % 2 ^ width) + old % 2 ^ lo := by rw [h2, h1]
    have h4 : old - old / 2 ^ lo % 2 ^ width * 2 ^ lo = 2 ^ lo * (2 ^ width * (old / 2 ^ lo / 2 ^ width)) + old % 2 ^ lo :=
      Nat.sub_eq_of_eq_add (by linarith)
    rw [h4]
    ring
  rw [parts, Nat.testBit_two_pow_mul_add _ (Nat.mod_lt _ (Nat.two_pow_pos _)),
    Nat.testBit_two_pow_mul_add _ (Nat.mod_lt _ (Nat.two_pow_pos _)), Nat.testBit_mod_two_pow, Nat.testBit_mod_two_pow]
  simp only [Nat.testBit_div_two_pow]
  by_cases below : j < lo
  · simp [below, not_le.2 below]
  · by_cases inside : j < lo + width
    · simp [below, not_lt.1 below, inside, show j - lo < width by omega]
    · simp [below, inside, show ¬ j - lo < width by omega, show j - lo - width + width + lo = j by omega]

theorem putField_eq (f : NFmt) (old : Word) (slot code : Nat) : putField old slot (nfField f) code = withCode f slot old code := by
  apply BitVec.eq_of_getLsbD_eq
  intro k hk
  rw [withCode, getLsbD_bitsOf, putField, BitVec.getLsbD_ofNat, testBit_replace, Nat.succ_mul]
  rfl

theorem oldOf_eq (i : Issue) (t : Thread) (d : Dst) : i.oldOf t d = i.prior t d := by
  cases d <;> rfl

theorem execPk_eq (d : Dst) (a : SrcD) (f : NFmt) (slot : Fin 8) (sat : Bool) (m : RMode) (s : State) :
    execPk d a f slot sat m s = laneWord (.pk d a f slot sat m) .alu 4 s (fun i l t => do
      let x ← i.src l t a.sel
      let old ← i.prior t d
      let r ← randomBits t m
      i.result t d (withCode f slot.val old (pkF f m sat r x.toNat).1) (pkF f m sat r x.toNat).2) := by
  simp only [execPk, srBits_eq, oldOf_eq, putField_eq]
  rfl

/-! ### The words of the rule -/

/-- R102, R105-R111: `exec` evaluates the rule of every FP, packed and conversion word in each visited lane. -/
theorem exec_floatRule {ins : Instr} {f : LaneRule} (h : floatRule ins = some f) (s : State) :
    exec ins s = laneWord ins .alu 4 s f := by
  unfold floatRule at h
  split at h <;> cases h
  next d a b m => exact fp2_eq (.fadd d a b m) d a b m fadd32 s
  next d a b m => exact fp2_eq (.fsub d a b m) d a b m fsub32 s
  next d a b m => exact fp2_eq (.fmul d a b m) d a b m fmul32 s
  next => rfl
  next d a b => exact fp2_eq (.fmin d a b) d a b .rne (fun _ _ => onNat2 (fp32.minNum false)) s
  next d a b => exact fp2_eq (.fmax d a b) d a b .rne (fun _ _ => onNat2 (fp32.minNum true)) s
  next d a b => exact fp2_eq (.fminp d a b) d a b .rne (fun _ _ => onNat2 (fp32.minProp false)) s
  next d a b => exact fp2_eq (.fmaxp d a b) d a b .rne (fun _ _ => onNat2 (fp32.minProp true)) s
  next d a => exact congrArg (fun f => alu1 (.fabs d a) d a f s) (funext fabsW_eq)
  next d a => exact congrArg (fun f => alu1 (.fneg d a) d a f s) (funext fnegW_eq)
  next d a b => exact congrArg (fun f => alu2 (.fcopysign d a b) d a b f s) (funext₂ fcopysignW_eq)
  next d a m => exact fp1_eq (.frnd d a m) d a m (fun m r => onNat1 (frndF m r)) s
  next d a b m => exact fp2_eq (.fscale d a b m) d a b m (fun m r x y => fw (fscaleF m r x.toNat y.toInt)) s
  next d a => exact fp1_eq (.fgetexp d a) d a .rne (fun _ _ => onNat1 fgetexpF) s
  next d a => exact fp1_eq (.fgetman d a) d a .rne (fun _ _ => onNat1 fgetmanF) s
  next d a b => rw [← packed2_eq]; exact fp2_eq (.hadd2Bf16 d a b) d a b .rne (fun _ _ => packed2 (fmtBf16.add .rne 0)) s
  next d a b => rw [← packed2_eq]; exact fp2_eq (.hmul2Bf16 d a b) d a b .rne (fun _ _ => packed2 (fmtBf16.mul .rne 0)) s
  next d a b c => exact congrArg (fun f => fp3 (.hfma2Bf16 d a b c) d a b c f s) (packed3_eq _)
  next d a b => rw [← packed2_eq]; exact fp2_eq (.hadd2F16 d a b) d a b .rne (fun _ _ => packed2 (fmtF16.add .rne 0)) s
  next d a b => rw [← packed2_eq]; exact fp2_eq (.hmul2F16 d a b) d a b .rne (fun _ _ => packed2 (fmtF16.mul .rne 0)) s
  next d a b c => exact congrArg (fun f => fp3 (.hfma2F16 d a b c) d a b c f s) (packed3_eq _)
  next => rfl
  next => rfl
  next d a f slot sat m => exact execPk_eq d a f slot sat m s
  next => rfl
  next d a m => exact fp1_eq (.cvtF32I32 d a m) d a m (fun m r x => fw (cvtFromInt m r x.toInt)) s
  next d a m => exact fp1_eq (.cvtF32N32 d a m) d a m (fun m r x => fw (cvtFromInt m r x.toNat)) s
  next d a sat m => exact fp1_eq (.cvtI32F32 d a sat m) d a m (fun m r x => cvtToInt (-2147483648) 2147483647 m sat r x.toNat) s
  next d a sat m => exact fp1_eq (.cvtN32F32 d a sat m) d a m (fun m r x => cvtToInt 0 4294967295 m sat r x.toNat) s
  next fp h1 h2 =>
    obtain ⟨op1, d1, a1, b1⟩ := h1
    obtain ⟨op2, d2, a2, b2⟩ := h2
    cases d1 <;> cases d2 <;> rfl

theorem floatWords_lanes : LaneWords floatRule .alu 4 ∧ LaneRaises floatRule :=
  laneWords_of_exec fun _ _ h s => exec_floatRule h s

end Sys2Proof.Machine
end

section
/-! SUPPORT. The magnitudes of FP32 codes with unbounded exponents (R35), and the tail that a rounding discards (R41, R42). -/

namespace Sys2Proof.Machine

open Sys2Proof

/-! ### Magnitudes of codes (R34, R35) -/

/-- The value of a magnitude code, exponents unbounded: it goes on past the largest finite code. -/
noncomputable def fpMag (c : Nat) : ℝ :=
  if c < 2 ^ 23 then c * 2 ^ (-149 : ℤ) else (2 ^ 23 + c % 2 ^ 23 : Nat) * 2 ^ ((c / 2 ^ 23 : Nat) - 150 : ℤ)

/-- The codes of the largest finite magnitude and of infinity. -/
abbrev fpTop : Nat := 0x7F7FFFFF
abbrev fpInf : Nat := 0x7F800000

/-- A magnitude is a number of units of its binade. -/
theorem fpMag_grid {k n : Nat} (small : n < 2 ^ 24) (normal : k = 0 ∨ 2 ^ 23 ≤ n) :
    fpMag (k * 2 ^ 23 + n) = n * 2 ^ (k - 149 : ℤ) := by
  unfold fpMag
  by_cases h : n < 2 ^ 23
  · obtain rfl : k = 0 := by omega
    rw [if_pos (by omega)]
    norm_num
  · have quotient : (k * 2 ^ 23 + n) / 2 ^ 23 = k + 1 := by omega
    have fraction : 2 ^ 23 + (k * 2 ^ 23 + n) % 2 ^ 23 = n := by omega
    rw [if_neg (by omega), quotient, fraction]
    congr 2
    push_cast
    ring

theorem fpMag_grid_succ {k n : Nat} (small : n < 2 ^ 24) (normal : k = 0 ∨ 2 ^ 23 ≤ n) :
    fpMag (k * 2 ^ 23 + n + 1) = (n + 1) * 2 ^ (k - 149 : ℤ) := by
  by_cases h : n + 1 < 2 ^ 24
  · rw [Nat.add_assoc, fpMag_grid h (by omega)]
    push_cast
    rfl
  · obtain rfl : n = 2 ^ 24 - 1 := by omega
    have next : k * 2 ^ 23 + (2 ^ 24 - 1) + 1 = (k + 1) * 2 ^ 23 + 2 ^ 23 := by omega
    have double : (2 : ℝ) ^ ((k + 1 : Nat) - 149 : ℤ) = 2 * 2 ^ (k - 149 : ℤ) := by
      rw [show ((k + 1 : Nat) - 149 : ℤ) = 1 + (k - 149) by push_cast; ring, zpow_add₀ two_ne_zero, zpow_one]
    rw [next, fpMag_grid (by norm_num) (.inr le_rfl), double]
    push_cast
    ring

theorem exists_grid (c : Nat) : ∃ k n, n < 2 ^ 24 ∧ (k = 0 ∨ 2 ^ 23 ≤ n) ∧ c = k * 2 ^ 23 + n :=
  ⟨c / 2 ^ 23 - 1, c - (c / 2 ^ 23 - 1) * 2 ^ 23, by omega, by omega, by omega⟩

theorem strictMono_fpMag : StrictMono fpMag := by
  refine strictMono_nat_of_lt_succ fun c => ?_
  obtain ⟨k, n, small, normal, rfl⟩ := exists_grid c
  rw [fpMag_grid small normal, fpMag_grid_succ small normal]
  have : (0 : ℝ) < 2 ^ (k - 149 : ℤ) := by positivity
  linarith

@[simp] theorem fpMag_zero : fpMag 0 = 0 := by simp [fpMag]

theorem fpMag_nonneg (c : Nat) : 0 ≤ fpMag c := fpMag_zero ▸ strictMono_fpMag.monotone (Nat.zero_le c)

theorem fpMag_inf : fpMag fpInf = 2 ^ 128 := by
  have := fpMag_grid (k := 254) (n := 2 ^ 23) (by norm_num) (.inr le_rfl)
  norm_num at this ⊢
  exact this

theorem fpMag_top : fpMag fpTop = (fpMost : ℝ) := by
  have := fpMag_grid (k := 253) (n := 2 ^ 24 - 1) (by norm_num) (.inr (by norm_num))
  norm_num [fpMost] at this ⊢
  exact this

/-- The least normal magnitude. -/
theorem fpMag_normal : fpMag (2 ^ 23) = 2 ^ (-126 : ℤ) := by
  have := fpMag_grid (k := 0) (n := 2 ^ 23) (by norm_num) (.inl rfl)
  norm_num at this ⊢
  exact this

/-! ### Codes and words -/

/-- The factor of a sign. -/
def signOf (s : Bool) : ℝ := if s then -1 else 1

@[simp] theorem signOf_true : signOf true = -1 := rfl
@[simp] theorem signOf_false : signOf false = 1 := rfl

theorem abs_signOf_mul (s : Bool) (x : ℝ) : |signOf s * x| = |x| := by cases s <;> simp

/-- The magnitude code of a word. -/
def magOf (w : Word) : Nat := w.toNat % 2 ^ 31

theorem fpFinite_iff {w : Word} : fpFinite w ↔ magOf w ≤ fpTop := by
  unfold fpFinite magOf fpTop
  omega

theorem fpInfinite_iff {w : Word} : fpInfinite w ↔ magOf w = fpInf := Iff.rfl

theorem fp32_sign (w : Word) : fp32.sign w.toNat = true ↔ fpNegative w := by
  have bit : fp32.signBit = 2 ^ 31 := rfl
  simp only [FFmt.sign, bit, fpNegative, beq_iff_eq]
  omega

theorem fpVal_eq (w : Word) : (fpVal w : ℝ) = signOf (fp32.sign w.toNat) * fpMag (magOf w) := by
  have field : w.toNat / 2 ^ 23 % 2 ^ 8 = magOf w / 2 ^ 23 := by unfold magOf; omega
  have mantissa : w.toNat % 2 ^ 23 = magOf w % 2 ^ 23 := by unfold magOf; omega
  have sign : ((if 2 ^ 31 ≤ w.toNat then -1 else 1 : ℚ) : ℝ) = signOf (fp32.sign w.toNat) := by
    unfold signOf
    simp only [fp32_sign, fpNegative, apply_ite (Rat.cast (K := ℝ)), Rat.cast_neg, Rat.cast_one]
  simp only [fpVal, field, mantissa]
  rw [Rat.cast_mul, sign]
  congr 1
  generalize magOf w = c
  unfold fpMag
  by_cases h : c < 2 ^ 23
  · rw [if_pos h, if_pos (Nat.div_eq_of_lt h), Nat.mod_eq_of_lt h]
    push_cast
    rw [show (-149 : ℤ) = -126 + -23 by norm_num, zpow_add₀ two_ne_zero]
    norm_num
    ring
  · rw [if_neg h, if_neg (by omega), show ((c / 2 ^ 23 : Nat) - 150 : ℤ) = ((c / 2 ^ 23 : Nat) - 127) + -23 by ring,
      zpow_add₀ two_ne_zero]
    push_cast
    norm_num
    ring

/-- The word of a signed magnitude code. -/
theorem word_signed {s : Bool} {c : Nat} (h : c ≤ fpInf) :
    magOf (BitVec.ofNat 32 (fp32.signed s c)) = c ∧ fp32.sign (BitVec.ofNat 32 (fp32.signed s c)).toNat = s := by
  have bit : fp32.signBit = 2 ^ 31 := rfl
  have small : fp32.signed s c < 2 ^ 32 := by
    unfold FFmt.signed fpInf at *
    rw [bit]
    split <;> omega
  rw [magOf, BitVec.toNat_ofNat, Nat.mod_eq_of_lt small]
  unfold FFmt.sign FFmt.signed fpInf at *
  rw [bit]
  cases s
  · refine ⟨by simp; omega, ?_⟩
    rw [if_neg (by simp), Nat.div_eq_of_lt (by omega)]
    rfl
  · refine ⟨by simp; omega, ?_⟩
    rw [if_pos rfl, show (c + 2 ^ 31) / 2 ^ 31 = 1 by omega]
    rfl

/-! ### Discarded tails (R41, R42) -/

/-- R41, R42: a magnitude with the tail `t` of a unit rounds away from zero, `odd` when its whole part is. -/
def roundsAway (mode : RMode) (s odd : Bool) (r : Nat) (t : ℝ) : Prop :=
  match mode with
  | .rne => 1 / 2 < t ∨ t = 1 / 2 ∧ odd = true
  | .rz => False
  | .rd => s = true ∧ t ≠ 0
  | .ru => s = false ∧ t ≠ 0
  | .sr => t ≠ 0 ∧ if s then ⌊(1 - t) * 65536⌋ + (r : ℤ) < 65536 else 65536 ≤ ⌊t * 65536⌋ + (r : ℤ)

/-- The tail `t` as the machine holds it: everything that a rounding asks of `t` can be read off `rem`, `sh` and `st`. -/
structure Tail (t : ℝ) (rem sh : Nat) (st : Bool) : Prop where
  above : 2 ^ sh < 2 * rem ∨ 2 * rem = 2 ^ sh ∧ st = true ↔ 1 / 2 < t
  tie : 2 * rem = 2 ^ sh ∧ st = false ↔ t = 1 / 2
  none : rem = 0 ∧ st = false ↔ t = 0
  steps : st = false → ⌊t * 65536⌋ = (rem * 65536 / 2 ^ sh : Nat)
  stepsDown : st = false → ⌊(1 - t) * 65536⌋ = ((2 ^ sh - rem) * 65536 / 2 ^ sh : Nat)

theorem Tail.inexact {t : ℝ} {rem sh : Nat} {st : Bool} (h : Tail t rem sh st) : (rem != 0 || st) = true ↔ t ≠ 0 := by
  rw [Ne, ← h.none]
  cases st <;> simp

theorem Tail.roundUp_iff {t : ℝ} {rem sh : Nat} {st : Bool} (h : Tail t rem sh st) {mode : RMode}
    (exact : mode = .sr → st = false) (s odd : Bool) (r : Nat) :
    roundUp mode s odd rem sh r st = true ↔ roundsAway mode s odd r t := by
  have inexact := h.inexact
  unfold roundUp roundsAway
  cases mode with
  | rne =>
    rw [← h.above, ← h.tie]
    cases st <;> simp
  | rz => simp
  | rd => simp only [Bool.and_eq_true, inexact]
  | ru => simp only [Bool.and_eq_true, inexact, Bool.not_eq_true']
  | sr =>
    obtain rfl := exact rfl
    have none : rem = 0 ↔ t = 0 := by simpa using h.none
    rw [h.steps rfl, h.stepsDown rfl]
    by_cases zero : t = 0
    · simp [none.2 zero, zero]
    · have : (rem != 0) = true := by simpa using mt none.1 zero
      cases s <;>
        simp only [this, zero, Bool.or_false, Bool.not_true, Bool.false_eq_true, if_false, if_true, decide_eq_true_eq, ne_eq,
          not_false_eq_true, true_and]
      · exact ⟨fun h => by exact_mod_cast h, fun h => by exact_mod_cast h⟩
      · exact ⟨fun h => by exact_mod_cast h, fun h => by exact_mod_cast h⟩

theorem floor_div_two_pow (n sh : Nat) : ⌊(n : ℝ) / 2 ^ sh⌋ = (n / 2 ^ sh : Nat) := by
  rw [show (2 : ℝ) ^ sh = (2 ^ sh : Nat) by push_cast; rfl, Int.floor_div_natCast, Int.floor_natCast]
  rfl

/-- A whole number against a whole number and a further amount below one. -/
theorem natCast_lt_add_iff {k n : Nat} {δ : ℝ} (nonneg : 0 ≤ δ) (small : δ < 1) : (k : ℝ) < n + δ ↔ k < n ∨ k = n ∧ δ ≠ 0 := by
  rcases lt_trichotomy k n with less | rfl | more
  · have : (k : ℝ) < n := by exact_mod_cast less
    exact iff_of_true (by linarith) (.inl less)
  · rw [lt_add_iff_pos_right, or_iff_right (lt_irrefl k), and_iff_right rfl, nonneg.lt_iff_ne']
  · have : (n : ℝ) + 1 ≤ k := by exact_mod_cast more
    exact iff_of_false (by linarith) (by omega)

theorem natCast_eq_add_iff {k n : Nat} {δ : ℝ} (nonneg : 0 ≤ δ) (small : δ < 1) : n + δ = k ↔ n = k ∧ δ = 0 := by
  constructor
  · intro eq
    have upper : (k : ℝ) < n + 1 := by linarith
    have lower : (n : ℝ) ≤ k := by linarith
    have : n = k := le_antisymm (by exact_mod_cast lower) (Nat.lt_succ_iff.1 (by exact_mod_cast upper))
    exact ⟨this, by rw [this] at eq; linarith⟩
  · rintro ⟨rfl, rfl⟩
    exact add_zero _

theorem tail_zero (sh : Nat) : Tail 0 0 sh false where
  above := by norm_num
  tie := iff_of_false (fun h => absurd h.1.symm (Nat.two_pow_pos sh).ne') (by norm_num)
  none := by simp
  steps := by simp
  stepsDown := fun _ => by simp

/-- The tail of a division by a power of two, with a further amount below one unit. -/
theorem tail_of_rem {rem sh : Nat} {st : Bool} {δ : ℝ} (below : rem < 2 ^ sh) (nonneg : 0 ≤ δ) (small : δ < 1)
    (sticky : st = true ↔ δ ≠ 0) (wide : st = true → sh ≠ 0) : Tail ((rem + δ) / 2 ^ sh) rem sh st := by
  have exact : st = false ↔ δ = 0 := by rw [← not_iff_not, Bool.not_eq_false, sticky]
  have unit : (0 : ℝ) < 2 ^ sh := by positivity
  cases sh with
  | zero =>
    have whole : st = false := by by_contra h; exact wide (by simpa using h) rfl
    obtain rfl : rem = 0 := by omega
    rw [exact.1 whole, whole]
    simpa using tail_zero 0
  | succ k =>
    have half : 1 / 2 * (2 : ℝ) ^ (k + 1) = (2 ^ k : Nat) := by push_cast; ring
    have double : 2 ^ (k + 1) = 2 * 2 ^ k := pow_succ' 2 k
    refine ⟨?_, ?_, ?_, fun h => ?_, fun h => ?_⟩
    · rw [lt_div_iff₀ unit, half, natCast_lt_add_iff nonneg small, ← sticky, double]
      exact or_congr (by omega) (and_congr_left' (by omega))
    · rw [div_eq_iff unit.ne', half, natCast_eq_add_iff nonneg small, exact, double]
      exact and_congr_left' (by omega)
    · rw [div_eq_zero_iff, or_iff_left unit.ne', exact]
      exact_mod_cast (natCast_eq_add_iff (k := 0) nonneg small).symm
    · rw [exact.1 h, add_zero, div_mul_eq_mul_div, ← floor_div_two_pow]
      push_cast
      rfl
    · rw [exact.1 h, add_zero, ← floor_div_two_pow, Nat.cast_mul, Nat.cast_sub below.le]
      congr 1
      push_cast
      field_simp

/-- A tail too small for any mode to tell from another of its kind. -/
theorem tail_of_tiny {t : ℝ} (pos : 0 < t) (tiny : t < 1 / 2 ^ 24) (st : Bool) : Tail t 1 24 st where
  above := by
    have : ¬ 1 / 2 < t := by norm_num at tiny ⊢; linarith
    rw [iff_false_right this]
    norm_num
  tie := by
    have : ¬ t = 1 / 2 := by rintro rfl; norm_num at tiny
    rw [iff_false_right this]
    norm_num
  none := by simp [pos.ne']
  steps := fun _ => by
    rw [Int.floor_eq_iff]
    norm_num at tiny ⊢
    constructor <;> linarith
  stepsDown := fun _ => by
    rw [Int.floor_eq_iff]
    norm_num at tiny ⊢
    constructor <;> linarith

/-! ### Units (R41) -/

theorem bitLen_bounds {m : Nat} (h : m ≠ 0) : 2 ^ (bitLen m - 1) ≤ m ∧ m < 2 ^ bitLen m ∧ bitLen m ≠ 0 := by
  rw [bitLen, if_neg h]
  exact ⟨Nat.log2_self_le h, Nat.lt_log2_self, by omega⟩

/-- What `toUnits` makes of the magnitude (m + δ)·2^e: whole units of 2^q and a tail. -/
theorem toUnits_spec {m : Nat} {e q : Int} {st : Bool} {δ : ℝ} (hm : m ≠ 0) (nonneg : 0 ≤ δ) (small : δ < 1)
    (sticky : st = true ↔ δ ≠ 0) (wide : st = true → e < q) :
    ∃ n rem sh t, toUnits m e q st = (n, rem, sh, st) ∧ 0 ≤ t ∧ t < 1 ∧ (m + δ) * (2 : ℝ) ^ (e - q) = n + t ∧
      Tail t rem sh st := by
  obtain ⟨-, above, len⟩ := bitLen_bounds hm
  have m_pos : (0 : ℝ) < m := by exact_mod_cast Nat.pos_of_ne_zero hm
  unfold toUnits
  by_cases up : q ≤ e
  · have exact : st = false := by by_contra h; exact absurd (wide (by simpa using h)) (by omega)
    have noδ : δ = 0 := by simpa [exact] using sticky
    have power : (2 : ℝ) ^ (e - q) = 2 ^ (e - q).toNat := by rw [← zpow_natCast, Int.toNat_of_nonneg (by omega)]
    refine ⟨_, _, _, 0, if_pos up, le_rfl, one_pos, ?_, ?_⟩
    · rw [noδ, power]; push_cast; ring
    · rw [exact]; exact tail_zero 0
  · obtain ⟨sh, hsh⟩ : ∃ sh : Nat, q - e = sh := ⟨(q - e).toNat, by omega⟩
    have power : (2 : ℝ) ^ (e - q) = (2 ^ sh)⁻¹ := by rw [← zpow_natCast, ← zpow_neg]; congr 1; omega
    have unit : (0 : ℝ) < 2 ^ sh := by positivity
    simp only [if_neg up, hsh, Int.toNat_natCast, power, hm, if_false, ← div_eq_mul_inv]
    by_cases far : bitLen m + 24 < sh
    · have bound : (m : ℝ) + δ < 2 ^ bitLen m := by
        have : (m : ℝ) + 1 ≤ 2 ^ bitLen m := by exact_mod_cast above
        linarith
      have tiny : (m + δ) / 2 ^ sh < 1 / 2 ^ 24 := by
        rw [div_lt_div_iff₀ unit (by positivity), one_mul]
        calc (m + δ) * 2 ^ 24 < 2 ^ bitLen m * 2 ^ 24 := by gcongr
          _ = 2 ^ (bitLen m + 24) := (pow_add _ _ _).symm
          _ ≤ 2 ^ sh := pow_le_pow_right₀ one_le_two far.le
      exact ⟨0, 1, 24, (m + δ) / 2 ^ sh, if_pos far, by positivity, tiny.trans (by norm_num), by simp,
        tail_of_tiny (by positivity) tiny st⟩
    · have split : (m : ℝ) = (m / 2 ^ sh : Nat) * 2 ^ sh + (m % 2 ^ sh : Nat) := by
        exact_mod_cast (Nat.div_add_mod' m (2 ^ sh)).symm
      have below : m % 2 ^ sh < 2 ^ sh := Nat.mod_lt _ (Nat.two_pow_pos _)
      have below' : ((m % 2 ^ sh : Nat) : ℝ) + 1 ≤ 2 ^ sh := by exact_mod_cast below
      refine ⟨_, _, _, ((m % 2 ^ sh : Nat) + δ) / 2 ^ sh, if_neg far, by positivity, ?_, ?_,
        tail_of_rem below nonneg small sticky fun _ => by omega⟩
      · rw [div_lt_one unit]; linarith
      · rw [add_div' _ _ _ unit.ne', split, add_assoc]

end Sys2Proof.Machine
end

section
/-! SUPPORT. `roundF` into FP32 (R41-R44): the code below the exact magnitude, the tail above it, and what a mode makes of them. -/

namespace Sys2Proof.Machine

open Sys2Proof

theorem fp32_m : fp32.m = 23 := rfl
theorem fp32_bias : fp32.bias = 127 := rfl
theorem fp32_inf : fp32.inf = true := rfl
theorem fp32_maxCode : fp32.maxCode = fpTop := rfl
theorem fp32_infCode : fp32.infCode = fpInf := rfl
theorem fpInf_eq : fpInf = fpTop + 1 := rfl

/-- R43: the largest magnitude code that a mode answers. -/
def fpLimit (mode : RMode) (s : Bool) : Nat :=
  match mode with
  | .rne => fpInf
  | .rz => fpTop
  | .rd => if s then fpInf else fpTop
  | .ru => if s then fpTop else fpInf
  | .sr => fpInf

/-- R43: the code `c` with the tail `t` exceeds the format, `up` when it rounds away from zero. -/
def fpOver (mode : RMode) (c : Nat) (t : ℝ) (up : Bool) : Prop :=
  if mode = .sr then fpTop < c ∨ c = fpTop ∧ t ≠ 0 else fpTop < c + up.toNat

/-- The sign by whose choice the magnitude of the code `c` moves: past the largest finite code the random bits of SR move it
whatever its sign. -/
def choiceSign (mode : RMode) (s : Bool) (c : Nat) : Bool := s && !(mode == .sr && c == fpTop)

/-- The code `c` is the last at or below the magnitude `y`, which lies above it by the part `t` of the step to the next. -/
structure Between (y : ℝ) (c : Nat) (t : ℝ) : Prop where
  nonneg : 0 ≤ t
  small : t < 1
  magnitude : y = fpMag c + t * (fpMag (c + 1) - fpMag c)

/-- R41-R44: `o` is the magnitude `y` rounded with the sign `s`; `up` says that it goes from the code `c` below `y` to the next. -/
structure RoundedFrom (mode : RMode) (s : Bool) (r : Nat) (y : ℝ) (c : Nat) (t : ℝ) (up : Bool) (o : Nat × Word) : Prop where
  between : Between y c t
  away : up = true ↔ roundsAway mode (choiceSign mode s c) (c % 2 == 1) r t
  code : o.1 = fp32.signed s (min (c + up.toNat) (fpLimit mode s))
  exceeds : fpOver mode c t up → o.2 = fOverflow ||| fInexact
  fits : ¬ fpOver mode c t up → ∃ inexact tiny : Bool, (inexact = true ↔ t ≠ 0) ∧ (tiny = true ↔ y < 2 ^ (-126 : ℤ)) ∧
    o.2 = fpsIf inexact fInexact ||| fpsIf (tiny && inexact) fUnderflow

theorem roundF_zero (mode : RMode) (s : Bool) (r : Nat) (e : Int) :
    RoundedFrom mode s r 0 0 0 false (roundF fp32 mode false r s 0 e false) where
  between := ⟨le_rfl, one_pos, by simp⟩
  away := by cases mode <;> simp [roundsAway]
  code := rfl
  exceeds h := by cases mode <;> simp [fpOver] at h
  fits _ := ⟨false, true, by simp, by simp, rfl⟩

/-- R43, R44: what `roundF` makes of the code `c` below a magnitude, `up` by the sign's own choice and `past` by the choice of SR
past the largest finite code. -/
def settleF (mode : RMode) (s : Bool) (c : Nat) (up past inexact tiny : Bool) : Nat × Word :=
  if (if mode == .sr then decide (fpTop < c) || decide (fpTop = c) && inexact else decide (fpTop < c + up.toNat)) then
    match mode with
    | .rne => (fp32.signed s fpInf, fOverflow ||| fInexact)
    | .rz => (fp32.signed s fpTop, fOverflow ||| fInexact)
    | .rd => (if s then fp32.signed s fpInf else fp32.signed s fpTop, fOverflow ||| fInexact)
    | .ru => (if s then fp32.signed s fpTop else fp32.signed s fpInf, fOverflow ||| fInexact)
    | .sr => if fpTop < c then (fp32.signed s fpInf, fOverflow ||| fInexact)
        else (if past then fp32.signed s fpInf else fp32.signed s fpTop, fOverflow ||| fInexact)
  else (fp32.signed s (c + up.toNat), fpsIf inexact fInexact ||| fpsIf (tiny && inexact) fUnderflow)

section
variable {mode : RMode} {s : Bool} {c r : Nat} {t : ℝ} {ups : Bool → Bool} {past inexact tiny : Bool}

theorem choiceSign_of_ne (h : mode ≠ .sr ∨ c ≠ fpTop) : choiceSign mode s c = s := by
  rcases h with h | h <;> simp [choiceSign, h]

theorem settleF_over (tail : inexact = true ↔ t ≠ 0) (sr : mode = .sr → inexact = true → past = ups false)
    (h : fpOver mode c t (ups (choiceSign mode s c))) : settleF mode s c (ups s) past inexact tiny =
      (fp32.signed s (min (c + (ups (choiceSign mode s c)).toNat) (fpLimit mode s)), fOverflow ||| fInexact) := by
  unfold fpOver at h
  unfold settleF
  by_cases hm : mode = .sr
  · subst hm
    rw [if_pos rfl] at h
    rcases h with h | ⟨rfl, h⟩
    · have least : min (c + (ups (choiceSign .sr s c)).toNat) (fpLimit .sr s) = fpInf :=
        min_eq_right (show fpInf ≤ _ by rw [fpInf_eq]; omega)
      simp [least, h]
    · have plain : choiceSign .sr s fpTop = false := by simp [choiceSign]
      rw [sr rfl (tail.2 h), plain, tail.2 h]
      have step := fpInf_eq
      cases ups false <;> simp [fpLimit, step]
  · rw [if_neg hm, choiceSign_of_ne (.inl hm)] at h
    have beyond : ∀ l, l ≤ fpInf → min (c + (ups s).toNat) l = l := fun l hl => min_eq_right (by rw [fpInf_eq] at hl; omega)
    rw [choiceSign_of_ne (.inl hm), beyond _ (by cases mode <;> cases s <;> decide)]
    cases mode <;> cases s <;> simp_all [fpLimit]

theorem settleF_fits (tail : inexact = true ↔ t ≠ 0) (exact : t = 0 → ∀ b, ups b = false)
    (h : ¬ fpOver mode c t (ups (choiceSign mode s c))) : settleF mode s c (ups s) past inexact tiny =
      (fp32.signed s (min (c + (ups (choiceSign mode s c)).toNat) (fpLimit mode s)),
        fpsIf inexact fInexact ||| fpsIf (tiny && inexact) fUnderflow) := by
  have limit : fpTop ≤ fpLimit mode s := by cases mode <;> cases s <;> decide
  unfold fpOver at h
  unfold settleF
  by_cases hm : mode = .sr
  · subst hm
    rw [if_pos rfl, not_or, not_and, not_not] at h
    obtain ⟨below, whole⟩ := h
    rcases lt_or_eq_of_le (not_lt.1 below) with less | rfl
    · have fits := min_eq_left (a := c + (ups s).toNat) (b := fpLimit .sr s) (by have := Bool.toNat_le (ups s); omega)
      rw [choiceSign_of_ne (.inr less.ne), fits]
      simp [below, less.ne']
    · have none := exact (whole rfl)
      have exact : inexact = false := by simpa using mt tail.1 (not_not.2 (whole rfl))
      have fits := min_eq_left (a := fpTop) (b := fpLimit .sr s) limit
      simp [none, exact, fits]
  · rw [if_neg hm] at h
    rw [choiceSign_of_ne (.inl hm)] at h ⊢
    rw [min_eq_left (by omega)]
    simp [hm, h]

end

theorem not_roundsAway_zero (mode : RMode) (s odd : Bool) (r : Nat) : ¬ roundsAway mode s odd r 0 := by
  cases mode <;> simp [roundsAway]

theorem settleF_from {mode : RMode} {s : Bool} {r c rem sh : Nat} {y t : ℝ} {st tiny : Bool} (between : Between y c t)
    (tail : Tail t rem sh st) (exact : mode = .sr → st = false) (least : tiny = true ↔ y < 2 ^ (-126 : ℤ)) :
    ∃ up, RoundedFrom mode s r y c t up (settleF mode s c (roundUp mode s (c % 2 == 1) rem sh r st)
      (decide (65536 ≤ rem * 65536 / 2 ^ sh + r)) (rem != 0 || st) tiny) := by
  have away := fun s => tail.roundUp_iff exact s (c % 2 == 1) r
  have past : mode = .sr → (rem != 0 || st) = true →
      decide (65536 ≤ rem * 65536 / 2 ^ sh + r) = roundUp mode false (c % 2 == 1) rem sh r st := by
    rintro rfl inexact
    simp [roundUp, inexact]
  have still : t = 0 → ∀ b, roundUp mode b (c % 2 == 1) rem sh r st = false := by
    rintro rfl b
    simpa using mt (away b).1 (not_roundsAway_zero _ _ _ _)
  have beyond := settleF_over (tiny := tiny) (s := s) (c := c) (ups := fun b => roundUp mode b (c % 2 == 1) rem sh r st)
    tail.inexact past
  have fits := settleF_fits (mode := mode) (tiny := tiny) (s := s) (c := c) (past := decide (65536 ≤ rem * 65536 / 2 ^ sh + r))
    (ups := fun b => roundUp mode b (c % 2 == 1) rem sh r st) tail.inexact still
  refine ⟨roundUp mode (choiceSign mode s c) (c % 2 == 1) rem sh r st, between, away _, ?_, fun h => ?_,
    fun h => ⟨_, tiny, tail.inexact, least, ?_⟩⟩
  · by_cases h : fpOver mode c t (roundUp mode (choiceSign mode s c) (c % 2 == 1) rem sh r st)
    · rw [beyond h]
    · rw [fits h]
  · rw [beyond h]
  · rw [fits h]

/-- The binade of (m + δ)·2^e. -/
theorem binade_bounds {m : Nat} {δ : ℝ} (hm : m ≠ 0) (nonneg : 0 ≤ δ) (small : δ < 1) (e : Int) :
    (2 : ℝ) ^ (e + bitLen m - 1) ≤ (m + δ) * 2 ^ e ∧ (m + δ) * (2 : ℝ) ^ e < 2 ^ (e + bitLen m) := by
  obtain ⟨lower, upper, len⟩ := bitLen_bounds hm
  have unit : (0 : ℝ) < 2 ^ e := by positivity
  have low : ((2 ^ (bitLen m - 1) : Nat) : ℝ) ≤ m := by exact_mod_cast lower
  have high : (m : ℝ) + 1 ≤ (2 ^ bitLen m : Nat) := by exact_mod_cast upper
  push_cast at low high
  have first : (2 : ℝ) ^ (e + bitLen m - 1) = 2 ^ (bitLen m - 1) * 2 ^ e := by
    rw [← zpow_natCast, ← zpow_add₀ two_ne_zero]; congr 1; omega
  have last : (2 : ℝ) ^ (e + bitLen m) = 2 ^ bitLen m * 2 ^ e := by
    rw [← zpow_natCast, ← zpow_add₀ two_ne_zero, add_comm]
  rw [first, last]
  constructor
  · gcongr; linarith
  · gcongr; linarith

/-- A magnitude of `n` units and a tail `t` of a unit, in its binade. -/
theorem grid_bounds {m n : Nat} {e q : Int} {δ t : ℝ} (hm : m ≠ 0) (nonneg : 0 ≤ δ) (small : δ < 1)
    (hq : q = max (e + bitLen m - 1) (-126) - 23) (t_nonneg : 0 ≤ t) (t_small : t < 1)
    (split : (m + δ) * (2 : ℝ) ^ (e - q) = n + t) : n < 2 ^ 24 ∧ ((q + 149).toNat = 0 ∨ 2 ^ 23 ≤ n) ∧
      (m + δ) * (2 : ℝ) ^ e = (n + t) * 2 ^ (((q + 149).toNat : Nat) - 149 : ℤ) := by
  obtain ⟨lower, upper⟩ := binade_bounds hm nonneg small (e - q)
  rw [split] at lower upper
  refine ⟨?_, ?_, ?_⟩
  · have : (n : ℝ) < (2 ^ 24 : Nat) := calc
      (n : ℝ) ≤ n + t := by linarith
      _ < 2 ^ (e - q + bitLen m) := upper
      _ ≤ 2 ^ (24 : ℤ) := zpow_le_zpow_right₀ one_le_two (by omega)
      _ = (2 ^ 24 : Nat) := by norm_num
    exact_mod_cast this
  · refine or_iff_not_imp_left.2 fun normal => ?_
    have : ((2 ^ 23 : Nat) : ℝ) < (n + 1 : Nat) := calc
      ((2 ^ 23 : Nat) : ℝ) = 2 ^ (23 : ℤ) := by norm_num
      _ = 2 ^ (e - q + bitLen m - 1) := by congr 1; omega
      _ ≤ n + t := lower
      _ < (n + 1 : Nat) := by push_cast; linarith
    have : 2 ^ 23 < n + 1 := by exact_mod_cast this
    omega
  · rw [← split, mul_assoc, ← zpow_add₀ two_ne_zero]
    congr 2
    omega

/-- R44: the machine's test that a value is tiny. -/
theorem tiny_iff {m : Nat} {δ : ℝ} (hm : m ≠ 0) (nonneg : 0 ≤ δ) (small : δ < 1) (e : Int) :
    decide (e + (bitLen m : Int) - 1 < 1 - (fp32.bias : Int)) = true ↔ (m + δ) * (2 : ℝ) ^ e < 2 ^ (-126 : ℤ) := by
  obtain ⟨low, high⟩ := binade_bounds hm nonneg small e
  rw [decide_eq_true_eq, fp32_bias]
  constructor
  · intro h
    exact high.trans_le (zpow_le_zpow_right₀ one_le_two (by omega))
  · intro h
    have := (zpow_lt_zpow_iff_right₀ one_lt_two).1 (low.trans_lt h)
    omega

/-- A magnitude of many bits is wider than the unit it is rounded to. -/
theorem unit_of_wide {m : Nat} (e : Int) (wide : 2 ^ 24 ≤ m) : e < max (e + (bitLen m : Int) - 1) (-126) - 23 := by
  have : 24 < bitLen m := (Nat.pow_lt_pow_iff_right one_lt_two).1 (wide.trans_lt (bitLen_bounds (by omega)).2.1)
  omega

/-- The code of `n` units of a binade, as the machine forms it. -/
theorem grid_code {k n : Nat} (normal : k = 0 ∨ 2 ^ 23 ≤ n) :
    (if n < 2 ^ fp32.m then n else k * 2 ^ fp32.m + n) = k * 2 ^ 23 + n := by
  rw [fp32_m]
  split_ifs <;> omega

theorem roundF_from {mode : RMode} {s : Bool} {r m : Nat} {e : Int} {st : Bool} {δ : ℝ} (hm : m ≠ 0) (nonneg : 0 ≤ δ)
    (small : δ < 1) (sticky : st = true ↔ δ ≠ 0) (wide : st = true → 2 ^ 24 ≤ m) (exact : mode = .sr → st = false) :
    ∃ c t up, RoundedFrom mode s r ((m + δ) * 2 ^ e) c t up (roundF fp32 mode false r s m e st) := by
  have hq : (max (e + (bitLen m : Int) - 1) (1 - (fp32.bias : Int)) - fp32.m) = max (e + bitLen m - 1) (-126) - 23 := rfl
  generalize hk : (max (e + (bitLen m : Int) - 1) (1 - (fp32.bias : Int)) - fp32.m) = q at hq
  obtain ⟨n, rem, sh, t, units, t_nonneg, t_small, split, tail⟩ :=
    toUnits_spec (q := q) hm nonneg small sticky fun h => hq ▸ unit_of_wide e (wide h)
  obtain ⟨n_small, normal, magnitude⟩ := grid_bounds hm nonneg small hq t_nonneg t_small split
  have exponent : (q + (fp32.m : Int) + (fp32.bias : Int)).toNat - 1 = (q + 149).toNat := by
    rw [fp32_m, fp32_bias]; omega
  generalize (q + 149).toNat = k at normal magnitude exponent
  obtain ⟨c, hc⟩ : ∃ c, c = k * 2 ^ 23 + n := ⟨_, rfl⟩
  have whole := (grid_code normal).trans hc.symm
  have rounded : ∀ b : Bool, (if (if b = true then n + 1 else n) < 2 ^ fp32.m then if b = true then n + 1 else n
      else k * 2 ^ fp32.m + if b = true then n + 1 else n) = c + b.toNat := fun b => by
    rw [grid_code (by split_ifs <;> omega), hc]
    cases b <;> simp [Nat.add_assoc]
  have odd : (n % 2 == 1) = (c % 2 == 1) := by rw [hc]; congr 1; omega
  have mag : (m + δ) * (2 : ℝ) ^ e = fpMag c + t * (fpMag (c + 1) - fpMag c) := by
    rw [magnitude, hc, fpMag_grid n_small normal, fpMag_grid_succ n_small normal]; ring
  obtain ⟨up, settled⟩ := settleF_from (s := s) (r := r) ⟨t_nonneg, t_small, mag⟩ tail exact (tiny_iff hm nonneg small e)
  refine ⟨c, t, up, ?_⟩
  convert settled using 1
  unfold roundF
  rw [if_neg (by simp [hm])]
  cases mode <;>
    simp only [hk, units, exponent, whole, rounded, odd, fp32_maxCode, fp32_infCode, fp32_inf, settleF, Bool.not_true, Bool.or_self,
      Bool.false_eq_true, if_false, decide_eq_true_eq]

end Sys2Proof.Machine
end

section
/-! SUPPORT. A magnitude rounded by `roundF` is rounded as R41-R44 say, whatever the mode. -/

namespace Sys2Proof.Machine

open Sys2Proof

/-! ### The code below a magnitude -/

section
variable {y t : ℝ} {c : Nat}

theorem fpMag_step_pos (c : Nat) : 0 < fpMag (c + 1) - fpMag c := sub_pos.2 (strictMono_fpMag c.lt_succ_self)

theorem Between.le (h : Between y c t) : fpMag c ≤ y := by
  have := mul_nonneg h.nonneg (fpMag_step_pos c).le
  rw [h.magnitude]
  linarith

theorem Between.lt (h : Between y c t) : y < fpMag (c + 1) := by
  have := mul_lt_mul_of_pos_right h.small (fpMag_step_pos c)
  rw [h.magnitude]
  linarith

theorem Between.magnitude_nonneg (h : Between y c t) : 0 ≤ y := (fpMag_nonneg c).trans h.le

theorem Between.eq_iff (h : Between y c t) : fpMag c = y ↔ t = 0 := by
  rw [h.magnitude, left_eq_add, mul_eq_zero, or_iff_left (fpMag_step_pos c).ne']

theorem Between.mag_le_iff (h : Between y c t) {e : Nat} : fpMag e ≤ y ↔ e ≤ c := by
  constructor
  · intro le
    exact Nat.le_of_lt_succ (strictMono_fpMag.lt_iff_lt.1 (le.trans_lt h.lt))
  · intro le
    exact (strictMono_fpMag.monotone le).trans h.le

theorem Between.lt_mag_iff (h : Between y c t) {e : Nat} : y < fpMag e ↔ c < e := by
  rw [← not_le, h.mag_le_iff, not_le]

theorem Between.mag_eq_iff (h : Between y c t) {e : Nat} : fpMag e = y ↔ e = c ∧ t = 0 := by
  constructor
  · intro eq
    have below := h.mag_le_iff.1 eq.le
    rcases lt_or_eq_of_le below with less | rfl
    · exact absurd ((strictMono_fpMag less).trans_le h.le) eq.not_lt
    · exact ⟨rfl, h.eq_iff.1 eq⟩
  · rintro ⟨rfl, zero⟩
    exact h.eq_iff.2 zero

theorem Between.mag_lt_iff (h : Between y c t) {e : Nat} : fpMag e < y ↔ e < c ∨ e = c ∧ t ≠ 0 := by
  rw [lt_iff_le_and_ne, h.mag_le_iff, Ne, h.mag_eq_iff]
  constructor
  · rintro ⟨le, ne⟩
    rcases lt_or_eq_of_le le with less | rfl
    · exact .inl less
    · exact .inr ⟨rfl, fun zero => ne ⟨rfl, zero⟩⟩
  · rintro (less | ⟨rfl, nonzero⟩)
    · exact ⟨less.le, fun eq => less.ne eq.1⟩
    · exact ⟨le_rfl, fun eq => nonzero eq.2⟩

theorem Between.top_lt_iff (h : Between y c t) : (fpMost : ℝ) < y ↔ fpTop < c ∨ c = fpTop ∧ t ≠ 0 := by
  rw [← fpMag_top, h.mag_lt_iff, eq_comm]

theorem Between.inf_le_iff (h : Between y c t) : 2 ^ 128 ≤ y ↔ fpTop < c := by
  rw [← fpMag_inf, h.mag_le_iff, fpInf_eq, Nat.succ_le_iff]

/-- R41: nearest, ties to even: the code chosen is nearest among all, and even where another is as near. -/
theorem Between.nearest (h : Between y c t) {s up : Bool} {r : Nat} (away : up = true ↔ roundsAway .rne s (c % 2 == 1) r t)
    (e : Nat) :
    |fpMag (c + up.toNat) - y| ≤ |fpMag e - y| ∧
      (|fpMag (c + up.toNat) - y| = |fpMag e - y| → e ≠ c + up.toNat → (c + up.toNat) % 2 = 0) := by
  have step := fpMag_step_pos c
  have belowGap : fpMag c - y = -(t * (fpMag (c + 1) - fpMag c)) := by rw [h.magnitude]; ring
  have aboveGap : fpMag (c + 1) - y = (1 - t) * (fpMag (c + 1) - fpMag c) := by rw [h.magnitude]; ring
  generalize fpMag (c + 1) - fpMag c = g at step belowGap aboveGap
  have t_nonneg := h.nonneg
  have t_small := h.small
  have here : |fpMag c - y| = t * g := by rw [belowGap, abs_neg, abs_of_nonneg (by positivity)]
  have next : |fpMag (c + 1) - y| = (1 - t) * g := by rw [aboveGap, abs_of_nonneg (mul_nonneg (by linarith) step.le)]
  have below : e < c → t * g < |fpMag e - y| := fun less => by
    have := strictMono_fpMag less
    rw [abs_of_nonpos (by linarith [h.le])]
    linarith
  have beyond : c + 1 < e → (1 - t) * g < |fpMag e - y| := fun more => by
    have := strictMono_fpMag more
    rw [abs_of_nonneg (by linarith [h.lt])]
    linarith
  have half : t * g = (1 - t) * g ↔ t = 1 / 2 := by
    rw [mul_left_inj' step.ne']
    constructor <;> intro eq <;> linarith
  rcases Bool.eq_false_or_eq_true up with rfl | rfl
  · have near : 1 / 2 ≤ t ∧ (t = 1 / 2 → (c + 1) % 2 = 0) := by
      rcases away.1 rfl with more | ⟨eq, odd⟩
      · exact ⟨more.le, fun eq => absurd eq more.ne'⟩
      · exact ⟨eq.ge, fun _ => by rw [beq_iff_eq] at odd; omega⟩
    have less : (1 - t) * g ≤ t * g := mul_le_mul_of_nonneg_right (by linarith) step.le
    rw [Bool.toNat_true, next]
    rcases lt_trichotomy e c with h | rfl | h
    · exact ⟨(less.trans_lt (below h)).le, fun eq => absurd eq (less.trans_lt (below h)).ne⟩
    · rw [here]
      exact ⟨less, fun eq _ => near.2 (half.1 eq.symm)⟩
    · rcases eq_or_lt_of_le (Nat.succ_le_of_lt h) with rfl | h
      · exact ⟨next.ge, fun _ ne => absurd rfl ne⟩
      · exact ⟨(beyond h).le, fun eq => absurd eq (beyond h).ne⟩
  · have near : t ≤ 1 / 2 ∧ (t = 1 / 2 → c % 2 = 0) := by
      have not_away := mt away.2 (by simp)
      simp only [roundsAway, not_or, not_lt, not_and, beq_iff_eq] at not_away
      exact ⟨not_away.1, fun eq => by have := not_away.2 eq; omega⟩
    have less : t * g ≤ (1 - t) * g := mul_le_mul_of_nonneg_right (by linarith) step.le
    rw [Bool.toNat_false, Nat.add_zero, here]
    rcases lt_trichotomy e c with h | rfl | h
    · exact ⟨(below h).le, fun eq => absurd eq (below h).ne⟩
    · exact ⟨here.ge, fun _ ne => absurd rfl ne⟩
    · rcases eq_or_lt_of_le (Nat.succ_le_of_lt h) with rfl | h
      · rw [next]
        exact ⟨less, fun eq _ => near.2 (half.1 eq)⟩
      · exact ⟨(less.trans_lt (beyond h)).le, fun eq => absurd eq (less.trans_lt (beyond h)).ne⟩

/-- R41: toward zero, past the largest finite code to that code. -/
theorem Between.truncated (h : Between y c t) :
    fpMag (min c fpTop) ≤ y ∧ ∀ e ≤ fpTop, fpMag e ≤ y → fpMag e ≤ fpMag (min c fpTop) :=
  ⟨h.mag_le_iff.2 (min_le_left _ _), fun _ le below => strictMono_fpMag.monotone (le_min (h.mag_le_iff.1 below) le)⟩

/-- R41: away from zero. -/
theorem Between.ceiling (h : Between y c t) {up : Bool} (away : up = true ↔ t ≠ 0) :
    y ≤ fpMag (c + up.toNat) ∧ ∀ e, y ≤ fpMag e → fpMag (c + up.toNat) ≤ fpMag e := by
  rcases Bool.eq_false_or_eq_true up with rfl | rfl
  · have nonzero := away.1 rfl
    refine ⟨h.lt.le, fun e le => strictMono_fpMag.monotone ?_⟩
    have := mt h.mag_lt_iff.2 (not_lt.2 le)
    rw [Bool.toNat_true]
    by_contra less
    exact this ((Nat.lt_succ_iff_lt_or_eq.1 (not_le.1 less)).imp_right fun eq => ⟨eq, nonzero⟩)
  · have zero : t = 0 := by simpa using away
    exact ⟨(h.eq_iff.2 zero).ge, fun e le => (h.le.trans le)⟩

theorem Between.le_truncated (h : Between y c t) {z : ℝ} {e : Nat} (abs : |z| = fpMag e) (finite : e ≤ fpTop) (le : z ≤ y) :
    z ≤ fpMag (min c fpTop) := by
  rcases le_total z 0 with neg | pos
  · exact neg.trans (fpMag_nonneg _)
  · rw [abs_of_nonneg pos] at abs
    exact abs ▸ h.truncated.2 e finite (abs ▸ le)

theorem Between.fraction (h : Between y c t) : (y - fpMag c) / (fpMag (c + 1) - fpMag c) = t := by
  rw [div_eq_iff (fpMag_step_pos c).ne', h.magnitude]
  ring

/-- The finite values next to a magnitude that is none of them. -/
theorem Between.neighbours (h : Between y c t) (finite : c < fpTop) {a z : ℝ} {d e : Nat} (abs_a : |a| = fpMag d)
    (abs_z : |z| = fpMag e) (below : a < y) (above : y < z) (next : ∀ k ≤ fpTop, fpMag k ≤ a ∨ z ≤ fpMag k) :
    t ≠ 0 ∧ a = fpMag c ∧ z = fpMag (c + 1) := by
  have lower : fpMag c ≤ a := (next c finite.le).resolve_right fun le => absurd (above.trans_le le) (not_lt.2 h.le)
  have upper : z ≤ fpMag (c + 1) := (next (c + 1) finite).resolve_left fun le => absurd (le.trans_lt below) (not_lt.2 h.lt.le)
  rw [abs_of_nonneg ((fpMag_nonneg c).trans lower)] at abs_a
  rw [abs_of_nonneg (h.magnitude_nonneg.trans above.le)] at abs_z
  rw [abs_a] at below lower ⊢
  rw [abs_z] at above upper ⊢
  have le_c := h.mag_le_iff.1 below.le
  have c_lt := h.lt_mag_iff.1 above
  exact ⟨fun zero => absurd (lower.trans_lt below) (by rw [h.eq_iff.2 zero]; exact lt_irrefl y),
    le_antisymm (strictMono_fpMag.monotone le_c) lower, le_antisymm upper (strictMono_fpMag.monotone c_lt)⟩

theorem Between.ceiling_le (h : Between y c t) {up : Bool} (away : up = true ↔ t ≠ 0) {z : ℝ} {e : Nat} (abs : |z| = fpMag e)
    (le : y ≤ z) : fpMag (c + up.toNat) ≤ z := by
  rw [abs_of_nonneg (h.magnitude_nonneg.trans le)] at abs
  exact abs ▸ (h.ceiling away).2 e (abs ▸ le)

/-- R43: what rounds away from zero past the largest finite code lies past it. -/
theorem Between.ceiling_over (h : Between y c t) {up : Bool} (away : up = true ↔ t ≠ 0) :
    (fpMost : ℝ) < y ↔ fpTop < c + up.toNat := by
  rw [h.top_lt_iff, ← away]
  cases up
  · simp
  · simp; omega

/-- R43: what rounds to nearest past the largest finite code lies at least half a step past it. -/
theorem Between.nearest_over (h : Between y c t) {s up : Bool} {r : Nat} (away : up = true ↔ roundsAway .rne s (c % 2 == 1) r t) :
    2 ^ 128 - 2 ^ 103 ≤ y ↔ fpTop < c + up.toNat := by
  have top : fpMag fpTop = 2 ^ 128 - 2 ^ 104 := by rw [fpMag_top, fpMost]; norm_num
  have one := Bool.toNat_le up
  rcases lt_trichotomy c fpTop with less | rfl | more
  · have := h.lt.trans_le (strictMono_fpMag.monotone (Nat.succ_le_of_lt less))
    refine iff_of_false ?_ (by omega)
    rw [top] at this
    norm_num at this ⊢
    linarith
  · have inf : fpMag (fpTop + 1) = 2 ^ 128 := fpMag_inf
    have y_eq := h.magnitude
    rw [inf, top] at y_eq
    have up_iff : up = true ↔ 1 / 2 ≤ t := by
      rw [away, le_iff_lt_or_eq]
      exact or_congr_right ⟨fun eq => eq.1.symm, fun eq => ⟨eq.symm, rfl⟩⟩
    have over_iff : fpTop < fpTop + up.toNat ↔ up = true := by cases up <;> simp
    rw [over_iff, up_iff, y_eq]
    constructor <;> intro le <;> linarith
  · refine iff_of_true ?_ (by omega)
    have := h.inf_le_iff.2 more
    linarith

end

/-! ### Words rounded from a magnitude -/

theorem abs_fpVal (w : Word) : |(fpVal w : ℝ)| = fpMag (magOf w) := by
  rw [fpVal_eq, abs_signOf_mul, abs_of_nonneg (fpMag_nonneg _)]

/-- Every finite magnitude has a code of either sign. -/
theorem exists_word (s : Bool) {k : Nat} (hk : k ≤ fpTop) : ∃ q, fpFinite q ∧ (fpVal q : ℝ) = signOf s * fpMag k := by
  obtain ⟨mag, sign⟩ := word_signed (s := s) (show k ≤ fpInf by rw [fpInf_eq]; omega)
  exact ⟨_, fpFinite_iff.2 (mag.le.trans hk), by rw [fpVal_eq, mag, sign]⟩

theorem abs_lt_top {lo hi : Word} {x : ℝ} (finiteLo : fpFinite lo) (finiteHi : fpFinite hi) (below : (fpVal lo : ℝ) < x)
    (above : x < fpVal hi) : |x| < fpMag fpTop := by
  have lo_top := strictMono_fpMag.monotone (fpFinite_iff.1 finiteLo)
  have hi_top := strictMono_fpMag.monotone (fpFinite_iff.1 finiteHi)
  rw [← abs_fpVal] at lo_top hi_top
  have := neg_abs_le (fpVal lo : ℝ)
  have := le_abs_self (fpVal hi : ℝ)
  exact abs_lt.2 ⟨by linarith, by linarith⟩

theorem fpLimit_bounds (mode : RMode) (s : Bool) : fpTop ≤ fpLimit mode s ∧ fpLimit mode s ≤ fpInf := by
  cases mode <;> cases s <;> decide

section
variable {mode : RMode} {s up : Bool} {r c : Nat} {y t : ℝ} {o : Nat × Word}

theorem RoundedFrom.word (h : RoundedFrom mode s r y c t up o) :
    magOf (asWord o).1 = min (c + up.toNat) (fpLimit mode s) ∧ fp32.sign (asWord o).1.toNat = s := by
  rw [asWord, h.code]
  exact word_signed ((min_le_right _ _).trans (fpLimit_bounds mode s).2)

theorem RoundedFrom.val (h : RoundedFrom mode s r y c t up o) :
    (fpVal (asWord o).1 : ℝ) = signOf s * fpMag (magOf (asWord o).1) := by
  rw [fpVal_eq, h.word.2]

theorem RoundedFrom.abs (h : RoundedFrom mode s r y c t up o) : |signOf s * y| = y := by
  rw [abs_signOf_mul, abs_of_nonneg h.between.magnitude_nonneg]

/-- R43: the model's test of an overflow. -/
theorem RoundedFrom.exceeds_iff (h : RoundedFrom mode s r y c t up o) : fpExceeds mode (signOf s * y) ↔ fpOver mode c t up := by
  have away := h.away
  have y_nonneg := h.between.magnitude_nonneg
  have most : (0 : ℝ) < fpMost := by norm_num [fpMost]
  unfold fpExceeds fpOver
  cases mode with
  | rne => rw [h.abs, h.between.nearest_over away, if_neg (by simp)]
  | rz =>
    obtain rfl : up = false := by simpa [roundsAway] using away
    rw [h.abs, h.between.inf_le_iff, if_neg (by simp)]
    rfl
  | rd =>
    rw [choiceSign_of_ne (.inl (by simp))] at away
    rw [if_neg (by simp)]
    dsimp only
    cases s
    · obtain rfl : up = false := by simpa [roundsAway] using away
      rw [signOf_false, one_mul, or_iff_left (by linarith), h.between.inf_le_iff]
      rfl
    · rw [signOf_true, neg_one_mul, neg_lt_neg_iff, or_iff_right (by linarith),
        h.between.ceiling_over (by simpa [roundsAway] using away)]
  | ru =>
    rw [choiceSign_of_ne (.inl (by simp))] at away
    rw [if_neg (by simp)]
    dsimp only
    cases s
    · rw [signOf_false, one_mul, or_iff_right (by linarith), h.between.ceiling_over (by simpa [roundsAway] using away)]
    · obtain rfl : up = false := by simpa [roundsAway] using away
      rw [signOf_true, neg_one_mul, neg_le_neg_iff, or_iff_left (by linarith), h.between.inf_le_iff]
      rfl
  | sr => rw [h.abs, h.between.top_lt_iff, if_pos rfl]

/-! ### The value of each mode (R41-R43) -/

theorem RoundedFrom.mag_of_fits (h : RoundedFrom mode s r y c t up o) (fits : c + up.toNat ≤ fpTop) :
    magOf (asWord o).1 = c + up.toNat ∧ fpFinite (asWord o).1 := by
  have mag := h.word.1
  rw [min_eq_left (fits.trans (fpLimit_bounds mode s).1)] at mag
  exact ⟨mag, fpFinite_iff.2 (mag ▸ fits)⟩

theorem RoundedFrom.infinite_of_past (h : RoundedFrom mode s r y c t up o) (limit : fpLimit mode s = fpInf)
    (past : fpTop < c + up.toNat) : fpInfinite (asWord o).1 := by
  rw [fpInfinite_iff, h.word.1, limit]
  exact min_eq_right (by rw [fpInf_eq]; exact past)

theorem RoundedFrom.roundsTo_rne (h : RoundedFrom .rne s r y c t up o) (b : Nat) :
    RoundsTo .rne b (signOf s * y) (asWord o).1 := by
  have past := h.between.nearest_over h.away
  unfold RoundsTo
  rw [h.abs]
  refine ⟨fun le => h.infinite_of_past rfl (past.1 le), fun less => ?_⟩
  obtain ⟨mag, finite⟩ := h.mag_of_fits (not_lt.1 (mt past.2 (not_le.2 less)))
  have val := h.val
  generalize (asWord o).1 = w at mag finite val
  have near := fun e => h.between.nearest h.away e
  rw [← mag] at near
  refine ⟨finite, fun q _ => ?_⟩
  have dist : |(fpVal w : ℝ) - signOf s * y| = |fpMag (magOf w) - y| := by
    rw [val, ← mul_sub, abs_signOf_mul]
  have far : |fpMag (magOf q) - y| ≤ |(fpVal q : ℝ) - signOf s * y| := by
    have := abs_abs_sub_abs_le (fpVal q : ℝ) (signOf s * y)
    rwa [abs_fpVal, h.abs] at this
  rw [dist]
  refine ⟨(near _).1.trans far, fun eq ne => ?_⟩
  have parity : w.toNat % 2 = magOf w % 2 := by unfold magOf; omega
  rw [parity]
  refine (near (magOf q)).2 (le_antisymm (near _).1 (far.trans eq.ge)) fun same => ne ?_
  have zero : fpMag (magOf w) = 0 ∨ fp32.sign q.toNat = s := by
    refine or_iff_not_imp_right.2 fun other => ?_
    have opposite : signOf (fp32.sign q.toNat) = -signOf s := by
      revert other
      cases s <;> cases fp32.sign q.toNat <;> simp
    have apart : |(fpVal q : ℝ) - signOf s * y| = fpMag (magOf w) + y := by
      rw [fpVal_eq, same, opposite, neg_mul, ← neg_add', ← mul_add, abs_neg, abs_signOf_mul,
        abs_of_nonneg (add_nonneg (fpMag_nonneg _) h.between.magnitude_nonneg)]
    have origin := (near 0).1
    rw [eq, apart, fpMag_zero, zero_sub, abs_neg, abs_of_nonneg h.between.magnitude_nonneg] at origin
    linarith [fpMag_nonneg (magOf w)]
  have : (fpVal q : ℝ) = fpVal w := by
    rw [val, fpVal_eq, same]
    rcases zero with zero | sign
    · rw [zero, mul_zero, mul_zero]
    · rw [sign]
  exact_mod_cast this

theorem RoundedFrom.roundsTo_rz (h : RoundedFrom .rz s r y c t up o) (b : Nat) :
    RoundsTo .rz b (signOf s * y) (asWord o).1 := by
  obtain rfl : up = false := by simpa [roundsAway] using h.away
  have mag : magOf (asWord o).1 = min c fpTop := h.word.1
  obtain ⟨below, best⟩ := h.between.truncated
  unfold RoundsTo
  rw [h.abs]
  refine ⟨fpFinite_iff.2 (mag ▸ min_le_right _ _), ?_, fun q finite le => ?_⟩
  · rwa [abs_fpVal, mag]
  · rw [abs_fpVal] at le
    have := best _ (fpFinite_iff.1 finite) le
    rw [← mag, ← abs_fpVal, ← abs_fpVal] at this
    exact_mod_cast this

/-- The directed modes toward zero. -/
theorem RoundedFrom.inward (h : RoundedFrom mode s r y c t up o) (still : up = false) (limit : fpLimit mode s = fpTop) :
    fpFinite (asWord o).1 ∧ signOf s * fpVal (asWord o).1 ≤ y ∧
      ∀ q, fpFinite q → signOf s * fpVal q ≤ y → signOf s * fpVal q ≤ signOf s * fpVal (asWord o).1 := by
  have mag : magOf (asWord o).1 = min c fpTop := by rw [h.word.1, still, limit]; rfl
  have val : signOf s * (fpVal (asWord o).1 : ℝ) = fpMag (min c fpTop) := by
    rw [h.val, mag, ← mul_assoc]
    cases s <;> simp
  rw [val]
  refine ⟨fpFinite_iff.2 (mag ▸ min_le_right _ _), h.between.truncated.1, fun q finite le => ?_⟩
  exact h.between.le_truncated (by rw [abs_signOf_mul, abs_fpVal]) (fpFinite_iff.1 finite) le

/-- The directed modes away from zero. -/
theorem RoundedFrom.outward (h : RoundedFrom mode s r y c t up o) (away : up = true ↔ t ≠ 0) (limit : fpLimit mode s = fpInf) :
    ((fpMost : ℝ) < y → fpInfinite (asWord o).1) ∧ (y ≤ fpMost → fpFinite (asWord o).1 ∧ y ≤ signOf s * fpVal (asWord o).1 ∧
      ∀ q, fpFinite q → y ≤ signOf s * fpVal q → signOf s * fpVal (asWord o).1 ≤ signOf s * fpVal q) := by
  have past := h.between.ceiling_over away
  refine ⟨fun more => h.infinite_of_past limit (past.1 more), fun le => ?_⟩
  obtain ⟨mag, finite⟩ := h.mag_of_fits (not_lt.1 (mt past.2 (not_lt.2 le)))
  have val : signOf s * (fpVal (asWord o).1 : ℝ) = fpMag (c + up.toNat) := by
    rw [h.val, mag, ← mul_assoc]
    cases s <;> simp
  rw [val]
  refine ⟨finite, (h.between.ceiling away).1, fun q _ le => ?_⟩
  exact h.between.ceiling_le away (by rw [abs_signOf_mul, abs_fpVal]) le

theorem RoundedFrom.roundsTo_rd (h : RoundedFrom .rd s r y c t up o) (b : Nat) :
    RoundsTo .rd b (signOf s * y) (asWord o).1 := by
  have away := h.away
  have y_nonneg := h.between.magnitude_nonneg
  have most : (0 : ℝ) < fpMost := by norm_num [fpMost]
  rw [choiceSign_of_ne (.inl (by simp))] at away
  unfold RoundsTo
  cases s
  · obtain ⟨finite, le, best⟩ := h.inward (by simpa [roundsAway] using away) rfl
    simp only [signOf_false, one_mul] at le best ⊢
    refine ⟨fun less => by linarith, fun _ => ⟨finite, le, fun q hq hle => ?_⟩⟩
    exact_mod_cast best q hq hle
  · obtain ⟨past, fits⟩ := h.outward (by simpa [roundsAway] using away) rfl
    simp only [signOf_true, neg_one_mul] at fits ⊢
    refine ⟨fun less => past (by linarith), fun le => ?_⟩
    obtain ⟨finite, ge, best⟩ := fits (by linarith)
    refine ⟨finite, by linarith, fun q hq hle => ?_⟩
    have := best q hq (by linarith)
    exact_mod_cast (neg_le_neg_iff.1 this)

theorem RoundedFrom.roundsTo_ru (h : RoundedFrom .ru s r y c t up o) (b : Nat) :
    RoundsTo .ru b (signOf s * y) (asWord o).1 := by
  have away := h.away
  have y_nonneg := h.between.magnitude_nonneg
  have most : (0 : ℝ) < fpMost := by norm_num [fpMost]
  rw [choiceSign_of_ne (.inl (by simp))] at away
  unfold RoundsTo
  cases s
  · obtain ⟨past, fits⟩ := h.outward (by simpa [roundsAway] using away) rfl
    simp only [signOf_false, one_mul] at fits ⊢
    refine ⟨past, fun le => ?_⟩
    obtain ⟨finite, ge, best⟩ := fits le
    refine ⟨finite, ge, fun q hq hle => ?_⟩
    exact_mod_cast best q hq hle
  · obtain ⟨finite, le, best⟩ := h.inward (by simpa [roundsAway] using away) rfl
    simp only [signOf_true, neg_one_mul] at le best ⊢
    refine ⟨fun less => by linarith, fun _ => ⟨finite, by linarith, fun q hq hle => ?_⟩⟩
    have := best q hq (by linarith)
    exact_mod_cast (neg_le_neg_iff.1 this)

/-- R42: SR of a value that a finite code has. -/
theorem RoundedFrom.sr_exact (h : RoundedFrom .sr s r y c t up o) {q : Word} (finite : fpFinite q)
    (eq : (fpVal q : ℝ) = signOf s * y) : fpFinite (asWord o).1 ∧ fpVal (asWord o).1 = fpVal q := by
  have mag : fpMag (magOf q) = y := by rw [← abs_fpVal, eq, h.abs]
  obtain ⟨rfl, zero⟩ := h.between.mag_eq_iff.1 mag
  obtain rfl : up = false := by simpa [roundsAway, zero] using h.away
  obtain ⟨same, fits⟩ := h.mag_of_fits (fpFinite_iff.1 finite)
  have : (fpVal (asWord o).1 : ℝ) = fpVal q := by
    rw [h.val, same, eq]
    exact congrArg _ mag
  exact ⟨fits, by exact_mod_cast this⟩

/-- R42: SR of a value between finite ones. -/
theorem RoundedFrom.sr_between (h : RoundedFrom .sr s r y c t up o) {lo hi : Word} (finiteLo : fpFinite lo) (finiteHi : fpFinite hi)
    (below : (fpVal lo : ℝ) < signOf s * y) (above : signOf s * y < (fpVal hi : ℝ))
    (next : ∀ q, fpFinite q → fpVal q ≤ fpVal lo ∨ fpVal hi ≤ fpVal q) :
    fpFinite (asWord o).1 ∧ (fpChoosesUpper r (fpVal lo) (signOf s * y) (fpVal hi) → fpVal (asWord o).1 = fpVal hi) ∧
      (¬ fpChoosesUpper r (fpVal lo) (signOf s * y) (fpVal hi) → fpVal (asWord o).1 = fpVal lo) := by
  have finite : c < fpTop := h.between.lt_mag_iff.1 (h.abs ▸ abs_lt_top finiteLo finiteHi below above)
  have next' : ∀ k ≤ fpTop, signOf s * fpMag k ≤ fpVal lo ∨ (fpVal hi : ℝ) ≤ signOf s * fpMag k := fun k hk => by
    obtain ⟨q, fin, val⟩ := exists_word s hk
    rw [← val]
    exact_mod_cast next q fin
  have away := h.away
  rw [choiceSign_of_ne (.inr finite.ne)] at away
  obtain ⟨mag, fits⟩ := h.mag_of_fits (by have := Bool.toNat_le up; omega)
  have val := h.val
  have frac := h.between.fraction
  have step := fpMag_step_pos c
  rw [mag] at val
  unfold fpChoosesUpper
  refine ⟨fits, ?_⟩
  cases s
  · simp only [signOf_false, one_mul] at below above next' val ⊢
    obtain ⟨nonzero, a, z⟩ := h.between.neighbours finite (abs_fpVal lo) (abs_fpVal hi) below above next'
    have up_iff : up = true ↔ 65536 ≤ ⌊t * 65536⌋ + (r : ℤ) := by simpa [roundsAway, nonzero] using away
    rw [a, z, frac, ← up_iff]
    cases up
    · have : (fpVal (asWord o).1 : ℝ) = fpVal lo := val.trans a.symm
      exact ⟨fun e => by simp at e, fun _ => by exact_mod_cast this⟩
    · have : (fpVal (asWord o).1 : ℝ) = fpVal hi := val.trans z.symm
      exact ⟨fun _ => by exact_mod_cast this, fun e => by simp at e⟩
  · simp only [signOf_true, neg_one_mul] at below above next' val ⊢
    obtain ⟨nonzero, a, z⟩ := h.between.neighbours finite (a := -fpVal hi) (z := -fpVal lo) ((abs_neg _).trans (abs_fpVal hi))
      ((abs_neg _).trans (abs_fpVal lo)) (by linarith) (by linarith) fun k hk =>
        (next' k hk).symm.imp (by intro; linarith) (by intro; linarith)
    have up_iff : up = true ↔ ¬ 65536 ≤ ⌊(1 - t) * 65536⌋ + (r : ℤ) := by simpa [roundsAway, nonzero] using away
    have hi_eq : (fpVal hi : ℝ) = -fpMag c := by linarith
    have lo_eq : (fpVal lo : ℝ) = -fpMag (c + 1) := by linarith
    have share : (-y - fpVal lo) / ((fpVal hi : ℝ) - fpVal lo) = 1 - t := by
      rw [hi_eq, lo_eq, div_eq_iff (by linarith), h.between.magnitude]
      ring
    rw [share, ← up_iff]
    cases up
    · have : (fpVal (asWord o).1 : ℝ) = fpVal hi := val.trans hi_eq.symm
      exact ⟨fun _ => by exact_mod_cast this, fun e => by simp at e⟩
    · have : (fpVal (asWord o).1 : ℝ) = fpVal lo := val.trans lo_eq.symm
      exact ⟨fun e => absurd e (up_iff.1 rfl), fun _ => by exact_mod_cast this⟩

/-- R43: SR of a magnitude past the largest finite one. -/
theorem RoundedFrom.sr_past (h : RoundedFrom .sr s r y c t up o) (past : (fpMost : ℝ) < y) :
    (2 ^ 128 ≤ y ∨ fpChoosesUpper r fpMost y (2 ^ 128) → fpInfinite (asWord o).1) ∧
      (y < 2 ^ 128 → ¬ fpChoosesUpper r fpMost y (2 ^ 128) → fpFinite (asWord o).1 ∧ |fpVal (asWord o).1| = fpMost) := by
  rcases h.between.top_lt_iff.1 past with more | ⟨rfl, nonzero⟩
  · exact ⟨fun _ => h.infinite_of_past rfl (by omega), fun less => absurd (h.between.inf_le_iff.2 more) (not_le.2 less)⟩
  · have plain : choiceSign .sr s fpTop = false := by simp [choiceSign]
    have up_iff : up = true ↔ 65536 ≤ ⌊t * 65536⌋ + (r : ℤ) := by simpa [roundsAway, nonzero, plain] using h.away
    have frac : (y - fpMost) / (2 ^ 128 - (fpMost : ℝ)) = t := by
      rw [← fpMag_top, ← fpMag_inf]
      exact h.between.fraction
    unfold fpChoosesUpper
    rw [frac, ← up_iff, h.between.inf_le_iff, or_iff_right (lt_irrefl _)]
    refine ⟨fun e => h.infinite_of_past rfl (by rw [e]; exact Nat.lt_succ_self _), fun _ e => ?_⟩
    obtain rfl : up = false := by simpa using e
    obtain ⟨mag, finite⟩ := h.mag_of_fits le_rfl
    have : |(fpVal (asWord o).1 : ℝ)| = fpMost := by rw [abs_fpVal, mag]; exact fpMag_top
    exact ⟨finite, by exact_mod_cast this⟩

theorem RoundedFrom.roundsTo_sr (h : RoundedFrom .sr s r y c t up o) : RoundsTo .sr r (signOf s * y) (asWord o).1 := by
  unfold RoundsTo
  rw [h.abs]
  exact ⟨fun _ finite eq => h.sr_exact finite eq, fun _ _ finiteLo finiteHi below above next =>
    h.sr_between finiteLo finiteHi below above next, h.sr_past⟩

theorem RoundedFrom.roundsTo (h : RoundedFrom mode s r y c t up o) : RoundsTo mode r (signOf s * y) (asWord o).1 := by
  cases mode with
  | rne => exact h.roundsTo_rne r
  | rz => exact h.roundsTo_rz r
  | rd => exact h.roundsTo_rd r
  | ru => exact h.roundsTo_ru r
  | sr => exact h.roundsTo_sr

/-! ### The status of each mode (R44) -/

theorem RoundedFrom.negative_iff (h : RoundedFrom mode s r y c t up o) : fpNegative (asWord o).1 ↔ s = true := by
  rw [← fp32_sign, h.word.2]

theorem RoundedFrom.whole_of_still (h : RoundedFrom mode s r y c t up o) (zero : t = 0) : up = false := by
  subst zero
  simpa using mt h.away.1 (not_roundsAway_zero _ _ _ _)

theorem RoundedFrom.top_lt_of_over (h : RoundedFrom mode s r y c t up o) (past : fpOver mode c t up) : (fpMost : ℝ) < y := by
  rw [h.between.top_lt_iff]
  unfold fpOver at past
  split at past
  · exact past
  · by_cases zero : t = 0
    · rw [h.whole_of_still zero] at past
      exact .inl past
    · have := Bool.toNat_le up
      exact (show fpTop < c ∨ c = fpTop by omega).imp_right fun eq => ⟨eq, zero⟩

theorem RoundedFrom.fits_of_not_over (h : RoundedFrom mode s r y c t up o) (fits : ¬ fpOver mode c t up) :
    c + up.toNat ≤ fpTop := by
  unfold fpOver at fits
  split at fits
  · have := Bool.toNat_le up
    rcases lt_trichotomy c fpTop with less | eq | more
    · omega
    · have zero : t = 0 := not_not.1 fun nonzero => fits (.inr ⟨eq, nonzero⟩)
      rw [h.whole_of_still zero]
      exact eq.le
    · exact absurd (.inl more) fits
  · exact not_lt.1 fits

theorem RoundedFrom.val_eq_iff (h : RoundedFrom mode s r y c t up o) :
    (fpVal (asWord o).1 : ℝ) = signOf s * y ↔ fpMag (magOf (asWord o).1) = y := by
  rw [h.val]
  cases s <;> simp

theorem RoundedFrom.inexact_of_over (h : RoundedFrom mode s r y c t up o) (past : fpOver mode c t up) :
    ¬ (fpFinite (asWord o).1 ∧ (fpVal (asWord o).1 : ℝ) = signOf s * y) := by
  rintro ⟨finite, eq⟩
  have := strictMono_fpMag.monotone (fpFinite_iff.1 finite)
  rw [h.val_eq_iff.1 eq, fpMag_top] at this
  exact absurd (h.top_lt_of_over past) (not_lt.2 this)

theorem RoundedFrom.exact_iff (h : RoundedFrom mode s r y c t up o) (fits : ¬ fpOver mode c t up) :
    fpFinite (asWord o).1 ∧ ((fpVal (asWord o).1 : ℝ) = signOf s * y ↔ t = 0) := by
  obtain ⟨mag, finite⟩ := h.mag_of_fits (h.fits_of_not_over fits)
  refine ⟨finite, ?_⟩
  rw [h.val_eq_iff, mag, h.between.mag_eq_iff]
  refine ⟨fun eq => eq.2, fun zero => ⟨?_, zero⟩⟩
  rw [h.whole_of_still zero]
  rfl

theorem status_of_over : (fOverflow ||| fInexact).getLsbD 2 = true ∧ (fOverflow ||| fInexact).getLsbD 3 = false ∧
    (fOverflow ||| fInexact).getLsbD 4 = true ∧ (fOverflow ||| fInexact) &&& ~~~(0x1C : Word) = 0 := by
  decide

theorem status_of_fits (inexact tiny : Bool) : ∀ w, w = fpsIf inexact fInexact ||| fpsIf (tiny && inexact) fUnderflow →
    w.getLsbD 2 = false ∧ w.getLsbD 3 = (tiny && inexact) ∧ w.getLsbD 4 = inexact ∧ w &&& ~~~(0x1C : Word) = 0 := by
  rintro w rfl
  cases inexact <;> cases tiny <;> decide

/-- R41-R44: what is rounded from a magnitude is rounded as the rules say. -/
theorem RoundedFrom.rounded (h : RoundedFrom mode s r y c t up o) : Rounded mode r (signOf s * y) (asWord o) := by
  have y_nonneg := h.between.magnitude_nonneg
  have sign : signOf s * y ≠ 0 → (fpNegative (asWord o).1 ↔ signOf s * y < 0) := fun nonzero => by
    rw [h.negative_iff]
    have pos : 0 < y := lt_of_le_of_ne y_nonneg fun zero => nonzero (by rw [← zero, mul_zero])
    cases s
    · simpa using y_nonneg
    · simpa using pos
  by_cases past : fpOver mode c t up
  · obtain ⟨bit2, bit3, bit4, rest⟩ := status_of_over
    rw [← h.exceeds past] at bit2 bit3 bit4 rest
    have large : ¬ y < 2 ^ (-126 : ℤ) := by
      have most := h.top_lt_of_over past
      rw [← fpMag_top] at most
      rw [← fpMag_normal, not_lt]
      exact (strictMono_fpMag.monotone (by norm_num)).trans most.le
    exact ⟨h.roundsTo, sign, iff_of_true bit2 (h.exceeds_iff.2 past),
      iff_of_false (by rw [asWord, bit3]; simp) fun ⟨_, small, _⟩ => large (h.abs ▸ small),
      iff_of_true bit4 (h.inexact_of_over past), rest⟩
  · obtain ⟨inexact, tiny, inexact_iff, tiny_iff, status⟩ := h.fits past
    obtain ⟨bit2, bit3, bit4, rest⟩ := status_of_fits inexact tiny _ status
    obtain ⟨finite, exact_iff⟩ := h.exact_iff past
    refine ⟨h.roundsTo, sign, iff_of_false (by rw [asWord, bit2]; simp) (mt h.exceeds_iff.1 past), ?_, ?_, rest⟩
    · have ne_iff : (fpVal (asWord o).1 : ℝ) ≠ signOf s * y ↔ t ≠ 0 := exact_iff.not
      have nonzero : t ≠ 0 → signOf s * y ≠ 0 := fun ht zero => by
        have y_zero : y = 0 := by rw [← h.abs, zero, abs_zero]
        have := h.between.le
        rw [y_zero] at this
        have eq : fpMag c = y := by rw [y_zero]; exact le_antisymm this (fpMag_nonneg c)
        exact ht (h.between.eq_iff.1 eq)
      rw [show (asWord o).2 = o.2 from rfl, bit3, h.abs, Bool.and_eq_true, tiny_iff, inexact_iff, ne_iff]
      exact ⟨fun ⟨small, ht⟩ => ⟨nonzero ht, small, ht⟩, fun ⟨_, small, ht⟩ => ⟨small, ht⟩⟩
    · rw [show (asWord o).2 = o.2 from rfl, bit4, inexact_iff, and_iff_right finite, exact_iff]

end

/-- R41-R44: rounding the signed magnitude (m + δ)·2^e, its further amount δ marked by the sticky bit. -/
theorem roundF_rounded {mode : RMode} {m : Nat} {δ : ℝ} {st : Bool} (s : Bool) (r : Nat) (e : Int) (nonneg : 0 ≤ δ) (small : δ < 1)
    (sticky : st = true ↔ δ ≠ 0) (wide : st = true → 2 ^ 24 ≤ m) (exact : mode = .sr → st = false) :
    Rounded mode r (signOf s * ((m + δ) * 2 ^ e)) (asWord (roundF fp32 mode false r s m e st)) ∧
      (fpNegative (asWord (roundF fp32 mode false r s m e st)).1 ↔ s = true) := by
  by_cases hm : m = 0
  · subst hm
    obtain rfl : st = false := by by_contra h; exact absurd (wide (by simpa using h)) (by norm_num)
    have zero : δ = 0 := by simpa using sticky
    have from_ := roundF_zero mode s r e
    rw [zero]
    have y_zero : (((0 : Nat) : ℝ) + 0) * 2 ^ e = 0 := by simp
    rw [y_zero]
    exact ⟨from_.rounded, from_.negative_iff⟩
  · obtain ⟨c, t, up, from_⟩ := roundF_from (s := s) (r := r) (e := e) hm nonneg small sticky wide exact
    exact ⟨from_.rounded, from_.negative_iff⟩

/-- R41-R44: rounding the signed magnitude m·2^e. -/
theorem roundF_rounded_exact (mode : RMode) (s : Bool) (r m : Nat) (e : Int) :
    Rounded mode r (signOf s * (m * 2 ^ e)) (asWord (roundF fp32 mode false r s m e false)) ∧
      (fpNegative (asWord (roundF fp32 mode false r s m e false)).1 ↔ s = true) := by
  have := roundF_rounded (mode := mode) (m := m) (δ := 0) (st := false) s r e le_rfl one_pos (by simp) (by simp) (by simp)
  rwa [add_zero] at this

end Sys2Proof.Machine
end

section
/-! SUPPORT. Sums, products and fused multiply-add of finite FP32 operands are the exact value rounded once (R41, R102). -/

namespace Sys2Proof.Machine

open Sys2Proof

/-! ### Finite operands (R34-R36) -/

theorem isNan_of_finite {w : Word} (h : fpFinite w) : fp32.isNan w.toNat = false := by
  have field : (fp32.expField w.toNat == 2 ^ fp32.e - 1) = false := by
    rw [beq_eq_false_iff_ne]
    exact h
  simp [FFmt.isNan, field]

theorem nanOf_of_finite {l : List Word} (h : ∀ w ∈ l, fpFinite w) : fp32.nanOf (l.map (·.toNat)) = none := by
  have none : (l.map (·.toNat)).find? fp32.isNan = none := by
    simpa using fun w hw => isNan_of_finite (h w hw)
  rw [FFmt.nanOf, none]

/-- The value of a finite code as the machine holds it. -/
theorem value_of_finite {w : Word} (h : fpFinite w) : ∃ m e, fp32.value w.toNat = .num (fp32.sign w.toNat) m e ∧ m < 2 ^ 24 ∧
    fpMag (magOf w) = m * 2 ^ e := by
  have field : (fp32.expField w.toNat == 2 ^ fp32.e - 1) = false := by
    rw [beq_eq_false_iff_ne]
    exact h
  have exponent : fp32.expField w.toNat = magOf w / 2 ^ 23 := by
    show w.toNat / 2 ^ 23 % 2 ^ 8 = _
    unfold magOf; omega
  have fraction : fp32.manField w.toNat = magOf w % 2 ^ 23 := by
    show w.toNat % 2 ^ 23 = _
    unfold magOf; omega
  unfold FFmt.value
  rw [isNan_of_finite h, field, Bool.and_false, if_neg Bool.false_ne_true, if_neg Bool.false_ne_true, exponent, fraction, fp32_m,
    fp32_bias]
  unfold fpMag
  by_cases sub : magOf w < 2 ^ 23
  · rw [if_pos (Nat.div_eq_of_lt sub), Nat.mod_eq_of_lt sub]
    exact ⟨_, _, rfl, by omega, by rw [if_pos sub]; norm_num⟩
  · rw [if_neg (by omega)]
    refine ⟨_, _, rfl, by omega, ?_⟩
    rw [if_neg sub]
    congr 2
    push_cast
    ring

/-! ### Terms and their sum (R41) -/

/-- The value of a term. -/
noncomputable def termVal (t : Term) : ℝ := signOf t.1 * (t.2.1 * 2 ^ t.2.2)

theorem termVal_eq_zero {t : Term} : termVal t = 0 ↔ t.2.1 = 0 := by
  have unit : (2 : ℝ) ^ t.2.2 ≠ 0 := by positivity
  have sign : signOf t.1 ≠ 0 := by cases t.1 <;> simp
  simp [termVal, unit, sign]

theorem foldl_min_le (l : List Term) (i : Int) :
    l.foldl (fun m x => min m x.2.2) i ≤ i ∧ ∀ t ∈ l, l.foldl (fun m x => min m x.2.2) i ≤ t.2.2 := by
  induction l generalizing i with
  | nil => simp
  | cons a l ih =>
    obtain ⟨start, rest⟩ := ih (min i a.2.2)
    refine ⟨start.trans (min_le_left _ _), fun t ht => ?_⟩
    rcases List.mem_cons.1 ht with rfl | ht
    · exact start.trans (min_le_right _ _)
    · exact rest t ht

theorem leastExp_le {ts : List Term} {t : Term} (ht : t ∈ ts) (nonzero : t.2.1 ≠ 0) : leastExp ts ≤ t.2.2 := by
  have mem : t ∈ ts.filter (·.2.1 != 0) := List.mem_filter.2 ⟨ht, by simpa using nonzero⟩
  unfold leastExp
  revert mem
  cases ts.filter (·.2.1 != 0) with
  | nil => simp
  | cons a l =>
    intro mem
    rcases List.mem_cons.1 mem with rfl | mem
    · exact (foldl_min_le l _).1
    · exact (foldl_min_le l _).2 t mem

theorem Term.int_eq {t : Term} {e : Int} (h : e ≤ t.2.2) : (Term.int t e : ℝ) * 2 ^ e = termVal t := by
  have power : (2 : ℝ) ^ t.2.2 = 2 ^ (t.2.2 - e).toNat * 2 ^ e := by
    rw [← zpow_natCast, ← zpow_add₀ two_ne_zero]
    congr 1; omega
  rw [termVal, power]
  unfold Term.int signOf
  push_cast
  split <;> ring

/-- The exact sum that `sumTerms` forms, in units of the least exponent. -/
def termSum (ts : List Term) : Int := (ts.map fun t => if t.2.1 = 0 then (0 : Int) else Term.int t (leastExp ts)).foldl (· + ·) 0

theorem termSum_eq (ts : List Term) : (termSum ts : ℝ) * 2 ^ leastExp ts = (ts.map termVal).sum := by
  have each : ∀ l : List Term, (∀ t ∈ l, t ∈ ts) →
      (((l.map fun t => if t.2.1 = 0 then (0 : Int) else Term.int t (leastExp ts)).sum : Int) : ℝ) * 2 ^ leastExp ts =
        (l.map termVal).sum := by
    intro l sub
    induction l with
    | nil => simp
    | cons t l ih =>
      rw [List.map_cons, List.sum_cons, List.map_cons, List.sum_cons, ← ih fun u hu => sub u (List.mem_cons_of_mem _ hu)]
      push_cast
      rw [add_mul]
      congr 1
      by_cases zero : t.2.1 = 0
      · rw [if_pos zero, termVal_eq_zero.2 zero]; simp
      · rw [if_neg zero]
        exact Term.int_eq (leastExp_le (sub t List.mem_cons_self) zero)
  rw [termSum, ← List.sum_eq_foldl]
  exact each ts fun _ h => h

theorem sumTerms_of_zero {mode : RMode} {ts : List Term} (h : termSum ts = 0) : sumTerms mode ts =
    (if ts.all (·.2.1 == 0) && ts.all (·.1) then true
      else if ts.all (·.2.1 == 0) && ts.all (!·.1) then false else mode == .rd, 0, 0) :=
  if_pos h

theorem sumTerms_of_ne {mode : RMode} {ts : List Term} (h : termSum ts ≠ 0) :
    sumTerms mode ts = (decide (termSum ts < 0), (termSum ts).natAbs, leastExp ts) :=
  if_neg h

theorem termVal_sumTerms (mode : RMode) (ts : List Term) : termVal (sumTerms mode ts) = (ts.map termVal).sum := by
  rw [← termSum_eq]
  by_cases h : termSum ts = 0
  · rw [sumTerms_of_zero h, h]
    simp [termVal]
  · rw [sumTerms_of_ne h, termVal, ← mul_assoc]
    congr 1
    rw [Nat.cast_natAbs]
    unfold signOf
    by_cases neg : termSum ts < 0
    · rw [if_pos (decide_eq_true neg), abs_of_neg neg]; push_cast; ring
    · rw [if_neg (by simpa using neg), abs_of_nonneg (not_lt.1 neg)]; ring

theorem sumTerms_sign_of_zero {mode : RMode} {t u : Term} (h : termSum [t, u] = 0) (same : u.2.1 = 0 ↔ t.2.1 = 0) :
    (sumTerms mode [t, u]).1 = if t.2.1 = 0 ∧ t.1 = u.1 then t.1 else mode == .rd := by
  rw [sumTerms_of_zero h]
  by_cases zero : t.2.1 = 0
  · have := same.2 zero
    cases ht : t.1 <;> cases hu : u.1 <;> simp [zero, this, ht, hu]
  · simp [zero]

/-- R41: the sum of two terms is rounded once, and a sum of zero has the sign that the rule gives. -/
theorem sumTerms_rounded (mode : RMode) (r : Nat) {t u : Term} {a b : ℚ} {na nb : Prop} (ha : (a : ℝ) = termVal t)
    (hb : (b : ℝ) = termVal u) (hna : na ↔ t.1 = true) (hnb : nb ↔ u.1 = true) :
    let v := sumTerms mode [t, u]
    let w := asWord (roundF fp32 mode false r v.1 v.2.1 v.2.2 false)
    Rounded mode r ((a + b : ℚ) : ℝ) w ∧ ZeroSum mode a na b nb w.1 := by
  intro v w
  have sum : ((a + b : ℚ) : ℝ) = termVal v := by
    rw [termVal_sumTerms]
    push_cast
    rw [ha, hb]
    simp
  obtain ⟨rounded, negative⟩ := roundF_rounded_exact mode v.1 r v.2.1 v.2.2
  refine ⟨sum ▸ rounded, fun zero => ?_⟩
  have none : termSum [t, u] = 0 := by
    by_contra h
    rw [zero, Rat.cast_zero, eq_comm, termVal_eq_zero, show v = _ from sumTerms_of_ne h, Int.natAbs_eq_zero] at sum
    exact h sum
  have a_zero : a = 0 ↔ t.2.1 = 0 := by rw [← termVal_eq_zero, ← ha]; norm_cast
  have b_zero : u.2.1 = 0 ↔ a = 0 := by
    rw [← termVal_eq_zero, ← hb, Rat.cast_eq_zero]
    constructor <;> intro h <;> linarith
  rw [negative, show v.1 = _ from sumTerms_sign_of_zero none (b_zero.trans a_zero)]
  by_cases both : t.2.1 = 0 ∧ t.1 = u.1
  · have signs : na ↔ nb := by rw [hna, hnb, both.2]
    rw [if_pos both, if_pos ⟨a_zero.2 both.1, signs⟩, hna]
  · have apart : ¬ (a = 0 ∧ (na ↔ nb)) := fun ⟨za, signs⟩ => both ⟨a_zero.1 za, by rwa [hna, hnb, Bool.coe_iff_coe] at signs⟩
    rw [if_neg both, if_neg apart, beq_iff_eq]

/-! ### The operations (R102) -/

theorem fpVal_term {w : Word} {m : Nat} {e : Int} (h : fpMag (magOf w) = m * 2 ^ e) :
    (fpVal w : ℝ) = termVal (fp32.sign w.toNat, m, e) := by
  rw [fpVal_eq, h]
  rfl

theorem signOf_not (s : Bool) : signOf (!s) = -signOf s := by cases s <;> simp

theorem signOf_bne (s t : Bool) : signOf (s != t) = signOf s * signOf t := by cases s <;> cases t <;> simp

theorem not_negative_iff (w : Word) : ¬ fpNegative w ↔ (!fp32.sign w.toNat) = true := by rw [← fp32_sign]; simp

theorem signs_differ_iff (x y : Word) : ¬ (fpNegative x ↔ fpNegative y) ↔ (fp32.sign x.toNat != fp32.sign y.toNat) = true := by
  rw [← fp32_sign, ← fp32_sign, bne_iff_ne, Ne, Bool.coe_iff_coe]

theorem termVal_mul (s t : Bool) (m n : Nat) (e g : Int) :
    termVal (s != t, m * n, e + g) = termVal (s, m, e) * termVal (t, n, g) := by
  simp only [termVal, signOf_bne, zpow_add₀ (two_ne_zero (α := ℝ))]
  push_cast
  ring

theorem add_rounded (mode : RMode) (r : Nat) {x y : Word} (hx : fpFinite x) (hy : fpFinite y) :
    let sum := asWord (fp32.add mode r x.toNat y.toNat)
    Rounded mode r ((fpVal x + fpVal y : ℚ) : ℝ) sum ∧ ZeroSum mode (fpVal x) (fpNegative x) (fpVal y) (fpNegative y) sum.1 := by
  obtain ⟨m, e, valx, -, magx⟩ := value_of_finite hx
  obtain ⟨n, g, valy, -, magy⟩ := value_of_finite hy
  have none : fp32.nanOf [x.toNat, y.toNat] = none := nanOf_of_finite (l := [x, y]) (by simp [hx, hy])
  have eq : fp32.add mode r x.toNat y.toNat =
      fp32.roundSum mode r [.num (fp32.sign x.toNat) m e, .num (fp32.sign y.toNat) n g] := by
    rw [FFmt.add, none, valx, valy]
  rw [eq]
  exact sumTerms_rounded mode r (fpVal_term magx) (fpVal_term magy) (fp32_sign x).symm (fp32_sign y).symm

theorem sub_rounded (mode : RMode) (r : Nat) {x y : Word} (hx : fpFinite x) (hy : fpFinite y) :
    let diff := asWord (fp32.sub mode r x.toNat y.toNat)
    Rounded mode r ((fpVal x - fpVal y : ℚ) : ℝ) diff ∧
      ZeroSum mode (fpVal x) (fpNegative x) (-fpVal y) (¬ fpNegative y) diff.1 := by
  obtain ⟨m, e, valx, -, magx⟩ := value_of_finite hx
  obtain ⟨n, g, valy, -, magy⟩ := value_of_finite hy
  have none : fp32.nanOf [x.toNat, y.toNat] = none := nanOf_of_finite (l := [x, y]) (by simp [hx, hy])
  have eq : fp32.sub mode r x.toNat y.toNat =
      fp32.roundSum mode r [.num (fp32.sign x.toNat) m e, .num (!fp32.sign y.toNat) n g] := by
    rw [FFmt.sub, none, valx, valy]
    rfl
  have opposite : ((-fpVal y : ℚ) : ℝ) = termVal (!fp32.sign y.toNat, n, g) := by
    rw [Rat.cast_neg, fpVal_term magy, termVal, termVal, signOf_not, neg_mul]
  rw [eq, sub_eq_add_neg]
  exact sumTerms_rounded mode r (fpVal_term magx) opposite (fp32_sign x).symm (not_negative_iff y)

theorem mul_rounded (mode : RMode) (r : Nat) {x y : Word} (hx : fpFinite x) (hy : fpFinite y) :
    let prod := asWord (fp32.mul mode r x.toNat y.toNat)
    Rounded mode r ((fpVal x * fpVal y : ℚ) : ℝ) prod ∧ (fpNegative prod.1 ↔ ¬ (fpNegative x ↔ fpNegative y)) := by
  obtain ⟨m, e, valx, -, magx⟩ := value_of_finite hx
  obtain ⟨n, g, valy, -, magy⟩ := value_of_finite hy
  have none : fp32.nanOf [x.toNat, y.toNat] = none := nanOf_of_finite (l := [x, y]) (by simp [hx, hy])
  have eq : fp32.mul mode r x.toNat y.toNat =
      roundF fp32 mode false r (fp32.sign x.toNat != fp32.sign y.toNat) (m * n) (e + g) false := by
    rw [FFmt.mul, none, valx, valy]
    rfl
  obtain ⟨rounded, negative⟩ := roundF_rounded_exact mode (fp32.sign x.toNat != fp32.sign y.toNat) r (m * n) (e + g)
  rw [eq]
  refine ⟨?_, negative.trans (signs_differ_iff x y).symm⟩
  rw [Rat.cast_mul, fpVal_term magx, fpVal_term magy, ← termVal_mul]
  exact rounded

theorem fma_rounded {x y z : Word} (hx : fpFinite x) (hy : fpFinite y) (hz : fpFinite z) :
    let r := asWord (fp32.fma x.toNat y.toNat z.toNat)
    Rounded .rne 0 ((fpVal x * fpVal y + fpVal z : ℚ) : ℝ) r ∧
      ZeroSum .rne (fpVal x * fpVal y) (¬ (fpNegative x ↔ fpNegative y)) (fpVal z) (fpNegative z) r.1 := by
  obtain ⟨m, e, valx, -, magx⟩ := value_of_finite hx
  obtain ⟨n, g, valy, -, magy⟩ := value_of_finite hy
  obtain ⟨k, h, valz, -, magz⟩ := value_of_finite hz
  have none : fp32.nanOf [x.toNat, y.toNat, z.toNat] = none := nanOf_of_finite (l := [x, y, z]) (by simp [hx, hy, hz])
  have eq : fp32.fma x.toNat y.toNat z.toNat =
      fp32.roundSum .rne 0 [.num (fp32.sign x.toNat != fp32.sign y.toNat) (m * n) (e + g), .num (fp32.sign z.toNat) k h] := by
    rw [FFmt.fma, none, valx, valy, valz]
    rfl
  have product : ((fpVal x * fpVal y : ℚ) : ℝ) = termVal (fp32.sign x.toNat != fp32.sign y.toNat, m * n, e + g) := by
    rw [Rat.cast_mul, fpVal_term magx, fpVal_term magy, termVal_mul]
  rw [eq]
  exact sumTerms_rounded .rne 0 product (fpVal_term magz) (signs_differ_iff x y) (fp32_sign z).symm

/-- Settles O2: the words by what `exec` evaluates in their lanes, the results by the one theorem on `roundF`. -/
theorem floatWords : Obligations.FloatWords := by
  unfold Obligations.FloatWords
  refine ⟨floatWords_lanes, fun m b0 x y _ hx hy => ⟨add_rounded m b0 hx hy, sub_rounded m b0 hx hy, ?_⟩,
    fun x y z hx hy hz => fma_rounded hx hy hz⟩
  obtain ⟨rounded, negative⟩ := mul_rounded m b0 hx hy
  exact ⟨rounded, fun _ => negative⟩

end Sys2Proof.Machine
end

section
/-! SUPPORT. Quotients, reciprocals and square roots of finite FP32 operands are the exact value rounded to nearest (R103, R104),
and the words of the Long class (R90, R91, R98). -/

namespace Sys2Proof.Machine

open Sys2Proof

/-! ### Integer square roots -/

theorem isqrtBits_bounds (n : Nat) : ∀ k r, r * r ≤ n → n < (r + 2 ^ k) * (r + 2 ^ k) →
    isqrtBits n k r * isqrtBits n k r ≤ n ∧ n < (isqrtBits n k r + 1) * (isqrtBits n k r + 1)
  | 0, _, lower, upper => ⟨lower, by simpa [isqrtBits] using upper⟩
  | k + 1, r, lower, upper => by
    have double : r + 2 ^ (k + 1) = r + 2 ^ k + 2 ^ k := by rw [pow_succ]; omega
    unfold isqrtBits
    by_cases h : (r + 2 ^ k) * (r + 2 ^ k) ≤ n
    · simp only [if_pos h]
      exact isqrtBits_bounds n k _ h (double ▸ upper)
    · simp only [if_neg h]
      exact isqrtBits_bounds n k r lower (not_le.1 h)

theorem isqrt_eq (n : Nat) : isqrt n = n.sqrt := by
  have start : n < (0 + 2 ^ (bitLen n / 2 + 1)) * (0 + 2 ^ (bitLen n / 2 + 1)) := by
    rw [Nat.zero_add, ← pow_add]
    rcases Nat.eq_zero_or_pos n with rfl | pos
    · positivity
    · exact (bitLen_bounds pos.ne').2.1.trans_le (Nat.pow_le_pow_right two_pos (by omega))
  exact Nat.eq_sqrt.2 (isqrtBits_bounds n _ 0 (Nat.zero_le n) start)

/-! ### Values with a further amount below one unit -/

/-- A number between `n` and `n + 1` is rounded with a sticky bit that says whether it is `n`. -/
theorem roundF_rounded_floor (s : Bool) {n : Nat} {st : Bool} (e : Int) {z : ℝ} (lower : n ≤ z) (upper : z < n + 1)
    (sticky : st = true ↔ (n : ℝ) ≠ z) (wide : 2 ^ 24 ≤ n) :
    Rounded .rne 0 (signOf s * (z * 2 ^ e)) (asWord (roundF fp32 .rne false 0 s n e st)) := by
  have := (roundF_rounded (mode := .rne) (m := n) (δ := z - n) (st := st) s 0 e (by linarith) (by linarith)
    (by rw [sticky, sub_ne_zero, ne_comm]) (fun _ => wide) (by simp)).1
  rwa [add_sub_cancel] at this

/-- A quotient of numbers against its whole part, and the sticky bit of what is left. -/
theorem cast_div_bounds (a : Nat) {n : Nat} (hn : n ≠ 0) : ((a / n : Nat) : ℝ) ≤ a / n ∧ (a : ℝ) / n < (a / n : Nat) + 1 ∧
    (a % n != 0) = (decide (((a / n : Nat) : ℝ) ≠ a / n)) := by
  have pos : (n : ℝ) ≠ 0 := by exact_mod_cast hn
  refine ⟨Nat.cast_div_le, ?_, ?_⟩
  · rw [← Nat.floor_div_eq_div (K := ℝ)]
    exact Nat.lt_floor_add_one _
  · rw [Bool.eq_iff_iff, bne_iff_ne, decide_eq_true_eq, Ne, Ne, not_iff_not, eq_div_iff pos, ← Nat.dvd_iff_mod_eq_zero]
    norm_cast
    exact ⟨Nat.div_mul_cancel, fun eq => Dvd.intro_left _ eq⟩

/-! ### Quotients (R103) -/

theorem fpVal_eq_zero {w : Word} {m : Nat} {e : Int} (h : fpMag (magOf w) = m * 2 ^ e) : fpVal w = 0 ↔ m = 0 := by
  rw [← Rat.cast_eq_zero (α := ℝ), fpVal_term h, termVal_eq_zero]

/-- The value of a finite code that is not zero, by its sign. -/
theorem fpVal_of_pos {w : Word} {m : Nat} {e : Int} (h : fpMag (magOf w) = m * 2 ^ e) (pos : 0 < fpVal w) :
    fp32.sign w.toNat = false ∧ (fpVal w : ℝ) = m * 2 ^ e := by
  have val := fpVal_term h
  have pos : (0 : ℝ) < fpVal w := by exact_mod_cast pos
  have nonneg : (0 : ℝ) ≤ m * 2 ^ e := by positivity
  unfold termVal at val
  cases hs : fp32.sign w.toNat
  · exact ⟨rfl, by simpa [hs] using val⟩
  · have : (fpVal w : ℝ) = -(m * 2 ^ e) := by simpa [hs] using val
    linarith

theorem fpVal_of_neg {w : Word} (neg : fpVal w < 0) : fp32.sign w.toNat = true := by
  have neg : (fpVal w : ℝ) < 0 := by exact_mod_cast neg
  rw [fpVal_eq] at neg
  cases hs : fp32.sign w.toNat
  · rw [hs, signOf_false, one_mul] at neg
    exact absurd (fpMag_nonneg _) (not_le.2 neg)
  · rfl

theorem signOf_div (s t : Bool) (a b : ℝ) : signOf s * a / (signOf t * b) = signOf (s != t) * (a / b) := by
  cases s <;> cases t <;> simp [neg_div, div_neg]

theorem fdivF_rounded {x y : Word} (hx : fpFinite x) (hy : fpFinite y) (nonzero : fpVal y ≠ 0) :
    Rounded .rne 0 ((fpVal x / fpVal y : ℚ) : ℝ) (asWord (fdivF x.toNat y.toNat)) ∧
      (fpVal x = 0 → (fpNegative (asWord (fdivF x.toNat y.toNat)).1 ↔ ¬ (fpNegative x ↔ fpNegative y))) := by
  obtain ⟨m, e, valx, -, magx⟩ := value_of_finite hx
  obtain ⟨n, g, valy, small, magy⟩ := value_of_finite hy
  have none : fp32.nanOf [x.toNat, y.toNat] = none := nanOf_of_finite (l := [x, y]) (by simp [hx, hy])
  have n_zero := fpVal_eq_zero magy
  have m_zero := fpVal_eq_zero magx
  have hn : n ≠ 0 := mt n_zero.2 nonzero
  have n_pos : (0 : ℝ) < n := by exact_mod_cast Nat.pos_of_ne_zero hn
  have quotient : ((fpVal x / fpVal y : ℚ) : ℝ) =
      signOf (fp32.sign x.toNat != fp32.sign y.toNat) * ((m * 2 ^ 64 : Nat) / n * 2 ^ (e - g - 64)) := by
    rw [Rat.cast_div, fpVal_term magx, fpVal_term magy, termVal, termVal, signOf_div, zpow_sub₀ two_ne_zero, zpow_sub₀ two_ne_zero]
    push_cast
    congr 1
    field_simp
    norm_num
  unfold fdivF
  rw [none, valx, valy]
  dsimp only
  rw [if_neg hn]
  by_cases hm : m = 0
  · rw [if_pos hm]
    have from_ := roundF_zero .rne (fp32.sign x.toNat != fp32.sign y.toNat) 0 0
    have zero : ((fpVal x / fpVal y : ℚ) : ℝ) = signOf (fp32.sign x.toNat != fp32.sign y.toNat) * 0 := by
      rw [m_zero.2 hm]; simp
    rw [zero]
    exact ⟨from_.rounded, fun _ => from_.negative_iff.trans (signs_differ_iff x y).symm⟩
  · rw [if_neg hm, quotient]
    obtain ⟨lower, upper, sticky⟩ := cast_div_bounds (m * 2 ^ 64) hn
    have wide : 2 ^ 24 ≤ m * 2 ^ 64 / n := by
      rw [Nat.le_div_iff_mul_le (Nat.pos_of_ne_zero hn)]
      have := Nat.pos_of_ne_zero hm
      omega
    exact ⟨roundF_rounded_floor _ _ lower upper (by rw [sticky, decide_eq_true_eq]) wide, fun zero => absurd (m_zero.1 zero) hm⟩

/-- The word of 1. -/
theorem intF_one : intF 1 = (0x3F800000#32).toNat ∧ fpFinite 0x3F800000#32 ∧ fpVal 0x3F800000#32 = 1 :=
  ⟨rfl, by norm_num [fpFinite], by norm_num [fpVal]⟩

theorem frcpF_rounded {y : Word} (hy : fpFinite y) (nonzero : fpVal y ≠ 0) :
    Rounded .rne 0 ((1 / fpVal y : ℚ) : ℝ) (asWord (frcpF y.toNat)) := by
  obtain ⟨n, g, valy, -, magy⟩ := value_of_finite hy
  obtain ⟨code, finite, one⟩ := intF_one
  have eq : frcpF y.toNat = fdivF (0x3F800000#32).toNat y.toNat := by
    unfold frcpF
    rw [valy, ← code]
    exact if_neg (mt (fpVal_eq_zero magy).2 nonzero)
  rw [eq, ← one]
  exact (fdivF_rounded finite hy nonzero).1

/-! ### Square roots (R103) -/

theorem sqrt_scale (a : ℝ) (h : Int) : √(a * 2 ^ (2 * h)) = √a * 2 ^ h := by
  have square : (2 : ℝ) ^ (2 * h) = 2 ^ h * 2 ^ h := by rw [← zpow_add₀ two_ne_zero, two_mul]
  rw [Real.sqrt_mul' _ (by positivity), square, Real.sqrt_mul_self (by positivity)]

/-- An exponent split into its parity and twice a whole number. -/
theorem exponent_parity (e : Int) : (2 : ℝ) ^ e = 2 ^ (e % 2).toNat * 2 ^ (2 * ((e - e % 2) / 2)) := by
  rw [← zpow_natCast, ← zpow_add₀ two_ne_zero]
  congr 1
  omega

theorem fsqrtF_rounded {x : Word} (hx : fpFinite x) (pos : 0 < fpVal x) :
    Rounded .rne 0 √(fpVal x : ℝ) (asWord (fsqrtF x.toNat)) := by
  obtain ⟨m, e, valx, -, magx⟩ := value_of_finite hx
  obtain ⟨sign, value⟩ := fpVal_of_pos magx pos
  have hm : m ≠ 0 := mt (fpVal_eq_zero magx).2 pos.ne'
  unfold fsqrtF
  rw [valx, sign]
  dsimp only
  rw [if_neg hm, if_neg Bool.false_ne_true, isqrt_eq]
  have root : √(fpVal x : ℝ) = signOf false * (√((m * 2 ^ (e % 2).toNat * 2 ^ 80 : Nat) : ℝ) * 2 ^ ((e - e % 2) / 2 - 40)) := by
    rw [value, signOf_false, one_mul, ← sqrt_scale, exponent_parity e, mul_sub, zpow_sub₀ two_ne_zero]
    congr 1
    push_cast
    field_simp
    norm_num
  rw [root]
  have large : 2 ^ 80 ≤ m * 2 ^ (e % 2).toNat * 2 ^ 80 :=
    Nat.le_mul_of_pos_left _ (Nat.mul_pos (Nat.pos_of_ne_zero hm) (Nat.two_pow_pos _))
  have wide : 2 ^ 24 ≤ (m * 2 ^ (e % 2).toNat * 2 ^ 80).sqrt := Nat.le_sqrt.2 (le_trans (by norm_num) large)
  generalize m * 2 ^ (e % 2).toNat * 2 ^ 80 = n at wide
  refine roundF_rounded_floor _ _ (Real.nat_sqrt_le_real_sqrt) (Real.real_sqrt_lt_nat_sqrt_succ) ?_ wide
  rw [bne_iff_ne, Ne, Ne, not_iff_not, eq_comm (b := √(n : ℝ)), Real.sqrt_eq_iff_mul_self_eq (by positivity) (by positivity),
    eq_comm]
  norm_cast

theorem frsqF_rounded {x : Word} (hx : fpFinite x) (pos : 0 < fpVal x) :
    Rounded .rne 0 (1 / √(fpVal x : ℝ)) (asWord (frsqF x.toNat)) := by
  obtain ⟨m, e, valx, small, magx⟩ := value_of_finite hx
  obtain ⟨sign, value⟩ := fpVal_of_pos magx pos
  have hm : m ≠ 0 := mt (fpVal_eq_zero magx).2 pos.ne'
  unfold frsqF
  rw [valx, sign]
  dsimp only
  rw [if_neg hm, if_neg Bool.false_ne_true, isqrt_eq]
  have parity : (e % 2).toNat ≤ 1 := by omega
  have n_pos : 0 < m * 2 ^ (e % 2).toNat := Nat.mul_pos (Nat.pos_of_ne_zero hm) (Nat.two_pow_pos _)
  have n_small : m * 2 ^ (e % 2).toNat < 2 ^ 25 := by
    interval_cases (e % 2).toNat <;> omega
  have root : 1 / √(fpVal x : ℝ) =
      signOf false * (√(2 ^ 160 / (m * 2 ^ (e % 2).toNat : Nat) : ℝ) * 2 ^ (-80 - (e - e % 2) / 2)) := by
    rw [value, signOf_false, one_mul, ← sqrt_scale, one_div, ← Real.sqrt_inv, exponent_parity e, mul_sub, zpow_sub₀ two_ne_zero]
    congr 1
    push_cast
    field_simp
  rw [root]
  generalize m * 2 ^ (e % 2).toNat = n at n_pos n_small
  have n_pos' : (0 : ℝ) < n := by exact_mod_cast n_pos
  obtain ⟨lower, upper, -⟩ := cast_div_bounds (2 ^ 160) n_pos.ne'
  rw [Nat.cast_pow, Nat.cast_ofNat] at lower upper
  have wide : 2 ^ 24 ≤ (2 ^ 160 / n).sqrt := by
    rw [Nat.le_sqrt, Nat.le_div_iff_mul_le n_pos]
    omega
  refine roundF_rounded_floor _ _ ?_ ?_ ?_ wide
  · exact Real.nat_sqrt_le_real_sqrt.trans (Real.sqrt_le_sqrt lower)
  · have next : ((2 ^ 160 / n : Nat) : ℝ) + 1 ≤ ((2 ^ 160 / n).sqrt + 1) ^ 2 := by
      rw [pow_two]
      exact_mod_cast Nat.lt_succ_sqrt (2 ^ 160 / n)
    rw [Real.sqrt_lt' (by positivity)]
    linarith
  · rw [bne_iff_ne, Ne, Ne, not_iff_not, eq_comm (b := √_), Real.sqrt_eq_iff_mul_self_eq (by positivity) (by positivity),
      div_eq_iff n_pos'.ne', eq_comm]
    norm_cast

theorem fsqrtF_zero {x : Word} (hx : fpFinite x) (zero : fpVal x = 0) : asWord (fsqrtF x.toNat) = (x, 0) := by
  obtain ⟨m, e, valx, -, magx⟩ := value_of_finite hx
  unfold fsqrtF
  rw [valx]
  dsimp only
  rw [if_pos ((fpVal_eq_zero magx).1 zero), asWord, BitVec.ofNat_toNat, BitVec.setWidth_eq]

/-- R104: a square root of a negative operand is invalid. -/
theorem roots_of_neg {x : Word} (hx : fpFinite x) (neg : fpVal x < 0) :
    asWord (fsqrtF x.toNat) = (0x7FC00000, 1) ∧ asWord (frsqF x.toNat) = (0x7FC00000, 1) := by
  obtain ⟨m, e, valx, -, magx⟩ := value_of_finite hx
  have hm : m ≠ 0 := mt (fpVal_eq_zero magx).2 neg.ne
  have invalid : asWord fp32.invalid = (0x7FC00000, 1) := rfl
  unfold fsqrtF frsqF
  rw [valx, fpVal_of_neg neg]
  dsimp only
  rw [if_neg hm, if_pos rfl, if_neg hm, if_pos rfl]
  exact ⟨invalid, invalid⟩

/-! ### The words (R90, R91, R98) -/

theorem divRem_eq (a b : Int) {dividend : Word} (signed : Bool) (h : BitVec.ofInt 32 a = dividend) :
    divRem a b dividend signed = (BitVec.ofInt 32 (quotient a b), BitVec.ofInt 32 (remainder a b)) := by
  unfold divRem quotient remainder
  by_cases zero : b = 0
  · rw [if_pos zero, if_pos zero, if_pos zero, h]
    rfl
  · rw [if_neg zero, if_neg zero, if_neg zero]
    split_ifs with least
    · obtain ⟨-, rfl, rfl⟩ := least
      rfl
    · rw [Int.tmod_def]

/-- R98: `exec` evaluates the rule of every division in each visited lane. -/
theorem exec_divRule {ins : Instr} {f : LongRule} (h : divRule ins = some f) (s : State) : exec ins s = longWord ins s f := by
  have signed : ∀ x y : Word, divRemS x y =
      (BitVec.ofInt 32 (quotient x.toInt y.toInt), BitVec.ofInt 32 (remainder x.toInt y.toInt)) :=
    fun x y => divRem_eq _ _ _ BitVec.ofInt_toInt
  have unsigned : ∀ x y : Word, divRemU x y =
      (BitVec.ofInt 32 (quotient x.toNat y.toNat), BitVec.ofInt 32 (remainder x.toNat y.toNat)) :=
    fun x y => divRem_eq _ _ _ (by simp)
  unfold divRule at h
  split at h <;> cases h
  next d a b =>
    show execDivI32 d a b s = _
    simp only [execDivI32, signed]
    rfl
  next d a b =>
    show execDivN32 d a b s = _
    simp only [execDivN32, unsigned]
    rfl
  next d a b =>
    show execRemI32 d a b s = _
    simp only [execRemI32, signed]
    rfl
  next d a b =>
    show execRemN32 d a b s = _
    simp only [execRemN32, unsigned]
    rfl

/-- R103: `exec` evaluates the rule of every special function in each visited lane. -/
theorem exec_specialRule {ins : Instr} {f : LongRule} (h : specialRule ins = some f) (s : State) :
    exec ins s = longWord ins s f := by
  unfold specialRule at h
  split at h <;> cases h <;> rfl

/-- Settles O3: the words by what `exec` evaluates in their lanes, quotients and roots by their whole part with a sticky bit. -/
theorem longWords : Obligations.LongWords := by
  unfold Obligations.LongWords
  refine ⟨fun ins f rule s i hi hl => ?_, fun x y hx hy nonzero => ?_, fun x hx => ⟨fun pos => ?_, fsqrtF_zero hx, roots_of_neg hx⟩⟩
  · have long : exec ins s = longWord ins s f := rule.elim (exec_divRule · s) (exec_specialRule · s)
    rw [long]
    exact ⟨fun cs he => longWord_error hi hl he, fun rs he => longWord_ok hi hl he⟩
  · obtain ⟨quotient, sign⟩ := fdivF_rounded hx hy nonzero
    exact ⟨quotient, sign, frcpF_rounded hy nonzero⟩
  · exact ⟨fsqrtF_rounded hx pos, frsqF_rounded hx pos⟩

end Sys2Proof.Machine
end

section
/-! SUPPORT. Every selector, code and field that `encode` writes is read back by the decoder as it was (R40, R41, R61-R74, R97-R99,
R112, R113). -/

namespace Sys2Proof

/-! ### Reading what was written -/

/-- A decoding step that succeeds hands on its value. -/
@[simp] theorem ok_bind {α β : Type} (a : α) (f : α → Except Reject β) : ((Except.ok a : Except Reject α) >>= f) = f a := rfl

/-- An index is read from every number that agrees with it modulo its bound. -/
theorem finOfNat_eq {n x : Nat} [NeZero n] {i : Fin n} (h : x % n = i.val) : Fin.ofNat n x = i := Fin.ext h

@[simp] theorem must_self {l : Nat} (x : BitVec l) : must x x = .ok () := if_pos rfl

@[simp] theorem mustMisc_self {l : Nat} (x : BitVec l) : mustMisc x x = .ok () := if_pos rfl

@[simp] theorem mustNot_false : mustNot false = .ok () := rfl

@[simp] theorem getLsbD_ofBool_zero (b : Bool) : (BitVec.ofBool b).getLsbD 0 = b := by cases b <;> rfl

/-! ### Selectors (R63-R66, R70, R99) -/

@[simp] theorem decSrc_encSrc (a : Src) : decSrc (encSrc a) = .ok a := by
  cases a with
  | v n | o n | b n | s n =>
    simp (disch := omega) only [decSrc, encSrc, BitVec.toNat_ofNat, if_pos, if_neg]
    rw [finOfNat_eq (i := n) (by omega)]
  | vx k d =>
    simp (disch := omega) only [decSrc, encSrc, BitVec.toNat_ofNat, if_pos, if_neg]
    rw [finOfNat_eq (i := k) (by omega), finOfNat_eq (i := d) (by omega)]
  | zero | lane | width | slot | grp | team | litLo | litHi => rfl

@[simp] theorem decSrcC_encSrcC (a : SrcC) : decSrcC (encSrcC a) = .ok a := by
  cases a with
  | o n | b n | v n =>
    simp (disch := omega) only [decSrcC, encSrcC, BitVec.toNat_ofNat, if_pos, if_neg]
    rw [finOfNat_eq (i := n) (by omega)]
  | zero => rfl

@[simp] theorem decDst_encDst (d : Dst) : decDst (encDst d) = .ok d := by
  cases d with
  | v n | o n =>
    simp (disch := omega) only [decDst, encDst, BitVec.toNat_ofNat, if_pos, if_neg]
    rw [finOfNat_eq (i := n) (by omega)]
  | vx k d =>
    simp (disch := omega) only [decDst, encDst, BitVec.toNat_ofNat, if_pos, if_neg]
    rw [finOfNat_eq (i := k) (by omega), finOfNat_eq (i := d) (by omega)]
  | latch => rfl

@[simp] theorem decCap_encCap (x : CapSel) : decCap (encCap x) = .ok x := by
  cases x with
  | w n | k n =>
    simp (disch := omega) only [decCap, encCap, BitVec.toNat_ofNat, if_pos, if_neg]
    rw [finOfNat_eq (i := n) (by omega)]

@[simp] theorem decPSrc_encPSrc (a : PSrc) : decPSrc (encPSrc a) = .ok a := by
  cases a with
  | v n | s n =>
    simp (disch := omega) only [decPSrc, encPSrc, BitVec.toNat_ofNat, if_pos, if_neg]
    rw [finOfNat_eq (i := n) (by omega)]
  | zero | lit => rfl

@[simp] theorem decPDst_encPDst (d : PDst) : decPDst (encPDst d) = .ok d := by
  cases d with
  | v n =>
    simp (disch := omega) only [decPDst, encPDst, BitVec.toNat_ofNat, if_pos]
    rw [finOfNat_eq (i := n) (by omega)]
  | latch => rfl

@[simp] theorem decPSel_encPSel (a : PSel) : decPSel (encPSel a) = .ok a := by
  cases a with
  | o n | b n | s n | v n =>
    simp (disch := omega) only [decPSel, encPSel, BitVec.toNat_ofNat, if_pos, if_neg]
    rw [finOfNat_eq (i := n) (by omega)]
  | zero | lane => rfl

@[simp] theorem decPHDst_encPHDst (d : PHDst) : decPHDst (encPHDst d) = .ok d := by
  cases d with
  | o n | v n =>
    simp (disch := omega) only [decPHDst, encPHDst, BitVec.toNat_ofNat, if_pos, if_neg]
    rw [finOfNat_eq (i := n) (by omega)]
  | latch => rfl

@[simp] theorem decScl_encScl (i : Fin 64) : decScl (encScl i) = .ok i := by
  simp (disch := omega) only [decScl, encScl, BitVec.toNat_ofNat, if_pos]
  rw [finOfNat_eq (i := i) (by omega)]

@[simp] theorem decOc_encOc (o : Fin 16) : decOc (encOc o) = .ok o := by
  simp (disch := omega) only [decOc, encOc, BitVec.toNat_ofNat, if_pos]
  rw [finOfNat_eq (i := o) (by omega)]

/-! ### Numbers -/

/-- A number that fits its field is read as itself. -/
theorem toNat_ofNat_of_lt {l k : Nat} (h : k < 2 ^ l) : (BitVec.ofNat l k).toNat = k := by
  rw [BitVec.toNat_ofNat, Nat.mod_eq_of_lt h]

@[simp] theorem decNum_ofNat {l n : Nat} [NeZero n] (h : n ≤ 2 ^ l) (i : Fin n) : decNum n (BitVec.ofNat l i.val) = .ok i := by
  rw [decNum, toNat_ofNat_of_lt (i.isLt.trans_le h), if_pos i.isLt, Fin.ofNat_val_eq_self]

@[simp] theorem decPred_ofNat {l : Nat} (h : 7 ≤ 2 ^ l) (p : Fin 7) : decPred (BitVec.ofNat l p.val) = .ok p := by
  rw [decPred, toNat_ofNat_of_lt (p.isLt.trans_le h), if_pos p.isLt, Fin.ofNat_val_eq_self]

/-- The first register of a block of `step` registers. -/
@[simp] theorem decMul_encMul {step n : Nat} [NeZero n] (pos : 0 < step) (h : step * n ≤ 256) (i : Fin n) :
    decMul step n (encMul step i) = .ok i := by
  have below : step * i.val < step * n := Nat.mul_lt_mul_of_pos_left i.isLt pos
  have read : (encMul step i).toNat = step * i.val := by
    rw [encMul, toNat_ofNat_of_lt (by omega)]
  rw [decMul, read, Nat.mul_mod_right, Nat.mul_div_cancel_left _ pos, if_pos ⟨rfl, i.isLt⟩, Fin.ofNat_val_eq_self]

@[simp] theorem decPredOpt_encPredOpt (p : Option (Fin 7)) : decPredOpt (encPredOpt p) = p := by
  cases p with
  | none => rfl
  | some n =>
    rw [decPredOpt, encPredOpt, toNat_ofNat_of_lt (by omega), if_pos n.isLt, Fin.ofNat_val_eq_self]

@[simp] theorem decPCode_ofNat {l : Nat} (h : 16 ≤ 2 ^ l) (q : PCode) : decPCode (BitVec.ofNat l (encPCode q)) = .ok q := by
  have read : ∀ k < 16, (BitVec.ofNat l k).toNat = k := fun k hk => toNat_ofNat_of_lt (hk.trans_le h)
  cases q with
  | pos n =>
    show decPCode (BitVec.ofNat l n.val) = _
    simp (disch := omega) only [decPCode, read, if_pos, Fin.ofNat_val_eq_self]
  | always =>
    show decPCode (BitVec.ofNat l 7) = _
    simp (disch := omega) only [decPCode, read, if_neg, if_true]
  | neg n =>
    show decPCode (BitVec.ofNat l (8 + n.val)) = _
    simp (disch := omega) only [decPCode, read, if_neg, if_pos, Nat.add_sub_cancel_left, Fin.ofNat_val_eq_self]
  | never =>
    show decPCode (BitVec.ofNat l 15) = _
    simp (disch := omega) only [decPCode, read, if_neg, if_true]

/-! ### Codes (R40, R41, R74, R112, R113) -/

@[simp] theorem decRMode_encRMode (m : RMode) : decRMode (encRMode m) = .ok m := by cases m <;> rfl

@[simp] theorem decNFmt_encNFmt (f : NFmt) : decNFmt (encNFmt f) = .ok f := by cases f <;> rfl

@[simp] theorem decFCond_encFCond (q : FCond) : decFCond (encFCond q) = .ok q := by cases q <;> rfl

@[simp] theorem decScope_encScope (sc : Scope) : decScope (encScope sc) = .ok sc := by cases sc <;> rfl

@[simp] theorem decOrder_encOrder (o : Order) : decOrder (encOrder o) = .ok o := by cases o <;> rfl

@[simp] theorem decStOrd_encStOrd (o : StOrd) : decStOrd (encStOrd o) = .ok o := by cases o <;> rfl

@[simp] theorem decHint_encHint (h : Hint) : decHint (encHint h) = h := by cases h <;> rfl

@[simp] theorem decCond_ofNat {l : Nat} (h : 6 ≤ 2 ^ l) (q : Cond) : decCond (BitVec.ofNat l (encCond q)) = .ok q := by
  have read : (BitVec.ofNat l (encCond q)).toNat = encCond q := by
    have small : encCond q < 6 := by cases q <;> decide
    exact toNat_ofNat_of_lt (small.trans_le h)
  rw [decCond, read]
  cases q <;> rfl

/-- R74: the misc field of a load. -/
@[simp] theorem decLdMod_encLdMod (m : LdMod) : decLdMod (encLdMod m) = .ok m := by
  cases m with
  | relaxed sx h => cases sx <;> cases h <;> rfl
  | acquire sc | sequential sc => cases sc <;> rfl

/-! ### Operands that may be absent, or of two kinds -/

@[simp] theorem decDstOpt_encDstOpt (d : Option Dst) : decDstOpt (encDstOpt d) = .ok d := by
  cases d with
  | none => rfl
  | some d =>
    have named : encDst d ≠ 0x94#8 := fun h => by
      have read := decDst_encDst d
      rw [h] at read
      cases read
    rw [decDstOpt, encDstOpt, if_neg named, decDst_encDst, ok_bind]

@[simp] theorem decMulOpt_encMulOpt {step n : Nat} [NeZero n] (pos : 0 < step) (h : step * n ≤ 128) (d : Option (Fin n)) :
    decMulOpt step n (encMulOpt step d) = .ok d := by
  cases d with
  | none => rfl
  | some i =>
    have below : step * i.val < step * n := Nat.mul_lt_mul_of_pos_left i.isLt pos
    have named : encMul step i ≠ 0x94#8 := fun e => by
      have read := congrArg BitVec.toNat e
      simp only [encMul, BitVec.toNat_ofNat] at read
      omega
    rw [decMulOpt, encMulOpt, if_neg named, decMul_encMul pos (by omega), ok_bind]

@[simp] theorem decCapOpt_encCapOpt (x : Option CapSel) : decCapOpt x.isSome (encCapOpt x) = .ok x := by
  cases x with
  | none => rfl
  | some x => simp [decCapOpt, encCapOpt]

@[simp] theorem decQ_encQ (q : Option (Fin 31)) : decQ q.isSome (encQ q) = .ok q := by
  cases q with
  | none => rfl
  | some n => simp [decQ, encQ, decNum_ofNat]

/-- R198: 0xFE is a scalar here, so that the latch chain alone is not read back. -/
theorem decSDst_encSDst {d : SDst} (h : d.ok = true) : decSDst (encSDst d) = .ok d := by
  cases d with
  | s i =>
    simp (disch := omega) only [decSDst, encSDst, BitVec.toNat_ofNat, if_pos]
    rw [finOfNat_eq (i := i) (by omega)]
  | reg d =>
    have low : ¬ 0xC0 ≤ (encDst d).toNat := by
      cases d with
      | v n | o n | vx n k => simp only [encDst, BitVec.toNat_ofNat]; omega
      | latch => exact absurd h (by decide)
    rw [decSDst, encSDst, if_neg low, decDst_encDst, ok_bind]

/-- R354: an item is read back unless it holds as `other` a number that the table lists. -/
theorem decCtxItem_encCtxItem {it : CtxItem} {d : Dst} (h : it.dstOk d = true) :
    decCtxItem (encCtxItem it) (encCtxOpnd it) = .ok it := by
  cases it with
  | ceil x | fault x | cset x => simp [decCtxItem, encCtxItem, encCtxOpnd]
  | cnt n =>
    simp (disch := omega) only [decCtxItem, encCtxItem, encCtxOpnd, BitVec.toNat_ofNat, if_pos, if_neg, must_self, ok_bind]
    rw [finOfNat_eq (i := n) (by omega)]
  | other item raw =>
    have unlisted : 3 ≤ item.toNat ∧ (item.toNat < 16 ∨ 24 ≤ item.toNat) := by simpa [CtxItem.dstOk] using h
    show decCtxItem item raw = _
    simp (disch := omega) only [decCtxItem, if_neg]

/-! ### Parts of a field (R74, R107, R108, R115) -/

theorem getLsbD_append_ofBool {n : Nat} (x : BitVec n) (b : Bool) : (x ++ BitVec.ofBool b).getLsbD 0 = b := by
  rw [BitVec.getLsbD_append]
  exact getLsbD_ofBool_zero b

theorem getLsbD_append_top {n : Nat} (x : BitVec 1) (y : BitVec n) : (x ++ y).getLsbD n = x[0] := by
  rw [BitVec.getLsbD_append, if_neg (Nat.lt_irrefl n), Nat.sub_self]
  rfl

@[simp] theorem parts_3_3 (x y : BitVec 3) : (x ++ y : BitVec 6).extractLsb' 3 3 = x ∧ (x ++ y : BitVec 6).extractLsb' 0 3 = y :=
  ⟨BitVec.extractLsb'_append_eq_left, BitVec.extractLsb'_append_eq_right⟩

@[simp] theorem parts_3_2_1 (x : BitVec 3) (y : BitVec 2) (b : Bool) :
    (x ++ y ++ BitVec.ofBool b : BitVec 6).extractLsb' 3 3 = x ∧ (x ++ y ++ BitVec.ofBool b : BitVec 6).extractLsb' 1 2 = y ∧
      (x ++ y ++ BitVec.ofBool b : BitVec 6)[0] = b :=
  ⟨(BitVec.extractLsb'_append_eq_of_le (by decide)).trans BitVec.extractLsb'_append_eq_left,
    (BitVec.extractLsb'_append_eq_of_le (by decide)).trans BitVec.extractLsb'_append_eq_right, getLsbD_append_ofBool _ b⟩

@[simp] theorem parts_1_2_3 (x : BitVec 1) (y : BitVec 2) (z : BitVec 3) :
    (x ++ y ++ z : BitVec 6).extractLsb' 5 1 = x ∧ (x ++ y ++ z : BitVec 6).extractLsb' 3 2 = y ∧
      (x ++ y ++ z : BitVec 6).extractLsb' 0 3 = z :=
  ⟨(BitVec.extractLsb'_append_eq_of_le (by decide)).trans BitVec.extractLsb'_append_eq_left,
    (BitVec.extractLsb'_append_eq_of_le (by decide)).trans BitVec.extractLsb'_append_eq_right, BitVec.extractLsb'_append_eq_right⟩

@[simp] theorem parts_2_1_3 (x : BitVec 2) (b : Bool) (z : BitVec 3) :
    (x ++ BitVec.ofBool b ++ z : BitVec 6).extractLsb' 4 2 = x ∧ (x ++ BitVec.ofBool b ++ z : BitVec 6)[3] = b ∧
      (x ++ BitVec.ofBool b ++ z : BitVec 6).extractLsb' 0 3 = z := by
  refine ⟨(BitVec.extractLsb'_append_eq_of_le (by decide)).trans BitVec.extractLsb'_append_eq_left, ?_,
    BitVec.extractLsb'_append_eq_right⟩
  rw [← BitVec.getLsbD_eq_getElem, BitVec.getLsbD_append]
  exact getLsbD_append_ofBool x b

@[simp] theorem parts_2_2_2 (x y z : BitVec 2) :
    (x ++ y ++ z : BitVec 6).extractLsb' 4 2 = x ∧ (x ++ y ++ z : BitVec 6).extractLsb' 2 2 = y ∧
      (x ++ y ++ z : BitVec 6).extractLsb' 0 2 = z :=
  ⟨(BitVec.extractLsb'_append_eq_of_le (by decide)).trans BitVec.extractLsb'_append_eq_left,
    (BitVec.extractLsb'_append_eq_of_le (by decide)).trans BitVec.extractLsb'_append_eq_right, BitVec.extractLsb'_append_eq_right⟩

@[simp] theorem parts_5_1 (x : BitVec 5) (b : Bool) :
    (x ++ BitVec.ofBool b : BitVec 6).extractLsb' 1 5 = x ∧ (x ++ BitVec.ofBool b : BitVec 6)[0] = b :=
  ⟨BitVec.extractLsb'_append_eq_left, getLsbD_append_ofBool x b⟩

@[simp] theorem parts_4_2 (x : BitVec 4) (y : BitVec 2) :
    (x ++ y : BitVec 6).extractLsb' 2 4 = x ∧ (x ++ y : BitVec 6).extractLsb' 0 2 = y :=
  ⟨BitVec.extractLsb'_append_eq_left, BitVec.extractLsb'_append_eq_right⟩

@[simp] theorem parts_1_3_4 (x : BitVec 1) (y : BitVec 3) (z : BitVec 4) :
    (x ++ y ++ z : BitVec 8)[7] = x[0] ∧ (x ++ y ++ z : BitVec 8).extractLsb' 4 3 = y ∧
      (x ++ y ++ z : BitVec 8).extractLsb' 0 4 = z := by
  refine ⟨?_, (BitVec.extractLsb'_append_eq_of_le (by decide)).trans BitVec.extractLsb'_append_eq_right,
    BitVec.extractLsb'_append_eq_right⟩
  rw [← BitVec.getLsbD_eq_getElem, BitVec.getLsbD_append]
  exact getLsbD_append_top x y

@[simp] theorem parts_1_7 (x : BitVec 1) (y : BitVec 7) :
    (x ++ y : BitVec 8)[7] = x[0] ∧ (x ++ y : BitVec 8).extractLsb' 0 7 = y :=
  ⟨getLsbD_append_top x y, BitVec.extractLsb'_append_eq_right⟩

/-- R217: the number of a `yield` or a `trap` from its two bytes. -/
theorem bytes_join (n : BitVec 16) : (n.extractLsb' 8 8 ++ n.extractLsb' 0 8 : BitVec 16) = n := BitVec.extractLsb'_append_extractLsb'

end Sys2Proof
end

section
/-! SUPPORT. Every word that `encode` packs is read back field by field, and decoded by the row of its opcode (R60, R61, R69, R72, R73,
R77-R80). -/

namespace Sys2Proof

/-! ### The control field (R27, R60, R61) -/

theorem guard_encPr (p : Option (Fin 7)) : (if (encPr p).toNat < 7 then some (Fin.ofNat 7 (encPr p).toNat) else none) = p :=
  decPredOpt_encPredOpt p

theorem encCtl_fields (c : Ctl) :
    (encCtl c).extractLsb' 16 3 = BitVec.ofNat 3 c.st.val ∧ (encCtl c).extractLsb' 4 12 = c.wm ∧
      (encCtl c).extractLsb' 0 4 = (match c.sf with | none => 15#4 | some f => BitVec.ofNat 4 f.val) :=
  ⟨(BitVec.extractLsb'_append_eq_of_le (by decide)).trans BitVec.extractLsb'_append_eq_left,
    (BitVec.extractLsb'_append_eq_of_le (by decide)).trans BitVec.extractLsb'_append_eq_right, BitVec.extractLsb'_append_eq_right⟩

/-- R61: the control field is read back from the low bits of a word, and the guard from the bits that hold it. -/
theorem decCtl_of_fields {w : DWord} {c : Ctl} {lo : Nat} (guard : fld w lo 3 = encPr c.pr)
    (control : ∀ k len, k + len ≤ 19 → fld w k len = (encCtl c).extractLsb' k len) : decCtl w lo = .ok c := by
  obtain ⟨stall, wait, flag⟩ := encCtl_fields c
  rw [← control _ _ (by decide)] at stall wait flag
  obtain ⟨pr, st, wm, sf⟩ := c
  have st_read : (BitVec.ofNat 3 st.val).toNat = st.val := toNat_ofNat_of_lt st.isLt
  cases sf with
  | none =>
    simp only [decCtl, guard, guard_encPr, stall, wait, flag, st_read, Fin.ofNat_val_eq_self]
    rfl
  | some f =>
    have sf_read : (BitVec.ofNat 4 f.val).toNat = f.val := toNat_ofNat_of_lt (f.isLt.trans (by decide))
    simp only [decCtl, guard, guard_encPr, stall, wait, flag, st_read, sf_read, if_pos f.isLt, Fin.ofNat_val_eq_self]

/-! ### Words from their fields (R60, R69, R72, R73) -/

/-- A bit of a word is a field of one bit. -/
theorem getLsbD_eq_fld (w : DWord) (n : Nat) : w.getLsbD n = (fld w n 1).getLsbD 0 := by simp [fld]

/-- A field within a field. -/
theorem fld_fld {w : DWord} {lo n k len : Nat} (h : k + len ≤ n) : (fld w lo n).extractLsb' k len = fld w (lo + k) len := by
  ext j hj
  have inside : k + j < n := by omega
  simp [fld, inside, Nat.add_assoc]

/-- R60. -/
theorem packF_fields (op : Nat) (c : Ctl) (dst sa sb : BitVec 8) (sc : BitVec 6) (da db : Bool) :
    let w := packF op c dst sa sb sc da db
    fld w 62 2 = 0#2 ∧ fld w 54 8 = BitVec.ofNat 8 op ∧ fld w 51 3 = encPr c.pr ∧ fld w 43 8 = dst ∧ fld w 35 8 = sa ∧
      fld w 27 8 = sb ∧ fld w 21 6 = sc ∧ fld w 20 1 = BitVec.ofBool da ∧ fld w 19 1 = BitVec.ofBool db := by
  simp (disch := decide) only [fld, packF, BitVec.extractLsb'_append_eq_of_le, BitVec.extractLsb'_append_eq_of_add_le, Nat.reduceSub,
    BitVec.extractLsb'_eq_self, and_self]

/-- R60: the fields of an F word are read back. -/
theorem rawF_packF (op : Nat) (c : Ctl) (dst sa sb : BitVec 8) (sc : BitVec 6) (da db : Bool) :
    rawF (packF op c dst sa sb sc da db) = .ok ⟨c, dst, sa, sb, sc, da, db⟩ := by
  obtain ⟨-, -, guard, hdst, hsa, hsb, hsc, hda, hdb⟩ := packF_fields op c dst sa sb sc da db
  have control : decCtl (packF op c dst sa sb sc da db) 51 = .ok c :=
    decCtl_of_fields guard fun k len h => BitVec.extractLsb'_append_eq_of_add_le h
  simp only [rawF, control, ok_bind, hdst, hsa, hsb, hsc, getLsbD_eq_fld, hda, hdb, getLsbD_ofBool_zero]

/-- R73. -/
theorem packS_fields (op : Nat) (c : Ctl) (a b x : BitVec 8) (misc : BitVec 6) :
    let w := packS op c a b x misc
    fld w 62 2 = 3#2 ∧ fld w 52 10 = BitVec.ofNat 10 op ∧ fld w 49 3 = encPr c.pr ∧ fld w 41 8 = a ∧ fld w 33 8 = b ∧
      fld w 25 8 = x ∧ fld w 19 6 = misc := by
  simp (disch := decide) only [fld, packS, BitVec.extractLsb'_append_eq_of_le, BitVec.extractLsb'_append_eq_of_add_le, Nat.reduceSub,
    BitVec.extractLsb'_eq_self, and_self]

/-- R73: the fields of an S word are read back. -/
theorem rawS_packS (op : Nat) (c : Ctl) (a b x : BitVec 8) (misc : BitVec 6) :
    rawS (packS op c a b x misc) = .ok ⟨c, a, b, x, misc⟩ := by
  obtain ⟨-, -, guard, ha, hb, hx, hm⟩ := packS_fields op c a b x misc
  have control : decCtl (packS op c a b x misc) 49 = .ok c :=
    decCtl_of_fields guard fun k len h => BitVec.extractLsb'_append_eq_of_add_le h
  simp only [rawS, control, ok_bind, ha, hb, hx, hm]

/-- R72. -/
theorem encB_br_fields (op : Nat) (c : Ctl) (off : BitVec 32) (h : Fin 3) :
    let w := encB_br op c off h
    fld w 62 2 = 2#2 ∧ fld w 56 6 = BitVec.ofNat 6 op ∧ fld w 53 3 = encPr c.pr ∧ fld w 21 32 = off ∧
      fld w 19 2 = BitVec.ofNat 2 h.val := by
  simp (disch := decide) only [fld, encB_br, BitVec.extractLsb'_append_eq_of_le, BitVec.extractLsb'_append_eq_of_add_le, Nat.reduceSub,
    BitVec.extractLsb'_eq_self, and_self]

/-- R72, R79: `op` is 0 for `bra` and 1 for `call`. -/
theorem decodeRaw_encB_br {op : Nat} (two : op < 2) (c : Ctl) (off : BitVec 32) (h : Fin 3) :
    decodeRaw (encB_br op c off h) = .ok ⟨c, if op = 0 then .bra off h else .call off h⟩ := by
  obtain ⟨format, opcode, guard, hoff, hh⟩ := encB_br_fields op c off h
  have control : decCtl (encB_br op c off h) 53 = .ok c :=
    decCtl_of_fields guard fun k len hk => BitVec.extractLsb'_append_eq_of_add_le hk
  have number : (fld (encB_br op c off h) 56 6).toNat = op := by rw [opcode, toNat_ofNat_of_lt (by omega)]
  have kind : (fld (encB_br op c off h) 62 2).toNat = 2 := by rw [format]; rfl
  have hint : decNum 3 (fld (encB_br op c off h) 19 2) = .ok h := by rw [hh, decNum_ofNat (by decide)]
  simp only [decodeRaw, kind, decB, number, if_pos two, control, hint, hoff, ok_bind]
  split_ifs <;> rfl

/-- R78: the half opcode of an operation is its place in its table. -/
theorem getElem?_encPOp (o : POp) : (if o.isFp then fpOps else intOps)[(BitVec.ofNat 5 (encPOp o)).toNat]? = some o := by
  cases o <;> rfl

theorem encHalf_fields (h : PHalf) :
    (encHalf h).extractLsb' 18 5 = BitVec.ofNat 5 (encPOp h.op) ∧ (encHalf h).extractLsb' 12 6 = encPHDst h.d ∧
      (encHalf h).extractLsb' 6 6 = encPSel h.a ∧ (encHalf h).extractLsb' 0 6 = encPSel h.b := by
  refine ⟨?_, ?_, ?_, BitVec.extractLsb'_append_eq_right⟩ <;> unfold encHalf
  · rw [BitVec.extractLsb'_append_eq_of_le (by decide), BitVec.extractLsb'_append_eq_of_le (by decide)]
    exact BitVec.extractLsb'_append_eq_left
  · rw [BitVec.extractLsb'_append_eq_of_le (by decide), BitVec.extractLsb'_append_eq_of_le (by decide)]
    exact BitVec.extractLsb'_append_eq_right
  · rw [BitVec.extractLsb'_append_eq_of_le (by decide)]
    exact BitVec.extractLsb'_append_eq_right

/-- R69: a half is read back from the 23 bits `lo` up, by the table that its operation stands in. -/
theorem decHalf_of_fields {w : DWord} {h : PHalf} {lo : Nat} (half : fld w lo 23 = encHalf h) :
    decHalf h.op.isFp (fld w (lo + 18) 5) (fld w (lo + 12) 6) (fld w (lo + 6) 6) (fld w lo 6) = .ok h := by
  have part : ∀ k len, k + len ≤ 23 → fld w (lo + k) len = (encHalf h).extractLsb' k len := fun k len hk => by
    rw [← half, fld_fld hk]
  obtain ⟨op, d, a, b⟩ := encHalf_fields h
  rw [← part _ _ (by decide)] at op d a b
  rw [Nat.add_zero] at b
  simp only [decHalf, op, d, a, b, getElem?_encPOp, decPHDst_encPHDst, decPSel_encPSel, ok_bind]

/-- R69. -/
theorem encP_fields (c : Ctl) (fp : Bool) (h1 h2 : PHalf) :
    let w := encP c fp h1 h2
    fld w 62 2 = 1#2 ∧ fld w 61 1 = BitVec.ofBool fp ∧ fld w 38 23 = encHalf h1 ∧ fld w 15 23 = encHalf h2 ∧
      fld w 12 3 = BitVec.ofNat 3 c.st.val ∧ fld w 0 12 = c.wm := by
  simp (disch := decide) only [fld, encP, BitVec.extractLsb'_append_eq_of_le, BitVec.extractLsb'_append_eq_of_add_le, Nat.reduceSub,
    BitVec.extractLsb'_eq_self, and_self]

/-- R69: a P word of two halves of one table decodes, with neither guard nor flag. -/
theorem decodeRaw_encP {c : Ctl} {fp : Bool} {h1 h2 : PHalf} (pr : c.pr = none) (sf : c.sf = none) (t1 : h1.op.isFp = fp)
    (t2 : h2.op.isFp = fp) : decodeRaw (encP c fp h1 h2) = .ok ⟨c, .pairedWord fp h1 h2⟩ := by
  obtain ⟨format, table, half1, half2, stall, wait⟩ := encP_fields c fp h1 h2
  have kind : (fld (encP c fp h1 h2) 62 2).toNat = 1 := by rw [format]; rfl
  have first := decHalf_of_fields half1
  have second := decHalf_of_fields half2
  rw [t1] at first
  rw [t2] at second
  have st_read : (BitVec.ofNat 3 c.st.val).toNat = c.st.val := toNat_ofNat_of_lt c.st.isLt
  simp only [decodeRaw, kind, decP, getLsbD_eq_fld, table, getLsbD_ofBool_zero, first, second, ok_bind, stall, wait, st_read,
    Fin.ofNat_val_eq_self, ← pr, ← sf]

/-! ### The opcode maps (R77, R80) -/

theorem findRow_mem {α : Type} {op : Nat} {k : α} : ∀ {rows : List (Nat × α)}, findRow op rows = some k → (op, k) ∈ rows
  | (n, r) :: rest, h => by
    rw [findRow] at h
    split_ifs at h with e
    · cases h
      exact e ▸ List.mem_cons_self
    · exact List.mem_cons_of_mem _ (findRow_mem h)

/-- R77: an F opcode fits its field. -/
theorem fTable_op_lt {op : Nat} {k : RawF → Except Reject Instr} (row : findRow op fTable = some k) : op < 2 ^ 8 := by
  have all : fTable.all fun r => decide (r.1 < 2 ^ 8) := rfl
  exact of_decide_eq_true (List.all_eq_true.1 all _ (findRow_mem row))

/-- R80: an S opcode fits its field. -/
theorem sTable_op_lt {op : Nat} {k : RawS → Except Reject Instr} (row : findRow op sTable = some k) : op < 2 ^ 10 := by
  have all : sTable.all fun r => decide (r.1 < 2 ^ 10) := rfl
  exact of_decide_eq_true (List.all_eq_true.1 all _ (findRow_mem row))

/-- An F word whose form is read back decodes by its row of the map. -/
theorem decodeRaw_packF {op : Nat} {k : RawF → Except Reject Instr} {c : Ctl} {dst sa sb : BitVec 8} {sc : BitVec 6} {da db : Bool}
    {i : Instr} (row : findRow op fTable = some k) (form : k ⟨c, dst, sa, sb, sc, da, db⟩ = .ok i) :
    decodeRaw (packF op c dst sa sb sc da db) = .ok ⟨c, i⟩ := by
  obtain ⟨format, opcode, -⟩ := packF_fields op c dst sa sb sc da db
  have number : (fld (packF op c dst sa sb sc da db) 54 8).toNat = op := by
    rw [opcode, toNat_ofNat_of_lt (fTable_op_lt row)]
  have kind : (fld (packF op c dst sa sb sc da db) 62 2).toNat = 0 := by rw [format]; rfl
  simp only [decodeRaw, kind, number, row, rawF_packF, ok_bind, form]

/-- An S word whose form is read back decodes by its row of the map. -/
theorem decodeRaw_packS {op : Nat} {k : RawS → Except Reject Instr} {c : Ctl} {a b x : BitVec 8} {misc : BitVec 6}
    {i : Instr} (row : findRow op sTable = some k) (form : k ⟨c, a, b, x, misc⟩ = .ok i) :
    decodeRaw (packS op c a b x misc) = .ok ⟨c, i⟩ := by
  obtain ⟨format, opcode, -⟩ := packS_fields op c a b x misc
  have number : (fld (packS op c a b x misc) 52 10).toNat = op := by
    rw [opcode, toNat_ofNat_of_lt (sTable_op_lt row)]
  have kind : (fld (packS op c a b x misc) 62 2).toNat = 3 := by rw [format]; rfl
  simp only [decodeRaw, kind, number, row, rawS_packS, ok_bind, form]

/-! ### Sources of an F word (R19, R60, R68) -/

@[simp] theorem RawF.a_encSrc (c : Ctl) (dst sb : BitVec 8) (sc : BitVec 6) (db : Bool) (a : SrcD) :
    (⟨c, dst, encSrc a.sel, sb, sc, a.dead, db⟩ : RawF).a = .ok a := by simp only [RawF.a, decSrc_encSrc, ok_bind]

@[simp] theorem RawF.b_encSrc (c : Ctl) (dst sa : BitVec 8) (sc : BitVec 6) (da : Bool) (b : SrcD) :
    (⟨c, dst, sa, encSrc b.sel, sc, da, b.dead⟩ : RawF).b = .ok b := by simp only [RawF.b, decSrc_encSrc, ok_bind]

@[simp] theorem RawF.noA_unused (c : Ctl) (dst sb : BitVec 8) (sc : BitVec 6) (db : Bool) :
    (⟨c, dst, 0x94#8, sb, sc, false, db⟩ : RawF).noA = .ok () := rfl

@[simp] theorem RawF.noB_unused (c : Ctl) (dst sa : BitVec 8) (sc : BitVec 6) (da : Bool) :
    (⟨c, dst, sa, 0x94#8, sc, da, false⟩ : RawF).noB = .ok () := rfl

@[simp] theorem RawF.noC_unused (c : Ctl) (dst sa sb : BitVec 8) (da db : Bool) :
    (⟨c, dst, sa, sb, 0x14#6, da, db⟩ : RawF).noC = .ok () := rfl
end Sys2Proof
end

section
/-! SUPPORT. Every well-formed instruction by the form of its word; the steps of the part have none (R59-R80). -/

namespace Sys2Proof

open Machine

/-- An instruction has a word, and the fields of that word read as the instruction. -/
def Ins.Encoded (x : Ins) : Prop := ∃ w, encode x.i x.c = some w ∧ decodeRaw w = .ok x

/-- The part, or what is outside it, takes this step; no core fetches it. -/
def Instr.IsStep (i : Instr) : Prop := unitStep i = true ∨ i ∈ outsideSteps

/-- An instruction whose word has the F format, by its row and its form. -/
theorem encoded_F {i : Instr} {op : Nat} {c : Ctl} {dst sa sb : BitVec 8} {sc : BitVec 6} {da db : Bool}
    {k : RawF → Except Reject Instr} (fetched : unitStep i = false) (word : encode i c = some (packF op c dst sa sb sc da db))
    (row : findRow op fTable = some k) (form : k ⟨c, dst, sa, sb, sc, da, db⟩ = .ok i) : unitStep i = false ∧ Ins.Encoded ⟨c, i⟩ :=
  ⟨fetched, _, word, decodeRaw_packF row form⟩

/-- An instruction whose word has the S format, by its row and its form. -/
theorem encoded_S {i : Instr} {op : Nat} {c : Ctl} {a b x : BitVec 8} {misc : BitVec 6} {k : RawS → Except Reject Instr}
    (fetched : unitStep i = false) (word : encode i c = some (packS op c a b x misc)) (row : findRow op sTable = some k)
    (form : k ⟨c, a, b, x, misc⟩ = .ok i) : unitStep i = false ∧ Ins.Encoded ⟨c, i⟩ :=
  ⟨fetched, _, word, decodeRaw_packS row form⟩

/-! ### What well-formedness adds (R59) -/

theorem firstReject_eq_none {l : List (Bool × Reject)} (h : firstReject l = none) : ∀ p ∈ l, p.1 = true := by
  induction l with
  | nil => exact nofun
  | cons p r ih =>
    obtain ⟨b, e⟩ := p
    cases b with
    | false => cases h
    | true => exact List.forall_mem_cons.2 ⟨rfl, ih h⟩

theorem Ins.problem_of_wf {x : Ins} (wf : x.wf = true) : x.i.problem x.c = none :=
  Option.isNone_iff_eq_none.1 (Bool.and_eq_true_iff.1 wf).1

theorem sread_dst_ok_of_wf {c : Ctl} {d : SDst} {n : Fin 16} (wf : Ins.wf ⟨c, .sread d n⟩ = true) : d.ok = true :=
  firstReject_eq_none (Ins.problem_of_wf wf) (d.ok, .destination) (by simp)

theorem ctxcfg_dstOk_of_wf {c : Ctl} {d : Dst} {x : CapSel} {it : CtxItem} (wf : Ins.wf ⟨c, .ctxcfg d x it⟩ = true) : it.dstOk d = true :=
  firstReject_eq_none (Ins.problem_of_wf wf) (it.dstOk d, .code) (by simp)

/-- R69, R71: a well-formed P word has no guard and no flag, and both halves stand in its table. -/
theorem pairedWord_plain_of_wf {c : Ctl} {fp : Bool} {h1 h2 : PHalf} (wf : Ins.wf ⟨c, .pairedWord fp h1 h2⟩ = true) :
    c.pr = none ∧ c.sf = none ∧ h1.op.isFp = fp ∧ h2.op.isFp = fp := by
  have ok : pairOk fp h1 h2 = true := firstReject_eq_none (Ins.problem_of_wf wf) (pairOk fp h1 h2, .pairing) (by simp)
  have plain : (c.pr.isNone && c.sf.isNone) = true := (Bool.and_eq_true_iff.1 wf).2
  simp only [pairOk, Bool.and_eq_true, beq_iff_eq, Option.isNone_iff_eq_none] at ok plain
  obtain ⟨⟨⟨⟨⟨table1, table2⟩, -⟩, -⟩, -⟩, -⟩ := ok
  exact ⟨plain.1, plain.2, table1, table2⟩

/-! ### The instructions by their forms (R60-R80) -/

/-- R60-R80: each instruction by the form of its word; what has no word is a step. -/
theorem encoded_or_step {x : Ins} (wf : x.wf = true) : (unitStep x.i = false ∧ x.Encoded) ∨ encode x.i x.c = none ∧ x.i.IsStep := by
  obtain ⟨c, i⟩ := x
  cases i with
  | add | sub | addSatI32 | subSatI32 | mul | mulhiI32 | mulhiN32 | minI32 | minN32 | maxI32 | maxN32 | and | or | xor | andn
  | shl | shr | sar | rotl | bfeN32 | bfeI32 | fmin | fmax | fminp | fmaxp | fcopysign | hadd2Bf16 | hmul2Bf16 | hadd2F16
  | hmul2F16 => exact .inl (encoded_F rfl rfl rfl (by simp [decF_dab]))
  | mad | bfi | bsel | ffma | hfma2Bf16 | hfma2F16 | hdot2Bf16 | hdot2F16 => exact .inl (encoded_F rfl rfl rfl (by simp [decF_dabc]))
  | absI32 | neg | not | popc | clz | brev | mov | fabs | fneg | fgetexp | fgetman => exact .inl (encoded_F rfl rfl rfl (by simp [decF_da]))
  | sel => exact .inl (encoded_F rfl rfl rfl (by simp [decF_sel]))
  | add64 | sub64 | mul64 => exact .inl (encoded_F rfl rfl rfl (by simp [decF_p64]))
  | shl64 | srl64 | sra64 => exact .inl (encoded_F rfl rfl rfl (by simp [decF_p64s]))
  | divI32 | divN32 | remI32 | remN32 | fdiv => exact .inl (encoded_F rfl rfl rfl (by simp [decF_dabL, decF_dab]))
  | fadd | fsub | fmul | fscale => exact .inl (encoded_F rfl rfl rfl (by simp [decF_dabm]))
  | frnd | cvtF32I32 | cvtF32N32 => exact .inl (encoded_F rfl rfl rfl (by simp [decF_dam]))
  | frcp | frsq | fsqrt | fexp2 | flog2 | fsin | fcos => exact .inl (encoded_F rfl rfl rfl (by simp [decF_daL, decF_da]))
  | pk => exact .inl (encoded_F rfl rfl rfl (by simp [decF_pk]))
  | upk => exact .inl (encoded_F rfl rfl rfl (by simp [decF_upk]))
  | cvtI32F32 | cvtN32F32 => exact .inl (encoded_F rfl rfl rfl (by simp [decF_cvti]))
  | setpI32 | setpN32 => exact .inl (encoded_F rfl rfl rfl (by simp [decF_setp]))
  | setpF32 => exact .inl (encoded_F rfl rfl rfl (by simp [decF_setpf]))
  | setpI64 | setpN64 => exact .inl (encoded_F rfl rfl rfl (by simp [decF_setp64]))
  | pand | por | pxor => exact .inl (encoded_F rfl rfl rfl (by simp [decF_pl2]))
  | pnot => exact .inl (encoded_F rfl rfl rfl (by simp [decF_pl1]))
  | v2p => exact .inl (encoded_F rfl rfl rfl (by simp [decF_v2p]))
  | p2v => exact .inl (encoded_F rfl rfl rfl (by simp [decF_p2v]))
  | lxAt | lxShift | lxRot | lxFlip | sample => exact .inl (encoded_F rfl rfl rfl (by simp [decF_lx]))
  | pollAny | pollAll => exact .inl (encoded_F rfl rfl rfl (by simp [decF_poll]))
  | pollMask => exact .inl (encoded_F rfl rfl rfl (by simp [decF_pollm]))
  | peers => exact .inl (encoded_F rfl rfl rfl (by simp [decF_peers, decF_xda]))
  | redAddI32 | redAddF32 | redMinI32 | redMaxI32 | redMinF32 | redMaxF32 | redAnd | redOr | redXor | scanAddI32 | scanAddI32X
  | scanAddF32 | bcast => exact .inl (encoded_F rfl rfl rfl (by simp [decF_xda]))
  | elect => exact .inl (encoded_F rfl rfl rfl (by simp [decF_elect]))
  | pairedWord fp h1 h2 =>
    obtain ⟨pr, sf, t1, t2⟩ := pairedWord_plain_of_wf wf
    exact .inl ⟨rfl, _, rfl, decodeRaw_encP pr sf t1 t2⟩
  | bra | call => exact .inl ⟨rfl, _, rfl, decodeRaw_encB_br (by decide) _ _ _⟩
  | ldB8 | ldB16 => exact .inl (encoded_S rfl rfl rfl (by simp [decS_ld]))
  | ldB32 => exact .inl (encoded_S rfl rfl rfl (by simp [decS_ldw, decS_ld]))
  | ldB64 => exact .inl (encoded_S rfl rfl rfl (by simp [decS_ld64]))
  | ldB128 => exact .inl (encoded_S rfl rfl rfl (by simp [decS_ld128]))
  | ldc => exact .inl (encoded_S rfl rfl rfl (by simp [decS_ldc]))
  | stB8 | stB16 | stB32 => exact .inl (encoded_S rfl rfl rfl (by simp [decS_st]))
  | stB64 => exact .inl (encoded_S rfl rfl rfl (by simp [decS_st64]))
  | stB128 => exact .inl (encoded_S rfl rfl rfl (by simp [decS_st128]))
  | stc => exact .inl (encoded_S rfl rfl rfl (by simp [decS_stc]))
  | atomAdd | atomMinI32 | atomMinN32 | atomMaxI32 | atomMaxN32 | atomAnd | atomOr | atomXor | atomXchg | atomFaddF32 =>
    exact .inl (encoded_S rfl rfl rfl (by simp [decS_atom]))
  | atomCas => exact .inl (encoded_S rfl rfl rfl (by simp [decS_cas]))
  | atomAdd64 => exact .inl (encoded_S rfl rfl rfl (by simp [decS_add64]))
  | atomCas64 => exact .inl (encoded_S rfl rfl rfl (by simp [decS_cas64]))
  | atomCas128 => exact .inl (encoded_S rfl rfl rfl (by simp [decS_cas128]))
  | fence => exact .inl (encoded_S rfl rfl rfl (by simp [decS_fence]))
  | waitne => exact .inl (encoded_S rfl rfl rfl (by simp [decS_waitne]))
  | prefetch => exact .inl (encoded_S rfl rfl rfl (by simp [decS_prefetch]))
  | capAddr | capBase | capLen => exact .inl (encoded_S rfl rfl rfl (by simp [decS_cq]))
  | capPerm | capType | capTag => exact .inl (encoded_S rfl rfl rfl (by simp [decS_cd]))
  | capSeta | capAdd | capBound | capBoundx => exact .inl (encoded_S rfl rfl rfl (by simp [decS_cx]))
  | capMask => exact .inl (encoded_S rfl rfl rfl (by simp [decS_cm]))
  | capSeal | capUnseal | capMint => exact .inl (encoded_S rfl rfl rfl (by simp [decS_cc]))
  | capUntag | capMov => exact .inl (encoded_S rfl rfl rfl (by simp [decS_c2]))
  | capDiff => exact .inl (encoded_S rfl rfl rfl (by simp [decS_cdiff]))
  | capWithin | capSame => exact .inl (encoded_S rfl rfl rfl (by simp [decS_cp]))
  | capRlen | capAmask => exact .inl (encoded_S rfl rfl rfl (by simp [decS_cl]))
  | cpin | cpout | cpx => exact .inl (encoded_S rfl rfl rfl (by simp [decS_copy]))
  | cpfill => exact .inl (encoded_S rfl rfl rfl (by simp [decS_cpfill]))
  | waitown | waitgen | arrset => exact .inl (encoded_S rfl rfl rfl (by simp [decS_wait]))
  | ocfill => exact .inl (encoded_S rfl rfl rfl (by simp [decS_ocfill]))
  | ocspill => exact .inl (encoded_S rfl rfl rfl (by simp [decS_ocspill]))
  | carve => exact .inl (encoded_S rfl rfl rfl (by simp [decS_carve]))
  | tbar | rbarInit | rbarWait => exact .inl (encoded_S rfl rfl rfl (by simp [decS_bar]))
  | swin => exact .inl (encoded_S rfl rfl rfl (by simp [decS_swin]))
  | sread => exact .inl (encoded_S rfl rfl rfl (by simp [decS_sread, decSDst_encSDst (sread_dst_ok_of_wf wf)]))
  | swrite => exact .inl (encoded_S rfl rfl rfl (by simp [decS_swrite]))
  | rndc => exact .inl (encoded_S rfl rfl rfl (by simp [decS_rndc]))
  | yield => exact .inl (encoded_S rfl rfl rfl (by simp [decS_yield, bytes_join]))
  | xset => exact .inl (encoded_S rfl rfl rfl (by simp [decS_xset]))
  | sadd | ssub | smul | sand | sor | sxor | sshl | sshr | ssar | sminI32 | smaxI32 => exact .inl (encoded_S rfl rfl rfl (by simp [decS_sc2]))
  | setps => exact .inl (encoded_S rfl rfl rfl (by simp [decS_setps]))
  | v2s => exact .inl (encoded_S rfl rfl rfl (by simp [decS_v2s]))
  | mldb => exact .inl (encoded_S rfl rfl rfl (by simp [decS_mldb]))
  | mbeg => exact .inl (encoded_S rfl rfl rfl (by simp [decS_mbeg]))
  | mma => exact .inl (encoded_S rfl rfl rfl (by simp [decS_mma]))
  | mend => exact .inl (encoded_S rfl rfl rfl (by simp [decS_mend]))
  | mzero => exact .inl (encoded_S rfl rfl rfl (by simp [decS_mzero, decS_swin]))
  | mrd => exact .inl (encoded_S rfl rfl rfl (by simp [decS_mrd]))
  | mstat => exact .inl (encoded_S rfl rfl rfl (by simp [decS_mstat]))
  | spawn => exact .inl (encoded_S rfl rfl rfl (by simp [decS_spawn]))
  | tend => exact .inl (encoded_S rfl rfl rfl (by simp [decS_tend]))
  | join => exact .inl (encoded_S rfl rfl rfl (by simp [decS_join]))
  | launch => exact .inl (encoded_S rfl rfl rfl (by simp [decS_launch]))
  | evwait | evpub => exact .inl (encoded_S rfl rfl rfl (by simp [decS_ev]))
  | dqinfo => exact .inl (encoded_S rfl rfl rfl (by simp [decS_dqinfo]))
  | post | answer => exact .inl (encoded_S rfl rfl rfl (by simp [decS_post]))
  | take => exact .inl (encoded_S rfl rfl rfl (by simp [decS_take]))
  | ask => exact .inl (encoded_S rfl rfl rfl (by simp [decS_ask]))
  | settle => exact .inl (encoded_S rfl rfl rfl (by simp [decS_settle]))
  | postTry => exact .inl (encoded_S rfl rfl rfl (by simp [decS_posttry]))
  | ctxnew => exact .inl (encoded_S rfl rfl rfl (by simp [decS_ctxnew]))
  | ctxcfg => exact .inl (encoded_S rfl rfl rfl (by simp [decS_ctxcfg, decCtxItem_encCtxItem (ctxcfg_dstOk_of_wf wf)]))
  | ctxrun => exact .inl (encoded_S rfl rfl rfl (by simp [decS_ctxrun]))
  | ctxstop => exact .inl (encoded_S rfl rfl rfl (by simp [decS_ctxstop]))
  | ctxkill | lnack | tresume | troyClose => exact .inl (encoded_S rfl rfl rfl (by simp [decS_k1, decS_cd]))
  | asnew => exact .inl (encoded_S rfl rfl rfl (by simp [decS_asnew, decS_c2]))
  | asmap | asunmap => exact .inl (encoded_S rfl rfl rfl (by simp [decS_asmap]))
  | objmake | schnew => exact .inl (encoded_S rfl rfl rfl (by simp [decS_objmake, decS_cm]))
  | revoke _ _ n => cases n <;> exact .inl (encoded_S rfl rfl rfl (by simp [decS_revoke, encNotify]))
  | schset => exact .inl (encoded_S rfl rfl rfl (by simp [decS_schset]))
  | lnbind => exact .inl (encoded_S rfl rfl rfl (by simp [decS_lnbind, decS_ctxrun]))
  | tread d => cases d <;> exact .inl (encoded_S rfl rfl rfl (by simp [decS_tread, encTDst]))
  | twrite y => cases y <;> exact .inl (encoded_S rfl rfl rfl (by simp [decS_twrite, encTSrc]))
  | tclr => exact .inl (encoded_S rfl rfl rfl (by simp [decS_tclr, decS_wait]))
  | attest => exact .inl (encoded_S rfl rfl rfl (by simp [decS_attest]))
  | troyOpen => exact .inl (encoded_S rfl rfl rfl (by simp [decS_topen, decS_cc]))
  | troyAbs => exact .inl (encoded_S rfl rfl rfl (by simp [decS_tabs]))
  | trap => exact .inl (encoded_S rfl rfl rfl (by simp [decS_trap, decS_yield, bytes_join]))
  | callc | jmpc | ret => exact .inl (encoded_S rfl rfl rfl (by simp [decS_jmp]))
  | exit | bkpt => exact .inl (encoded_S rfl rfl rfl (by simp [decS_none]))
  | nop => exact .inl (encoded_S rfl rfl rfl (by simp [decS_nop, decS_none]))
  | asyncCause | haltRequest | descheduleRequest | interruptSignal | ageingMonitorRead | channelRetirement | externalWrite
  | externalRead | hostPacket | atsInvalidation | priResponse | fabricPacketArrival | creditGrant | remoteAck | connectionDown
  | reservedRegisterWrite | getVersion | getCapabilities | negotiateAlgorithms | getDigests | getCertificate | challenge
  | getMeasurements | coldReset | hotReset | functionLevelReset | reservedOpcode | packetRetransmission | vfEnable
  | msixVectorUnmask | completionTimeout => exact .inr ⟨rfl, .inr (by simp [outsideSteps])⟩
  | _ => exact .inr ⟨rfl, .inl rfl⟩

/-- R59: a word that reads as a well-formed instruction passes every check. -/
theorem decode_of_decodeRaw {w : DWord} {x : Ins} (raw : decodeRaw w = .ok x) (wf : x.wf = true) : decode w = .ok x := by
  simp only [decode, raw, ok_bind, Ins.problem_of_wf wf]

/-- A step that comes from outside has no word. -/
theorem encode_outsideSteps {i : Instr} (h : i ∈ outsideSteps) (c : Ctl) : encode i c = none := by
  have none : outsideSteps.all fun i => (encode i c).isNone := rfl
  exact Option.isNone_iff_eq_none.1 (List.all_eq_true.1 none i h)

/-- Settles O55: by the form of each word, and by its checks; what is no word is a step, and steps have none. -/
theorem encodeThenDecode : Obligations.EncodeThenDecode := by
  unfold Obligations.EncodeThenDecode
  intro x wf
  rcases encoded_or_step wf with ⟨fetched, w, encoded, raw⟩ | ⟨none, step⟩
  · refine ⟨fun _ _ => ⟨w, encoded, decode_of_decodeRaw raw wf⟩, fun step => step.elim (fun unit => ?_) (encode_outsideSteps · x.c)⟩
    cases fetched.symm.trans unit
  · exact ⟨fun word inside => step.elim (fun unit => by cases word.symm.trans unit) (absurd · inside), fun _ => none⟩

end Sys2Proof
end

section
/-! SUPPORT. What raises ILLEGAL (R59, R76): every word with operands is checked against N and W before it acts. -/

namespace Sys2Proof.Machine

open Sys2Proof

/-- R59: every word that names an operand acts only if no operand is out of reach. -/
theorem exec_eq_wordDo {ins : Instr} (h : operands ins ≠ []) (s : State) : ∃ k, exec ins s = wordDo ins s k := by
  cases ins with
  | add | sub | addSatI32 | subSatI32 | mul | mulhiI32 | mulhiN32 | mad | minI32 | minN32 | maxI32 | maxN32 | absI32 | neg | and
  | or | xor | andn | not | shl | shr | sar | rotl | popc | clz | brev | bfeN32 | bfeI32 | bfi | bsel | sel | mov | add64 | sub64
  | mul64 | shl64 | srl64 | sra64 | divI32 | divN32 | remI32 | remN32 | fadd | fsub | fmul | ffma | fmin | fmax | fminp | fmaxp
  | fabs | fneg | fcopysign | frnd | fscale | fgetexp | fgetman | fdiv | frcp | frsq | fsqrt | fexp2 | flog2 | fsin | fcos
  | hadd2Bf16 | hmul2Bf16 | hfma2Bf16 | hadd2F16 | hmul2F16 | hfma2F16 | hdot2Bf16 | hdot2F16 | pk | upk | cvtF32I32 | cvtF32N32
  | cvtI32F32 | cvtN32F32 | setpI32 | setpN32 | setpF32 | setpI64 | setpN64 | v2p | p2v | lxAt | lxShift | lxRot | lxFlip
  | pollMask | peers | redAddI32 | redAddF32 | redMinI32 | redMaxI32 | redMinF32 | redMaxF32 | redAnd | redOr | redXor | scanAddI32
  | scanAddI32X | scanAddF32 | bcast | sample | pairedWord | ldB8 | ldB16 | ldB32 | ldB64 | ldB128 | ldc | stB8 | stB16 | stB32
  | stB64 | stB128 | stc | atomAdd | atomMinI32 | atomMinN32 | atomMaxI32 | atomMaxN32 | atomAnd | atomOr | atomXor | atomXchg
  | atomCas | atomAdd64 | atomCas64 | atomCas128 | atomFaddF32 | waitne | prefetch | capAddr | capBase | capLen | capPerm | capType
  | capTag | capSeta | capAdd | capBound | capBoundx | capMask | capSeal | capUnseal | capUntag | capMov | capDiff | capWithin
  | capRlen | capAmask | capMint | capSame | cpin | cpout | cpx | cpfill | waitown | waitgen | arrset | ocfill | ocspill | carve
  | swin | swrite | rndc | xset | sadd | ssub | smul | sand | sor | sxor | sshl | sshr | ssar | sminI32 | smaxI32 | setps | v2s
  | mldb | mbeg | mma | mend | mzero | mrd | mstat | spawn | tend | join | launch | evwait | evpub | dqinfo | post | take | ask
  | answer | settle | postTry | ctxnew | ctxcfg | ctxrun | ctxstop | ctxkill | asnew | asmap | asunmap | objmake | revoke | schnew
  | schset | lnbind | lnack | tread | twrite | tclr | tresume | attest | troyOpen | troyAbs | troyClose | callc | jmpc | ret => exact ⟨_, rfl⟩
  | sread d => cases d <;> exact ⟨_, rfl⟩
  | _ => exact absurd rfl h

theorem operands_ne_nil_of_illegalAt {ins : Instr} {n w : Nat} (h : illegalAt ins n w = true) : operands ins ≠ [] := fun none => by
  rw [illegalAt, none] at h
  cases h

theorem exec_illegal {s : State} {i : Issue} (hi : s.issue = some i) {ins : Instr} (h : illegalAt ins i.t.nreg i.w = true) :
    exec ins s = .next i.illegal := by
  obtain ⟨k, acts⟩ := exec_eq_wordDo (operands_ne_nil_of_illegalAt h) s
  rw [acts, wordDo_illegal hi h]

/-- R76: the word of a reserved encoding. -/
theorem exec_reservedOpcode {s : State} {i : Issue} (hi : s.issue = some i) : exec .reservedOpcode s = .next i.illegal :=
  onIssue_some hi Issue.illegal

theorem Issue.illegal_raises {s : State} {i : Issue} (hi : s.issue = some i) :
    i.Raises (i.x.lanes.map fun l => (l, bit 0)) [] i.illegal := i.raise_raises hi _

theorem decodeAt_error {w : DWord} {r : Reject} (h : decode w = .error r) (n width : Nat) :
    decodeAt w n width = (.reservedOpcode, Ctl.none) := by
  simp only [decodeAt, h]

theorem decodeAt_ok {w : DWord} {x : Ins} (h : decode w = .ok x) (n width : Nat) :
    decodeAt w n width = if illegalAt x.i n width then (.reservedOpcode, Ctl.none) else (x.i, x.c) := by
  simp only [decodeAt, h]

/-- Settles O52: a word out of reach is stopped before it acts, and a reserved encoding is fetched as `reservedOpcode`. -/
theorem illegalWords : Obligations.IllegalWords := by
  unfold Obligations.IllegalWords
  refine ⟨fun ins s i hi h => ⟨_, exec_illegal hi h, Issue.illegal_raises hi⟩,
    fun s i hi => ⟨_, exec_reservedOpcode hi, Issue.illegal_raises hi⟩, fun w n width => ⟨fun r h => ?_, fun x h => ?_⟩⟩
  · rw [decodeAt_error h]
  · rw [decodeAt_ok h, apply_ite Prod.fst]

end Sys2Proof.Machine
end

section
/-! SUPPORT. The span that holds the issue slot: its fetch, its place among the spans of its team, and its issue (R58, R62, R168,
R171). -/

namespace Sys2Proof.Machine

open Sys2Proof

/-! ### What a fetch gives (R58, R62) -/

theorem State.holdsWord.fetch {s : State} {id : Nat} {t : Team} {c : CoreId} {code : Cap} {pc w : DWord}
    (h : s.holdsWord id t c code pc w) : s.fetchWord id t (s.core c).world code pc = .ok w := by
  obtain ⟨pa, keep, loc, clean, rfl⟩ := h
  simp only [State.fetchWord, State.fetchLoc, loc, State.readFor_mem clean]

theorem State.fetchWords_succ {s : State} {id : Nat} {t : Team} {world : Nat} {code : Cap} {pc w : DWord} {n : Nat} {ws : List DWord}
    (first : s.fetchWord id t world code pc = .ok w) (rest : s.fetchWords id t world code (pc + 8) n = .ok ws) :
    s.fetchWords id t world code pc (n + 1) = .ok (w :: ws) := by
  rw [State.fetchWords, first]
  show (do .ok (w :: (← s.fetchWords id t world code (pc + 8) n))) = _
  rw [rest]
  rfl

/-- R62: the words after a word are those that it consumes, the first of them its literal. -/
theorem State.holdsRest.fetch {s : State} {id : Nat} {t : Team} {c : CoreId} {code : Cap} {pc : DWord} {i : Instr} {lit : DWord}
    {blk : List DWord} (h : s.holdsRest id t c code pc i lit blk) :
    s.fetchWords id t (s.core c).world code (pc + 8) (extWords i) = .ok blk ∧ blk.getD 0 0 = lit := by
  unfold State.holdsRest at h
  split at h
  next step =>
    obtain ⟨b, d, rfl, h0, h1, h2⟩ := h
    refine ⟨State.fetchWords_succ h0.fetch (State.fetchWords_succ ?_ (State.fetchWords_succ ?_ rfl)), rfl⟩
    · rw [BitVec.add_assoc]; exact h1.fetch
    · rw [BitVec.add_assoc, BitVec.add_assoc]; exact h2.fetch
  next other =>
    have one : extWords i = if usesLit i then 1 else 0 := by
      unfold extWords
      split
      · exact absurd rfl (other _)
      · rfl
    rw [one]
    split_ifs at h ⊢ with lit
    · obtain ⟨rfl, word⟩ := h
      exact ⟨State.fetchWords_succ word.fetch rfl, rfl⟩
    · obtain ⟨rfl, rfl⟩ := h
      exact ⟨rfl, rfl⟩

theorem State.fetch_of_holds {s : State} {id : Nat} {t : Team} {c : CoreId} {code : Cap} {pc w lit : DWord} {blk : List DWord}
    (word : s.holdsWord id t c code pc w) (rest : s.holdsRest id t c code pc (decodeAt w t.nreg (widthOf c)).1 lit blk) :
    s.fetch id t c (s.core c).world code pc =
      .ok ⟨w, (decodeAt w t.nreg (widthOf c)).1, (decodeAt w t.nreg (widthOf c)).2, .ok blk⟩ := by
  simp only [State.fetch, word.fetch, rest.fetch.1]

/-! ### The spans of a team (R167) -/

/-- The span of an entry of a group, with what its fetch gives. -/
def State.spanOf (s : State) (id : Nat) (t : Team) (c : CoreId) (j : Nat) (g : Group) (e : PcEntry) : Cand :=
  let world := (s.core c).world
  let got := s.fetch id t c world (g.codeOf e.pccx) e.pc
  { g := j, e := e, got := got,
    free := s.spanFree id t j e.mask (s.fetchTouches id t world (g.codeOf e.pccx) e.pc (fetchLen got)) got }

theorem State.mem_spans {s : State} {id : Nat} {t : Team} {c : CoreId} {k : Cand} : k ∈ s.spans id t c ↔
    ∃ j g e, t.groups[j]? = some g ∧ g.halted = false ∧ some e ∈ g.pct ∧ s.pageWaits id j e.pc = false ∧ k = s.spanOf id t c j g e := by
  simp only [State.spans, List.mem_flatMap, Prod.exists, List.mem_zipIdx_iff_getElem?]
  constructor
  · rintro ⟨g, j, hg, mem⟩
    split_ifs at mem with halted
    · cases mem
    · obtain ⟨e, he, rfl⟩ := List.mem_map.1 mem
      obtain ⟨entry, answered⟩ := List.mem_filter.1 he
      obtain ⟨x, hx, rfl⟩ := List.mem_filterMap.1 entry
      exact ⟨j, g, e, hg, Bool.eq_false_iff.2 halted, hx, by simpa using answered, rfl⟩
  · rintro ⟨j, g, e, hg, live, entry, answered, rfl⟩
    refine ⟨g, j, hg, ?_⟩
    rw [if_neg (Bool.eq_false_iff.1 live)]
    exact List.mem_map.2 ⟨e, List.mem_filter.2 ⟨List.mem_filterMap.2 ⟨_, entry, rfl⟩, by simp [answered]⟩, rfl⟩

theorem find?_of_only {α : Type} {l : List α} {p : α → Bool} {a : α} (mem : a ∈ l) (holds : p a = true)
    (only : ∀ b ∈ l, p b = true → b = a) : l.find? p = some a := by
  obtain ⟨b, found⟩ := Option.isSome_iff_exists.1 (List.find?_isSome.2 ⟨a, mem, holds⟩)
  rw [found, only b (List.mem_of_find?_eq_some found) (List.find?_some found)]

/-- R171: of the spans of a team, the slot finds the one for which it is held. -/
theorem State.SlotDue.find {s : State} {c : CoreId} {id : Nat} {t : Team} {h : Held} {g : Group} {e : PcEntry}
    (due : s.SlotDue c id t h g e) :
    ((s.spans id t c).find? fun k => k.g == h.g && k.e.pccx == h.pccx && k.e.pc == h.pc) = some (s.spanOf id t c h.g g e) := by
  refine find?_of_only (State.mem_spans.2 ⟨h.g, g, e, due.group, due.live, due.entry, due.answered, rfl⟩) ?_ fun k mem held => ?_
  · simp [State.spanOf, due.key]
  · obtain ⟨j, g', e', hg, -, entry, -, rfl⟩ := State.mem_spans.1 mem
    simp only [Bool.and_eq_true, beq_iff_eq] at held
    obtain ⟨⟨rfl, pccx⟩, pc⟩ := held
    cases Option.some.inj (hg.symm.trans due.group)
    rw [due.only e' entry pccx pc]

/-! ### Its issue (R168, R182) -/

theorem State.fillFetch_beside (s : State) (t : Team) (ts : List Touch) :
    s.Beside (s.fillFetch t ts) ∧ (s.fillFetch t ts).teams = s.teams := by
  have noted : s.Noted (s.fillFetch t ts) := (s.noted_charge _ _ _).trans (State.noted_fillLines _ _ _)
  exact ⟨noted.beside, noted.teams⟩

/-- R168, R171: with nothing due before it, the core issues the span for which its slot is held. -/
theorem State.SlotDue.coreAct {s : State} {c : CoreId} {id : Nat} {t : Team} {h : Held} {g : Group} {e : PcEntry}
    (due : s.SlotDue c id t h g e) : ∃ others, s.coreAct c = s.issueSpan c id (s.spanOf id t c h.g g e) others := by
  have window : ¬ (s.core c).window < (s.core c).cycle / windowCycles := Nat.not_lt.2 due.window
  have cycle : ¬ (s.core c).cycle < h.issue := Nat.not_lt.2 due.cycle
  have ready : (s.spanOf id t c h.g g e).ready t (s.core c).cycle = true := due.ready
  refine ⟨((s.spans id t c).filter (·.ready t (s.core c).cycle)).any fun r => r.g != h.g, ?_⟩
  simp only [State.coreAct, if_neg window, due.resident, due.team, due.due, due.runs, due.slot, if_neg cycle, due.find, ready, if_true]
  rfl

/-- R58, R62: a span whose fetch gives a word and what it consumes is issued with them, once they have passed through the L1. -/
theorem State.issueSpan_of_got {s : State} {c : CoreId} {id : Nat} {t : Team} {k : Cand} {w : DWord} {i : Instr} {ctl : Ctl}
    {blk : List DWord} (team : s.teams.look id = some t) (got : k.got = .ok ⟨w, i, ctl, .ok blk⟩) (others : Bool) :
    ∃ s', s.Beside s' ∧ s'.teams = s.teams ∧ s.issueSpan c id k others =
      .issue i (s'.inIssue ⟨c, id, k.g, k.e.pccx, k.e.pc, k.e.mask, w, ctl, blk.getD 0 0, blk⟩ others) := by
  let words := s.fetchTouches id t (s.core c).world ((t.groups[k.g]?).elim Cap.zero (·.codeOf k.e.pccx)) k.e.pc (1 + extWords i)
  obtain ⟨beside, teams⟩ := s.fillFetch_beside t words
  refine ⟨s.fillFetch t words, beside, teams, ?_⟩
  simp only [State.issueSpan, got, team]
  rfl

theorem step_core {s : State} (turn : s.turn = none) (c : CoreId) : step { s with turn := some (.core c) } = stepCore c s := by
  show stepCore c { s with turn := none } = _
  rw [← turn]

theorem stepCore_issue {s s' : State} {c : CoreId} {i : Instr} (act : s.coreAct c = .issue i s') :
    stepCore c s = afterWord c (exec i s') := by
  simp only [stepCore, act]
  rfl

theorem State.tick_cycle (s : State) (c : CoreId) : ((s.tick c).core c).cycle = (s.core c).cycle + 1 := by
  unfold State.tick
  dsimp only
  rw [State.core_upCore_self]
  split
  · split <;> rfl
  · rfl

theorem State.tick_mem (s : State) (c : CoreId) : (s.tick c).mem = s.mem := by
  unfold State.tick
  dsimp only
  rw [State.upCore_mem]
  split
  · split <;> rfl
  · rfl

/-- Settles O53: the slot finds its span, whose fetch gives the word that stands there, and the step issues it. -/
theorem stepRunsDecoded : Obligations.StepRunsDecoded := by
  unfold Obligations.StepRunsDecoded
  refine ⟨fun s c id t h g e w lit blk due word rest => ?_, fun s c => ⟨s.tick_cycle c, s.tick_mem c⟩⟩
  obtain ⟨others, act⟩ := due.coreAct
  obtain ⟨s', beside, teams, issued⟩ := State.issueSpan_of_got (k := s.spanOf id t c h.g g e) (c := c) due.team
    (State.fetch_of_holds word rest) others
  refine ⟨others, s', beside, teams, ?_⟩
  rw [step_core due.turn, stepCore_issue (act.trans issued), rest.fetch.2, ← due.key.1, ← due.key.2]
  rfl

/-- Settles O54: the decoder, run on each word. -/
theorem wordsDecode : Obligations.WordsDecode := by
  unfold Obligations.WordsDecode
  exact ⟨by decide, by decide, by decide, by decide, by decide⟩

end Sys2Proof.Machine
end

section
/-! SUPPORT. The words that write predicates (R92, R112-R115, R139, R195). -/

namespace Sys2Proof.Machine

open Sys2Proof

/-! ### Values of predicate words (R112, R115, R139) -/

theorem intCond_eq : intCond = condHolds := by
  funext q a b
  cases q with
  | ne => exact Bool.eq_iff_iff.2 (decide_eq_true_iff.trans bne_iff_ne.symm)
  | eq | lt | le | gt | ge => rfl

theorem foldl_range_add (f : Nat → Nat) (n : Nat) : (List.range n).foldl (fun acc k => acc + f k) 0 = ∑ k ∈ Finset.range n, f k := by
  induction n with
  | zero => rfl
  | succ n ih => rw [List.range_succ, List.foldl_append, ih, Finset.sum_range_succ]; rfl

theorem wordOfBits_eq (f : Nat → Bool) : wordOfBits f = bitsOf f :=
  congrArg (BitVec.ofNat 32) (foldl_range_add _ 32)

theorem capWithin_iff (a b : Cap) : capWithin a b = true ↔ spansAll a b := by
  simp only [capWithin, spansAll, Cap.has, Bool.and_eq_true, beq_iff_eq, decide_eq_true_eq, and_assoc]

theorem Cap.eq_iff (a b : Cap) : a = b ↔ a.bits = b.bits ∧ a.tag = b.tag := by
  cases a; cases b; rw [Cap.mk.injEq]

/-! ### The words of the rules -/

/-- R112-R115: `exec` evaluates the rule of every word of the Predicate class in each visited lane. -/
theorem exec_predRule {ins : Instr} {f : LaneRule} (h : predRule ins = some f) (s : State) :
    exec ins s = laneWord ins .pred 2 s f := by
  simp only [predRule, intCond_eq] at h
  split at h <;> cases h <;> rfl

/-- R115: `exec` evaluates the rule of p2v in each visited lane. -/
theorem exec_p2vRule {ins : Instr} {f : LaneRule} (h : p2vRule ins = some f) (s : State) :
    exec ins s = laneWord ins .alu 4 s f := by
  unfold p2vRule at h
  split at h <;> cases h
  simp only [← wordOfBits_eq]
  rfl

/-- R139: the two capability compares write what they ask of every visited lane. -/
theorem exec_capPredRule {ins : Instr} {p : Fin 7} {q : Issue → Thread → Prop} (h : capPredRule ins = some (p, q)) (s : State) :
    ∃ b : Issue → Thread → Bool, (∀ i t, b i t = true ↔ q i t) ∧
      exec ins s = laneWord ins .pred 2 s fun i _ t => .ok (setsP p (b i t) 0) := by
  unfold capPredRule at h
  split at h <;> cases h
  next x y => exact ⟨fun i t => capWithin (i.cap t x) (i.cap t y), fun i t => capWithin_iff _ _, rfl⟩
  next x y =>
    exact ⟨fun i t => decide (i.cap t x = i.cap t y), fun i t => decide_eq_true_iff.trans (Cap.eq_iff _ _), rfl⟩

/-! ### setps (R195) -/

section
variable {s : State} {i : Issue} {p : Fin 7} {x y : Src} {q : Cond} {un : Bool} (hi : s.issue = some i)
  (hl : illegalAt (.setps p x y q un) i.t.nreg i.w = false)
include hi hl

theorem exec_setps_none (none : i.visited = []) : exec (.setps p x y q un) s =
    .next (i.commit (wordLen (.setps p x y q un)) .pred 2 true (i.dead (.setps p x y q un)) []) := by
  refine (wordDo_ok hi hl _).trans ?_
  simp only [Issue.first, none]
  rfl

theorem exec_setps_error {l : Nat} {th : Thread} {r : List (Nat × Thread)} {c : Word} (first : i.visited = (l, th) :: r)
    (fails : i.src l th x = .error c ∨ ∃ a, i.src l th x = .ok a ∧ i.src l th y = .error c) :
    exec (.setps p x y q un) s = .next (i.raise [(l, c)]) := by
  refine (wordDo_ok hi hl _).trans ?_
  simp only [Issue.first, first, List.head?_cons]
  rcases fails with hx | ⟨a, hx, hy⟩
  · rw [hx]; rfl
  · rw [hx, hy]; rfl

theorem exec_setps_ok {l : Nat} {th : Thread} {r : List (Nat × Thread)} {a b : Word} (first : i.visited = (l, th) :: r)
    (hx : i.src l th x = .ok a) (hy : i.src l th y = .ok b) : exec (.setps p x y q un) s =
      .next (i.commit (wordLen (.setps p x y q un)) .pred 2 true (i.dead (.setps p x y q un))
        (i.visited.map fun v => (v.1, setsP p (if un then intCond q a.toNat b.toNat else intCond q a.toInt b.toInt) 0))) := by
  refine (wordDo_ok hi hl _).trans ?_
  simp only [Issue.first, first, List.head?_cons, hx, hy, intCond_eq]
  rfl

end

/-- Settles O4: the words by what `exec` evaluates in their lanes, `setps` by what its lowest visited lane reads. -/
theorem predicateWords : Obligations.PredicateWords := by
  unfold Obligations.PredicateWords
  obtain ⟨predWords, predRaises⟩ := laneWords_of_exec fun _ _ h s => exec_predRule h s
  refine ⟨predWords, predRaises, (laneWords_of_exec fun _ _ h s => exec_p2vRule h s).1, fun ins p q h s i hi hl => ?_,
    fun p x y q un s i hi hl => ⟨fun none => ?_, fun l th r c first fails => ?_, fun l th r a b first hx hy => ?_⟩⟩
  · obtain ⟨b, asks, same⟩ := exec_capPredRule h s
    have outs := i.each_ok (ε := Word) (f := fun _ t => .ok (setsP p (b i t) 0)) (r := fun _ t => setsP p (b i t) 0)
      fun _ _ => rfl
    obtain ⟨t, run, commits⟩ := laneWord_ok hi hl .pred 2 (f := fun i _ t => .ok (setsP p (b i t) 0)) outs
    refine ⟨t, _, same.trans run, commits, ?_, fun l th visited => ⟨b i th, ?_, asks i th⟩⟩
    · rw [List.map_map]; rfl
    · exact List.mem_map.2 ⟨(l, th), visited, rfl⟩
  · exact ⟨_, exec_setps_none hi hl none, Issue.commit_commits hi _ _ _ _ _⟩
  · exact ⟨_, exec_setps_error hi hl first fails, Issue.raise_raises hi _⟩
  · exact ⟨_, exec_setps_ok hi hl first hx hy, Issue.commit_commits hi _ _ _ _ _⟩

end Sys2Proof.Machine
end

section
/-! SUPPORT. The words that wait or change nothing (R120, R158, R203, R204, R217, R291). -/

namespace Sys2Proof.Machine

open Sys2Proof

/-- R120, R158, R203, R204, R291: `exec` evaluates the rule of every waiting word in each visited lane. -/
theorem exec_idleRule {ins : Instr} {lat : Nat} {f : LaneRule} (h : idleRule ins = some (lat, f)) (s : State) :
    exec ins s = laneWord ins .alu lat s f := by
  unfold idleRule at h
  split at h <;> cases h <;> rfl

/-- R217, R262: a yield whose liveness block is good stands at its word in every visited lane. -/
theorem exec_yield {s : State} {i : Issue} {step : BitVec 16} (hi : s.issue = some i)
    (hl : illegalAt (.yield step) i.t.nreg i.w = false) (good : blockBad i.t.nreg i.x.blk = false) :
    exec (.yield step) s = .next (i.commit (wordLen (.yield step)) .alu 0 false (i.dead (.yield step))
      (i.visited.map fun p => (p.1, { LaneOut.nil with
        await := some (.yield step (i.x.blk.getD 0 0) (i.x.blk.getD 1 0) (i.x.blk.getD 2 0) (i.t.st == .halting)) }))) := by
  refine (wordDo_ok hi hl _).trans ?_
  rw [good]
  rfl

/-- Settles O9: the words by what `exec` evaluates in their lanes, `yield` by its commit. -/
theorem idleWords : Obligations.IdleWords := by
  unfold Obligations.IdleWords
  refine ⟨fun ins lat f hf s i outs hi hl he => ?_, fun ins lat f hf s i cs hi hl he => ?_, fun step s i hi hl good => ?_⟩
  · rw [exec_idleRule hf]; exact laneWord_ok hi hl .alu lat he
  · rw [exec_idleRule hf]; exact laneWord_error hi hl .alu lat he
  · exact ⟨_, exec_yield hi hl good, Issue.commit_commits hi _ _ _ _ _⟩

end Sys2Proof.Machine
end

section
/-! SUPPORT. The code capability of a lane that moves to it stays with that lane through the placement of its span, whether it enters the
PCC table, waits for an entry, or has its entry taken from it (R13, R164). -/

namespace Sys2Proof.Machine

open Sys2Proof

/-! ### The users of a PCC entry (R13) -/

theorem NMap.mem_upd {α : Type} {m : NMap α} {n : Nat} {f : α → α} {p : Nat × α} (h : p ∈ m.upd n f) : p.1 = n ∨ p ∈ m := by
  unfold NMap.upd at h
  split at h
  · exact .inr h
  · exact (NMap.mem_put h).imp_left (congrArg Prod.fst)

theorem Group.mem_pccUsers {g : Group} {i l : Nat} : l ∈ g.pccUsers i ↔ ∃ k, (l, k) ∈ g.threads ∧ k.backed = none ∧
    ((∃ c, k.want = some c ∧ g.pcc.getD i none = some c) ∨ k.want = none ∧ k.pccx = i) := by
  simp only [Group.pccUsers, List.mem_map, List.mem_filter, Prod.exists, exists_and_right, exists_eq_right]
  refine exists_congr fun k => and_congr_right fun _ => ?_
  cases k.backed <;> cases k.want <;> simp

/-- R13: an Active lane that moves to `c` asks for an entry, or has one that holds `c`. -/
def Group.Enters (g : Group) (l : Nat) (c : Cap) : Prop :=
  ∃ k, g.threads.look l = some k ∧ k.st = .active ∧ k.backed = none ∧
    (k.want = some c ∨ k.want = none ∧ g.pcc[k.pccx]? = some (some c))

/-- R13: a lane that moves to `c` and is not Active waits for its entry. The users of an entry are found record by record, and a table
whose keys do not rise can hold several records of one lane: all of them wait. -/
def Group.Rests (g : Group) (l : Nat) (c : Cap) : Prop :=
  (∃ k, g.threads.look l = some k ∧ k.st ≠ .active) ∧ ∀ k, (l, k) ∈ g.threads → k.wantsPcc = some c

/-- R13: lane `l` of a group is on its way to the code capability `c`, or has arrived. -/
structure Group.MovesTo (g : Group) (l : Nat) (c : Cap) : Prop where
  size : g.pcc.length = 8
  state : g.Enters l c ∨ g.Rests l c

theorem Group.pccOf_of_wants {g : Group} {k : Thread} {c : Cap} (h : k.wantsPcc = some c) : g.pccOf k = c := by
  unfold Thread.wantsPcc at h
  unfold Group.pccOf
  cases backed : k.backed with
  | some d => simpa [backed] using h
  | none =>
    rw [backed] at h
    rw [show k.want = some c from h]

section
variable {g h : Group} {l lane i : Nat} {c d : Cap}

/-- The code capability of the lane is the one it moves to. -/
theorem Group.MovesTo.pccOf (m : g.MovesTo l c) : ∃ k, g.threads.look l = some k ∧ g.pccOf k = c := by
  rcases m.state with ⟨k, look, -, backed, asks | ⟨has, entry⟩⟩ | ⟨⟨k, look, -⟩, waits⟩
  · exact ⟨k, look, Group.pccOf_of_wants (by simp [Thread.wantsPcc, backed, asks])⟩
  · refine ⟨k, look, ?_⟩
    simp only [Group.pccOf, backed, has, List.getD_eq_getElem?_getD, entry, Option.getD_some]
  · exact ⟨k, look, Group.pccOf_of_wants (waits k (NMap.mem_of_look look))⟩

theorem Group.MovesTo.arranged (m : g.MovesTo l c) (a : g.Arranged h) : h.MovesTo l c := by
  obtain ⟨size, state⟩ := m
  rw [a]
  exact ⟨size, state⟩

/-! ### Single changes -/

theorem Group.MovesTo.upThread_ne (m : g.MovesTo l c) (ne : l ≠ lane) (f : Thread → Thread) : (g.upThread lane f).MovesTo l c := by
  refine ⟨m.size, m.state.imp (fun ⟨k, look, rest⟩ => ⟨k, ?_, rest⟩)
    fun ⟨⟨k, look, rest⟩, waits⟩ => ⟨⟨k, ?_, rest⟩, fun k mem => ?_⟩⟩
  · exact (NMap.look_upd_ne _ _ ne).trans look
  · exact (NMap.look_upd_ne _ _ ne).trans look
  · exact waits k ((NMap.mem_upd mem).resolve_left ne)

/-- An Active lane that moves is in the first of the two states. -/
theorem Group.MovesTo.enters (m : g.MovesTo l c) {t : Thread} (ht : g.threads.look l = some t) (active : t.st = .active) :
    t.backed = none ∧ (t.want = some c ∨ t.want = none ∧ g.pcc[t.pccx]? = some (some c)) := by
  rcases m.state with ⟨k, look, -, rest⟩ | ⟨⟨k, look, rests⟩, -⟩
  · cases ht.symm.trans look
    exact rest
  · cases ht.symm.trans look
    exact absurd active rests

theorem Group.MovesTo.ask (m : g.MovesTo l c) {t : Thread} (ht : g.threads.look l = some t) (active : t.st = .active) :
    (g.upThread l fun t => { t with want := some c }).MovesTo l c := by
  refine ⟨m.size, .inl ⟨{ t with want := some c }, ?_, active, (m.enters ht active).1, .inl rfl⟩⟩
  rw [Group.upThread_threads, NMap.look_upd, ht, Option.map_some]

/-- An entry that is free, or already holds the capability, is given it. -/
theorem Group.MovesTo.setEntry (m : g.MovesTo l c) (free : g.pcc[i]? = some none ∨ g.pcc[i]? = some (some d)) :
    ({ g with pcc := g.pcc.set i (some d) } : Group).MovesTo l c := by
  refine ⟨by rw [List.length_set]; exact m.size, m.state.imp_left fun ⟨k, look, active, backed, held⟩ =>
    ⟨k, look, active, backed, held.imp_right fun ⟨has, entry⟩ => ⟨has, ?_⟩⟩⟩
  by_cases same : i = k.pccx
  · rw [same, entry] at free
    obtain rfl : c = d := by simpa using free
    rw [same, List.getElem?_set_self (List.getElem?_eq_some_iff.1 entry).1]
  · rwa [List.getElem?_set_ne same]

/-- An Active lane that moves takes an entry. -/
theorem Group.MovesTo.take (m : g.MovesTo l c) {t : Thread} (ht : g.threads.look l = some t) (active : t.st = .active)
    (hi : i < g.pcc.length) :
    ({ g with pcc := g.pcc.set i (some c) }.upThread l fun t => { t with pccx := i, want := none, backed := none }).MovesTo l c := by
  refine ⟨by rw [Group.upThread_pcc, List.length_set]; exact m.size, .inl ⟨{ t with pccx := i, want := none, backed := none }, ?_,
    active, rfl, .inr ⟨rfl, List.getElem?_set_self hi⟩⟩⟩
  rw [Group.upThread_threads, NMap.look_upd, ht, Option.map_some]

theorem Group.MovesTo.pccSweep (m : g.MovesTo l c) : g.pccSweep.MovesTo l c := by
  refine ⟨by rw [Group.pccSweep, List.length_mapIdx]; exact m.size, m.state.imp_left fun ⟨k, look, active, backed, held⟩ =>
    ⟨k, look, active, backed, held.imp_right fun ⟨has, entry⟩ => ⟨has, ?_⟩⟩⟩
  have used : l ∈ g.pccUsers k.pccx := Group.mem_pccUsers.2 ⟨k, NMap.mem_of_look look, backed, .inr ⟨has, rfl⟩⟩
  rw [Group.pccSweep, List.getElem?_mapIdx, entry, Option.map_some,
    if_neg fun unused => List.ne_nil_of_mem used (List.isEmpty_iff.1 unused)]

/-- R13: a thread as entry `i` is taken from its users: a user becomes backed by what the entry holds. -/
def Group.backing (g : Group) (i l : Nat) (t : Thread) : Thread :=
  if (g.pccUsers i).contains l then { t with backed := some ((g.pcc.getD i none).getD Cap.zero), pccx := 0 } else t

/-- R13: an entry is taken from its users, and is free. -/
def Group.evict (g : Group) (i : Nat) : Group := { g.mapThreads (g.backing i) with pcc := g.pcc.set i none }

theorem Group.look_evict (g : Group) (i l : Nat) : (g.evict i).threads.look l = (g.threads.look l).map (g.backing i l) :=
  NMap.look_mapv _ _ _

theorem Group.backing_st (g : Group) (i l : Nat) (t : Thread) : (g.backing i l t).st = t.st := by
  unfold Group.backing
  split <;> rfl

theorem Group.backing_of_unused (unused : l ∉ g.pccUsers i) (t : Thread) : g.backing i l t = t :=
  if_neg fun used => unused (List.contains_iff_mem.1 used)

/-- No user of an idle entry is Active. -/
theorem Group.unused_of_active (idle : g.pccIdle i = true) {t : Thread} (ht : g.threads.look l = some t) (active : t.st = .active) :
    l ∉ g.pccUsers i := fun used => by
  have parked := List.all_eq_true.1 idle l used
  rw [ht] at parked
  simp [active] at parked

/-- A lane that waits for `c`, all its records alike, waits for it still when an entry that it uses is taken from it. -/
theorem Group.backing_wants (waits : ∀ k, (l, k) ∈ g.threads → k.wantsPcc = some c) {t : Thread} (ht : (l, t) ∈ g.threads) :
    (g.backing i l t).wantsPcc = some c := by
  by_cases used : l ∈ g.pccUsers i
  · obtain ⟨w, mem, backed, wants⟩ := Group.mem_pccUsers.1 used
    have want : w.want = some c := by simpa [Thread.wantsPcc, backed] using waits w mem
    obtain ⟨e, eq, entry⟩ := wants.resolve_right fun none => by rw [want] at none; cases none.1
    cases want.symm.trans eq
    rw [Group.backing, if_pos (List.contains_iff_mem.2 used), entry]
    rfl
  · rw [Group.backing_of_unused used]
    exact waits t ht

theorem Group.MovesTo.evict (m : g.MovesTo l c) (idle : g.pccIdle i = true) : (g.evict i).MovesTo l c := by
  refine ⟨by rw [Group.evict, List.length_set]; exact m.size, ?_⟩
  rcases m.state with ⟨k, look, active, backed, held⟩ | ⟨⟨k, look, rests⟩, waits⟩
  · have unused := Group.unused_of_active idle look active
    refine .inl ⟨k, ?_, active, backed, held.imp_right fun ⟨has, entry⟩ => ⟨has, ?_⟩⟩
    · rw [Group.look_evict, look, Option.map_some, Group.backing_of_unused unused]
    · have ne : i ≠ k.pccx := fun same =>
        unused (Group.mem_pccUsers.2 ⟨k, NMap.mem_of_look look, backed, .inr ⟨has, same.symm⟩⟩)
      exact (List.getElem?_set_ne ne).trans entry
  · refine .inr ⟨⟨g.backing i l k, by rw [Group.look_evict, look, Option.map_some], by rwa [Group.backing_st]⟩, fun u mem => ?_⟩
    obtain ⟨⟨n, v⟩, before, eq⟩ := List.mem_map.1 mem
    obtain ⟨rfl, rfl⟩ := Prod.mk.inj eq
    exact Group.backing_wants waits before

/-! ### Taking an entry (R13) -/

/-- A lane takes an entry that is free or holds what it moves to; where it is `l`, `l` moves to that. -/
theorem Group.MovesTo.pccGive (m : g.MovesTo l c) (free : g.pcc[i]? = some none ∨ g.pcc[i]? = some (some d))
    (own : l = lane → d = c ∧ ∃ t, g.threads.look l = some t ∧ t.st = .active) : (g.pccGive lane d i).MovesTo l c := by
  by_cases same : l = lane
  · obtain ⟨rfl, t, ht, active⟩ := own same
    subst same
    have hi : i < g.pcc.length := free.elim (fun e => (List.getElem?_eq_some_iff.1 e).1) fun e => (List.getElem?_eq_some_iff.1 e).1
    exact (m.take ht active hi).pccSweep
  · exact ((m.setEntry free).upThread_ne same _).pccSweep

theorem Group.pccGive_evict (g : Group) (lane i : Nat) (c : Cap) :
    (g.evict i).pccGive lane c i = (g.mapThreads (g.backing i)).pccGive lane c i := by
  simp only [Group.pccGive, Group.evict, List.set_set]
  rfl

theorem Group.MovesTo.pccTake (m : g.MovesTo l c) (taken : g.pccTake lane d = some h)
    (own : l = lane → d = c ∧ ∃ t, g.threads.look l = some t ∧ t.st = .active) : h.MovesTo l c := by
  unfold Group.pccTake at taken
  split at taken
  next i found =>
    cases taken
    obtain ⟨hi, eq, -⟩ := List.findIdx?_eq_some_iff_getElem.1 found
    exact m.pccGive (.inr (by simpa [List.getElem?_eq_getElem hi] using eq)) own
  next =>
    have asked : (g.upThread lane fun t => { t with want := some d }).pccSweep.MovesTo l c := by
      by_cases same : l = lane
      · obtain ⟨rfl, t, ht, active⟩ := own same
        exact same ▸ (m.ask ht active).pccSweep
      · exact (m.upThread_ne same _).pccSweep
    have own' : l = lane → d = c ∧
        ∃ t, (g.upThread lane fun t => { t with want := some d }).pccSweep.threads.look l = some t ∧ t.st = .active := fun same => by
      obtain ⟨eq, t, ht, active⟩ := own same
      refine ⟨eq, { t with want := some d }, ?_, active⟩
      show (g.threads.upd lane _).look l = _
      rw [← same, NMap.look_upd, ht, Option.map_some]
    revert taken asked own'
    generalize (g.upThread lane fun t => { t with want := some d }).pccSweep = g
    intro taken m own
    dsimp only at taken
    split at taken
    next i free =>
      cases taken
      obtain ⟨hi, eq, -⟩ := List.findIdx?_eq_some_iff_getElem.1 free
      exact m.pccGive (.inl (by simpa [List.getElem?_eq_getElem hi] using eq)) own
    next =>
      split at taken
      next => cases taken
      next i found =>
        cases taken
        have idle := List.find?_some found
        have hi : i < g.pcc.length := by
          rw [m.size]
          exact List.mem_range.1 (List.mem_of_find?_eq_some found)
        show ((g.mapThreads (g.backing i)).pccGive lane d i).MovesTo l c
        rw [← Group.pccGive_evict]
        refine (m.evict idle).pccGive (.inl (List.getElem?_set_self hi)) fun same => ?_
        obtain ⟨eq, t, ht, active⟩ := own same
        refine ⟨eq, t, ?_, active⟩
        rw [Group.look_evict, ht, Option.map_some, Group.backing_of_unused (Group.unused_of_active idle ht active)]

/-- R13: an Active thread that needs an entry takes one. -/
theorem Group.MovesTo.pccEnter (m : g.MovesTo l c) {t : Thread} (ht : g.threads.look lane = some t) (active : t.st = .active)
    (entered : g.pccEnter lane = some h) : h.MovesTo l c := by
  unfold Group.pccEnter at entered
  split at entered
  next d wants =>
    refine m.pccTake entered fun same => ?_
    subst same
    rw [ht, Option.bind_some] at wants
    refine ⟨?_, t, ht, active⟩
    obtain ⟨backed, asks | ⟨has, -⟩⟩ := m.enters ht active
    · simpa [Thread.wantsPcc, backed, asks, eq_comm] using wants
    · simp [Thread.wantsPcc, backed, has] at wants
  next => cases entered; exact m

/-! ### Placement (R164) -/

theorem Group.MovesTo.place (m : g.MovesTo l c) (lane : Nat) : (g.place lane).MovesTo l c := by
  unfold Group.place
  split
  next => exact m
  next t ht =>
    split_ifs with stands
    · exact m
    · split
      next => exact m.arranged (Group.arranged_enqueue _ _)
      next h entered =>
        have m := m.pccEnter ht (by simpa using stands) entered
        split
        next => exact m
        next => exact m.arranged (Group.arranged_house _ _ _ _)

theorem Group.arranged_pct (g : Group) (pct : List (Option PcEntry)) : g.Arranged { g with pct := pct } := rfl

theorem Group.MovesTo.placeMember {a : Group × Bool} (m : a.1.MovesTo l c) (ei lane : Nat) :
    (Group.placeMember ei a lane).1.MovesTo l c := by
  unfold Group.placeMember
  split
  next => exact m
  next t ht =>
    by_cases stands : (t.st != .active) = true
    · rw [if_pos stands]; exact m
    · rw [if_neg stands]
      split
      next => exact m.arranged (Group.arranged_enqueue _ _)
      next h entered =>
        have m := m.pccEnter ht (by simpa using stands) entered
        split
        next => exact m
        next =>
          dsimp only
          split
          next => exact m.arranged (Group.arranged_pct _ _)
          next =>
            split
            · exact m.arranged (Group.arranged_house _ _ _ _)
            · exact m.arranged (Group.arranged_pct _ _)

theorem Group.MovesTo.foldl_place (m : g.MovesTo l c) (lanes : List Nat) : (lanes.foldl (fun g l => g.place l) g).MovesTo l c := by
  induction lanes generalizing g with
  | nil => exact m
  | cons n r ih => exact ih (m.place n)

theorem Group.MovesTo.foldl_placeMember {a : Group × Bool} (m : a.1.MovesTo l c) (ei : Nat) (lanes : List Nat) :
    (lanes.foldl (Group.placeMember ei) a).1.MovesTo l c := by
  induction lanes generalizing a with
  | nil => exact m
  | cons n r ih => exact ih (m.placeMember ei n)

theorem Group.MovesTo.freeEntry (m : g.MovesTo l c) (i : Nat) : (g.freeEntry i).MovesTo l c := by
  unfold Group.freeEntry
  split
  next => exact m
  next => exact ⟨m.size, m.state⟩

theorem Group.MovesTo.placeSpan (m : g.MovesTo l c) (ei : Nat) (lanes : List Nat) : (g.placeSpan ei lanes).MovesTo l c := by
  unfold Group.placeSpan
  split
  next => exact m.foldl_place lanes
  next =>
    have start : Group.MovesTo { g with pct := g.pct.modify ei fun e => e.map fun e => { e with mask := [] } } l c :=
      m.arranged (Group.arranged_pct g _)
    have all := Group.MovesTo.foldl_placeMember (a := (_, false)) start ei lanes
    dsimp only
    split
    · exact all.pccSweep
    · exact (all.freeEntry ei).pccSweep

end

/-! ### The issue of a word by which a lane moves (R118, R164) -/

/-- R164: the issuing group once the members of its span are placed. -/
def Issue.placedGroup (i : Issue) (ins : Instr) (lat : Nat) (clearBy : Bool) (outs : List (Nat × LaneOut)) : Group :=
  match i.g.entryOf i.x.pccx i.x.pc with
  | some e => (i.issuedGroup ins lat clearBy outs).placeSpan e i.x.lanes
  | none => i.x.lanes.foldl (fun g l => g.place l) (i.issuedGroup ins lat clearBy outs)

theorem Issue.commit_group {s : State} {i : Issue} (hi : s.issue = some i) (ins : Instr) (kind : PendKind) (lat : Nat)
    (clearBy : Bool) (outs : List (Nat × LaneOut)) :
    ∃ u, (i.commit (wordLen ins) kind lat clearBy (i.dead ins) outs).teams.look i.x.team = some u ∧
      u.groups[i.x.g]? = some (i.placedGroup ins lat clearBy outs) := by
  obtain ⟨rfl, -, ht, hg, -⟩ := State.issue_some hi
  refine ⟨_, (NMap.look_upd _ _ _).trans (congrArg (Option.map _) ht), ?_⟩
  have hlen : i.x.g < i.t.groups.length := (List.getElem?_eq_some_iff.1 hg).1
  rw [List.getElem?_mapIdx, List.getElem?_set_self hlen, Option.map_some, if_pos rfl]
  rfl

section
variable {i : Issue} {ins : Instr} {lat : Nat} {clearBy : Bool} {outs : List (Nat × LaneOut)} {l : Nat} {t : Thread} {r : LaneOut}
  {c : Cap}

/-- R61, R164: what the issue of a word does to a record of a lane, before placement. -/
def Issue.issuedThread (i : Issue) (ins : Instr) (lat : Nat) (clearBy : Bool) (outs : List (Nat × LaneOut)) (l : Nat) (t : Thread) :
    Thread :=
  if !i.x.lanes.contains l then t
  else
    match outs.find? (·.1 == l) with
    | none => t.issueMember i.core.cycle (i.x.pc + BitVec.ofNat 64 (wordLen ins)) i.t.desched
    | some (_, r) =>
      let u := t.issueLane (i.s.draws + 128 * l) i.core.cycle (setsFlag clearBy lat i.x.ctl.sf r) (i.dead ins l t) r
      (u.issueMember i.core.cycle (r.next.getD (i.x.pc + BitVec.ofNat 64 (wordLen ins))) i.t.desched).transfer i.t.nextOp r

theorem Issue.issuedGroup_threads (i : Issue) (ins : Instr) (lat : Nat) (clearBy : Bool) (outs : List (Nat × LaneOut)) :
    (i.issuedGroup ins lat clearBy outs).threads = i.g.threads.mapv (i.issuedThread ins lat clearBy outs) := rfl

/-- R118: every record of a lane that a word moves asks for the capability. -/
theorem Issue.issuedThread_asks (lane : l ∈ i.x.lanes) (out : outs.find? (·.1 == l) = some (l, r)) (moved : r.moved = some c)
    (t : Thread) : (i.issuedThread ins lat clearBy outs l t).backed = none ∧
      (i.issuedThread ins lat clearBy outs l t).want = some c := by
  simp only [Issue.issuedThread, List.contains_eq_mem, lane, decide_true, Bool.not_true, Bool.false_eq_true, if_false, out,
    Thread.transfer, moved, and_self]

theorem Issue.issuedGroup_movesTo (size : i.g.pcc.length = 8) (lane : l ∈ i.x.lanes) (ht : i.g.threads.look l = some t)
    (out : outs.find? (·.1 == l) = some (l, r)) (moved : r.moved = some c) : (i.issuedGroup ins lat clearBy outs).MovesTo l c := by
  have asks := i.issuedThread_asks (ins := ins) (lat := lat) (clearBy := clearBy) lane out moved
  have look : (i.issuedGroup ins lat clearBy outs).threads.look l = some (i.issuedThread ins lat clearBy outs l t) := by
    rw [Issue.issuedGroup_threads, NMap.look_mapv, ht, Option.map_some]
  obtain ⟨backed, want⟩ := asks t
  refine ⟨size, ?_⟩
  by_cases active : (i.issuedThread ins lat clearBy outs l t).st = .active
  · exact .inl ⟨_, look, active, backed, .inl want⟩
  · refine .inr ⟨⟨_, look, active⟩, fun k mem => ?_⟩
    rw [Issue.issuedGroup_threads] at mem
    obtain ⟨⟨n, v⟩, -, eq⟩ := List.mem_map.1 mem
    obtain ⟨rfl, rfl⟩ := Prod.mk.inj eq
    obtain ⟨backed, want⟩ := asks v
    rw [Thread.wantsPcc, backed, want]
    rfl

theorem Issue.placedGroup_movesTo (size : i.g.pcc.length = 8) (lane : l ∈ i.x.lanes) (ht : i.g.threads.look l = some t)
    (out : outs.find? (·.1 == l) = some (l, r)) (moved : r.moved = some c) : (i.placedGroup ins lat clearBy outs).MovesTo l c := by
  have issued := i.issuedGroup_movesTo (ins := ins) (lat := lat) (clearBy := clearBy) size lane ht out moved
  unfold Issue.placedGroup
  split
  · exact issued.placeSpan _ _
  · exact issued.foldl_place _

end

theorem Issue.mem_visited {i : Issue} {l : Nat} {t : Thread} (h : (l, t) ∈ i.visited) :
    l ∈ i.x.lanes ∧ i.g.threads.look l = some t := by
  obtain ⟨n, lane, eq⟩ := List.mem_filterMap.1 h
  split at eq
  next => cases eq
  next u look =>
    split_ifs at eq
    cases eq
    exact ⟨lane, look⟩

/-- The effect of a word in a visited lane, where it is a function of the lane and its thread. -/
theorem Issue.find?_visited {i : Issue} {l : Nat} {t : Thread} (h : (l, t) ∈ i.visited) (out : Nat × Thread → LaneOut) :
    (i.visited.map fun p => (p.1, out p)).find? (·.1 == l) = some (l, out (l, t)) := by
  refine find?_of_only (List.mem_map.2 ⟨(l, t), h, rfl⟩) (beq_self_eq_true l) fun b mem same => ?_
  obtain ⟨⟨n, u⟩, visited, rfl⟩ := List.mem_map.1 mem
  obtain rfl : n = l := beq_iff_eq.1 same
  cases (Issue.mem_visited h).2.symm.trans (Issue.mem_visited visited).2
  rfl

end Sys2Proof.Machine
end

section
/-! SUPPORT. A capability's fields at a new address (R121, R126, R133); control words (R116-R119). -/

namespace Sys2Proof.Machine

open Sys2Proof

/-! ### The fields of a capability (R121) -/

theorem capBits_fields (p : BitVec 16) (s : BitVec 2) (o : BitVec 14) (e : BitVec 6) (c : BitVec 2) (b l : BitVec 12) (a : DWord) :
    let w := p ++ s ++ o ++ e ++ c ++ b ++ l ++ a
    (w.extractLsb' 112 16 = p ∧ w.extractLsb' 110 2 = s ∧ w.extractLsb' 96 14 = o) ∧
      (w.extractLsb' 90 6 = e ∧ w.extractLsb' 88 2 = c ∧ w.extractLsb' 76 12 = b ∧ w.extractLsb' 64 12 = l) ∧
      w.extractLsb' 0 64 = a := by
  simp (disch := decide) only [BitVec.extractLsb'_append_eq_of_le, BitVec.extractLsb'_append_eq_of_add_le, Nat.reduceSub,
    BitVec.extractLsb'_eq_self, and_self]

/-- R121: the fields of a capability that is built from fields. -/
theorem Cap.build_fields (p : BitVec 16) (s o e c b l : Nat) (a : DWord) (t : Bool) :
    let d := Cap.build p s o e c b l a t
    (d.perms = p ∧ d.space = s % 2 ^ 2 ∧ d.otype = o % 2 ^ 14) ∧
      (d.e = e % 2 ^ 6 ∧ d.c = c % 2 ^ 2 ∧ d.b = b % 2 ^ 12 ∧ d.l = l % 2 ^ 12) ∧ d.addr = a := by
  obtain ⟨⟨perms, space, otype⟩, ⟨fe, fc, fb, fl⟩, addr⟩ := capBits_fields p (BitVec.ofNat 2 s) (BitVec.ofNat 14 o)
    (BitVec.ofNat 6 e) (BitVec.ofNat 2 c) (BitVec.ofNat 12 b) (BitVec.ofNat 12 l) a
  have field : ∀ {n k : Nat} {x : BitVec n}, x = BitVec.ofNat n k → x.toNat = k % 2 ^ n := by
    rintro n k x rfl
    exact BitVec.toNat_ofNat k n
  exact ⟨⟨perms, field space, field otype⟩, ⟨field fe, field fc, field fb, field fl⟩, addr⟩

/-- R133: a new address and C leave every other field. -/
theorem Cap.withAddr_fields (c : Cap) (a : DWord) (k : Nat) :
    let d := c.withAddr a k
    (d.perms = c.perms ∧ d.space = c.space ∧ d.otype = c.otype) ∧
      (d.e = c.e ∧ d.c = k % 2 ^ 2 ∧ d.b = c.b ∧ d.l = c.l) ∧ d.addr = a ∧ d.tag = c.tag := by
  obtain ⟨⟨perms, space, otype⟩, ⟨fe, fc, fb, fl⟩, addr⟩ :=
    Cap.build_fields c.perms c.space c.otype c.e k c.b c.l a c.tag
  have field : ∀ {x n k : Nat}, x = n % 2 ^ k → n < 2 ^ k → x = n := fun eq lt => eq.trans (Nat.mod_eq_of_lt lt)
  exact ⟨⟨perms, field space (BitVec.isLt _), field otype (BitVec.isLt _)⟩,
    ⟨field fe (BitVec.isLt _), fc, field fb (BitVec.isLt _), field fl (BitVec.isLt _)⟩, addr, rfl⟩

/-! ### A new address (R126, R133) -/

theorem Cap.blk_withAddr (c : Cap) (a : DWord) (k : Nat) : (c.withAddr a k).blk = c.blk := by
  obtain ⟨-, ⟨exponent, -⟩, -⟩ := c.withAddr_fields a k
  rw [Cap.blk, exponent, Cap.blk]

theorem Cap.withAddr_addr (c : Cap) (a : DWord) (k : Nat) : (c.withAddr a k).addr = a := by
  obtain ⟨-, -, addr, -⟩ := c.withAddr_fields a k
  exact addr

theorem Cap.move_addr (c : Cap) (a : DWord) : (c.move a).addr = a := by
  unfold Cap.move
  dsimp only
  split_ifs <;> exact c.withAddr_addr a _

/-- R126: a new address is representable where it lies in the four blocks from the base's on. -/
theorem Cap.move_tag {c : Cap} (tagged : c.tag = true) (a : DWord) :
    (c.move a).tag = true ↔ c.bblk ≤ (a.toNat / c.blk : Nat) ∧ (a.toNat / c.blk : Nat) ≤ c.bblk + 3 := by
  have near : (0 ≤ ((a.toNat / c.blk : Nat) : Int) - c.bblk ∧ ((a.toNat / c.blk : Nat) : Int) - c.bblk ≤ 3) ↔
      c.bblk ≤ (a.toNat / c.blk : Nat) ∧ (a.toNat / c.blk : Nat) ≤ c.bblk + 3 := by omega
  rw [← near]
  unfold Cap.move
  rw [if_pos tagged]
  dsimp only
  split_ifs with h
  · exact iff_of_true tagged h
  · exact iff_of_false Bool.false_ne_true h

/-- R126, R133: a representable new address leaves the bounds, the permissions, the space and the type. -/
theorem Cap.move_kept {c : Cap} (tagged : c.tag = true) {a : DWord} (kept : (c.move a).tag = true) :
    (c.move a).decode = c.decode ∧ (c.move a).perms = c.perms ∧ (c.move a).space = c.space ∧ (c.move a).otype = c.otype := by
  obtain ⟨low, high⟩ := (Cap.move_tag tagged a).1 kept
  have moved : c.move a = c.withAddr a (((a.toNat / c.blk : Nat) : Int) - c.bblk).toNat := by
    unfold Cap.move
    rw [if_pos tagged]
    exact if_pos (by omega)
  obtain ⟨⟨perms, space, otype⟩, ⟨exponent, cc, base, len⟩, addr, -⟩ :=
    c.withAddr_fields a (((a.toNat / c.blk : Nat) : Int) - c.bblk).toNat
  rw [← moved] at perms space otype exponent cc base len addr
  have blk : (c.move a).blk = c.blk := moved ▸ c.blk_withAddr a _
  have bblk : (c.move a).bblk = c.bblk := by
    rw [Cap.bblk, addr, blk, cc]
    omega
  refine ⟨?_, perms, space, otype⟩
  simp only [Cap.decode, Cap.rawTop, Cap.rawBase, bblk, blk, exponent, base, len]

/-! ### Targets and links (R116-R118) -/

theorem targetOf_eq (i : Issue) (off : BitVec 32) : i.targetOf off = branchTarget i.x.pc off := by
  rw [Issue.targetOf, branchTarget, BitVec.ofInt_add, BitVec.ofInt_mul, BitVec.ofInt_natCast, BitVec.ofNat_toNat, BitVec.setWidth_eq,
    BitVec.signExtend]
  rfl

theorem wordAfter_eq (pc : DWord) : BitVec.ofNat 64 (pc.toNat + 8) = pc + 8 := by
  rw [BitVec.ofNat_add, BitVec.ofNat_toNat, BitVec.setWidth_eq]
  rfl

theorem linkOf_eq (i : Issue) (t : Thread) : i.linkOf t = i.link t := by
  rw [Issue.linkOf, wordAfter_eq]
  rfl

theorem entryOf_eq : entryOf = jumpTarget := by
  funext c
  unfold entryOf jumpTarget
  cases c.tag <;> rfl

theorem entryOf_of_isTarget {c : Cap} (h : c.isTarget) : entryOf c = .ok (c.withOtype 0) := by
  obtain ⟨tagged, unsealed, executes, space, aligned⟩ := h
  have entry : ¬ (c.otype ≠ 0 ∧ (c.otype < 64 ∨ ¬ c.has pEN)) := by
    rintro ⟨sealed, bad⟩
    obtain ⟨high, enters⟩ := unsealed.resolve_left sealed
    exact bad.elim (by omega) fun h => h enters
  rw [entryOf, if_neg (by simp [tagged]), if_neg entry, if_neg (by simp [executes, space]), if_neg (by simp [aligned])]

/-! ### The words (R116-R119) -/

/-- `map_eq_pure_bind`, in the words of the model. -/
theorem exceptMap_eq_bind {ε α β : Type} (x : Except ε α) (f : α → β) : x.map f = x >>= fun a => .ok (f a) :=
  map_eq_pure_bind f x

/-- R116-R119: `exec` evaluates the rule of every control word in each visited lane. -/
theorem exec_controlRule {ins : Instr} {f : LaneRule} (h : controlRule ins = some f) (s : State) :
    exec ins s = laneWord ins .alu 4 s f := by
  cases ins with
  | bra =>
    cases h
    simp only [targetOf_eq]
    rfl
  | call =>
    cases h
    simp only [targetOf_eq, linkOf_eq]
    rfl
  | jmpc | ret =>
    cases h
    simp only [entryOf_eq, exceptMap_eq_bind]
    rfl
  | callc =>
    cases h
    simp only [entryOf_eq, exceptMap_eq_bind, linkOf_eq]
    rfl
  | exit => cases h; rfl
  | _ => cases h

theorem laneWord_eq_commit {s : State} {i : Issue} (hi : s.issue = some i) {ins : Instr} (hl : illegalAt ins i.t.nreg i.w = false)
    (kind : PendKind) (lat : Nat) {f : LaneRule} {outs : List (Nat × LaneOut)} (he : i.each (f i) = .ok outs) :
    laneWord ins kind lat s f = .next (i.commit (wordLen ins) kind lat true (i.dead ins) outs) := by
  simp only [laneWord, wordDo_ok hi hl, he]

/-- A control word whose rule cannot fail in a visited lane commits what the rule gives. -/
theorem exec_control {s : State} {i : Issue} (hi : s.issue = some i) {ins : Instr} (hl : illegalAt ins i.t.nreg i.w = false)
    {f : LaneRule} (rule : controlRule ins = some f) {r : Nat → Thread → LaneOut}
    (h : ∀ p ∈ i.visited, f i p.1 p.2 = .ok (r p.1 p.2)) : exec ins s =
      .next (i.commit (wordLen ins) .alu 4 true (i.dead ins) (i.visited.map fun p => (p.1, r p.1 p.2))) :=
  (exec_controlRule rule s).trans (laneWord_eq_commit hi hl .alu 4 (i.each_ok h))

/-- R118: what a jump to the capability `c` does in a lane; `link` says that it links. -/
def Issue.jumps (i : Issue) (link : Bool) (t : Thread) (c : Cap) : LaneOut :=
  { LaneOut.nil with
    upds := if link = true then [.quad 1 (i.linkOf t)] else [], next := some c.addr, moved := some c.code }

theorem controlRule_jump {ins : Instr} {b : CapSel} {link : Bool}
    (word : (ins = .jmpc b ∨ ins = .ret b) ∧ link = false ∨ ins = .callc b ∧ link = true) :
    controlRule ins = some fun i _ t => (entryOf (i.cap t b)).map (i.jumps link t) := by
  obtain ⟨rfl | rfl, rfl⟩ | ⟨rfl, rfl⟩ := word <;> rfl

/-- Settles O6: the words by what `exec` evaluates in their lanes, a jump's code capability by what placement keeps, the link by
what a new address keeps. -/
theorem controlWords : Obligations.ControlWords := by
  unfold Obligations.ControlWords
  refine ⟨laneWords_of_exec fun _ _ h s => exec_controlRule h s, fun off h s i hi => ⟨fun hl => ?_, fun hl => ?_⟩,
    fun s i hi hl => ?_, fun ins b link word s i hi hl targets => ?_, fun i t tagged _ => ?_⟩
  · exact ⟨_, exec_control hi hl rfl (r := fun _ _ => { LaneOut.nil with next := some (i.targetOf off) }) fun _ _ => rfl,
      Issue.commit_commits hi _ _ _ _ _⟩
  · exact ⟨_, exec_control hi hl rfl
      (r := fun _ t => { LaneOut.nil with upds := [.quad 1 (i.linkOf t)], next := some (i.targetOf off) }) fun _ _ => rfl,
      Issue.commit_commits hi _ _ _ _ _⟩
  · exact ⟨_, exec_control hi hl rfl (r := fun _ _ => { LaneOut.nil with await := some .exit }) fun _ _ => rfl,
      Issue.commit_commits hi _ _ _ _ _⟩
  · have jump := exec_control hi hl (controlRule_jump word) (r := fun _ t => i.jumps link t ((i.cap t b).withOtype 0)) fun p visited => by
      rw [entryOf_of_isTarget (targets p visited)]
      rfl
    refine ⟨_, jump, Issue.commit_commits hi _ _ _ _ _, fun size p visited => ?_⟩
    obtain ⟨u, team, group⟩ := Issue.commit_group hi ins .alu 4 true
      (i.visited.map fun p => (p.1, i.jumps link p.2 ((i.cap p.2 b).withOtype 0)))
    obtain ⟨lane, ht⟩ := Issue.mem_visited visited
    obtain ⟨k, look, code⟩ := (Issue.placedGroup_movesTo size lane ht (Issue.find?_visited visited fun p =>
      i.jumps link p.2 ((i.cap p.2 b).withOtype 0)) rfl).pccOf
    exact ⟨u, _, k, team, group, look, code⟩
  · have addr : (i.linkOf t).addr = i.x.pc + 8 := (Cap.move_addr _ _).trans (wordAfter_eq _)
    refine ⟨addr, ?_, Cap.move_kept tagged⟩
    rw [addr, ← wordAfter_eq]
    exact Cap.move_tag tagged _

end Sys2Proof.Machine
end

section
/-! SUPPORT. What the words that make a capability from others give (R124-R126, R133-R140): bounds, permissions and type. -/

namespace Sys2Proof.Machine

open Sys2Proof

/-! ### Bounds (R124, R125) -/

theorem Cap.wellFormed_iff {c : Cap} : c.wellFormed = true ↔ c.e ≤ 53 ∧ 0 ≤ c.bblk ∧ c.rawTop ≤ 2 ^ 64 := by
  simp [Cap.wellFormed, and_assoc]

/-- What the bounds of a capability are made of. -/
structure Cap.SameBounds (c d : Cap) : Prop where
  e : d.e = c.e
  b : d.b = c.b
  l : d.l = c.l
  bblk : d.bblk = c.bblk

theorem Cap.SameBounds.trans {a b c : Cap} (h : a.SameBounds b) (k : b.SameBounds c) : a.SameBounds c :=
  ⟨k.e.trans h.e, k.b.trans h.b, k.l.trans h.l, k.bblk.trans h.bblk⟩

theorem Cap.SameBounds.rawBase {c d : Cap} (h : c.SameBounds d) : d.rawBase = c.rawBase := by
  simp only [Cap.rawBase, Cap.blk, h.e, h.b, h.bblk]

theorem Cap.SameBounds.rawTop {c d : Cap} (h : c.SameBounds d) : d.rawTop = c.rawTop := by
  simp only [Cap.rawTop, h.rawBase, h.e, h.l]

theorem Cap.SameBounds.decode {c d : Cap} (h : c.SameBounds d) : d.decode = c.decode := by
  simp only [Cap.decode, h.rawBase, h.rawTop, h.e]

theorem Cap.SameBounds.wellFormed {c d : Cap} (h : c.SameBounds d) : d.wellFormed = c.wellFormed := by
  simp only [Cap.wellFormed, h.rawTop, h.bblk, h.e]

/-- R126: at a representable new address the base's block is the same. -/
theorem Cap.sameBounds_move {c : Cap} (tagged : c.tag = true) {a : DWord} (kept : (c.move a).tag = true) : c.SameBounds (c.move a) := by
  obtain ⟨low, high⟩ := (Cap.move_tag tagged a).1 kept
  obtain ⟨-, ⟨e, k, b, l⟩, addr, -⟩ := c.withAddr_fields a (((a.toNat / c.blk : Nat) : Int) - c.bblk).toNat
  have moved : c.move a = c.withAddr a (((a.toNat / c.blk : Nat) : Int) - c.bblk).toNat := by
    rw [Cap.move, if_pos tagged]
    exact if_pos (by omega)
  rw [moved]
  refine ⟨e, b, l, ?_⟩
  rw [Cap.bblk, addr, c.blk_withAddr, k]
  omega

/-- R137, R138: permissions and type are no part of the bounds. -/
theorem Cap.build_kept (c : Cap) (p : BitVec 16) (o : Nat) :
    let d := Cap.build p c.space o c.e c.c c.b c.l c.addr c.tag
    c.SameBounds d ∧ d.perms = p ∧ d.space = c.space ∧ d.otype = o % 2 ^ 14 := by
  obtain ⟨⟨perms, space, otype⟩, ⟨e, k, b, l⟩, addr⟩ := Cap.build_fields p c.space o c.e c.c c.b c.l c.addr c.tag
  have field : ∀ {x n k : Nat}, x = n % 2 ^ k → n < 2 ^ k → x = n := fun eq lt => eq.trans (Nat.mod_eq_of_lt lt)
  have fe := field e (BitVec.isLt _)
  refine ⟨⟨fe, field b (BitVec.isLt _), field l (BitVec.isLt _), ?_⟩, perms, field space (BitVec.isLt _), otype⟩
  rw [Cap.bblk, Cap.blk, fe, addr, field k (BitVec.isLt _)]
  rfl

/-- R124: the bounds of a well-formed capability are whole granules of 2^E bytes. -/
theorem Cap.decode_granules {c : Cap} (wf : c.wellFormed = true) :
    ∃ n, c.decode = (n * 2 ^ c.e, (n + c.l) * 2 ^ c.e) ∧ (n + c.l) * 2 ^ c.e ≤ 2 ^ 64 := by
  obtain ⟨exponent, block, top⟩ := Cap.wellFormed_iff.1 wf
  obtain ⟨k, hk⟩ := Int.eq_ofNat_of_zero_le block
  have base : c.rawBase = ((k * 2 ^ 12 + c.b) * 2 ^ c.e : Nat) := by
    rw [Cap.rawBase, hk, Cap.blk, pow_add]
    push_cast
    ring
  have raw : c.rawTop = ((k * 2 ^ 12 + c.b + c.l) * 2 ^ c.e : Nat) := by
    rw [Cap.rawTop, base]
    push_cast
    ring
  rw [raw] at top
  have fits : (k * 2 ^ 12 + c.b + c.l) * 2 ^ c.e ≤ 2 ^ 64 := by exact_mod_cast top
  refine ⟨k * 2 ^ 12 + c.b, ?_, fits⟩
  rw [Cap.decode, if_neg (by omega), base, raw, Int.toNat_natCast, Int.toNat_natCast, min_eq_left fits]

/-! ### Rounding outward (R134) -/

theorem ceilDiv_le_iff {a b k : Nat} (hb : 0 < b) : ceilDiv a b ≤ k ↔ a ≤ k * b := by
  rw [ceilDiv, Nat.div_le_iff_le_mul_add_pred hb, Nat.mul_comm]
  omega

/-- Where the range spans at most 4,095 granules of some exponent, `leastE` is the least such. -/
theorem leastE_spec {lo hi e : Nat} (he : e ≤ 53) (fits : ceilDiv hi (2 ^ e) - lo / 2 ^ e ≤ 4095) :
    leastE lo hi ≤ e ∧ ceilDiv hi (2 ^ leastE lo hi) - lo / 2 ^ leastE lo hi ≤ 4095 := by
  unfold leastE
  cases found : (List.range 54).find? fun e => decide (ceilDiv hi (2 ^ e) - lo / 2 ^ e ≤ 4095) with
  | none => simpa [fits] using List.find?_eq_none.1 found e (List.mem_range.2 (by omega))
  | some k =>
    obtain ⟨holds, -, least⟩ := List.find?_range_eq_some.1 found
    refine ⟨not_lt.1 fun lt => ?_, by simpa using holds⟩
    simpa [fits] using least e lt

/-- R124: the bounds of a capability of `n - m` granules from granule `m` on, in whose block its address lies. -/
theorem Cap.build_granules (p : BitVec 16) (space o : Nat) {e m n : Nat} {a : DWord} (t : Bool) (exponent : e ≤ 53) (le : m ≤ n)
    (span : n - m ≤ 4095) (top : n * 2 ^ e ≤ 2 ^ 64) (addr : a.toNat / 2 ^ e = m) :
    let d := Cap.build p space o e 0 (m % 4096) (n - m) a t
    d.decode = (m * 2 ^ e, n * 2 ^ e) ∧ d.wellFormed = true ∧ d.perms = p ∧ d.space = space % 2 ^ 2 ∧ d.addr = a := by
  intro d
  obtain ⟨⟨fp, fs, -⟩, ⟨fe, fc, fb, fl⟩, fa⟩ := Cap.build_fields p space o e 0 (m % 4096) (n - m) a t
  replace fe : d.e = e := fe.trans (Nat.mod_eq_of_lt (by omega))
  replace fb : d.b = m % 4096 := fb.trans (Nat.mod_mod m 4096)
  replace fl : d.l = n - m := fl.trans (Nat.mod_eq_of_lt (by omega))
  have block : d.bblk = (m / 2 ^ 12 : Nat) := by
    rw [Cap.bblk, Cap.blk, fe, fa, fc, pow_add, ← Nat.div_div_eq_div_mul, addr, Nat.zero_mod, Nat.cast_zero, sub_zero]
  have base : d.rawBase = (m * 2 ^ e : Nat) := by
    have split : m = m / 2 ^ 12 * 2 ^ 12 + m % 4096 := by omega
    rw [Cap.rawBase, block, Cap.blk, fe, fb]
    conv_rhs => rw [split]
    push_cast
    ring
  have raw : d.rawTop = (n * 2 ^ e : Nat) := by
    rw [Cap.rawTop, base, fl, fe]
    push_cast [le]
    ring
  refine ⟨?_, Cap.wellFormed_iff.2 ⟨fe.trans_le exponent, by omega, by rw [raw]; exact_mod_cast top⟩, fp, fs, fa⟩
  rw [Cap.decode, if_neg (by omega), base, raw, Int.toNat_natCast, Int.toNat_natCast, min_eq_left top]

/-- R134: the granules of [lo, lo + n) at the least exponent, within a capability that holds the range. -/
structure Cap.Narrows (c : Cap) (lo hi m k : Nat) (e : Nat) : Prop where
  exponent : e ≤ 53
  le : m ≤ k
  span : k - m ≤ 4095
  low : m * 2 ^ e ≤ lo
  high : hi ≤ k * 2 ^ e
  base : c.decode.1 ≤ m * 2 ^ e
  top : k * 2 ^ e ≤ c.decode.2
  fits : c.decode.2 ≤ 2 ^ 64

theorem Cap.narrows {c : Cap} (wf : c.wellFormed = true) {lo hi : Nat} (ordered : lo ≤ hi) (above : c.decode.1 ≤ lo)
    (below : hi ≤ c.decode.2) :
    c.Narrows lo hi (lo / 2 ^ leastE lo hi) (ceilDiv hi (2 ^ leastE lo hi)) (leastE lo hi) := by
  obtain ⟨exponent, -⟩ := Cap.wellFormed_iff.1 wf
  obtain ⟨n, bounds, fits⟩ := Cap.decode_granules wf
  have small : c.l < 4096 := BitVec.isLt _
  rw [bounds] at above below
  have first : n ≤ lo / 2 ^ c.e := (Nat.le_div_iff_mul_le (Nat.two_pow_pos _)).2 above
  have last : ceilDiv hi (2 ^ c.e) ≤ n + c.l := (ceilDiv_le_iff (Nat.two_pow_pos _)).2 below
  obtain ⟨least, span⟩ := leastE_spec (lo := lo) (hi := hi) exponent (by omega)
  generalize leastE lo hi = e at least span
  obtain ⟨j, step⟩ : ∃ j, 2 ^ c.e = j * 2 ^ e := (pow_dvd_pow 2 least).imp fun j h => h.trans (Nat.mul_comm _ _)
  simp only [step, ← Nat.mul_assoc] at bounds above below fits
  have pos := Nat.two_pow_pos e
  refine ⟨by omega, ?_, span, Nat.div_mul_le_self lo _, (ceilDiv_le_iff pos).1 le_rfl, ?_, ?_, ?_⟩
  · exact (Nat.div_le_div_right ordered).trans (Nat.div_le_of_le_mul (Nat.mul_comm _ _ ▸ (ceilDiv_le_iff pos).1 le_rfl))
  · rw [bounds]
    exact Nat.mul_le_mul_right _ ((Nat.le_div_iff_mul_le pos).2 above)
  · rw [bounds]
    exact Nat.mul_le_mul_right _ ((ceilDiv_le_iff pos).2 below)
  · rw [bounds]
    exact fits

/-- R134: what `cap.bound` gives where it raises nothing. -/
theorem Cap.bound_ok {c d : Cap} {n : Nat} {ex : Bool} (h : c.bound n ex = .ok d) :
    let lo := c.addr.toNat
    let e := leastE lo (lo + n)
    (c.decode.1 ≤ lo ∧ lo + n ≤ c.decode.2) ∧
      (ex = true → lo / 2 ^ e * 2 ^ e = lo ∧ ceilDiv (lo + n) (2 ^ e) * 2 ^ e = lo + n) ∧
      d = Cap.build c.perms c.space c.otype e 0 (lo / 2 ^ e % 4096) (ceilDiv (lo + n) (2 ^ e) - lo / 2 ^ e) c.addr c.tag := by
  unfold Cap.bound at h
  dsimp only at h
  split_ifs at h with untagged sealed outside inexact
  exact ⟨by omega, by tauto, (Except.ok.inj h).symm⟩

/-- R134: narrowing keeps within the bounds it narrows and about the range asked for. -/
theorem Cap.bound_within {c d : Cap} {n : Nat} {ex : Bool} (wf : c.wellFormed = true) (h : c.bound n ex = .ok d) :
    d.tag = c.tag ∧ d.wellFormed = true ∧ d.perms = c.perms ∧ d.space = c.space ∧
      d.addr = c.addr ∧ c.decode.1 ≤ d.decode.1 ∧ d.decode.1 ≤ c.addr.toNat ∧ c.addr.toNat + n ≤ d.decode.2 ∧
      d.decode.2 ≤ c.decode.2 ∧ (ex = true → d.decode = (c.addr.toNat, c.addr.toNat + n)) := by
  obtain ⟨⟨above, below⟩, exact_, rfl⟩ := Cap.bound_ok h
  have k := Cap.narrows wf (Nat.le_add_right _ n) above below
  obtain ⟨decode, formed, perms, space, addr⟩ :=
    Cap.build_granules c.perms c.space c.otype c.tag k.exponent k.le k.span (k.top.trans k.fits) rfl
  rw [decode]
  refine ⟨rfl, formed, perms, space.trans (Nat.mod_eq_of_lt (BitVec.isLt _)), addr, k.base, k.low, k.high, k.top, fun ex => ?_⟩
  rw [(exact_ ex).1, (exact_ ex).2]

/-! ### Permissions (R122, R136, R138, R140) -/

theorem and_andNot_self (x m : BitVec 16) : x &&& m &&& ~~~x = 0 := by
  rw [BitVec.and_comm x m, BitVec.and_assoc, BitVec.and_not_self]
  exact BitVec.and_zero

theorem Cap.withPerms_kept (c : Cap) (p : BitVec 16) :
    c.SameBounds (c.withPerms p) ∧ (c.withPerms p).perms = p ∧ (c.withPerms p).otype = c.otype := by
  obtain ⟨same, perms, -, otype⟩ := c.build_kept p c.otype
  exact ⟨same, perms, otype.trans (Nat.mod_eq_of_lt (BitVec.isLt _))⟩

theorem Cap.withOtype_kept (c : Cap) {o : Nat} (small : o < 2 ^ 14) :
    c.SameBounds (c.withOtype o) ∧ (c.withOtype o).perms = c.perms ∧ (c.withOtype o).space = c.space ∧ (c.withOtype o).otype = o := by
  obtain ⟨same, perms, space, otype⟩ := c.build_kept c.perms o
  exact ⟨same, perms, space, otype.trans (Nat.mod_eq_of_lt small)⟩

/-- R137: what sealing gives where it raises nothing. -/
theorem capSealBy_ok {c y d : Cap} (h : capSealBy c y = .ok d) : y.addr.toNat < 2 ^ 14 ∧ d = c.withOtype y.addr.toNat := by
  unfold capSealBy at h
  dsimp only at h
  split_ifs at h with untagged sealed refused outside
  exact ⟨by omega, (Except.ok.inj h).symm⟩

/-- R138: what unsealing gives where it raises nothing: it may take GL away. -/
theorem capUnsealBy_ok {c y d : Cap} (h : capUnsealBy c y = .ok d) :
    ∃ m, d = (c.withOtype 0).withPerms (c.perms &&& m) := by
  unfold capUnsealBy at h
  dsimp only at h
  split_ifs at h with untagged sealed refused outside global
  · exact ⟨c.perms, by rw [BitVec.and_self]; exact (Except.ok.inj h).symm⟩
  · exact ⟨~~~pGL, (Except.ok.inj h).symm⟩

/-- R140: what minting gives where it raises nothing. -/
theorem capMintBy_ok {a p d : Cap} (h : capMintBy a p = .ok d) :
    d = { p with tag := true } ∧ p.wellFormed = true ∧ p.space = a.space ∧ a.perms &&& p.perms = p.perms ∧
      a.decode.1 ≤ p.decode.1 ∧ p.decode.2 ≤ a.decode.2 := by
  unfold capMintBy at h
  split_ifs at h with untagged sealed malformed refused outside
  obtain ⟨space, perms⟩ := not_or.1 refused
  obtain ⟨low, high⟩ := not_or.1 outside
  exact ⟨(Except.ok.inj h).symm, by simpa using malformed, not_not.1 space, by simpa [Cap.has] using perms, not_lt.1 low, not_lt.1 high⟩

/-- Settles O60: each word by what it gives where it raises nothing, the bounds of all but `bound` by `Cap.SameBounds`. -/
theorem authorityNeverGrows : Obligations.AuthorityNeverGrows := by
  unfold Obligations.AuthorityNeverGrows
  refine ⟨fun c tagged wf => ⟨fun a => ⟨c.move_addr a, Cap.move_tag tagged a, fun kept => ?_⟩, fun n ex d h => ?_, fun m => ?_,
    fun y d h => ?_, fun y d h => ?_⟩, fun a p d h => ?_⟩
  · obtain ⟨decode, rest⟩ := Cap.move_kept tagged kept
    exact ⟨decode, (Cap.sameBounds_move tagged kept).wellFormed.trans wf, rest⟩
  · obtain ⟨tag, rest⟩ := Cap.bound_within wf h
    exact ⟨tag.trans tagged, rest⟩
  · obtain ⟨same, perms, -⟩ := c.withPerms_kept (c.perms &&& m)
    exact ⟨same.decode, (congrArg (· &&& ~~~c.perms) perms).trans (and_andNot_self _ _)⟩
  · obtain ⟨small, rfl⟩ := capSealBy_ok h
    obtain ⟨same, rest⟩ := c.withOtype_kept small
    exact ⟨tagged, same.decode, rest⟩
  · obtain ⟨m, rfl⟩ := capUnsealBy_ok h
    obtain ⟨same, -, -, otype⟩ := c.withOtype_kept (o := 0) (by norm_num)
    obtain ⟨same', perms, otype'⟩ := (c.withOtype 0).withPerms_kept (c.perms &&& m)
    exact ⟨tagged, (same.trans same').decode, (congrArg (· &&& ~~~c.perms) perms).trans (and_andNot_self _ _), otype'.trans otype⟩
  · obtain ⟨rfl, wf, space, perms, low, high⟩ := capMintBy_ok h
    refine ⟨rfl, rfl, wf, space, ?_, low, high⟩
    show p.perms &&& ~~~a.perms = 0
    rw [← perms]
    exact and_andNot_self _ _

end Sys2Proof.Machine
end

section
/-! SUPPORT. What a die reads while the INV of an external write is on its way (R322): a copy that is kept under a die's number stands
for that die where the number is below 10, the number of the part's dies. -/

namespace Sys2Proof.Machine

open Sys2Proof

/-- The part after reset, but that die 0 still holds a byte 1 at the start of line 1. Line 0 at a die 10 would have the same key. -/
def staleOfDie0 : State :=
  { State.reset with coh := { State.reset.coh with stale := [(lineKey 1 0, ⟨[1], [], [], 0, 0⟩)] } }

/-- Refutes O20: its clause on copies that are out of date bounds no die, and `lineKey 0 10 = lineKey 1 0`; an agent of die 10 finds
the copy of die 0 under its key, but reads memory. -/
theorem not_loadValues : ¬ Obligations.LoadValues := by
  unfold Obligations.LoadValues
  rintro ⟨-, -, -, -, stale, -⟩
  have kept : staleOfDie0.coh.stale.look (lineKey 0 10) = some ⟨[1], [], [], 0, 0⟩ := rfl
  obtain ⟨reads, -⟩ := stale staleOfDie0 10 0 0 _ kept (by norm_num)
  have memory : staleOfDie0.viewBytes 10 0 1 = [0] := by decide
  exact absurd (memory.symm.trans reads) (by decide)

end Sys2Proof.Machine
end

section
/-! SUPPORT. The words that test memory and then go on or park (R157, R215, R216, R286, R292), by what `exec` evaluates in their
lanes. -/

namespace Sys2Proof.Machine

open Sys2Proof

/-! ### Evaluations that may fail -/

theorem exceptMap_bind {ε α β γ : Type} (x : Except ε α) (f : α → Except ε β) (g : β → γ) :
    (x >>= f).map g = x >>= fun a => (f a).map g := by
  cases x <;> rfl

theorem exceptMap_error_iff {ε α β : Type} {x : Except ε α} {g : α → β} {e : ε} : x.map g = .error e ↔ x = .error e := by
  cases x <;> simp [Except.map]

theorem exceptMap_ok_iff {ε α β : Type} {x : Except ε α} {g : α → β} {b : β} : x.map g = .ok b ↔ ∃ a, x = .ok a ∧ g a = b := by
  cases x <;> simp [Except.map]

/-! ### Lanes and addresses (R11, R143) -/

theorem effAddr_eq : effAddr = effective := by
  funext c off
  have low : (c.addr + off.signExtend 64).toNat = ((BitVec.ofInt 64 (c.addr.toNat + off.toInt)).toNat) := by
    rw [BitVec.ofInt_add, BitVec.ofInt_natCast, BitVec.ofNat_toNat, BitVec.setWidth_eq, BitVec.signExtend]
  rw [effAddr, low, BitVec.toNat_ofInt]
  rfl

/-- A lane function followed by a map raises in the same lanes. -/
theorem Issue.each_proj {ε α β : Type} (i : Issue) {f : Nat → Thread → Except ε α} {h : Nat → Thread → Except ε β} (g : α → β)
    (hh : ∀ l t, h l t = (f l t).map g) : i.each h = (i.each f).map fun rs => rs.map fun p => (p.1, g p.2) := by
  rw [i.each_eq, i.each_eq]
  generalize i.visited = vs
  induction vs with
  | nil => rfl
  | cons p r ih =>
    simp only [eachLane, hh, ih]
    cases f p.1 p.2 <;> cases eachLane f r <;> rfl

/-- R143: a word after its checks: `raiseM` of the lanes that fail, or `k` of what the lanes give. -/
def Issue.checked {α : Type} (i : Issue) (k : List (Nat × α) → State) : Except (List (Nat × MErr)) (List (Nat × α)) → State
  | .error es => i.raiseM es
  | .ok rs => k rs

/-- The word `ins` evaluates `f` in every visited lane, and is `k` of what the lanes give. -/
def Checked {α : Type} (ins : Instr) (f : Issue → Nat → Thread → Except MErr α) (k : Issue → List (Nat × α) → State) : Prop :=
  ∀ s, exec ins s = wordDo ins s fun i => i.checked (k i) (i.each (f i))

section
variable {ins : Instr} {α : Type} {f : Issue → Nat → Thread → Except MErr α} {k : Issue → List (Nat × α) → State}

/-- A word is as its meaning says it. -/
theorem Checked.of_exec {F : Issue → State} (he : ∀ s, exec ins s = wordDo ins s F)
    (h : ∀ i r, i.each (f i) = r → F i = i.checked (k i) r) : Checked ins f k := fun s =>
  (he s).trans (congrArg (wordDo ins s) (funext fun i => h i _ rfl))

theorem Checked.error (h : Checked ins f k) {s : State} {i : Issue} (hi : s.issue = some i) (hl : illegalAt ins i.t.nreg i.w = false)
    {es : List (Nat × MErr)} (he : i.each (f i) = .error es) : ∃ t, exec ins s = .next t ∧ i.FailsWith es t :=
  ⟨_, by rw [h s, wordDo_ok hi hl, he]; rfl, Issue.raiseM_failsWith hi es⟩

theorem Checked.ok (h : Checked ins f k) {s : State} {i : Issue} (hi : s.issue = some i) (hl : illegalAt ins i.t.nreg i.w = false)
    {rs : List (Nat × α)} (he : i.each (f i) = .ok rs) : exec ins s = .next (k i rs) := by
  rw [h s, wordDo_ok hi hl, he]
  rfl

end

/-! ### The words that read, and go on or park (R216, R286, R292) -/

/-- A word that reads global memory, in the terms of `Issue.readsGlobal`. -/
theorem checked_globalWait {ins : Instr} {b : CapSel} {off : Src} {sc : Scope} {size kind : Nat}
    {v : Issue → Nat → Thread → Except Word Word} {done : Nat → Word → Bool}
    (he : ∀ s, exec ins s = globalWait ins b off sc size kind v done s) :
    Checked ins (fun i l t => do
        let x ← liftE (v i l t)
        let o ← liftE (i.src l t off)
        i.readsGlobal ins l t (i.cap t b) o sc size kind x fun m => done m x)
      fun i rs => i.waited rs (i.commit (wordLen ins) .alu 1 true (i.dead ins) (waits rs)) := by
  refine .of_exec he fun i r hr => ?_
  rw [(i.each_congr fun p _ => ?lane).trans hr]
  case lane =>
    refine bind_congr fun x => bind_congr fun o => ?_
    rw [Issue.readsGlobal, ← effAddr_eq]
    refine bind_congr fun ⟨loc, keep⟩ => ?_
    dsimp only
    cases i.s.readFor i.t.die i.core.world loc size (16 * p.1) <;> rfl
  cases r <;> rfl

/-- R216: `waitgen` reads a scratchpad word. -/
theorem checked_waitgen (a : Src) (b : CapSel) (off : Src) {f : Issue → Nat → Thread → Except MErr (Op × LaneOut)}
    (h : parkRule (.waitgen a b off) = some f) :
    Checked (.waitgen a b off) f fun i rs => i.waited rs (i.commit (wordLen (.waitgen a b off)) .alu 1 true
      (i.dead (.waitgen a b off)) (waits rs)) := by
  cases h
  refine .of_exec (fun _ => rfl) fun i r hr => ?_
  rw [(i.each_congr fun p _ => ?lane).trans hr]
  case lane =>
    refine bind_congr fun g => bind_congr fun o => ?_
    rw [← effAddr_eq]
    rfl
  cases r <;> rfl

theorem checked_parkRule {ins : Instr} {f : Issue → Nat → Thread → Except MErr (Op × LaneOut)} (h : parkRule ins = some f) :
    Checked ins f fun i rs => i.waited rs (i.commit (wordLen ins) .alu 1 true (i.dead ins) (waits rs)) := by
  cases ins with
  | waitgen a b off => exact checked_waitgen a b off h
  | evwait g b off sc => cases h; exact checked_globalWait fun _ => rfl
  | join b off sc => cases h; exact checked_globalWait (v := fun _ _ _ => .ok 0) (done := fun m _ => m == 0) fun _ => rfl
  | _ => cases h

/-! ### waitown (R215) -/

theorem State.noteEv_events (s : State) (die : Nat) (early : Bool) (x : Ev) :
    ∃ ev, s.noteEv die early x = { s with events := ev } := by
  unfold State.noteEv
  split
  · split
    · exact ⟨s.events, rfl⟩
    · exact ⟨[], rfl⟩
  · exact ⟨_, rfl⟩

theorem State.sawReturn_events (s : State) (id : Nat) (t : Team) (g lane : Nat) (c : Cap) (addr n : Nat) :
    ∃ ev, s.sawReturn id t g lane c addr n = { s with events := ev } := by
  unfold State.sawReturn
  split
  · exact ⟨s.events, rfl⟩
  · exact State.noteEv_events ..

/-- Steps that change only what is recorded, one after another. -/
theorem State.foldl_events {α : Type} {step : State → α → State} (h : ∀ s p, ∃ ev, step s p = { s with events := ev })
    (rs : List α) (s : State) : ∃ ev, rs.foldl step s = { s with events := ev } := by
  induction rs generalizing s with
  | nil => exact ⟨s.events, rfl⟩
  | cons p r ih =>
    obtain ⟨ev, he⟩ := h s p
    obtain ⟨ev', he'⟩ := ih (step s p)
    exact ⟨ev', by rw [List.foldl_cons, he', he]⟩

/-- R215: what a lane of `waitown` evaluates: its range, and whether it goes on. -/
def Issue.ownLane (i : Issue) (a : Src) (b : CapSel) (off : Src) (l : Nat) (t : Thread) :
    Except MErr (Cap × Nat × Nat × LaneOut) := do
  let n ← liftE (i.src l t a)
  let o ← liftE (i.src l t off)
  let c := i.cap t b
  let va := effAddr c o
  let inShare := (i.s.spadAt i.x.team i.t c.space va n.toNat).isSome
  let _ ← liftE (capCheck c pLD va n.toNat [1, 2] false false true inShare)
  if i.s.covered i.t.ctx c then .error (errOf cRevoked)
  .ok (c, va, n.toNat, doneOrPark (n == 0 || i.s.returned i.x.team i.t c va n.toNat)
    (enginePark i (.waitown a b off) 2 c va n))

/-- R178: what a lane of `waitown` that goes on has seen is recorded. -/
def Issue.sawOwn (i : Issue) (s : State) (p : Nat × Cap × Nat × Nat × LaneOut) : State :=
  if p.2.2.2.2.park.isNone then s.sawReturn i.x.team i.t i.x.g p.1 p.2.1 p.2.2.1 p.2.2.2.1 else s

theorem Issue.sawOwn_events (i : Issue) (s : State) (p : Nat × Cap × Nat × Nat × LaneOut) :
    ∃ ev, i.sawOwn s p = { s with events := ev } := by
  unfold Issue.sawOwn
  split
  · exact State.sawReturn_events ..
  · exact ⟨s.events, rfl⟩

theorem checked_waitown (a : Src) (b : CapSel) (off : Src) :
    Checked (.waitown a b off) (fun i => i.ownLane a b off) fun i rs =>
      rs.foldl i.sawOwn
        (i.commit (wordLen (.waitown a b off)) .alu 1 true (i.dead (.waitown a b off)) (rs.map fun p => (p.1, p.2.2.2.2))) := by
  refine .of_exec (fun _ => rfl) fun i r hr => ?_
  rw [(i.each_congr fun p _ => ?lane).trans hr]
  case lane => rfl
  cases r <;> rfl

theorem ownRule_waitown {a : Src} {b : CapSel} {off : Src} {f : Issue → Nat → Thread → Except MErr LaneOut}
    (h : ownRule (.waitown a b off) = some f) (i : Issue) (l : Nat) (t : Thread) :
    f i l t = (i.ownLane a b off l t).map fun p => p.2.2.2 := by
  cases h
  simp only [Issue.ownLane, exceptMap_bind]
  refine bind_congr fun n => bind_congr fun o => ?_
  rw [← effAddr_eq]
  refine bind_congr fun _ => ?_
  cases i.s.covered i.t.ctx (i.cap t b)
  · have returned : (n == 0 || i.s.returned i.x.team i.t (i.cap t b) (effAddr (i.cap t b) o) n.toNat) = true ↔
        n = 0 ∨ ∀ g ∈ i.s.sideGranules i.x.team i.t (i.cap t b) (effAddr (i.cap t b) o) n.toNat, i.s.granuleOwned g = false := by
      simp [State.returned]
    exact congrArg Except.ok (if_congr returned.symm rfl rfl)
  · rfl

/-! ### waitne (R157) -/

/-- R157: what a lane of `waitne` evaluates: its space, its load, and whether it goes on. -/
def Issue.neLane (i : Issue) (a : Src) (b : CapSel) (off : Src) (sc : Scope) (acq : Bool) (l : Nat) (t : Thread) :
    Except MErr (Nat × Access × Op × LaneOut) := do
  let v ← liftE (i.src l t a)
  let o ← liftE (i.src l t off)
  let c := i.cap t b
  let va := effAddr c o
  let (loc, _) ← i.access c pLD va 4 [0, 1, 2] (some sc) true true { needR with nr := true }
  let m ← (match i.s.readFor i.t.die i.core.world loc 4 (16 * l) with
    | .ok bs => .ok (wordAt bs)
    | .error e => .error (errOf e))
  let q := probe i.x.g l c.space loc 4 sc acq i.t.nextOp t.gates
  let go := i.s.mayProbe i.x.team i.t q && m != v
  let p : Park :=
    { kind := 1, cap := c, addr := va, val := v, scope := sc, acq := acq, sf := i.x.ctl.sf, pd := none, obj := 0,
      m := 0, q := 0, next := i.x.pc + BitVec.ofNat 64 (wordLen (.waitne a b off sc acq)), redo := false }
  .ok (c.space, (⟨l, loc, 4, va, 0, 0, false, Cap.zero, c.space⟩ : Access), q,
    if go then LaneOut.nil else { LaneOut.nil with park := some p })

theorem checked_waitne (a : Src) (b : CapSel) (off : Src) (sc : Scope) (acq : Bool) :
    Checked (.waitne a b off sc acq) (fun i => i.neLane a b off sc acq) fun i rs =>
      i.memPipe false (rs.map fun p => (p.2.1, p.2.2.1))
        ((i.commit (wordLen (.waitne a b off sc acq)) .alu 1 true (i.dead (.waitne a b off sc acq))
          (rs.map fun p => (p.1, p.2.2.2.2))).probedAll i.x.team i.t (rs.map fun p => p.2.2.2)) := by
  refine .of_exec (fun _ => rfl) fun i r hr => ?_
  rw [(i.each_congr fun p _ => ?lane).trans hr]
  case lane => rfl
  cases r <;> rfl

theorem waitneLane_eq (i : Issue) (a : Src) (b : CapSel) (off : Src) (sc : Scope) (acq : Bool) (l : Nat) (t : Thread) :
    i.waitneLane a b off sc acq l t = (i.neLane a b off sc acq l t).map fun p => p.2 := by
  simp only [Issue.neLane, Issue.waitneLane, exceptMap_bind, ← effAddr_eq]
  refine bind_congr fun v => bind_congr fun o => bind_congr fun ⟨loc, keep⟩ => ?_
  dsimp only
  cases i.s.readFor i.t.die i.core.world loc 4 (16 * l) <;> rfl

theorem Issue.memPipe_busy (i : Issue) (atomic : Bool) (acc : List (Nat × Access)) (s : State) :
    i.memPipe atomic acc s = s ∨ ∃ busy, i.memPipe atomic acc s = s.upTeam i.x.team fun u => { u with memBusy := busy } := by
  unfold Issue.memPipe
  dsimp only
  split
  · exact .inl rfl
  · exact .inr ⟨_, rfl⟩

/-! ### Each word (R157, R215, R216, R286, R292) -/

theorem checked_ownRule {ins : Instr} {f : Issue → Nat → Thread → Except MErr LaneOut} (h : ownRule ins = some f) :
    ∃ a b off, ins = .waitown a b off ∧
      ∀ i : Issue, i.each (f i) = (i.each (i.ownLane a b off)).map fun rs => rs.map fun p => (p.1, p.2.2.2.2) := by
  cases ins with
  | waitown a b off => exact ⟨a, b, off, rfl, fun i => i.each_proj (fun p : Cap × Nat × Nat × LaneOut => p.2.2.2) (ownRule_waitown h i)⟩
  | _ => cases h

/-- R215: `waitown`. -/
theorem ownWord {ins : Instr} {f : Issue → Nat → Thread → Except MErr LaneOut} (h : ownRule ins = some f) {s : State} {i : Issue}
    (hi : s.issue = some i) (hl : illegalAt ins i.t.nreg i.w = false) :
    (∀ es, i.each (f i) = .error es → ∃ t, exec ins s = .next t ∧ i.FailsWith es t) ∧
    ∀ outs, i.each (f i) = .ok outs → ∃ t ev, exec ins s = .next { t with events := ev } ∧ i.Commits ins .alu 1 true outs i.t t := by
  obtain ⟨a, b, off, rfl, hf⟩ := checked_ownRule h
  have hw := checked_waitown a b off
  refine ⟨fun es he => hw.error hi hl (exceptMap_error_iff.mp ((hf i).symm.trans he)), fun outs ho => ?_⟩
  obtain ⟨rs, hr, rfl⟩ := exceptMap_ok_iff.mp ((hf i).symm.trans ho)
  obtain ⟨ev, he⟩ := State.foldl_events i.sawOwn_events rs (i.commit (wordLen (.waitown a b off)) .alu 1 true
    (i.dead (.waitown a b off)) (rs.map fun p => (p.1, p.2.2.2.2)))
  exact ⟨_, ev, (hw.ok hi hl hr).trans (congrArg _ he), Issue.commit_commits hi ..⟩

/-- R216, R286, R292: `waitgen`, `evwait`, `join`. -/
theorem parkWord {ins : Instr} {f : Issue → Nat → Thread → Except MErr (Op × LaneOut)} (h : parkRule ins = some f) {s : State}
    {i : Issue} (hi : s.issue = some i) (hl : illegalAt ins i.t.nreg i.w = false) :
    (∀ es, i.each (f i) = .error es → ∃ t, exec ins s = .next t ∧ i.FailsWith es t) ∧
    ∀ rs : List (Nat × Op × LaneOut), i.each (f i) = .ok rs →
      ∃ t, exec ins s = .next (i.waited rs t) ∧ i.Commits ins .alu 1 true (waits rs) i.t t :=
  have hw := checked_parkRule h
  ⟨fun _ he => hw.error hi hl he, fun _ hr => ⟨_, hw.ok hi hl hr, Issue.commit_commits hi ..⟩⟩

/-- R157: `waitne`. -/
theorem waitneWord (a : Src) (b : CapSel) (off : Src) (sc : Scope) (acq : Bool) {s : State} {i : Issue} (hi : s.issue = some i)
    (hl : illegalAt (.waitne a b off sc acq) i.t.nreg i.w = false) :
    (∀ es, i.each (i.waitneLane a b off sc acq) = .error es →
      ∃ t, exec (.waitne a b off sc acq) s = .next t ∧ i.FailsWith es t) ∧
    ∀ rs : List (Nat × Access × Op × LaneOut), i.each (i.waitneLane a b off sc acq) = .ok rs →
    let tests := rs.map fun p => (p.1, p.2.2)
    ∃ t, (exec (.waitne a b off sc acq) s = .next (i.waited tests t) ∨
        ∃ busy, exec (.waitne a b off sc acq) s = .next ((i.waited tests t).upTeam i.x.team fun u => { u with memBusy := busy })) ∧
      i.Commits (.waitne a b off sc acq) .alu 1 true (waits tests) i.t t := by
  have hw := checked_waitne a b off sc acq
  have hf := i.each_proj (fun p : Nat × Access × Op × LaneOut => p.2) (waitneLane_eq i a b off sc acq)
  refine ⟨fun es he => hw.error hi hl (exceptMap_error_iff.mp (hf.symm.trans he)), fun rs ho => ?_⟩
  obtain ⟨qs, hq, rfl⟩ := exceptMap_ok_iff.mp (hf.symm.trans ho)
  refine ⟨_, ?_, Issue.commit_commits hi ..⟩
  rw [hw.ok hi hl hq]
  simp only [Issue.waited, waits, List.map_map, Function.comp_def]
  exact (i.memPipe_busy ..).imp (congrArg _) fun ⟨busy, e⟩ => ⟨busy, congrArg _ e⟩

/-- Settles O12: each word is what its lanes evaluate, and then `raiseM` or `commit`. -/
theorem waitWords : Obligations.WaitWords :=
  ⟨fun _ _ h _ _ hi hl => ownWord h hi hl, fun _ _ h _ _ hi hl => parkWord h hi hl,
    fun a b off sc acq _ _ hi hl => waitneWord a b off sc acq hi hl⟩

end Sys2Proof.Machine
end

section
/-! SUPPORT. What a store leaves of the bytes and tags it meets (R148), in memory and in a share; and what an access reads after it
has been noted. -/

namespace Sys2Proof.Machine

open Sys2Proof

@[simp] theorem length_numBytes (n k : Nat) : (numBytes n k).length = k := by
  induction k generalizing n with
  | zero => rfl
  | succ k ih => simp [numBytes, ih]

/-! ### Tags of granules (R148) -/

theorem mem_foldl_delNum {gs l : List Nat} {g : Nat} : g ∈ gs.foldl delNum l ↔ g ∈ l ∧ g ∉ gs := by
  induction gs generalizing l with
  | nil => simp
  | cons x r ih => simp [ih, mem_delNum, and_assoc]

/-- The tags that a store of `n` bytes from `pa` up leaves of `tags`. -/
def storeTags (tags : List Nat) (pa n : Nat) (tag : Bool) : List Nat :=
  let kept := (granules16 pa n).foldl delNum tags
  if tag then addNum kept (pa / 16) else kept

theorem tagsAfter_storeTags (tags : List Nat) (pa n : Nat) (tag : Bool) : TagsAfter tags pa n tag (storeTags tags pa n tag) := by
  intro g
  cases tag <;> simp [storeTags, mem_addNum, mem_foldl_delNum, or_comm]

/-! ### A store to a share -/

theorem Team.writeSp_tagsAfter (u : Team) (off : Nat) (bs : List Byte) (tag : Bool) :
    TagsAfter u.spTags off bs.length tag (u.writeSp off bs tag).spTags :=
  tagsAfter_storeTags u.spTags off bs.length tag

theorem Team.writeSp_memoryAfter {u : Team} (h : Memory.wf u.sp = true) (off : Nat) (bs : List Byte) (tag : Bool) :
    MemoryAfter u.sp off bs (u.writeSp off bs tag).sp :=
  Memory.after_setBytes h off bs

/-! ### A store to memory -/

/-- What every step of a fold keeps, the fold keeps. -/
theorem State.foldl_keeps {α β : Type} {f : State → α → State} (p : State → β) (h : ∀ s a, p (f s a) = p s) (l : List α) (s : State) :
    p (l.foldl f s) = p s := by
  induction l generalizing s with
  | nil => rfl
  | cons a r ih => exact (ih (f s a)).trans (h s a)

theorem State.Noted.tags {s t : State} (h : s.Noted t) : t.tags = s.tags := by rw [h.rest]

theorem State.seize_tags (s : State) (die : Nat) (l : Loc) (n : Nat) : (s.seize die l n).tags = s.tags := by
  unfold State.seize
  split
  · refine State.foldl_keeps State.tags (fun s k => ?_) _ _
    split
    · rfl
    · exact (State.noted_paid _ _).tags
  · rfl

theorem State.touchLine_tags (s : State) (w line : Nat) (whole : Bool) : (s.touchLine w line whole).tags = s.tags := by
  unfold State.touchLine
  dsimp only
  split <;> split <;> try split
  all_goals rfl

theorem State.noteTag_tags (s : State) (w pa : Nat) : (s.noteTag w pa).tags = s.tags := by
  unfold State.noteTag
  dsimp only
  split
  · rfl
  · split <;> rfl

theorem State.writeRaw_tags (s : State) (w pa : Nat) (bs : List Byte) (tag : Bool) :
    (s.writeRaw w pa bs tag).tags = storeTags s.tags pa bs.length tag := by
  have lines := State.foldl_keeps State.tags (f := fun s l => s.touchLine w l
    (decide (pa ≤ 64 * l) && decide (64 * l + 64 ≤ pa + bs.length))) (fun s l => s.touchLine_tags w l _) (linesOf pa bs.length) s
  unfold State.writeRaw storeTags
  cases tag with
  | false => simp [lines]
  | true => simp [lines, State.noteTag_tags]

theorem State.storeAt_tags (s : State) (t : Team) (atom : Bool) (pa : Nat) (bs : List Byte) (tag : Bool) :
    (s.storeAt t atom (.mem pa) bs tag).tags = storeTags s.tags pa bs.length tag := by
  have put := State.writeRaw_tags (s.seize t.die (.mem pa) bs.length) ((s.seize t.die (.mem pa) bs.length).worldOf t) pa bs tag
  rw [State.seize_tags] at put
  unfold State.storeAt
  dsimp only
  split
  · rename_i c p _ hl
    cases hl
    refine (State.foldl_keeps State.tags (fun u k => ?_) _ _).trans put
    split <;> rfl
  · exact put

/-! ### Reading after an access has been noted -/

theorem State.noteEv_draws (s : State) (die : Nat) (early : Bool) (x : Ev) : (s.noteEv die early x).draws = s.draws := by
  obtain ⟨ev, e⟩ := s.noteEv_events die early x
  rw [e]

theorem State.charge_draws (s : State) (die ctx : Nat) (ts : List Touch) : (s.charge_ die ctx ts).draws = s.draws := by
  refine (State.foldl_keeps State.draws (fun s k => ?_) _ _).trans rfl
  cases s.coh.l2.look (lineKey k die) with
  | none => rfl
  | some x =>
    dsimp only
    split <;> rfl

theorem State.note_draws (s : State) (id : Nat) (t : Team) (o : Op) (ts : List Touch) : (s.note id t o ts).draws = s.draws :=
  (State.foldl_keeps State.draws (fun s _ => s.noteEv_draws _ _ _) _ _).trans (State.charge_draws ..)

/-- What an access reads does not depend on what has been noted. -/
theorem State.Noted.readFor {s t : State} (h : s.Noted t) (d : t.draws = s.draws) (die w : Nat) (l : Loc) (n k : Nat) :
    t.readFor die w l n k = s.readFor die w l n k := by
  cases l with
  | mem pa =>
    have lines : t.lineErr w = s.lineErr w := funext (h.lineErr w)
    simp only [State.readFor, h.viewBytes, lines]
  | spad m off => simp only [State.readFor, h.teams]
  | host fn pasid iova =>
    have pasids : t.pasids = s.pasids := by rw [h.rest]
    simp only [State.readFor, State.hostErr, pasids, d]
  | remote conn handle off => simp only [State.readFor, d]
  | reply b => rfl

end Sys2Proof.Machine
end

section
/-! SUPPORT. The words that start one operation of the span, and `arrset` (R200, R214, R285, R289, R301), by what `exec` evaluates
in their lanes. -/

namespace Sys2Proof.Machine

open Sys2Proof

/-! ### rndc and dqinfo (R200, R301) -/

theorem longLand_error {s : State} {i : Issue} (hi : s.issue = some i) {ins : Instr} (hl : illegalAt ins i.t.nreg i.w = false)
    {f : Issue → Nat → Thread → Except Word (List Upd)} {cs : List (Nat × Word)} (he : i.each (f i) = .error cs) :
    ∃ t, longLand ins s f = .next t ∧ i.Raises cs [] t :=
  ⟨_, by simp only [longLand, wordDo_ok hi hl, he], Issue.raise_raises hi cs⟩

theorem longLand_ok {s : State} {i : Issue} (hi : s.issue = some i) {ins : Instr} (hl : illegalAt ins i.t.nreg i.w = false)
    {f : Issue → Nat → Thread → Except Word (List Upd)} {rs : List (Nat × List Upd)} (he : i.each (f i) = .ok rs) :
    ∃ t, longLand ins s f = .next t ∧
      i.Commits ins .alu 0 false (quietOuts rs) (i.t.withOp (!rs.isEmpty) (i.op (rs.map (·.1)) 0 (landingOf id rs))) t := by
  have commits := Issue.commitOp_commits hi ins (quietOuts rs) (i.op (rs.map (·.1)) 0 (landingOf id rs))
  rw [quietOuts, List.isEmpty_map] at commits
  exact ⟨_, (wordDo_ok hi hl _).trans (by rw [he]; rfl), commits⟩

/-- R301: the upper half of a frame's address. -/
theorem extract_high_ofNat (w : BitVec 64) : w.extractLsb' 32 32 = BitVec.ofNat 32 (w.toNat / 2 ^ 32) :=
  congrArg (BitVec.ofNat 32) (Nat.shiftRight_eq_div_pow ..)

theorem exec_landRule {ins : Instr} {f : Issue → Nat → Thread → Except Word (List Upd)} (h : landRule ins = some f) (s : State) :
    exec ins s = longLand ins s f := by
  cases ins with
  | rndc d =>
    cases h
    refine congrArg (longLand (.rndc d) s) (funext fun i => funext fun l => funext fun t => ?_)
    exact (exceptMap_eq_bind ..).symm
  | dqinfo d item =>
    cases h
    refine congrArg (longLand (.dqinfo d item) s) (funext fun i => funext fun l => funext fun t => ?_)
    rw [exceptMap_eq_bind]
    match item with
    | 0 | 1 | 2 => rfl
    | 3 => exact congrArg (fun w => i.dst t d w >>= fun p => .ok p.1) (extract_high_ofNat t.frame)
  | _ => cases h

/-! ### arrset (R214) -/

theorem checked_arrset (a : Src) (b : CapSel) (off : Src) :
    Checked (.arrset a b off) (fun i => i.arrLane a b off) fun i rs =>
      rs.foldl (fun s p => s.arrStep i.x.team i.x.g i.t p.2)
        (i.commit (wordLen (.arrset a b off)) .alu 1 true (i.dead (.arrset a b off)) (quietOuts rs)) := by
  refine .of_exec (fun _ => rfl) fun i r hr => ?_
  rw [(i.each_congr fun p _ => ?lane).trans hr]
  case lane =>
    refine bind_congr fun x => bind_congr fun o => ?_
    rw [← effAddr_eq]
    refine bind_congr fun ⟨loc, keep⟩ => ?_
    dsimp only
    split
    · rfl
    · rw [BitVec.ofNat_toNat]
  cases r <;> rfl

/-- R214: the step of a lane of `arrset` notes its access, and stores in its share. -/
theorem State.arrStep_spad (s : State) (id g : Nat) (t : Team) {a : Access} {m off : Nat} (h : a.loc = .spad m off) :
    ∃ n, s.Noted n ∧ s.arrStep id g t a =
      n.upTeam m (·.writeSp off (numBytes (arrWord (arrGen (s.spNum (.spad m off))) a.x.toNat 0) 8) false) :=
  ⟨_, State.noted_note .., by rw [State.arrStep, h]⟩

theorem arrStep_stores (s : State) (id g m off : Nat) (t u : Team) (a : Access) (ha : a.loc = .spad m off)
    (hu : s.teams.look m = some u) (wf : Memory.wf u.sp = true) :
    let s' := s.arrStep id g t a
    s' = { s with teams := s'.teams, events := s'.events, ctxs := s'.ctxs, coh := s'.coh, draws := s'.draws } ∧
    (∀ n, n ≠ m → s'.teams.look n = s.teams.look n) ∧
    ∃ v, s'.teams.look m = some v ∧ v = { u with sp := v.sp, spTags := v.spTags } ∧
      MemoryAfter u.sp off (numBytes (arrWord (arrGen (Memory.num u.sp off 8)) a.x.toNat 0) 8) v.sp ∧
      TagsAfter u.spTags off 8 false v.spTags := by
  obtain ⟨n, noted, e⟩ := s.arrStep_spad id g t ha
  have word : s.spNum (.spad m off) = Memory.num u.sp off 8 := by rw [State.spNum, hu]
  rw [word] at e
  simp only [e, State.upTeam_teams, noted.teams]
  have tags := u.writeSp_tagsAfter off (numBytes (arrWord (arrGen (Memory.num u.sp off 8)) a.x.toNat 0) 8) false
  rw [length_numBytes] at tags
  refine ⟨?_, fun k hk => NMap.look_upd_ne _ _ hk, _, by rw [NMap.look_upd, hu]; rfl, rfl, Team.writeSp_memoryAfter wf _ _ _, tags⟩
  conv_lhs => rw [noted.rest]
  rfl

/-! ### evpub (R285) -/

/-- R285: the operation of `evpub`. -/
def Issue.evpubOp (i : Issue) (sc : Scope) (rs : List (Nat × Access)) : Op :=
  { i.op (rs.map (·.1)) 0x285 (.rmw .evpub (rs.map (·.2)) (rs.map fun p => (p.1, Dest.none)) []) with scope := sc, rel := true }

theorem checked_evpub (g : Src) (b : CapSel) (off : Src) (sc : Scope) :
    Checked (.evpub g b off sc) (fun i => i.evpubLane g b off sc) fun i rs =>
      i.commitOp (.evpub g b off sc) (quietOuts rs) (i.evpubOp sc rs) := by
  refine .of_exec (fun _ => rfl) fun i r hr => ?_
  rw [(i.each_congr fun p _ => ?lane).trans hr]
  case lane =>
    refine bind_congr fun x => bind_congr fun o => ?_
    rw [← effAddr_eq]
    refine bind_congr fun ⟨loc, keep⟩ => ?_
    refine bind_congr fun _ => ?_
    dsimp only
    split
    · rfl
    · rw [BitVec.ofNat_toNat]
  cases r <;> rfl

/-! ### spawn (R289) -/

/-- R289: what the lanes so far give: causes, frames, and the places that are left. -/
abbrev Spawned := List (Nat × MErr) × List (Nat × Frame × Option Access) × Except MErr Room

/-- R289: the next lane of a `spawn`. -/
def Issue.spawnNext (i : Issue) (b : Nat) (acc : Spawned) (p : Nat × Thread) : Spawned :=
  match i.spawnLane p.1 p.2 b, acc.2.2 with
  | .error e, _ => (acc.1 ++ [(p.1, e)], acc.2.1, acc.2.2)
  | .ok _, .error e => (acc.1 ++ [(p.1, e)], acc.2.1, acc.2.2)
  | .ok f, .ok q =>
    match i.s.pushCheck i.x.team i.t i.core.world q f.1.tagged with
    | .error e => (acc.1 ++ [(p.1, e)], acc.2.1, .error e)
    | .ok q => (acc.1, acc.2.1 ++ [(p.1, f.1, f.2)], .ok q)

theorem Issue.foldl_spawnNext (i : Issue) (b : Nat) (vs : List (Nat × Thread)) (acc : Spawned) :
    ∃ place, vs.foldl (i.spawnNext b) acc =
      (acc.1 ++ (i.frames b vs acc.2.2).1, acc.2.1 ++ (i.frames b vs acc.2.2).2, place) := by
  induction vs generalizing acc with
  | nil => exact ⟨acc.2.2, by simp [Issue.frames]⟩
  | cons p r ih =>
    obtain ⟨l, t⟩ := p
    obtain ⟨es, items, place⟩ := acc
    rw [List.foldl_cons]
    obtain ⟨last, e⟩ := ih (i.spawnNext b (es, items, place) (l, t))
    refine ⟨last, e.trans ?_⟩
    cases lane : i.spawnLane l t b with
    | error e => simp [Issue.spawnNext, Issue.frames, lane]
    | ok f =>
      cases place with
      | error e => simp [Issue.spawnNext, Issue.frames, lane]
      | ok q => cases push : i.s.pushCheck i.x.team i.t i.core.world q f.1.tagged <;> simp [Issue.spawnNext, Issue.frames, lane, push]

/-- R289: the operation of a `spawn`. -/
def Issue.spawnOp (i : Issue) (items : List (Nat × Frame × Option Access)) : Op :=
  { i.op (items.map (·.1)) 0x280 (.spawn items) with rel := true }

/-- R289: a `spawn` raises where some lane's frame fails, and otherwise its operation pushes the frames. -/
theorem exec_spawn (v : Fin 32) {s : State} {i : Issue} (hi : s.issue = some i) (hl : illegalAt (.spawn v) i.t.nreg i.w = false) :
    exec (.spawn v) s = .next (if (i.spawnFrames v).1 = [] then
      i.commitOp (.spawn v) (quietOuts (i.spawnFrames v).2) (i.spawnOp (i.spawnFrames v).2)
    else i.raiseM (i.spawnFrames v).1) := by
  obtain ⟨place, fold⟩ := i.foldl_spawnNext (4 * v.val) i.visited
    ([], [], i.s.pushChecks i.x.team i.t i.core.world i.t.spawnTags (i.s.room i.x.team i.t i.core.world))
  refine (wordDo_ok hi hl _).trans (congrArg Host.Outcome.next ?_)
  dsimp only
  rw [List.foldl_ext _ (i.spawnNext (4 * v.val)) _ fun acc p _ => ?next, fold]
  case next =>
    unfold Issue.spawnNext
    cases i.spawnLane p.1 p.2 (4 * v.val) with
    | error e => rfl
    | ok f =>
      cases acc.2.2 with
      | error e => rfl
      | ok q => cases push : i.s.pushCheck i.x.team i.t i.core.world q f.1.tagged <;> simp only [push]
  rw [List.nil_append, List.nil_append, ← Issue.spawnFrames]
  cases (i.spawnFrames v).1 <;> rfl

/-! ### Each word (R200, R214, R285, R289, R301) -/

theorem landWord {ins : Instr} {f : Issue → Nat → Thread → Except Word (List Upd)} (h : landRule ins = some f) {s : State} {i : Issue}
    (hi : s.issue = some i) (hl : illegalAt ins i.t.nreg i.w = false) :
    (∀ cs, i.each (f i) = .error cs → ∃ t, exec ins s = .next t ∧ i.Raises cs [] t) ∧
    ∀ rs : List (Nat × List Upd), i.each (f i) = .ok rs →
    ∃ t, exec ins s = .next t ∧
      i.Commits ins .alu 0 false (quietOuts rs) (i.t.withOp (!rs.isEmpty) (i.op (rs.map (·.1)) 0 (landingOf id rs))) t := by
  rw [exec_landRule h]
  exact ⟨fun _ he => longLand_error hi hl he, fun _ hr => longLand_ok hi hl hr⟩

theorem spawnWord (v : Fin 32) {s : State} {i : Issue} (hi : s.issue = some i) (hl : illegalAt (.spawn v) i.t.nreg i.w = false) :
    (∀ e es items, i.spawnFrames v = (e :: es, items) → ∃ t, exec (.spawn v) s = .next t ∧ i.FailsWith (e :: es) t) ∧
    ∀ items, i.spawnFrames v = ([], items) →
    ∃ t, exec (.spawn v) s = .next t ∧
      i.Commits (.spawn v) .alu 0 false (quietOuts items) (i.t.withOp (!items.isEmpty) (i.spawnOp items)) t := by
  rw [exec_spawn v hi hl]
  refine ⟨fun e es items h => ?_, fun items h => ?_⟩
  · rw [h]
    exact ⟨_, rfl, Issue.raiseM_failsWith hi _⟩
  · have commits := Issue.commitOp_commits hi (.spawn v) (quietOuts items) (i.spawnOp items)
    rw [quietOuts, List.isEmpty_map] at commits
    rw [h]
    exact ⟨_, rfl, commits⟩

theorem evpubWord (g : Src) (b : CapSel) (off : Src) (sc : Scope) {s : State} {i : Issue} (hi : s.issue = some i)
    (hl : illegalAt (.evpub g b off sc) i.t.nreg i.w = false) :
    (∀ es, i.each (i.evpubLane g b off sc) = .error es → ∃ t, exec (.evpub g b off sc) s = .next t ∧ i.FailsWith es t) ∧
    ∀ rs : List (Nat × Access), i.each (i.evpubLane g b off sc) = .ok rs →
    ∃ t, exec (.evpub g b off sc) s = .next t ∧
      i.Commits (.evpub g b off sc) .alu 0 false (quietOuts rs) (i.t.withOp (!rs.isEmpty) (i.evpubOp sc rs)) t := by
  have hw := checked_evpub g b off sc
  refine ⟨fun es he => hw.error hi hl he, fun rs hr => ?_⟩
  have commits := Issue.commitOp_commits hi (.evpub g b off sc) (quietOuts rs) (i.evpubOp sc rs)
  rw [quietOuts, List.isEmpty_map] at commits
  exact ⟨_, hw.ok hi hl hr, commits⟩

theorem arrsetWord (a : Src) (b : CapSel) (off : Src) {s : State} {i : Issue} (hi : s.issue = some i)
    (hl : illegalAt (.arrset a b off) i.t.nreg i.w = false) :
    (∀ es, i.each (i.arrLane a b off) = .error es → ∃ t, exec (.arrset a b off) s = .next t ∧ i.FailsWith es t) ∧
    ∀ rs : List (Nat × Access), i.each (i.arrLane a b off) = .ok rs →
      ∃ t, i.Commits (.arrset a b off) .alu 1 true (quietOuts rs) i.t t ∧
        exec (.arrset a b off) s = .next (rs.foldl (fun s p => s.arrStep i.x.team i.x.g i.t p.2) t) :=
  have hw := checked_arrset a b off
  ⟨fun _ he => hw.error hi hl he, fun _ hr => ⟨_, Issue.commit_commits hi .., hw.ok hi hl hr⟩⟩

/-- Settles O13: each word is what its lanes evaluate, and then `raiseM`, or `commit` with its operation; the steps of `arrset` are
stores in their shares. -/
theorem operationWords : Obligations.OperationWords :=
  ⟨fun _ _ h _ _ hi hl => landWord h hi hl, fun a b off _ _ hi hl => arrsetWord a b off hi hl, arrStep_stores,
    fun g b off sc _ _ hi hl => evpubWord g b off sc hi hl, fun v _ _ hi hl => spawnWord v hi hl⟩

end Sys2Proof.Machine
end

section
/-! SUPPORT. How a lane of an atomic performs (R151-R153, R285, R383, R424): in memory, in a share, and at a host page. -/

namespace Sys2Proof.Machine

open Sys2Proof

/-! ### The signal of an event word (R425) -/

/-- `t` is `s` but for MSI-X vectors and what leaves the part. -/
def State.Signals (s t : State) : Prop := t = { s with vectors := t.vectors, outbox := t.outbox }

theorem State.signals_msix (s : State) (fn vec : Nat) : s.Signals (s.msix fn vec) := by
  unfold State.msix State.Signals
  dsimp only
  split <;> rfl

theorem State.Signals.trans {a b c : State} (h : a.Signals b) (k : b.Signals c) : a.Signals c := by
  unfold State.Signals at *
  rw [k, h]

theorem State.signals_qiSignal (s : State) (l : Loc) : s.Signals (s.qiSignal l) := by
  unfold State.qiSignal
  generalize s.qifs = qs
  induction qs generalizing s with
  | nil => rfl
  | cons p r ih =>
    refine State.Signals.trans ?_ (ih _)
    dsimp only
    split
    · rfl
    · split
      · split
        · exact s.signals_msix _ _
        · rfl
      · rfl

theorem State.Signals.teams {s t : State} (h : s.Signals t) : t.teams = s.teams := by rw [h]
theorem State.Signals.mem {s t : State} (h : s.Signals t) : t.mem = s.mem := by rw [h]
theorem State.Signals.tags {s t : State} (h : s.Signals t) : t.tags = s.tags := by rw [h]

/-! ### One read-modify-write (R151, R383) -/

/-- The bytes that an atomic stores over `old`, none when a compare fails. -/
def Access.stored (a : Access) (k : Rmw) (old : BitVec 128) : List Byte :=
  match k.value old a.x a.y with
  | some v => numBytes v.toNat a.size
  | none => []

section
variable {s : State} {t : Team} {w : Nat} {a : Access} {bs : List Byte}

theorem State.modify_error {c : Word} (k : Rmw) (h : s.readFor t.die w a.loc a.size (16 * a.lane) = .error c) :
    s.modify (some t) w k a = .error c := by
  unfold State.modify
  simp only [h]

theorem State.modify_host {fn pasid iova : Nat} (k : Rmw) (ha : a.loc = .host fn pasid iova)
    (h : s.readFor t.die w a.loc a.size (16 * a.lane) = .ok bs) :
    s.modify (some t) w k a = .ok (valOf bs,
      { s with draws := s.draws + 2048, outbox := s.outbox ++ [.hostAtomic fn pasid iova a.size k a.x a.y] }) := by
  unfold State.modify
  simp only [h]
  simp only [ha, State.hostRmw]

/-- R151: a compare that fails stores nothing. -/
theorem State.modify_none {k : Rmw} (ha : ∀ fn pasid iova, a.loc ≠ .host fn pasid iova)
    (h : s.readFor t.die w a.loc a.size (16 * a.lane) = .ok bs) (hv : k.value (valOf bs) a.x a.y = none) :
    s.modify (some t) w k a = .ok (valOf bs, { s with draws := s.draws + 2048 }) := by
  unfold State.modify
  simp only [h, hv]

/-- R151, R285, R425: the value stands at the place; an event word may send the signal of an interface. -/
theorem State.modify_some {k : Rmw} {v : BitVec 128} (ha : ∀ fn pasid iova, a.loc ≠ .host fn pasid iova)
    (h : s.readFor t.die w a.loc a.size (16 * a.lane) = .ok bs) (hv : k.value (valOf bs) a.x a.y = some v) :
    ∃ s', s.modify (some t) w k a = .ok (valOf bs, s') ∧
      let u := ({ s with draws := s.draws + 2048 } : State).storeAt t true a.loc (numBytes v.toNat a.size) false
      u.Signals s' ∧ (k ≠ .evpub → s' = u) := by
  refine ⟨_, by unfold State.modify; simp only [h, hv]; rfl, ?_⟩
  split
  · rename_i signals
    exact ⟨State.signals_qiSignal _ _, fun hk => absurd signals.1 hk⟩
  · exact ⟨rfl, fun _ => rfl⟩


/-- R320, R383: an atomic on memory: its bytes stand. -/
theorem State.modify_mem {pa : Nat} (k : Rmw) (ha : a.loc = .mem pa) (h : s.readFor t.die w a.loc a.size (16 * a.lane) = .ok bs) :
    ∃ s', s.modify (some t) w k a = .ok (valOf bs, s') ∧ s'.teams = s.teams ∧
      s'.mem = Memory.setBytes s.mem pa (a.stored k (valOf bs)) ∧
      TagsAfter s.tags pa (a.stored k (valOf bs)).length false s'.tags ∧ (k ≠ .evpub → s.besideStore s') := by
  have away : ∀ fn pasid iova, a.loc ≠ .host fn pasid iova := by simp [ha]
  unfold Access.stored
  cases hv : k.value (valOf bs) a.x a.y with
  | none => exact ⟨_, State.modify_none away h hv, rfl, rfl, tagsAfter_storeTags s.tags pa 0 false, fun _ => rfl⟩
  | some v =>
    obtain ⟨s', e, signals, quiet⟩ := State.modify_some away h hv
    rw [ha] at signals quiet
    have stores := (s.noted_draws (s.draws + 2048)).aside.stores
      (State.stores_storeAt _ t true pa (numBytes v.toNat a.size) false)
    refine ⟨s', e, signals.teams.trans stores.teams, signals.mem.trans stores.mem, ?_, fun hk => quiet hk ▸ stores.beside⟩
    rw [signals.tags, State.storeAt_tags]
    exact tagsAfter_storeTags s.tags pa _ false

/-- R383: an atomic on a share: its bytes stand there. -/
theorem State.modify_spad {m off : Nat} {u : Team} (k : Rmw) (ha : a.loc = .spad m off) (hu : s.teams.look m = some u)
    (h : s.readFor t.die w a.loc a.size (16 * a.lane) = .ok bs) :
    ∃ s', s.modify (some t) w k a = .ok (valOf bs, s') ∧ s'.mem = s.mem ∧
      s'.teams.look m = some (u.writeSp off (a.stored k (valOf bs)) false) ∧ ∀ n, n ≠ m → s'.teams.look n = s.teams.look n := by
  have away : ∀ fn pasid iova, a.loc ≠ .host fn pasid iova := by simp [ha]
  unfold Access.stored
  cases hv : k.value (valOf bs) a.x a.y with
  | none => exact ⟨_, State.modify_none away h hv, rfl, hu, fun _ _ => rfl⟩
  | some v =>
    obtain ⟨s', e, signals, -⟩ := State.modify_some away h hv
    rw [ha] at signals
    have put : ({ s with draws := s.draws + 2048 } : State).storeAt t true (.spad m off) (numBytes v.toNat a.size) false =
        ({ s with draws := s.draws + 2048 } : State).upTeam m (·.writeSp off (numBytes v.toNat a.size) false) := by
      unfold State.storeAt
      cases t.core <;> rfl
    rw [put] at signals
    refine ⟨s', e, signals.mem, ?_, fun n hn => ?_⟩
    · rw [signals.teams, State.upTeam_teams, NMap.look_upd]
      exact congrArg (Option.map _) hu
    · rw [signals.teams, State.upTeam_teams]
      exact NMap.look_upd_ne _ _ hn

end

/-! ### The next lane of an atomic (R153) -/

/-- R153: the team after a lane of an atomic has read `old`. -/
def Team.rmwNext (t : Team) (o : Op) (k : Rmw) (a : Access) (r : List Access) (dst : List (Nat × Dest))
    (got : List (Nat × BitVec 128)) (old : BitVec 128) : Team :=
  let all := got ++ [(a.lane, old)]
  let us := all.flatMap fun p => ((destAt dst p.1).upds a.size p.2 false false).map fun u => (p.1, u)
  t.nextLane o (if r.isEmpty then .land us else .rmw k r dst all) (r.isEmpty && us.isEmpty)

/-- The next lane of an atomic leaves the share as it is. -/
theorem Team.nextLane_sp (u : Team) (o : Op) (k : OpKind) (last : Bool) (sp : Memory) (tags : List Nat) :
    ({ u with sp := sp, spTags := tags } : Team).nextLane o k last = { u.nextLane o k last with sp := sp, spTags := tags } := by
  unfold Team.nextLane
  cases last with
  | false => rfl
  | true => simp only [Team.endOp_eq]; rfl

section
variable {s : State} {id : Nat} {t : Team} {o : Op} {k : Rmw} {a : Access} {r : List Access} {dst : List (Nat × Dest)}
  {got : List (Nat × BitVec 128)}

/-- What a step reads at its access, before and after that is noted. -/
theorem State.note_readFor (s : State) (id : Nat) (t : Team) (o : Op) (ts : List Touch) (die w : Nat) (l : Loc) (n j : Nat) :
    (s.note id t o ts).readFor die w l n j = s.readFor die w l n j :=
  (s.noted_note id t o ts).readFor (s.note_draws id t o ts) die w l n j

theorem rmw_performs (hf : s.Flying id t o) (hk : o.kind = .rmw k (a :: r) dst got) (hm : s.may id t o [a.touch true] = true)
    {old : BitVec 128} {s' : State} {P : State → Prop}
    (he : (s.note id t o [a.touch true]).modify (some t) (s.worldOf t) k a = .ok (old, s'))
    (hP : P (s'.upTeam id (·.rmwNext o k a r dst got old))) : Happens .storePerform s P := by
  refine happens_enabled (s := s) rfl ?_ hP
  simp only [hf.team, hf.op, hk, State.performRmw, hm, he]
  rfl

theorem rmw_fails (hf : s.Flying id t o) (hk : o.kind = .rmw k (a :: r) dst got) (hm : s.may id t o [a.touch true] = true)
    {e : Word} (he : s.readFor t.die (s.worldOf t) a.loc a.size (16 * a.lane) = .error e) :
    Happens .storePerform s (s.FailsLate id t o a.lane e) := by
  refine happens_enabled (s := s) rfl (t := ({ s with draws := s.draws + 2048 } : State).failOp id o a.lane e) ?_
    (State.failsLate_failOp ((OnlyTeam.refl (State.evTeam_look hf.team)).withDraws _) o a.lane e)
  rw [← s.note_readFor id t o [a.touch true]] at he
  simp only [hf.team, hf.op, hk, State.performRmw, hm, State.modify_error k he]
  rfl

theorem rmw_mem (hf : s.Flying id t o) (hk : o.kind = .rmw k (a :: r) dst got) (hm : s.may id t o [a.touch true] = true) {pa : Nat}
    (ha : a.loc = .mem pa) (wf : Memory.wf s.mem = true) (hl : (linesOf pa a.size).filterMap (s.lineErr (s.worldOf t)) = []) :
    let old := valOf (s.viewBytes t.die pa a.size)
    Happens .storePerform s fun s' =>
      s'.teams.look id = some (t.rmwNext o k a r dst got old) ∧ (∀ n, n ≠ id → s'.teams.look n = s.teams.look n) ∧
      MemoryAfter s.mem pa (a.stored k old) s'.mem ∧ TagsAfter s.tags pa (a.stored k old).length false s'.tags ∧
      (k ≠ .evpub → s.besideStore s') := by
  have noted := s.noted_note id t o [a.touch true]
  obtain ⟨s', he, teams, mem, tags, beside⟩ := State.modify_mem k ha (bs := s.viewBytes t.die pa a.size)
    ((s.note_readFor id t o [a.touch true] _ _ _ _ _).trans (by rw [ha]; exact State.readFor_mem hl))
  rw [noted.teams] at teams
  rw [noted.mem] at mem
  rw [noted.tags] at tags
  refine rmw_performs hf hk hm he ⟨?_, fun n hn => ?_, ?_, tags, fun hk => noted.aside.beside.trans ((beside hk).trans rfl)⟩
  · rw [State.upTeam_teams, NMap.look_upd, teams, State.evTeam_look hf.team]
    rfl
  · rw [State.upTeam_teams, NMap.look_upd_ne _ _ hn, teams]
  · rw [State.upTeam_mem, mem]
    exact Memory.after_setBytes wf _ _

theorem rmw_spad (hf : s.Flying id t o) (hk : o.kind = .rmw k (a :: r) dst got) (hm : s.may id t o [a.touch true] = true)
    {m off : Nat} {u : Team} (ha : a.loc = .spad m off) (hu : s.teams.look m = some u) (wf : Memory.wf u.sp = true) :
    let old := valOf (Memory.bytes u.sp off a.size)
    Happens .storePerform s fun s' => s'.mem = s.mem ∧
      (∀ n, n ≠ id → n ≠ m → s'.teams.look n = s.teams.look n) ∧
      ∃ v, s'.teams.look m = some v ∧ MemoryAfter u.sp off (a.stored k old) v.sp ∧
        TagsAfter u.spTags off (a.stored k old).length false v.spTags ∧
        (m = id → v = { t.rmwNext o k a r dst got old with sp := v.sp, spTags := v.spTags }) ∧
        (m ≠ id → s'.teams.look id = some (t.rmwNext o k a r dst got old) ∧ v = { u with sp := v.sp, spTags := v.spTags }) := by
  intro old
  have noted := s.noted_note id t o [a.touch true]
  have ht := State.evTeam_look hf.team
  obtain ⟨s', he, mem, share, others⟩ := State.modify_spad (w := s.worldOf t) k ha (by rw [noted.teams]; exact hu)
    (bs := Memory.bytes u.sp off a.size)
    ((s.note_readFor id t o [a.touch true] _ _ _ _ _).trans (by rw [ha, State.readFor, hu]))
  rw [noted.teams] at others
  have stored := Team.writeSp_memoryAfter wf off (a.stored k old) false
  have tags := u.writeSp_tagsAfter off (a.stored k old) false
  refine rmw_performs hf hk hm he ⟨mem.trans noted.mem, fun n hid hn => ?_, ?_⟩
  · rw [State.upTeam_teams, NMap.look_upd_ne _ _ hid, others n hn]
  · rw [State.upTeam_teams]
    by_cases same : m = id
    · subst same
      obtain rfl : u = t := Option.some.inj (hu.symm.trans ht)
      refine ⟨(u.writeSp off (a.stored k old) false).rmwNext o k a r dst got old, by rw [NMap.look_upd, share]; rfl, ?_⟩
      have next : (u.writeSp off (a.stored k old) false).rmwNext o k a r dst got old =
          { u.rmwNext o k a r dst got old with
            sp := (u.writeSp off (a.stored k old) false).sp, spTags := (u.writeSp off (a.stored k old) false).spTags } :=
        Team.nextLane_sp ..
      rw [next]
      exact ⟨stored, tags, fun _ => rfl, fun h => absurd rfl h⟩
    · refine ⟨_, by rw [NMap.look_upd_ne _ _ same, share], stored, tags, fun h => absurd h same, fun _ => ⟨?_, rfl⟩⟩
      rw [NMap.look_upd, others id (Ne.symm same), ht]
      rfl

theorem rmw_host (hf : s.Flying id t o) (hk : o.kind = .rmw k (a :: r) dst got) (hm : s.may id t o [a.touch true] = true)
    {fn pasid iova : Nat} {bs : List Byte} (ha : a.loc = .host fn pasid iova)
    (hr : s.readFor t.die (s.worldOf t) a.loc a.size (16 * a.lane) = .ok bs) :
    Happens .storePerform s fun s' => s'.mem = s.mem ∧ s'.outbox = s.outbox ++ [.hostAtomic fn pasid iova a.size k a.x a.y] ∧
      (∃ old, s'.teams.look id = some (t.rmwNext o k a r dst got old)) ∧ ∀ n, n ≠ id → s'.teams.look n = s.teams.look n := by
  have noted := s.noted_note id t o [a.touch true]
  have he := State.modify_host k ha ((s.note_readFor id t o [a.touch true] _ _ _ _ _).trans hr)
  refine rmw_performs hf hk hm he ⟨noted.mem, ?_, ⟨valOf bs, ?_⟩, fun n hn => ?_⟩
  · rw [State.upTeam_outbox, noted.outbox]
  · rw [State.upTeam_teams, NMap.look_upd, noted.teams, State.evTeam_look hf.team]
    rfl
  · rw [State.upTeam_teams, NMap.look_upd_ne _ _ hn, noted.teams]

end

end Sys2Proof.Machine
end

section
/-! SUPPORT. What an atomic stores over the old value (R151, R285), by its kind. -/

namespace Sys2Proof.Machine

open Sys2Proof

/-! ### Compares, exchanges and sums (R151) -/

theorem Rmw.value_add_toNat (m x y : BitVec 128) : Rmw.add.value m x y = some (BitVec.ofNat 128 ((m.toNat + x.toNat) % 2 ^ 32)) := by
  refine congrArg some (BitVec.eq_of_toNat_eq ?_)
  simp [BitVec.toNat_setWidth, BitVec.extractLsb'_toNat]

theorem Rmw.value_add64 (m x y : BitVec 128) : Rmw.add64.value m x y = some (BitVec.ofNat 128 ((m.toNat + x.toNat) % 2 ^ 64)) := by
  refine congrArg some (BitVec.eq_of_toNat_eq ?_)
  simp [BitVec.toNat_setWidth, BitVec.extractLsb'_toNat]

/-! ### Words (R151) -/

theorem extract_word (m : Word) : (BitVec.ofNat 128 m.toNat).extractLsb' 0 32 = m := by
  rw [extract_low_ofNat, BitVec.ofNat_toNat, BitVec.setWidth_eq]

theorem word_min (m x : Word) : (if m.toInt ≤ x.toInt then m else x) = BitVec.ofInt 32 (min m.toInt x.toInt) := by
  rw [min_def]
  split <;> simp

theorem word_max (m x : Word) : (if m.toInt ≤ x.toInt then x else m) = BitVec.ofInt 32 (max m.toInt x.toInt) := by
  rw [max_def]
  split <;> simp

theorem word_minN (m x : Word) : (if m.toNat ≤ x.toNat then m else x) = BitVec.ofNat 32 (min m.toNat x.toNat) := by
  rw [min_def]
  split <;> simp

theorem word_maxN (m x : Word) : (if m.toNat ≤ x.toNat then x else m) = BitVec.ofNat 32 (max m.toNat x.toNat) := by
  rw [max_def]
  split <;> simp

theorem word_and (m x : Word) : (bitsOf fun k => m.getLsbD k && x.getLsbD k) = m &&& x :=
  BitVec.eq_of_getLsbD_eq fun k hk => by rw [getLsbD_bitsOf, BitVec.getLsbD_and, decide_eq_true hk, Bool.true_and]

theorem word_or (m x : Word) : (bitsOf fun k => m.getLsbD k || x.getLsbD k) = m ||| x :=
  BitVec.eq_of_getLsbD_eq fun k hk => by rw [getLsbD_bitsOf, BitVec.getLsbD_or, decide_eq_true hk, Bool.true_and]

theorem word_xor (m x : Word) : (bitsOf fun k => m.getLsbD k != x.getLsbD k) = m ^^^ x :=
  BitVec.eq_of_getLsbD_eq fun k hk => by rw [getLsbD_bitsOf, BitVec.getLsbD_xor, decide_eq_true hk, Bool.true_and]

theorem Rmw.value_words (m x : Word) (y : BitVec 128) :
    let a := BitVec.ofNat 128 m.toNat
    let b := BitVec.ofNat 128 x.toNat
    let gives := fun (k : Rmw) (w : Word) => k.value a b y = some (BitVec.ofNat 128 w.toNat)
    gives .minI (BitVec.ofInt 32 (min m.toInt x.toInt)) ∧ gives .maxI (BitVec.ofInt 32 (max m.toInt x.toInt)) ∧
    gives .minN (BitVec.ofNat 32 (min m.toNat x.toNat)) ∧ gives .maxN (BitVec.ofNat 32 (max m.toNat x.toNat)) ∧
    gives .and (bitsOf fun k => m.getLsbD k && x.getLsbD k) ∧ gives .or (bitsOf fun k => m.getLsbD k || x.getLsbD k) ∧
    gives .xor (bitsOf fun k => m.getLsbD k != x.getLsbD k) ∧
    gives .fadd (BitVec.ofNat 32 (fp32.add .rne 0 m.toNat x.toNat).1) := by
  intro a b gives
  simp only [gives, a, b, Rmw.value, extract_word, word_min, word_max, word_minN, word_maxN, word_and, word_or, word_xor]
  simp only [BitVec.ofNat_toNat, BitVec.setWidth_and, BitVec.setWidth_or, BitVec.setWidth_xor, true_and]
  rfl

/-! ### Event words (R285) -/

theorem arrWord_fields (gen target count : Nat) :
    arrGen (arrWord gen target count) = gen % 2 ^ 24 ∧ arrTarget (arrWord gen target count) = target % 2 ^ 20 ∧
      arrCount (arrWord gen target count) = count % 2 ^ 20 ∧ arrWord gen target count < 2 ^ 64 := by
  unfold arrGen arrTarget arrCount arrWord
  omega

/-- R285: the units of a word that is published fit in its count, or pass its target. -/
theorem eventAfter_fields (w n : Nat) :
    let count := arrCount w + n
    let target := max (arrTarget w) 1
    eventAfter w n < 2 ^ 64 ∧ arrTarget (eventAfter w n) = arrTarget w ∧ arrCount (eventAfter w n) = count % target ∧
      arrGen (eventAfter w n) = (arrGen w + count / target) % 2 ^ 24 := by
  intro count target
  obtain ⟨gen, tgt, cnt, fits⟩ := arrWord_fields (arrGen w + count / target) (arrTarget w) (count % target)
  have small : arrTarget w < 2 ^ 20 := Nat.mod_lt _ (by norm_num)
  have rest : count % target < 2 ^ 20 := (Nat.mod_lt _ (by omega)).trans_le (by omega)
  exact ⟨fits, tgt.trans (Nat.mod_eq_of_lt small), cnt.trans (Nat.mod_eq_of_lt rest), gen⟩

theorem Rmw.value_evpub (m x y : BitVec 128) : ∃ v, Rmw.evpub.value m x y = some v ∧ v.toNat < 2 ^ 64 ∧
    let count := arrCount m.toNat + x.toNat
    let target := max (arrTarget m.toNat) 1
    arrTarget v.toNat = arrTarget m.toNat ∧ arrCount v.toNat = count % target ∧
      arrGen v.toNat = (arrGen m.toNat + count / target) % 2 ^ 24 := by
  obtain ⟨fits, fields⟩ := eventAfter_fields m.toNat x.toNat
  have same : (BitVec.ofNat 128 (eventAfter m.toNat x.toNat)).toNat = eventAfter m.toNat x.toNat := by
    rw [BitVec.toNat_ofNat, Nat.mod_eq_of_lt (fits.trans (by norm_num))]
  refine ⟨_, rfl, ?_⟩
  rw [same]
  exact ⟨fits, fields⟩

/-! ### Atomics (R151-R153, R285) -/

/-- Settles O22: a lane reads, stores what `Rmw.value` gives of the old value, and leaves the next lane to go; the values are those
of the tables. -/
theorem atomicPerforms : Obligations.AtomicPerforms := by
  refine ⟨fun s id t o k a r dst got hf hk hm => ?_,
    fun m x y => ⟨rfl, rfl, rfl, rfl, Rmw.value_add_toNat m x y, Rmw.value_add64 m x y⟩, Rmw.value_words,
    fun m x y _ _ => Rmw.value_evpub m x y⟩
  intro next stored
  have bytes : stored = a.stored k := funext fun old => by
    cases value : k.value old a.x a.y <;> simp only [stored, Access.stored, value]
  rw [bytes]
  exact ⟨fun _ ha wf hl => rmw_mem hf hk hm ha wf hl, fun _ _ _ ha hu wf => rmw_spad hf hk hm ha hu wf,
    fun _ _ _ _ ha hr => rmw_host hf hk hm ha hr, fun _ he => rmw_fails hf hk hm he⟩

end Sys2Proof.Machine
end

section
/-! SUPPORT. A copy command whose range runs past byte 2^22 of a share: a space-2 address names a team by its bits 22 and up (R123), so
a byte past that point is no byte of the share that the range was checked in. -/

namespace Sys2Proof.Machine

open Sys2Proof

/-- 2 KiB of the first share of the cluster, half of it below byte 2^22 and half above. -/
def acrossCap : Cap := Cap.build 0x3FFF 2 0 0 0 0xC00 2048 0x3FFC00 true

/-- A team whose share is 65 times 64 KiB, which no carve gives (R205). -/
def wideTeam : Team :=
  { fetchTeam 0 with spad := 65, groups := (fetchTeam 0).groups.map fun g => { g with k := g.k.set 0 acrossCap } }

/-- That team alone in the part, its one thread at an untied `cpfill` of 2 KiB. -/
def fillAcross : State :=
  { State.reset with
    cores := [(0, { Core.fresh with team := some 0 })], teams := [(0, wideTeam)], ctxs := [(0, fetchCtx)],
    sel := some ⟨⟨0, 0⟩, 0, 0, 0, 0x1000, [0], 0, Ctl.none, 0x40000000800, []⟩ }

/-- Its word in issue. -/
def acrossIssue : Issue := fillAcross.issue.get (by decide)
def acrossWord : Instr := .cpfill (.k 0) .zero .lit .team
def acrossRule : CopyRule := (copyRule acrossWord).get (by decide)

theorem acrossRule_asks (l : Nat) (th : Thread) :
    acrossRule.asks acrossIssue l th = ⟨acrossCap, none, .ok 0, 0x40000000800⟩ := rfl

/-- R210 passes: the range lies in the share as a whole. -/
theorem fillAcross_passes :
    (acrossIssue.copyAll (acrossIssue.visited.map fun p => (p.1, acrossRule.asks acrossIssue p.1 p.2)) acrossRule.scope
      acrossRule.tagMode acrossRule.dstSpaces acrossRule.srcSpaces acrossRule.kind).1 = [] := by decide

/-- R123: byte 2^22 of the cluster's shares is the first of a share that is not there. -/
theorem fillAcross_leaves : acrossIssue.s.spadAt acrossIssue.x.team acrossIssue.t acrossCap.space (2 ^ 22) 1 = none := by decide

/-- Refutes O15: its statement bounds no share, and where a share reaches past byte 2^22 a copy word passes the checks of R210 with a
range whose bytes from there on lie in no granule of its command. -/
theorem not_copyWords : ¬ Obligations.CopyWords := by
  unfold Obligations.CopyWords
  rintro ⟨copies, -⟩
  obtain ⟨-, ok⟩ := copies acrossWord acrossRule rfl fillAcross acrossIssue (by simp [acrossIssue]) (by decide)
  obtain ⟨lanes, commands, -⟩ := ok _ (Prod.ext fillAcross_passes rfl)
  obtain ⟨p, hp, lane⟩ := List.exists_of_mem_map (lanes.symm ▸ (by decide : 0 ∈ acrossIssue.visited.map Prod.fst))
  obtain ⟨th, visited⟩ : ∃ th, (p.1, th) ∈ acrossIssue.visited := lane ▸ ⟨_, List.mem_cons_self⟩
  have command := commands p hp th visited
  rw [acrossRule_asks] at command
  obtain ⟨m, off, reached, -⟩ := command.holds.1 (by decide) (2 ^ 22) (by decide) (by rw [command.len]; decide)
  exact absurd (fillAcross_leaves.symm.trans reached) nofun

end Sys2Proof.Machine
end

section
/-! SUPPORT. Granules of the engines and arrival words (R177-R180): what returning granules, taking them, an engine's cause and a
landing of bytes leave of a team. -/

namespace Sys2Proof.Machine

open Sys2Proof

/-! ### Granules (R177, R178) -/

/-- The granules of `gs` that stand in a share return to threads. -/
def Team.without (t : Team) (n : Nat) (gs : List (Nat × Nat)) : Team :=
  { t with owner := t.owner.filter fun k => !gs.contains (n, k), named := t.named.filter fun k => !gs.contains (n, k) }

theorem Team.mem_owner_without {t : Team} {n k : Nat} {gs : List (Nat × Nat)} (h : (n, k) ∈ gs) : k ∉ (t.without n gs).owner := by
  simp [Team.without, h]

theorem Team.without_nil (t : Team) (n : Nat) : t.without n [] = t := by
  simp [Team.without]

theorem Team.without_cons (t : Team) (n : Nat) (g : Nat × Nat) (gs : List (Nat × Nat)) :
    (if n = g.1 then { t with owner := delNum t.owner g.2, named := delNum t.named g.2 } else t).without n gs = t.without n (g :: gs) := by
  obtain ⟨m, k⟩ := g
  by_cases h : n = m
  · subst h
    simp [Team.without, delNum, List.filter_filter, bne, Bool.and_comm, Bool.beq_eq_decide_eq]
  · simp [Team.without, h]

theorem State.disown_look (gs : List (Nat × Nat)) (s : State) (n : Nat) :
    (s.disown gs).teams.look n = (s.teams.look n).map fun t => t.without n gs := by
  unfold State.disown
  induction gs generalizing s with
  | nil => simp [Team.without_nil]
  | cons g r ih =>
    rw [List.foldl_cons, ih, State.upTeam_teams, NMap.look_upd_if, Option.map_map]
    congr 1
    funext t
    exact t.without_cons n g r

/-- A change of teams alone. -/
theorem State.upTeams_rest {α : Type} {f : State → α → State} (hf : ∀ (s : State) (a : α), f s a = { s with teams := (f s a).teams })
    (l : List α) (s : State) : l.foldl f s = { s with teams := (l.foldl f s).teams } := by
  induction l generalizing s with
  | nil => rfl
  | cons a r ih => rw [List.foldl_cons, ih, hf]

theorem State.disown_rest (s : State) (gs : List (Nat × Nat)) : s.disown gs = { s with teams := (s.disown gs).teams } :=
  State.upTeams_rest (fun _ _ => rfl) gs s

/-! ### A cause that an engine finds (R251) -/

/-- The team after such a cause. -/
def Team.takesAsync (g : Nat) (cause : Word) (r : Option EngineRecord) (t : Team) : Team :=
  let t := t.asyncCause g cause r
  if anyBit cause (cPage ||| cProt) then { t with pageAsync := true } else t

theorem State.async_eq (s : State) (id g : Nat) (cause : Word) (r : Option EngineRecord) :
    s.async id g cause r = s.upTeam id (Team.takesAsync g cause r) := rfl

/-- R250, R251: the cause stands in its group, and of the team only what a halt changes has changed. -/
theorem Team.takesAsync_spec (g : Nat) (cause : Word) (r : Option EngineRecord) (t : Team) :
    let u := Team.takesAsync g cause r t
    u = { t with st := u.st, hold := u.hold, slot := u.slot, groups := u.groups, faultStop := true, pageAsync := u.pageAsync } ∧
      ∀ gr, t.groups[g]? = some gr → ∃ h, u.groups[g]? = some h ∧ h.cause = gr.cause ||| cause := by
  obtain ⟨kept, -, -, groups⟩ := t.broadcast_spec none [g]
  have asyncs : t.asyncCause g cause r = { t with
      st := (t.asyncCause g cause r).st, hold := (t.asyncCause g cause r).hold, slot := (t.asyncCause g cause r).slot,
      groups := (t.asyncCause g cause r).groups, faultStop := true } := by
    unfold Team.asyncCause Team.upGroup
    dsimp only
    rw [kept]
  have causes : ∀ gr, t.groups[g]? = some gr → ∃ h, (t.asyncCause g cause r).groups[g]? = some h ∧ h.cause = gr.cause ||| cause := by
    intro gr hg
    obtain ⟨h, hh, marked⟩ := groups g gr hg
    exact ⟨_, Team.upGroup_groups_self hh _, by rw [marked]⟩
  dsimp only [Team.takesAsync]
  split
  · exact ⟨by rw [asyncs], causes⟩
  · exact ⟨by rw [asyncs], causes⟩

/-! ### Arrival words (R180) -/

theorem wordOfBytes_lt (bs : List Byte) : wordOfBytes bs < 2 ^ (8 * bs.length) := by
  induction bs with
  | nil => decide
  | cons b r ih =>
    have small := b.isLt
    rw [wordOfBytes, List.length_cons, Nat.mul_succ, pow_add]
    omega

theorem Memory.num_lt (m : Memory) (a n : Nat) : Memory.num m a n < 2 ^ (8 * n) := by
  have := wordOfBytes_lt (Memory.bytes m a n)
  rwa [Memory.bytes_length] at this

/-- A count that stays below the target is an addition to the word. -/
theorem arrWord_counted {w n : Nat} (hw : w < 2 ^ 64) (h : arrCount w + n < arrTarget w) :
    arrWord (arrGen w) (arrTarget w) (arrCount w + n) = w + n := by
  unfold arrWord arrGen arrTarget arrCount at *
  omega

theorem arrWord_gen_mod (gen target count : Nat) : arrWord (gen % 2 ^ 24) target count = arrWord gen target count := by
  unfold arrWord
  rw [Nat.mod_mod]

/-- The granules tied to the arrival word at an offset of a share. -/
def Team.tied (t : Team) (off : Nat) : List (Nat × Nat) := (t.ties.filter (·.word == off)).map fun x => (x.team, x.granule)

/-- The team in whose share an arrival word lies, as its generation advances and its bytes become `bs`. -/
def Team.newGeneration (off : Nat) (bs : List Byte) (t : Team) : Team :=
  { t.writeSp off bs false with ties := t.ties.filter (·.word != off) }

/-- R180: the bytes of an arrival word whose generation has advanced. -/
def advancedBytes (w : Nat) : List Byte := numBytes (arrWord (arrGen w + 1) (arrTarget w) 0) 8

/-- R180: what becomes of team `k` as the generation of the word at `off` of the share of team `m`, which is `u`, advances. -/
def Team.afterGeneration (u : Team) (m off k : Nat) (t : Team) : Team :=
  let t := t.without k (u.tied off)
  if k = m then t.newGeneration off (advancedBytes (Memory.num u.sp off 8)) else t

/-- The generation of an arrival word advances. -/
def State.newGeneration (s : State) (m off : Nat) (u : Team) : State :=
  (s.disown (u.tied off)).upTeam m (Team.newGeneration off (advancedBytes (Memory.num u.sp off 8)))

theorem State.newGeneration_look (s : State) (m off : Nat) (u : Team) (k : Nat) :
    (s.newGeneration m off u).teams.look k = (s.teams.look k).map (u.afterGeneration m off k) := by
  rw [State.newGeneration, State.upTeam_teams, NMap.look_upd_if, State.disown_look, Option.map_map]
  exact congrArg (Option.map · _) (funext fun t => by rw [Team.afterGeneration]; rfl)

/-- A new generation leaves groups, the flight and the owners of granules. -/
theorem Team.newGeneration_spec (off : Nat) (bs : List Byte) (t : Team) :
    (t.newGeneration off bs).groups = t.groups ∧ (t.newGeneration off bs).ops = t.ops ∧
      (t.newGeneration off bs).owner = t.owner := ⟨rfl, rfl, rfl⟩

/-- Groups and flight stand as they stood, and a granule that was tied to the word has returned. -/
theorem Team.afterGeneration_spec (u : Team) (m off k : Nat) (t : Team) :
    (u.afterGeneration m off k t).groups = t.groups ∧ (u.afterGeneration m off k t).ops = t.ops ∧
      (u.afterGeneration m off k t).owner = (t.without k (u.tied off)).owner := by
  unfold Team.afterGeneration
  split
  · exact Team.newGeneration_spec _ _ _
  · exact ⟨rfl, rfl, rfl⟩

/-- R180: the word's new bytes stand in its share, and nothing is tied to it. -/
theorem Team.afterGeneration_self {u : Team} (wf : Memory.wf u.sp = true) (m off : Nat) :
    MemoryAfter u.sp off (advancedBytes (Memory.num u.sp off 8)) (u.afterGeneration m off m u).sp ∧
      (u.afterGeneration m off m u).ties = u.ties.filter (·.word != off) := by
  have ties : ∀ (bs : List Byte) (t : Team), (t.newGeneration off bs).ties = t.ties.filter (·.word != off) := fun _ _ => rfl
  unfold Team.afterGeneration
  rw [if_pos rfl]
  exact ⟨Team.writeSp_memoryAfter (u := u.without m (u.tied off)) wf _ _ false, ties _ _⟩

/-- R180: that team, with ENGINE in the group of the command where the bytes pass the target and the command is this team's. -/
def Team.reached (u : Team) (m off k : Nat) (o : Op) (lane : Nat) (past : Bool) (t : Team) : Team :=
  let t := u.afterGeneration m off k t
  if past then Team.takesAsync o.g cEngine (some (o.record lane)) t else t

theorem Team.reached_spec (u : Team) (m off k : Nat) (o : Op) (lane : Nat) (past : Bool) (t : Team) :
    let v := u.reached m off k o lane past t
    (v.sp, v.ties, v.ops) = ((u.afterGeneration m off k t).sp, (u.afterGeneration m off k t).ties, t.ops) ∧
      v.owner = (t.without k (u.tied off)).owner ∧ (past = false → v.groups = t.groups) ∧
      (past = true → ∀ g, t.groups[o.g]? = some g → ∃ h, v.groups[o.g]? = some h ∧ h.cause = g.cause ||| cEngine) := by
  obtain ⟨groups, ops, owner⟩ := u.afterGeneration_spec m off k t
  cases past with
  | false => exact ⟨by rw [← ops]; rfl, owner, fun _ => groups, nofun⟩
  | true =>
    obtain ⟨kept, causes⟩ := Team.takesAsync_spec o.g cEngine (some (o.record lane)) (u.afterGeneration m off k t)
    rw [groups] at causes
    dsimp only [Team.reached]
    rw [if_pos rfl]
    refine ⟨?_, ?_, nofun, fun _ => causes⟩
    · rw [kept, ← ops]
    · rw [kept, ← owner]

section
variable {s : State} {m off n : Nat} {u : Team} (hu : s.teams.look m = some u) (id : Nat) (o : Op) (lane : Nat)
include hu

/-- R180: bytes that leave the count below the target are added to the word. -/
theorem State.arrive_below (h : arrCount (Memory.num u.sp off 8) + n < arrTarget (Memory.num u.sp off 8)) :
    ∃ s1, s.Noted s1 ∧ s.arrive id o lane m off n =
      s1.upTeam m (·.writeSp off (numBytes (Memory.num u.sp off 8 + n) 8) false) := by
  have word : s.spNum (.spad m off) = Memory.num u.sp off 8 := by rw [State.spNum, hu]
  unfold State.arrive
  simp only [word, if_pos h, arrWord_counted (Memory.num_lt u.sp off 8) h]
  split
  · exact ⟨_, State.noted_noteEv _ _ _ _, rfl⟩
  · exact ⟨s, .refl s, rfl⟩

/-- R180: bytes that reach the target let the generation advance; bytes past it raise ENGINE. -/
theorem State.arrive_reached (h : arrTarget (Memory.num u.sp off 8) ≤ arrCount (Memory.num u.sp off 8) + n) :
    ∃ s1, s.Noted s1 ∧ s.arrive id o lane m off n =
      if arrTarget (Memory.num u.sp off 8) < arrCount (Memory.num u.sp off 8) + n
      then (s1.newGeneration m off u).async id o.g cEngine (some (o.record lane)) else s1.newGeneration m off u := by
  have word : s.spNum (.spad m off) = Memory.num u.sp off 8 := by rw [State.spNum, hu]
  unfold State.arrive
  simp only [word, if_neg (Nat.not_lt.2 h)]
  cases s.teams.look id with
  | none => exact ⟨s, .refl s, by simp only [hu]; rfl⟩
  | some t =>
    have noted := s.noted_noteEv t.die false (o.event id (s.ceiling t.ctx) t.nextOp lane [⟨lane, .spad m off, 8, true⟩])
    exact ⟨_, noted, by simp only [noted.teams, hu]; rfl⟩

/-- Each team once the target has been reached: one that has raised ENGINE is otherwise as the others. -/
theorem State.arrive_look (h : arrTarget (Memory.num u.sp off 8) ≤ arrCount (Memory.num u.sp off 8) + n) (k : Nat) :
    (s.arrive id o lane m off n).teams.look k = (s.teams.look k).map
      (u.reached m off k o lane (k == id && decide (arrTarget (Memory.num u.sp off 8) < arrCount (Memory.num u.sp off 8) + n))) := by
  obtain ⟨s1, noted, e⟩ := State.arrive_reached hu id o lane h
  rw [e]
  by_cases past : arrTarget (Memory.num u.sp off 8) < arrCount (Memory.num u.sp off 8) + n
  · rw [if_pos past, State.async_eq, State.upTeam_teams, NMap.look_upd_if, State.newGeneration_look, noted.teams, Option.map_map]
    exact congrArg (Option.map · _) (funext fun t => by by_cases hk : k = id <;> simp [Team.reached, hk, past])
  · rw [if_neg past, State.newGeneration_look, noted.teams]
    exact congrArg (Option.map · _) (funext fun t => by simp [Team.reached, past])

end

/-- Settles O30: below the target by the sum in the word; from the target on by what becomes of each team. -/
theorem arrivalWord : Obligations.ArrivalWord := by
  unfold Obligations.ArrivalWord
  intro s id o lane m off n u hu wf
  dsimp only
  refine ⟨fun below => ?below, fun reached => ?reached⟩
  case below =>
    obtain ⟨s1, noted, e⟩ := State.arrive_below hu id o lane below
    rw [e]
    exact ⟨_, (TeamReads.of_beside noted.beside noted.teams hu).upTeam _, rfl, u.writeSp_memoryAfter wf off _ false⟩
  case reached =>
    have look := State.arrive_look hu id o lane reached
    generalize hp : decide (arrTarget (Memory.num u.sp off 8) < arrCount (Memory.num u.sp off 8) + n) = past at look
    obtain ⟨bytes, untied⟩ := u.afterGeneration_self wf m off
    obtain ⟨fields, -⟩ := u.reached_spec m off m o lane (m == id && past) u
    obtain ⟨sp, ties, -⟩ := Prod.mk.inj fields |>.imp_right Prod.mk.inj
    refine ⟨_, by rw [look, hu]; rfl, ?bytes, ties.trans untied, ?granules, ?exact, ?past⟩
    case bytes =>
      rw [sp, arrWord_gen_mod]
      exact bytes
    case granules =>
      intro k hk hw x hx
      obtain ⟨t, -, rfl⟩ := Option.map_eq_some_iff.1 ((look k.team).symm.trans hx)
      rw [(u.reached_spec ..).2.1]
      exact Team.mem_owner_without (List.mem_map.2 ⟨k, List.mem_filter.2 ⟨hk, beq_iff_eq.2 hw⟩, rfl⟩)
    case exact =>
      intro e g
      rw [look, Option.map_map]
      refine congrArg (Option.map · _) (funext fun t => ?_)
      obtain ⟨-, -, groups, -⟩ := u.reached_spec m off id o lane (id == id && past) t
      rw [Function.comp_apply, groups (by rw [← hp, decide_eq_false e.not_lt, Bool.and_false])]
    case past =>
      intro exceeds t g ht hg
      obtain ⟨-, -, -, causes⟩ := u.reached_spec m off id o lane (id == id && past) t
      obtain ⟨h, hh, cause⟩ := causes (by rw [← hp, decide_eq_true exceeds, beq_self_eq_true]; rfl) g hg
      exact ⟨_, h, by rw [look, ht]; rfl, hh, cause⟩

end Sys2Proof.Machine
end

section
/-! SUPPORT. How barriers, carves and convergence registers let threads go on (R176, R203-R207): what waking several lanes of a group
does, and what their later accesses follow. -/

namespace Sys2Proof.Machine

open Sys2Proof

/-! ### Waking lanes (R14) -/

/-- A thread that has woken from whatever it is parked on. -/
def Thread.woken (th : Thread) : Thread :=
  match th.park with | some p => th.wakesTo p.next (th.wokenFlags p) | none => th

theorem Thread.woken_woken (th : Thread) : th.woken.woken = th.woken := by
  cases h : th.park with
  | none => simp [Thread.woken, h]
  | some p => simp [Thread.woken, Thread.wakesTo, h]

theorem Thread.woken_bare (th : Thread) : th.bare.woken = th.woken.bare := by
  unfold Thread.woken
  cases h : th.park with
  | none => simp only [Thread.bare, h]
  | some p => simp only [Thread.bare, h]; rfl

theorem Group.wake_spec (g : Group) (lane : Nat) :
    g.wake lane = { g with
      threads := (g.wake lane).threads, pcc := (g.wake lane).pcc, pct := (g.wake lane).pct, queue := (g.wake lane).queue,
      joining := (g.wake lane).joining } ∧
    ∀ l, ((g.wake lane).threads.look l).map Thread.bare =
      (g.threads.look l).map fun th => (if l = lane then th.woken else th).bare := by
  cases ht : g.threads.look lane with
  | none =>
    have same : g.wake lane = g := by rw [Group.wake, ht]
    refine ⟨by rw [same], fun l => ?_⟩
    rw [same]
    by_cases h : l = lane
    · rw [h, ht]; rfl
    · simp only [h, if_false]
  | some th =>
    cases hp : th.park with
    | none =>
      have same : g.wake lane = g := by simp only [Group.wake, ht, hp]
      refine ⟨by rw [same], fun l => ?_⟩
      rw [same]
      by_cases h : l = lane
      · rw [h, ht]; simp [Thread.woken, hp]
      · simp only [h, if_false]
    | some p =>
      obtain ⟨kept, woken, others⟩ := Group.wake_woken ht hp
      refine ⟨kept, fun l => ?_⟩
      by_cases h : l = lane
      · obtain ⟨k, hk, e⟩ := woken th ht
        rw [h, hk, ht, Option.map_some, Option.map_some, if_pos rfl, e, Thread.woken, hp]
        rfl
      · rw [others l h]
        simp only [h, if_false]

/-- Lanes that wake one after the other: each has woken, and of the group beside them only the tables of R13 and R162 are changed. -/
theorem Group.foldl_wake (lanes : List Nat) (g : Group) :
    let h := lanes.foldl Group.wake g
    h = { g with threads := h.threads, pcc := h.pcc, pct := h.pct, queue := h.queue, joining := h.joining } ∧
    ∀ l, (h.threads.look l).map Thread.bare = (g.threads.look l).map fun th => (if l ∈ lanes then th.woken else th).bare := by
  induction lanes generalizing g with
  | nil => exact ⟨rfl, fun l => by simp⟩
  | cons m r ih =>
    obtain ⟨kept, look⟩ := g.wake_spec m
    obtain ⟨kepts, looks⟩ := ih (g.wake m)
    refine ⟨?_, fun l => ?_⟩
    · rw [List.foldl_cons, kepts, kept]
    · have through : ∀ o : Option Thread, (o.map fun th => (if l ∈ r then th.woken else th).bare) =
          (o.map Thread.bare).map fun th => if l ∈ r then th.woken else th := fun o => by
        cases o with
        | none => rfl
        | some th => by_cases h : l ∈ r <;> simp [h, Thread.woken_bare]
      rw [List.foldl_cons, looks, through, look, Option.map_map]
      congr 1
      funext th
      by_cases hm : l = m <;> by_cases hr : l ∈ r <;> simp [hm, hr, Thread.woken_bare, Thread.woken_woken]

/-! ### What follows a release (R203, R207) -/

/-- The gates that stay are those that may still hold an access back. -/
theorem State.follows_liveGates {s s' : State} {die : Nat} (h : ∀ g, s'.gateOpen die g = s.gateOpen die g) (old : List Gate) :
    s.Follows die old (s'.liveGates die old) := by
  unfold State.Follows State.liveGates
  split
  · exact ⟨fun x hx => (List.mem_filter.1 hx).1, fun x hx closed => List.mem_filter.2 ⟨hx, by rw [h, closed]; rfl⟩⟩
  · exact ⟨fun x hx => hx, fun x hx _ => hx⟩

/-! ### Barriers (R203, R204) -/

/-- R203: what the threads that wait at a barrier have issued, group by group. -/
def Team.barrierGates (t : Team) (id : Nat) : List Gate :=
  t.groups.zipIdx.map fun p => Gate.ops id p.2 (p.1.threads.map (·.1)) t.nextOp 1

/-- A thread whose later accesses follow `gs`. -/
def Thread.withGates (gs : List Gate) (th : Thread) : Thread := { th with gates := gs }

/-- R204: a thread of a `carve` gets its predicate. -/
def Thread.carved (ok : Bool) (th : Thread) : Thread :=
  match th.park with
  | some p => match p.pd with | some d => if p.kind = 6 then { th with p := th.p.set d.val ok } else th | none => th
  | none => th

/-- R203: every thread of a group goes on, its later accesses following what `live` leaves of its gates. -/
def Group.passBarrier (live : List Gate → List Gate) (ok : Bool) (g : Group) : Group :=
  let g := g.mapThreads fun _ th => (th.withGates (live th.gates)).carved ok
  (g.threads.map (·.1)).foldl Group.wake g

/-- R203: so do the threads of every group. -/
def Team.passBarrier (live : List Gate → List Gate) (id : Nat) (ok : Bool) (t : Team) : Team :=
  { t with groups := t.groups.map (Group.passBarrier (fun gs => live (gs ++ t.barrierGates id)) ok) }

theorem State.release_eq (s : State) (id : Nat) (ok : Bool) :
    s.release id ok = s.upTeam id fun t => t.passBarrier (s.liveGates t.die) id ok := rfl

theorem Thread.pastBarrier_eq (gs : List Gate) (ok : Bool) (th : Thread) :
    ((th.withGates gs).carved ok).woken = (th.pastBarrier ok).withGates gs := by
  cases hp : th.park with
  | none => simp only [Thread.withGates, Thread.carved, Thread.woken, Thread.pastBarrier, hp]
  | some p =>
    cases hd : p.pd with
    | none => simp only [Thread.withGates, Thread.carved, Thread.woken, Thread.pastBarrier, Thread.goesOn, hp, hd]; rfl
    | some d =>
      by_cases h6 : p.kind = 6
      · simp only [Thread.withGates, Thread.carved, Thread.woken, Thread.pastBarrier, Thread.goesOn, hp, hd, h6, if_true]; rfl
      · simp only [Thread.withGates, Thread.carved, Thread.woken, Thread.pastBarrier, Thread.goesOn, hp, hd, h6, if_false]; rfl

theorem Group.passBarrier_look (live : List Gate → List Gate) (ok : Bool) (g : Group) (l : Nat) :
    ((g.passBarrier live ok).threads.look l).map Thread.bare =
      (g.threads.look l).map fun th => ((th.pastBarrier ok).withGates (live th.gates)).bare := by
  unfold Group.passBarrier
  dsimp only
  rw [(Group.foldl_wake _ _).2, Group.mapThreads_threads, NMap.look_mapv, Option.map_map]
  cases h : g.threads.look l with
  | none => rfl
  | some th =>
    have member : l ∈ (g.threads.mapv fun _ th => (th.withGates (live th.gates)).carved ok).map (·.1) := by
      rw [NMap.mapv, List.map_map]
      exact List.mem_map.2 ⟨(l, th), NMap.mem_of_look h, rfl⟩
    simp only [Option.map_some, Function.comp_apply, if_pos member, Thread.pastBarrier_eq]

/-- R203, R204: what a barrier makes of a team. -/
theorem Team.passBarrier_thread (live : List Gate → List Gate) (id : Nat) (ok : Bool) (t : Team) (j l : Nat) :
    ((t.passBarrier live id ok).thread j l).map Thread.bare =
      (t.thread j l).map fun th => ((th.pastBarrier ok).withGates (live (th.gates ++ t.barrierGates id))).bare := by
  unfold Team.thread Team.passBarrier
  rw [List.getElem?_map]
  cases t.groups[j]? with
  | none => rfl
  | some g => exact g.passBarrier_look _ ok l

/-- What a table of threads equal but for their PCC entries tells of their gates. -/
theorem Thread.gates_of_bare {k : Thread} {th : Thread} {f : Thread → Thread}
    (h : (some k).map Thread.bare = (some th).map fun x => (f x).bare) : k.gates = (f th).gates := by
  have same : k.bare = (f th).bare := by simpa using h
  exact (congrArg Thread.gates same :)

theorem Thread.ungated_of_bare {a : Option Thread} {b : Option Thread} {f : Thread → Thread} {gs : Thread → List Gate}
    (h : a.map Thread.bare = b.map fun th => ((f th).withGates (gs th)).bare) : a.map Thread.ungated = b.map fun th => (f th).ungated := by
  have := congrArg (Option.map fun k : Thread => { k with gates := [] }) h
  rwa [Option.map_map, Option.map_map] at this

/-! ### The carve (R176, R204) -/

theorem Team.recarve_barrierGates (t : Team) (w : Word) (id : Nat) : (t.recarve w).barrierGates id = t.barrierGates id := by
  unfold Team.barrierGates Team.recarve
  dsimp only
  rw [List.zipIdx_map, List.map_map]
  refine List.map_congr_left fun p _ => ?_
  simp [Group.mapThreads, NMap.mapv, Function.comp_def]

theorem Team.recarve_thread (t : Team) (w : Word) (j l : Nat) :
    (t.recarve w).thread j l = (t.thread j l).map (Thread.resize · (w.toNat % 256)) := by
  unfold Team.thread Team.recarve
  rw [List.getElem?_map]
  cases t.groups[j]? with
  | none => rfl
  | some g => exact NMap.look_mapv g.threads (fun _ th => th.resize (w.toNat % 256)) l

theorem Thread.pastBarrier_resize (ok : Bool) (n : Nat) (th : Thread) :
    (th.resize n).pastBarrier ok = (th.pastBarrier ok).resize n := by
  cases hp : th.park with
  | none => simp only [Thread.resize, Thread.pastBarrier, hp]
  | some p => simp only [Thread.resize, Thread.pastBarrier, hp]; rfl

/-- A carve changes nothing that a gate waits for. -/
theorem State.gateOpen_recarve (s : State) (c : CoreId) (id : Nat) (w : Word) (die : Nat) (g : Gate) :
    ((s.upCoh (·.emptyL1 c)).upTeam id (·.recarve w)).gateOpen die g = s.gateOpen die g := by
  cases g with
  | ext conn n => rfl
  | ops team g lanes n sc =>
    simp only [State.gateOpen, State.upTeam_teams, State.upCoh_teams, NMap.look_upd_if]
    cases s.teams.look team with
    | none => rfl
    | some t => by_cases h : team = id <;> simp [h, Team.recarve]

theorem State.releaseBarrier_cases (s : State) (id : Nat) (t : Team) :
    (∀ w, s.carveTaken id t = some w →
        ∃ c, s.releaseBarrier id t = ((s.upCoh (·.emptyL1 c)).upTeam id (·.recarve w)).release id true) ∧
      (s.carveTaken id t = none → s.releaseBarrier id t = s.release id false) := by
  unfold State.carveTaken State.releaseBarrier
  cases t.agreed with
  | none => exact ⟨nofun, fun _ => rfl⟩
  | some w =>
    cases t.core with
    | none => exact ⟨nofun, fun _ => rfl⟩
    | some c =>
      have fits : (carveOk c t.groups.length w && !s.granuleBusy id t (64 * (w.toNat / 4096 % 64))) = true ↔
          carveOk c t.groups.length w = true ∧ s.granuleBusy id t (64 * (w.toNat / 4096 % 64)) = false := by simp
      by_cases ok : carveOk c t.groups.length w = true ∧ s.granuleBusy id t (64 * (w.toNat / 4096 % 64)) = false
      · simp only [if_pos ok, if_pos (fits.2 ok)]
        exact ⟨fun v hv => ⟨c, by rw [Option.some.inj hv]⟩, nofun⟩
      · simp only [if_neg ok, if_neg (mt fits.1 ok)]
        exact ⟨nofun, fun _ => trivial⟩

/-! ### Convergence registers (R206, R207) -/

theorem Group.mem_released {g : Group} {k l : Nat} (hr : NMap.rising g.threads = true) (h : l ∈ g.released k) {th : Thread}
    (ht : g.threads.look l = some th) : ∃ p, th.park = some p ∧ p.kind = 4 := by
  obtain ⟨waits, -⟩ := List.mem_filter.1 h
  obtain ⟨⟨m, x⟩, hx, rfl⟩ := List.mem_map.1 waits
  obtain ⟨mem, parked⟩ := List.mem_filter.1 hx
  obtain rfl : x = th := Option.some.inj ((NMap.look_of_mem hr mem).symm.trans ht)
  cases hp : x.park with
  | none => simp only [hp] at parked; cases parked
  | some p =>
    refine ⟨p, rfl, ?_⟩
    simp only [hp, Bool.and_eq_true, beq_iff_eq] at parked
    exact parked.1.2

/-- R207: a thread that a register releases. -/
def Thread.pastConvergence (out : Bool) (th : Thread) : Thread :=
  match th.park with | some p => if out then th.goesOn p false else th | none => th

/-- R206, R207: what a release makes of a group. -/
theorem Group.converge_spec {g : Group} (hr : NMap.rising g.threads = true) (k : Nat) (gates : List Nat → List Gate → List Gate) :
    (g.converge k gates).g = g.g.modify k (fun c => if c.complete then { c with armed := false } else c) ∧
    ∀ l, ((g.converge k gates).threads.look l).map Thread.bare = (g.threads.look l).map fun th =>
      ((th.pastConvergence (decide (l ∈ g.released k))).withGates
        (if l ∈ g.released k then gates (g.released k) th.gates else th.gates)).bare := by
  unfold Group.converge
  dsimp only
  refine ⟨by rw [(Group.foldl_wake _ _).1]; rfl, fun l => ?_⟩
  rw [(Group.foldl_wake _ _).2, Group.mapThreads_threads, NMap.look_mapv, Option.map_map]
  cases ht : g.threads.look l with
  | none => rfl
  | some th =>
    simp only [Option.map_some, Function.comp_apply, List.contains_eq_mem]
    by_cases h : l ∈ g.released k
    · obtain ⟨p, hp, hk⟩ := Group.mem_released hr h ht
      have goes : ∀ gs, (th.withGates gs).woken = (th.pastConvergence true).withGates gs := fun gs => by
        cases hd : p.pd <;> simp only [Thread.withGates, Thread.woken, Thread.pastConvergence, Thread.goesOn, hp, hk, hd] <;> rfl
      simp only [h, decide_true, if_true]
      exact congrArg (some ∘ Thread.bare) (goes _)
    · have stays : th.pastConvergence false = th := by cases hp : th.park <;> simp [Thread.pastConvergence, hp]
      simp only [h, decide_false, if_false, Bool.false_eq_true, stays]
      rfl

/-- Settles O26: the threads of a barrier by `passBarrier`, those of a register by `converge`; a carve opens and closes no gate. -/
theorem barriersRelease : Obligations.BarriersRelease := by
  unfold Obligations.BarriersRelease
  refine ⟨?barrier, ?register⟩
  case barrier =>
    intro s id t ht hw hr
    have stand := State.evTeam_look ht
    refine happens_enabled rfl (by simp only [ht]; exact when_true (by rw [TState.wakes_iff.2 hw, hr, beq_self_eq_true]; rfl) _) ?_
    obtain ⟨carves, none_⟩ := s.releaseBarrier_cases id t
    cases taken : s.carveTaken id t with
    | some w =>
      obtain ⟨c, e⟩ := carves w taken
      have noted := s.noted_upCoh (·.emptyL1 c) rfl
      let live := ((s.upCoh (·.emptyL1 c)).upTeam id (·.recarve w)).liveGates (t.recarve w).die
      have passed := ((TeamReads.of_beside noted.beside noted.teams stand).upTeam (·.recarve w)).upTeam fun u =>
        u.passBarrier (((s.upCoh (·.emptyL1 c)).upTeam id (·.recarve w)).liveGates u.die) id true
      have look : ∀ live j l, (((t.recarve w).passBarrier live id true).thread j l).map Thread.bare = (t.thread j l).map fun th =>
          ((((th.pastBarrier true).resize (w.toNat % 256)).withGates (live (th.gates ++ t.barrierGates id))).bare) := fun live j l => by
        rw [Team.passBarrier_thread, Team.recarve_barrierGates, Team.recarve_thread, Option.map_map]
        exact congrArg (Option.map · _) (funext fun th => by rw [Function.comp_apply, Thread.pastBarrier_resize]; rfl)
      rw [e, State.release_eq]
      refine ⟨_, passed, by simp [Team.passBarrier, Team.recarve], fun j l th k hth hk => ?_, fun v hv => ?_, nofun⟩
      · have same := look live j l
        rw [hth, hk] at same
        rw [Thread.gates_of_bare same]
        exact State.follows_liveGates (s.gateOpen_recarve c id w _) _
      · obtain rfl := Option.some.inj hv
        exact ⟨rfl, fun j l => Thread.ungated_of_bare (look live j l)⟩
    | none =>
      rw [none_ taken, State.release_eq]
      have only := (OnlyTeam.refl stand).upTeam fun t => t.passBarrier (s.liveGates t.die) id false
      have passed := (TeamReads.of_beside (State.Noted.refl s).beside rfl stand).upTeam fun t => t.passBarrier (s.liveGates t.die) id false
      have look := t.passBarrier_thread (s.liveGates t.die) id false
      refine ⟨_, passed, by simp [Team.passBarrier], fun j l th k hth hk => ?_, nofun, fun _ => ⟨only, rfl, fun j l => ?_⟩⟩
      · have same := look j l
        rw [hth, hk] at same
        rw [Thread.gates_of_bare same]
        exact State.follows_liveGates (fun _ => rfl) _
      · exact Thread.ungated_of_bare (look j l)
  case register =>
    intro s id t g ht hw hg hr hc
    have stand := State.evTeam_look ht
    refine happens_enabled rfl (by simp only [ht, hg]; exact when_true (by rw [TState.wakes_iff.2 hw, hc, beq_self_eq_true]; rfl) _) ?_
    let live := fun out gs => s.liveGates t.die (gs ++ [Gate.ops id s.ev.g out t.nextOp 0])
    obtain ⟨regs, look⟩ := Group.converge_spec hr s.ev.n live
    refine ⟨_, _, (OnlyTeam.refl stand).upTeam _, .upGroup hg (·.converge s.ev.n live), regs, fun l th k hth hk => ?_, fun l => ?_⟩
    · have same := look l
      rw [hth, hk] at same
      rw [Thread.gates_of_bare same]
      by_cases h : l ∈ g.released s.ev.n
      · simp only [Thread.withGates, if_pos h]
        exact State.follows_liveGates (fun _ => rfl) _
      · simp only [Thread.withGates, if_neg h]
    · rw [Thread.ungated_of_bare (look l)]
      refine congrArg (Option.map · _) (funext fun th => ?_)
      cases hp : th.park <;> simp [Thread.pastConvergence, hp]

end Sys2Proof.Machine
end

section
/-! SUPPORT. Running copy commands (R177-R180, R211-R213, R323, R428): which operation stands in a flight, what a piece moves, what
is read ahead, what a message leaves, and what the end of a command leaves of its team. -/

namespace Sys2Proof.Machine

open Sys2Proof

/-! ### Operations in flight -/

/-- The operation of a team under an id. -/
def State.opAt (s : State) (id n : Nat) : Option Op := (s.teams.look id).bind (·.findOp n)

theorem State.opAt_eq_some {s : State} {id n : Nat} {x : Op} :
    s.opAt id n = some x ↔ ∃ u, s.teams.look id = some u ∧ u.findOp n = some x := Option.bind_eq_some_iff

theorem State.Flying.opAt {s : State} {id : Nat} {t : Team} {o : Op} (h : s.Flying id t o) : s.opAt id s.ev.id = some o :=
  State.opAt_eq_some.2 ⟨t, State.evTeam_look h.team, h.op⟩

theorem Team.findOp_id {t : Team} {n : Nat} {o : Op} (h : t.findOp n = some o) : o.id = n :=
  beq_iff_eq.1 (List.find?_some (p := fun o : Op => o.id == n) h)

theorem State.opAt_congr {s s' : State} (h : s'.teams = s.teams) (id n : Nat) : s'.opAt id n = s.opAt id n := by
  unfold State.opAt
  rw [h]

/-- A change of a team that leaves its flight. -/
theorem State.opAt_upTeam (s : State) (m : Nat) {f : Team → Team} (hf : ∀ t, (f t).ops = t.ops) (id n : Nat) :
    (s.upTeam m f).opAt id n = s.opAt id n := by
  unfold State.opAt
  rw [State.upTeam_teams, NMap.look_upd_if]
  cases s.teams.look id with
  | none => rfl
  | some t => by_cases h : id = m <;> simp [h, Team.findOp, hf]

theorem State.opAt_disown (s : State) (gs : List (Nat × Nat)) (id n : Nat) : (s.disown gs).opAt id n = s.opAt id n := by
  unfold State.opAt
  rw [State.disown_look]
  cases s.teams.look id <;> rfl

theorem State.opAt_ownAll (s : State) (gs : List (Nat × Nat)) (id n : Nat) : (s.ownAll gs).opAt id n = s.opAt id n := by
  unfold State.ownAll
  refine State.foldl_keeps (fun s => s.opAt id n) (fun s g => ?_) gs s
  exact s.opAt_upTeam g.1 (fun t => by split <;> rfl) id n

theorem State.ownAll_rest (s : State) (gs : List (Nat × Nat)) : s.ownAll gs = { s with teams := (s.ownAll gs).teams } :=
  State.upTeams_rest (fun _ _ => rfl) gs s

theorem State.opAt_async (s : State) (m g : Nat) (cause : Word) (r : Option EngineRecord) (id n : Nat) :
    (s.async m g cause r).opAt id n = s.opAt id n := by
  refine State.opAt_upTeam s m (f := Team.takesAsync g cause r) (fun t => ?_) id n
  rw [(Team.takesAsync_spec g cause r t).1]

theorem Team.findOp_putOp {t : Team} {n : Nat} {o x : Op} (h : t.findOp n = some o) (e : x.id = n) :
    (t.putOp x).findOp n = some x := by
  subst e
  have same : (fun y : Op => (if y.id = x.id then x else y).id == x.id) = fun y => y.id == x.id := funext fun y => by
    by_cases hy : y.id = x.id <;> simp [hy]
  have found : t.ops.find? (fun y => y.id == x.id) = some o := h
  unfold Team.findOp Team.putOp
  rw [List.find?_map]
  simp only [Function.comp_def, same, found, Option.map_some, Team.findOp_id h, if_true]

theorem State.opAt_putOp {s : State} {id n : Nat} {o x : Op} (h : s.opAt id n = some o) (e : x.id = n) :
    (s.upTeam id (·.putOp x)).opAt id n = some x := by
  obtain ⟨u, hu, ho⟩ := State.opAt_eq_some.1 h
  exact State.opAt_eq_some.2 ⟨u.putOp x, by rw [State.upTeam_teams, NMap.look_upd, hu]; rfl, Team.findOp_putOp ho e⟩

/-- A landing at an arrival word leaves every flight (R180). -/
theorem State.opAt_arrive (s : State) (k : Nat) (o : Op) (lane m off len id n : Nat) :
    (s.arrive k o lane m off len).opAt id n = s.opAt id n := by
  have noted : ∀ die early x, (s.noteEv die early x).opAt id n = s.opAt id n := fun die early x =>
    State.opAt_congr (s.noted_noteEv die early x).teams id n
  have counts : ∀ (s : State) bs, (s.upTeam m (·.writeSp off bs false)).opAt id n = s.opAt id n := fun s bs =>
    s.opAt_upTeam m (f := (·.writeSp off bs false)) (fun _ => rfl) id n
  have advances : ∀ (s : State) bs, (s.upTeam m (Team.newGeneration off bs)).opAt id n = s.opAt id n := fun s bs =>
    s.opAt_upTeam m (fun t => (t.newGeneration_spec off bs).2.1) id n
  unfold Team.newGeneration at advances
  unfold State.arrive
  dsimp only
  cases s.teams.look k with
  | none => split <;> [skip; split] <;> simp only [counts, advances, State.opAt_async, State.opAt_disown]
  | some t => split <;> [skip; split] <;> simp only [counts, advances, noted, State.opAt_async, State.opAt_disown]

/-! ### Granules that have returned (R177, R179) -/

/-- No engine owns a granule. -/
def State.Returned (s : State) (k : Nat × Nat) : Prop := ∀ x, s.teams.look k.1 = some x → k.2 ∉ x.owner

theorem State.returned_disown {gs : List (Nat × Nat)} {k : Nat × Nat} (h : k ∈ gs) (s : State) : (s.disown gs).Returned k := by
  intro x hx
  obtain ⟨t, -, rfl⟩ := Option.map_eq_some_iff.1 ((State.disown_look gs s k.1).symm.trans hx)
  exact Team.mem_owner_without h

theorem State.Returned.upTeam {s : State} {k : Nat × Nat} (h : s.Returned k) (m : Nat) {f : Team → Team}
    (hf : ∀ t, (f t).owner = t.owner) : (s.upTeam m f).Returned k := by
  intro x hx
  rw [State.upTeam_teams, NMap.look_upd_if] at hx
  obtain ⟨t, ht, rfl⟩ := Option.map_eq_some_iff.1 hx
  by_cases hm : k.1 = m
  · rw [if_pos hm, hf]
    exact h t ht
  · rw [if_neg hm]
    exact h t ht

/-- A team whose granules of `gs` have returned and are tied no more (R179). -/
def Team.afterFree (n : Nat) (gs : List (Nat × Nat)) (t : Team) : Team :=
  let t := t.without n gs
  if t.ties.isEmpty then t else { t with ties := t.ties.filter fun k => !gs.contains (k.team, k.granule) }

theorem State.freeGranules_look (s : State) (gs : List (Nat × Nat)) (n : Nat) :
    (s.freeGranules gs).teams.look n = (s.teams.look n).map (Team.afterFree n gs) := by
  unfold State.freeGranules
  rw [NMap.look_mapv, State.disown_look, Option.map_map]
  rfl

theorem State.freeGranules_rest (s : State) (gs : List (Nat × Nat)) :
    s.freeGranules gs = { s with teams := (s.freeGranules gs).teams } := by
  unfold State.freeGranules
  dsimp only
  rw [s.disown_rest gs]

/-- Of a team it changes owners, names and ties alone. -/
theorem Team.afterFree_spec (n : Nat) (gs : List (Nat × Nat)) (t : Team) :
    t.afterFree n gs = { t with owner := (t.without n gs).owner, named := (t.afterFree n gs).named, ties := (t.afterFree n gs).ties } := by
  unfold Team.afterFree
  dsimp only
  split <;> rfl

theorem State.returned_freeGranules {gs : List (Nat × Nat)} {k : Nat × Nat} (h : k ∈ gs) (s : State) :
    (s.freeGranules gs).Returned k := by
  intro x hx
  obtain ⟨t, -, rfl⟩ := Option.map_eq_some_iff.1 ((State.freeGranules_look s gs k.1).symm.trans hx)
  rw [Team.afterFree_spec]
  exact Team.mem_owner_without h

/-! ### Segments move (R178, R211) -/

/-- What a piece of a command that carries no tags moves. -/
theorem State.moveSeg_untagged {s : State} {id : Nat} {t : Team} {c : Copy} {sc : Scope} {g : Seg} {bs : List Byte}
    (plain : c.tagMode = false) (read : s.segBytes t c g = .ok bs) (reached : s.storeErr g.dst g.len = none) :
    s.moveSeg id t c sc g none = .ok (({ s with draws := s.draws + g.len } : State).storeAt t false g.dst bs false) := by
  unfold State.moveSeg
  simp only [read, reached, plain]

theorem State.segBytes_fill {s : State} {t : Team} {c : Copy} {g : Seg} (h : g.src = none) :
    s.segBytes t c g = .ok (fillBytes c g.off g.len) := by
  unfold State.segBytes
  rw [h]
  cases c.ahead g.off g.len <;> rfl

theorem State.segBytes_read {s : State} {t : Team} {c : Copy} {g : Seg} {p : Loc × Bool} {bs : List Byte} (h : g.src = some p)
    (read : c.ahead g.off g.len = some bs ∨
      (c.ahead g.off g.len = none ∧ s.readFor t.die (s.worldOf t) p.1 g.len 0 = .ok bs)) : s.segBytes t c g = .ok bs := by
  unfold State.segBytes
  rcases read with ahead | ⟨ahead, now⟩
  · rw [ahead, h]
  · rw [ahead, h]
    exact now

theorem State.storeAt_spad (s : State) (t : Team) (m off : Nat) (bs : List Byte) :
    s.storeAt t false (.spad m off) bs false = s.upTeam m (·.writeSp off bs false) := by
  unfold State.storeAt
  cases t.core <;> rfl

/-! ### Source bytes read ahead (R323) -/

/-- The bytes that have been read of a command once `bs`, from byte `off` of it on, have been. -/
def Copy.readAhead (c : Copy) (off : Nat) (bs : List Byte) : NMap Byte :=
  bs.zipIdx.foldl (fun m p => m.put (off + p.2) p.1) c.got

theorem look_foldl_put (bs : List Byte) (off i : Nat) (m : NMap Byte) :
    (∀ j, j < off + i → ((bs.zipIdx i).foldl (fun m p => m.put (off + p.2) p.1) m).look j = m.look j) ∧
      ∀ k, k < bs.length → ((bs.zipIdx i).foldl (fun m p => m.put (off + p.2) p.1) m).look (off + i + k) = bs[k]? := by
  induction bs generalizing i m with
  | nil => exact ⟨fun _ _ => rfl, nofun⟩
  | cons b r ih =>
    obtain ⟨below, above⟩ := ih (i + 1) (m.put (off + i) b)
    rw [List.zipIdx_cons, List.foldl_cons]
    refine ⟨fun j hj => ?_, fun k hk => ?_⟩
    · rw [below j (by omega), NMap.look_put_ne _ _ (by omega)]
    · cases k with
      | zero =>
        rw [below (off + i + 0) (by omega)]
        exact NMap.look_put m (off + i) b
      | succ k =>
        rw [List.getElem?_cons_succ, ← above k (by simpa using hk)]
        congr 1
        omega

theorem Copy.look_readAhead (c : Copy) (off : Nat) (bs : List Byte) {k : Nat} (h : k < bs.length) :
    (c.readAhead off bs).look (off + k) = bs[k]? := (look_foldl_put bs off 0 c.got).2 k h

theorem State.askSegs_keeps {α : Type} (p : State → α) (h : ∀ (s : State) l n, p (s.askHost l n) = p s) (s : State) (c : Copy)
    (gs : List Seg) : p (s.askSegs c gs) = p s := by
  unfold State.askSegs
  refine State.foldl_keeps p (fun s g => ?_) gs s
  split
  · split
    · rfl
    · exact h s _ _
  · rfl

theorem State.askHost_mem (s : State) (l : Loc) (n : Nat) : (s.askHost l n).mem = s.mem := by
  cases l <;> rfl

/-- A command that reads nothing asks the host for nothing. -/
theorem State.askSegs_fills {gs : List Seg} (h : ∀ g ∈ gs, g.src = none) (s : State) (c : Copy) : s.askSegs c gs = s := by
  unfold State.askSegs
  induction gs with
  | nil => rfl
  | cons g r ih =>
    obtain ⟨here, rest⟩ := List.forall_mem_cons.1 h
    rw [List.foldl_cons, here]
    exact ih rest

theorem State.opAt_putCopy {s : State} {id : Nat} {o x : Op} (h : s.opAt id o.id = some x) (c : Copy) :
    (s.putCopy id o c).opAt id o.id = some { o with kind := .copy { c with begun := true } } := State.opAt_putOp h rfl

/-- R211, R323: what reading a piece ahead makes of its command, memory standing as it stood. -/
theorem State.readPiece_reads {s : State} {id : Nat} {t : Team} {o x : Op} {c : Copy} {gs : List Seg} {bs : List (List Byte)}
    (plain : c.tagMode = false) (copies : c.src.isSome = true) (near : ∀ g ∈ gs, g.remote = none)
    (may : s.may id t o ((gs.flatMap c.touches).filter fun x => !x.write) = true) (read : gs.mapM (s.segBytes t c) = .ok bs)
    (stands : s.opAt id o.id = some x) :
    ∃ s' d, s.readPiece id t o c gs = some s' ∧ s'.mem = s.mem ∧ s'.opAt id o.id = some { o with kind := .copy d } ∧
      d.left = c.left ∧ d.begun = true ∧ d.got = c.readAhead ((gs.head?.map (·.off)).getD 0) bs.flatten := by
  have none_far : gs.any (fun g => g.remote.isSome) = false := by
    rw [List.any_eq_false]
    exact fun g hg => by simp [near g hg]
  have some_read : c.src.isNone = false := by rw [← Option.not_isSome, copies]; rfl
  rw [List.filter_flatMap] at may
  generalize hts : (gs.flatMap fun g => (c.touches g).filter fun x => !x.write) = ts at may
  let noted : State := ((({ s with draws := s.draws + bs.flatten.length } : State).note id t o ts).fillLines t ts).askSegs c gs
  have notes := ((s.noted_draws (s.draws + bs.flatten.length)).trans (State.noted_note _ id t o ts)).trans (State.noted_fillLines _ t ts)
  have mem : noted.mem = s.mem := (State.askSegs_keeps State.mem State.askHost_mem _ c gs).trans notes.mem
  have kept : noted.opAt id o.id = some x := by
    rw [← stands]
    exact State.opAt_congr ((State.askSegs_keeps State.teams State.askHost_teams _ c gs).trans notes.teams) id o.id
  unfold State.readPiece
  simp only [plain, some_read, none_far, hts, may, read, Bool.or_false, Bool.not_true, Bool.false_eq_true, if_false]
  have first := fun d => State.opAt_putCopy kept d
  cases c.arrival with
  | some a => exact ⟨_, _, rfl, mem, first _, rfl, rfl, rfl⟩
  | none =>
    refine ⟨_, _, rfl, ?_, State.opAt_putCopy ((State.opAt_disown _ _ _ _).trans (first _)) _, rfl, rfl, rfl⟩
    rw [State.disown_rest]
    exact mem

/-! ### A piece has landed (R180, R212) -/

/-- The command after a piece of it has landed, in the flight of its team. -/
theorem State.landed_flight {s : State} {id : Nat} {o x : Op} (h : s.opAt id o.id = some x) (c : Copy) (n : Nat)
    (left : List (Nat × Nat)) : ∃ d : Copy, (s.landed id o c n left).opAt id o.id = some { o with kind := .copy d } ∧
      d.left = left ∧ d.begun = true := by
  unfold State.landed
  cases c.arrival with
  | some a => exact ⟨_, (State.opAt_arrive ..).trans (State.opAt_putOp h rfl), rfl, rfl⟩
  | none => exact ⟨_, State.opAt_putOp ((State.opAt_disown ..).trans h) rfl, rfl, rfl⟩

/-- R212: the granules that an untied command needs no more have returned. -/
theorem State.landed_returns (s : State) (id : Nat) (o : Op) {c : Copy} (untied : c.arrival = none) (n : Nat) (left : List (Nat × Nat))
    {k : Nat × Nat} (own : k ∈ c.granules) (idle : k ∉ s.copyNeeds id
      { c with got := c.got.filter fun p => left.any fun q => decide (q.1 ≤ p.1) && decide (p.1 < q.1 + q.2) } left) :
    (s.landed id o c n left).Returned k := by
  unfold State.landed
  split
  · rename_i h
    cases untied.symm.trans h
  · refine State.Returned.upTeam (State.returned_disown ?_ s) id (fun _ => rfl)
    exact List.mem_filter.2 ⟨own, by simpa using idle⟩

/-! ### Messages of remote parts (R428, R430, R431) -/

/-- The packets of a message: those of a write, or the one of a read. -/
def messageOf (conn seq handle off len : Nat) (tagMode : Bool) (bytes : Option (List Byte)) : List Outbound :=
  match bytes with
  | some bs => (packetsOf tagMode bs).map fun p => .fabricWrite conn seq handle off tagMode bs.length p.1 p.2
  | none => [.fabricRead conn seq handle off len tagMode]

theorem State.sendRemote_sent {s : State} {conn : Nat} {k : Conn} (hk : s.conns.look conn = some k) (hu : k.up = true)
    {len : Nat} {bytes : Option (List Byte)} (credit : unitsOf bytes.isNone len ≤ k.credits) (handle off team op lane own : Nat)
    (tagMode : Bool) :
    ∃ s', s.sendRemote conn handle off len team op lane own tagMode bytes = some s' ∧
      s' = { s with conns := s'.conns, outbox := s.outbox ++ messageOf conn k.sendSeq handle off len tagMode bytes } ∧
      ∃ y, s'.conns.look conn = some y ∧ y.sendSeq = k.sendSeq + 1 ∧ y.credits = k.credits - unitsOf bytes.isNone len := by
  have enough : (!k.up || decide (k.credits < unitsOf bytes.isNone len)) = false := by
    rw [hu, Bool.not_true, Bool.false_or]
    exact decide_eq_false (not_lt.2 credit)
  unfold State.sendRemote
  simp only [hk, enough, Bool.false_eq_true, if_false]
  exact ⟨_, rfl, by cases bytes <;> rfl, _, NMap.look_put _ _ _, rfl, rfl⟩

/-! ### The end of a command (R28, R212) -/

/-- An operation is a command of the word `w`. -/
def Op.ofWord (x : Op) (w : Nat) : Bool := match x.kind with | .copy d => d.word == w | _ => false

theorem Op.ofWord_iff {x : Op} {w : Nat} : x.ofWord w = true ↔ ∃ d, x.kind = .copy d ∧ d.word = w := by
  unfold Op.ofWord
  cases x.kind <;> simp

/-- The flight of a team without an operation. -/
def Team.flightWithout (t : Team) (o : Op) : List Op := t.ops.filter fun x => x.id != o.id

theorem Team.endCopy_eq (t : Team) (o : Op) (c : Copy) : t.endCopy o c =
    ({ t with ops := t.flightWithout o } : Team).upGroup o.g
      (if (t.flightWithout o).any (·.ofWord c.word) then id else Group.clearFlag o.lanes o.sf) := by
  have runs : t.endCopy o c = if (t.flightWithout o).any (·.ofWord c.word) then { t with ops := t.flightWithout o }
      else ({ t with ops := t.flightWithout o } : Team).clearOpFlag o.g o.lanes o.sf := rfl
  rw [runs]
  split
  · simp [Team.upGroup]
  · exact Team.clearOpFlag_eq _ _ _ _

/-- Outside the flight it changes the group of the command alone, and there the flags of threads. -/
theorem Team.endCopy_spec (t : Team) (o : Op) (c : Copy) :
    t.endCopy o c = { t with ops := t.flightWithout o, groups := (t.endCopy o c).groups } ∧
      ∀ g, t.groups[o.g]? = some g → ∃ h, (t.endCopy o c).groups[o.g]? = some h ∧ h.cause = g.cause ∧ ∀ l,
        h.threads.look l = (g.threads.look l).map fun th =>
          if (t.flightWithout o).any (·.ofWord c.word) = false ∧ l ∈ o.lanes then th.clearFlag o.sf else th := by
  rw [Team.endCopy_eq]
  refine ⟨rfl, fun g hg => ⟨_, Team.upGroup_groups_self (t := { t with ops := t.flightWithout o }) hg _, ?_⟩⟩
  cases (t.flightWithout o).any (·.ofWord c.word) with
  | true => exact ⟨rfl, fun l => by simp⟩
  | false =>
    obtain ⟨kept, look⟩ := Group.clearFlag_spec o.lanes o.sf g
    refine ⟨?_, fun l => ?_⟩
    · simp only [Bool.false_eq_true, if_false]
      rw [kept]
    · simpa using look l

/-! ### The steps of a copy command -/

/-- R178, R211: the conditions under which a command may touch a piece of itself. -/
theorem State.copyMay_of {s : State} {c : Copy} {off n : Nat} (some_bytes : 0 < n) (granted : c.grant = true)
    (quiet : s.granulesQuiet c.granules = true) (whole : c.tagMode = true → off % 16 = 0 ∧ n % 16 = 0) :
    s.copyMay c off n = true := by
  have nonzero : (n != 0) = true := by simpa using some_bytes.ne'
  unfold State.copyMay
  cases plain : c.tagMode with
  | false => simp [nonzero, granted, quiet]
  | true =>
    obtain ⟨h1, h2⟩ := whole plain
    simp [nonzero, granted, quiet, h1, h2]

/-- A piece of a running command whose segments meet no cause. -/
theorem execArrivalWordUpdate_at {s : State} {id : Nat} {t : Team} {o : Op} {c : Copy} {left : List (Nat × Nat)} {gs : List Seg}
    (hf : s.Flying id t o) (hk : o.kind = .copy c) (hl : cutLeft s.ev.addr s.ev.len c.left = some left)
    (hm : s.copyMay c s.ev.addr s.ev.len = true)
    (hs : (s.ownAll c.granules).segs id t c o.scope (s.ev.len + 1) s.ev.addr s.ev.len = .ok gs) :
    exec .arrivalWordUpdate s = enabled s
      (match ((s.ownAll c.granules).copyRuns id t c o.scope).find? fun r => r.off == s.ev.addr && r.len == s.ev.len with
      | some r => if (s.ownAll c.granules).may id t o (gs.flatMap c.touches) then (s.ownAll c.granules).sendPiece id t o c r gs
          else none
      | none => if s.ev.flag then (s.ownAll c.granules).readPiece id t o c gs
          else (s.ownAll c.granules).landPiece id t o c s.ev.len left gs) := by
  have ev : (s.ownAll c.granules).ev = s.ev := by rw [State.ownAll_rest]
  show execArrivalWordUpdate s = _
  unfold execArrivalWordUpdate
  simp only [hf.team, hf.op, hk, hl, hm, hs, ev, Bool.not_true, Bool.false_eq_true, if_false] <;> rfl

theorem except_bind_ok {ε α β : Type} {x : Except ε α} {f : α → Except ε β} {b : β} (h : x >>= f = .ok b) :
    ∃ a, x = .ok a ∧ f a = .ok b := by
  cases x with
  | error e => cases h
  | ok a => exact ⟨a, rfl, h⟩

theorem State.segAt_off {s : State} {id : Nat} {t : Team} {c : Copy} {sc : Scope} {off n : Nat} {g : Seg}
    (h : s.segAt id t c sc off n = .ok g) : g.off = off := by
  unfold State.segAt at h
  obtain ⟨src, -, h⟩ := except_bind_ok h
  obtain ⟨dst, -, h⟩ := except_bind_ok h
  obtain ⟨-, h⟩ | ⟨-, h⟩ := ite_eq_iff.1 h
  · cases h
  · obtain ⟨-, h⟩ | ⟨-, h⟩ := ite_eq_iff.1 h
    · obtain ⟨place, -, h⟩ := except_bind_ok h
      cases h
      rfl
    · cases h
      rfl

/-- The first segment of a range starts where the range does. -/
theorem State.segs_head {s : State} {id : Nat} {t : Team} {c : Copy} {sc : Scope} {fuel off n : Nat} {gs : List Seg} (hn : 0 < n)
    (h : s.segs id t c sc (fuel + 1) off n = .ok gs) : (gs.head?.map (·.off)).getD 0 = off := by
  unfold State.segs at h
  rw [if_neg hn.ne'] at h
  dsimp only at h
  split at h
  · cases h
  · rename_i g hg
    obtain ⟨rest, -, rfl⟩ := exceptMap_ok_iff.1 h
    exact State.segAt_off hg

theorem State.landPiece_lands {s s1 : State} {id n : Nat} {t : Team} {o : Op} {c : Copy} {left : List (Nat × Nat)} {gs : List Seg}
    (near : ∀ g ∈ gs, g.remote = none) (may : s.may id t o (gs.flatMap c.touches) = true)
    (moved : (((s.note id t o (gs.flatMap c.touches)).fillLines t ((gs.flatMap c.touches).filter fun x => !x.write)).askSegs c gs).moveSegs
      id t c o.scope gs = .ok s1) :
    s.landPiece id t o c n left gs = some (s1.landed id o c n left) := by
  have none_far : gs.any (fun g => g.remote.isSome) = false := by
    rw [List.any_eq_false]
    exact fun g hg => by simp [near g hg]
  unfold State.landPiece
  simp only [none_far, may, moved, Bool.not_true, Bool.or_false, Bool.false_eq_true, if_false]

theorem mapM_ok {ε α β : Type} {f : α → Except ε β} {h : α → β} {l : List α} (hf : ∀ a ∈ l, f a = .ok (h a)) :
    l.mapM f = .ok (l.map h) := by
  induction l with
  | nil => rfl
  | cons a r ih =>
    obtain ⟨here, rest⟩ := List.forall_mem_cons.1 hf
    rw [List.mapM_cons, here, ih rest]
    rfl

/-- A message of a remote part without a source beside it: a read, or a fill. -/
theorem State.sendPiece_sends {s : State} {id : Nat} {t : Team} {o : Op} {c : Copy} {r : Run} {gs : List Seg} {k : Conn}
    (hk : s.conns.look r.conn = some k) (hu : k.up = true) (fresh : s.sent r.conn id o.id c.lane r.off = false)
    {bytes : Option (List Byte)} (content : bytes = if r.isW then some (gs.flatMap fun g => fillBytes c g.off g.len) else none)
    (fills : r.isW = true → ∀ g ∈ gs, g.src = none) (credit : unitsOf bytes.isNone r.len ≤ k.credits) :
    ∃ s', s.sendPiece id t o c r gs = some s' ∧ s'.mem = s.mem ∧
      s'.outbox = s.outbox ++ messageOf r.conn k.sendSeq r.handle r.at_ r.len c.tagMode bytes ∧
      ∃ y, s'.conns.look r.conn = some y ∧ y.sendSeq = k.sendSeq + 1 ∧ y.credits = k.credits - unitsOf bytes.isNone r.len := by
  have up : s.connUp r.conn = true := by rw [State.connUp, hk]; exact hu
  unfold State.sendPiece
  cases hw : r.isW with
  | false =>
    rw [hw, if_neg Bool.false_ne_true] at content
    obtain ⟨s', sends, rest, conn⟩ := s.sendRemote_sent hk hu credit r.handle r.at_ id o.id c.lane r.off c.tagMode
    rw [content] at sends
    simp only [fresh, up, sends, Bool.not_true, Bool.not_false, Bool.false_eq_true, if_false, if_true]
    refine ⟨_, rfl, ?_, ?_, conn⟩ <;> rw [rest] <;> rfl
  | true =>
    rw [hw, if_pos rfl] at content
    have filled : bytes = some (gs.map fun g => fillBytes c g.off g.len).flatten := by rw [content, List.flatMap_def]
    obtain ⟨s', sends, rest, conn⟩ := State.sendRemote_sent (s := { s with draws := s.draws + r.len }) hk hu credit r.handle r.at_ id
      o.id c.lane r.off c.tagMode
    rw [filled] at sends
    simp only [fresh, up, State.askSegs_fills (fills hw), Bool.not_true, Bool.false_eq_true, if_false]
    rw [mapM_ok (h := fun g => fillBytes c g.off g.len) fun g hg => by simp only [fills hw g hg]]
    simp only [sends]
    refine ⟨_, rfl, ?_, ?_, conn⟩ <;> rw [rest] <;> rfl

theorem Team.endCopy_thread (t : Team) (o : Op) (c : Copy) {l : Nat} {th : Thread} (h : t.thread o.g l = some th) :
    (t.endCopy o c).thread o.g l = some
      (if (t.flightWithout o).any (·.ofWord c.word) = false ∧ l ∈ o.lanes then th.clearFlag o.sf else th) := by
  obtain ⟨g, hg, hth⟩ := Option.bind_eq_some_iff.1 (show t.groups[o.g]?.bind (·.threads.look l) = some th from h)
  obtain ⟨h, hh, -, look⟩ := (t.endCopy_spec o c).2 g hg
  unfold Team.thread
  rw [hh, Option.bind_some, look, hth, Option.map_some]

theorem Team.endCopy_ops (t : Team) (o : Op) (c : Copy) : (t.endCopy o c).ops = t.flightWithout o := by
  rw [(t.endCopy_spec o c).1]

theorem Team.endCopy_owner (t : Team) (o : Op) (c : Copy) : (t.endCopy o c).owner = t.owner := by
  rw [(t.endCopy_spec o c).1]

/-- The flag of a word clears with its last command, in the word's lanes. -/
theorem Team.endCopy_flag (t : Team) (o : Op) (c : Copy) {l : Nat} {th : Thread} (h : t.thread o.g l = some th) :
    ∃ k, (t.endCopy o c).thread o.g l = some k ∧
      (((∃ x ∈ (t.endCopy o c).ops, ∃ d, x.kind = .copy d ∧ d.word = c.word) ∨ l ∉ o.lanes ∨ o.sf = none) → k = th) ∧
      ∀ n, o.sf = some n → l ∈ o.lanes → (∀ x ∈ (t.endCopy o c).ops, ∀ d, x.kind = .copy d → d.word ≠ c.word) →
        k = { th with f := th.f.set n.val false } := by
  rw [t.endCopy_ops o c]
  refine ⟨_, t.endCopy_thread o c h, fun stays => ?_, fun n hn hl last => ?_⟩
  · obtain ⟨x, hx, d, hd⟩ | hl | hn := stays
    · have runs : (t.flightWithout o).any (·.ofWord c.word) = true := List.any_eq_true.2 ⟨x, hx, Op.ofWord_iff.2 ⟨d, hd⟩⟩
      rw [if_neg fun ⟨ended, _⟩ => Bool.false_ne_true (ended.symm.trans runs)]
    · rw [if_neg fun ⟨_, hl'⟩ => hl hl']
    · simp [hn, Thread.clearFlag]
  · have ended : (t.flightWithout o).any (·.ofWord c.word) = false := List.any_eq_false.2 fun x hx runs => by
      obtain ⟨d, hd, same⟩ := Op.ofWord_iff.1 runs
      exact last x hx d hd same
    rw [if_pos ⟨ended, hl⟩, hn]
    rfl

theorem Team.afterFree_thread (n : Nat) (gs : List (Nat × Nat)) (t : Team) (j l : Nat) :
    (t.afterFree n gs).thread j l = t.thread j l := by
  rw [t.afterFree_spec n gs]
  rfl

theorem Team.afterFree_flight (n : Nat) (gs : List (Nat × Nat)) (t : Team) (o : Op) :
    (t.afterFree n gs).flightWithout o = t.flightWithout o := by
  rw [t.afterFree_spec n gs]
  rfl

/-- The end of a command whose granules return with it, or had returned with the arrival word. -/
theorem State.Flying.completes {s : State} {id : Nat} {t : Team} {o : Op} {c : Copy} (hf : s.Flying id t o) (hk : o.kind = .copy c)
    (done : c.left = []) :
    exec .copyComplete s = enabled s (some ((if c.arrival.isNone then s.freeGranules c.granules else s).upTeam id (·.endCopy o c))) := by
  show execCopyComplete s = _
  unfold execCopyComplete
  simp only [hf.team, hf.op, hk]
  rw [when_true (by rw [done]; rfl)]

theorem State.abortCopy_look {s : State} {id : Nat} {t : Team} (h : s.teams.look id = some t) (o : Op) (c : Copy) (cause : Word) :
    (s.abortCopy id o c cause).teams.look id = some
      ((Team.takesAsync o.g (cEngine ||| cause) (some (o.record c.lane)) (t.afterFree id c.granules)).endCopy o c) := by
  unfold State.abortCopy
  rw [State.upTeam_teams, NMap.look_upd, State.async_eq, State.upTeam_teams, NMap.look_upd, State.freeGranules_look, h]
  rfl

theorem State.abortCopy_rest (s : State) (id : Nat) (o : Op) (c : Copy) (cause : Word) :
    s.abortCopy id o c cause = { s with teams := (s.abortCopy id o c cause).teams } := by
  unfold State.abortCopy
  rw [s.freeGranules_rest c.granules]
  rfl

theorem Team.takesAsync_kept (g : Nat) (cause : Word) (r : Option EngineRecord) (t : Team) :
    (Team.takesAsync g cause r t).ops = t.ops ∧ (Team.takesAsync g cause r t).owner = t.owner := by
  rw [(Team.takesAsync_spec g cause r t).1]
  exact ⟨rfl, rfl⟩

theorem State.abortCopy_returns (s : State) (id : Nat) (o : Op) (c : Copy) (cause : Word) {k : Nat × Nat} (h : k ∈ c.granules) :
    (s.abortCopy id o c cause).Returned k :=
  ((State.returned_freeGranules h s).upTeam id fun t => (Team.takesAsync_kept _ _ _ t).2).upTeam id
    fun t => t.endCopy_owner o c

/-- R179, R212: the team of a command that has aborted. -/
theorem State.abortCopy_team {s : State} {id : Nat} {t : Team} (h : s.teams.look id = some t) {o : Op} {g : Group}
    (hg : t.groups[o.g]? = some g) (c : Copy) (cause : Word) :
    ∃ u k, (s.abortCopy id o c cause).teams.look id = some u ∧ u.ops = t.flightWithout o ∧ u.groups[o.g]? = some k ∧
      k.cause = g.cause ||| cEngine ||| cause := by
  have free := t.afterFree_spec id c.granules
  have stands : (t.afterFree id c.granules).groups[o.g]? = some g := by rw [free]; exact hg
  obtain ⟨x, hx, caused⟩ := (Team.takesAsync_spec o.g (cEngine ||| cause) (some (o.record c.lane)) _).2 g stands
  obtain ⟨k, hk, same, -⟩ := (Team.endCopy_spec _ o c).2 x hx
  refine ⟨_, k, State.abortCopy_look h o c cause, ?_, hk, by rw [same, caused, BitVec.or_assoc]⟩
  rw [Team.endCopy_ops, ← t.afterFree_flight id c.granules o]
  unfold Team.flightWithout
  rw [(Team.takesAsync_kept ..).1]

/-- Settles O31: each step by the lemma above that says what it makes of the command and of its team. -/
theorem copyRuns : Obligations.CopyRuns := by
  unfold Obligations.CopyRuns
  refine ⟨?lands, ?memory, ?share, ?counts, ?sends, ?completes, ?aborts⟩
  case lands =>
    intro s s1 id t o c left gs hf hk hl hn granted quiet whole
    dsimp only
    intro segs near no_message
    have step := execArrivalWordUpdate_at hf hk hl (State.copyMay_of hn granted quiet whole) segs
    rw [List.find?_eq_none.2 (by simpa using no_message)] at step
    refine ⟨fun flag may moved => happens_enabled step ?_ rfl, fun bs flag plain copies may read => ?_⟩
    · simp only [flag]
      exact State.landPiece_lands near may moved
    · obtain ⟨s', d, reads, mem, flight, rest, begun, got⟩ := State.readPiece_reads plain copies near may read
        ((State.opAt_ownAll ..).trans (Team.findOp_id hf.op ▸ hf.opAt))
      obtain ⟨u, hu, hx⟩ := State.opAt_eq_some.1 flight
      refine happens_enabled step (by simp only [flag]; exact reads)
        ⟨mem.trans (by rw [State.ownAll_rest]), u, _, d, hu, hx, rfl, rest, begun, fun k hk => ?_⟩
      rw [got, State.segs_head hn segs]
      exact c.look_readAhead _ _ hk
  case memory =>
    intro s id t c sc g pa bs plain hd reached wf fill read
    have bytes : s.segBytes t c g = .ok bs := by
      cases hs : g.src with
      | none => rw [State.segBytes_fill hs, fill hs]
      | some p => exact State.segBytes_read hs (read p hs)
    refine ⟨_, State.moveSeg_untagged plain bytes reached, ?_⟩
    rw [hd, State.storeAt_tags, (State.stores_storeAt _ t false pa bs false).mem, (State.stores_storeAt _ t false pa bs false).teams]
    exact ⟨Memory.after_setBytes wf pa bs, tagsAfter_storeTags _ _ _ _, rfl⟩
  case share =>
    intro s id t c sc g m off u bs plain hd hu wf bytes
    refine ⟨_, u.writeSp off bs false, State.moveSeg_untagged plain bytes (by rw [hd]; rfl), ?_⟩
    rw [hd, State.storeAt_spad]
    refine ⟨rfl, ?_, rfl, u.writeSp_memoryAfter wf off bs false, u.writeSp_tagsAfter off bs false, fun n hn => ?_⟩
    · rw [State.upTeam_teams, NMap.look_upd, hu]
      rfl
    · exact NMap.look_upd_ne _ _ hn
  case counts =>
    intro s id n t o c left ht
    refine ⟨fun ho => ?_, fun untied => ?_⟩
    · obtain ⟨d, flight, rest, begun⟩ := State.landed_flight (State.opAt_eq_some.2 ⟨t, ht, ho⟩) c n left
      obtain ⟨u, hu, hx⟩ := State.opAt_eq_some.1 flight
      exact ⟨u, _, d, hu, hx, rfl, rest, begun⟩
    · intro d k own idle x hx
      exact State.landed_returns s id o untied n left own idle x hx
  case sends =>
    intro s id t o c left gs r k hf hk hl hn granted quiet whole
    dsimp only
    intro segs first may conn up fresh
    have step := execArrivalWordUpdate_at hf hk hl (State.copyMay_of hn granted quiet whole) segs
    rw [first] at step
    simp only [may, if_true] at step
    have rest := s.ownAll_rest c.granules
    generalize s.ownAll c.granules = s0 at step rest
    rw [rest] at step
    have sends := fun bytes => State.sendPiece_sends (s := { s with teams := s0.teams }) (t := t) (gs := gs) (bytes := bytes) conn up fresh
    refine ⟨fun read credit => ?_, fun fills plain write credit => ?_⟩
    · obtain ⟨s', sent, mem, outbox, y⟩ := sends none (by rw [read]; rfl) (by rw [read]; nofun) credit
      exact happens_enabled step sent ⟨outbox, mem, y⟩
    · obtain ⟨s', sent, mem, outbox, y, hy, seq, -⟩ := sends (some (gs.flatMap fun g => fillBytes c g.off g.len)) (by rw [write]; rfl)
        (fun _ => fills) credit
      rw [plain] at outbox
      exact happens_enabled step sent ⟨mem, outbox, y, hy, seq⟩
  case completes =>
    intro s id t o c hf hk done
    have stand := State.evTeam_look hf.team
    refine happens_enabled (hf.completes hk done) rfl ?_
    cases arrival : c.arrival with
    | none =>
      have look : ((s.freeGranules c.granules).upTeam id (·.endCopy o c)).teams.look id =
          some ((t.afterFree id c.granules).endCopy o c) := by
        rw [State.upTeam_teams, NMap.look_upd, State.freeGranules_look, stand]
        rfl
      simp only [Option.isNone_none, if_true]
      refine ⟨by rw [State.freeGranules_rest]; rfl, _, look, (Team.endCopy_ops _ o c).trans (t.afterFree_flight id c.granules o),
        fun l th hth => Team.endCopy_flag _ o c ((t.afterFree_thread id c.granules o.g l).trans hth), fun _ k hk => ?_, nofun⟩
      exact (State.returned_freeGranules hk s).upTeam id fun t => t.endCopy_owner o c
    | some a =>
      have only := (OnlyTeam.refl stand).upTeam (·.endCopy o c)
      exact ⟨rfl, _, only.team, t.endCopy_ops o c, fun l th hth => t.endCopy_flag o c hth, nofun,
        fun _ => ⟨t.endCopy_owner o c, only.others⟩⟩
  case aborts =>
    intro s id t o c g hf hk met hg
    obtain ⟨u, h, hu, ops, hh, cause⟩ := State.abortCopy_team (State.evTeam_look hf.team) hg c s.ev.word
    refine happens_enabled (t := s.abortCopy id o c s.ev.word) rfl ?_ ⟨State.abortCopy_rest .., u, h, hu, ops, hh, cause,
      fun k hk => State.abortCopy_returns s id o c s.ev.word hk⟩
    simp only [hf.team, hf.op, hk]
    exact when_true (beq_iff_eq.2 met) _

end Sys2Proof.Machine
end
